-- ==== Sys2Proof/Word.lean ====
section
/-! DEFINITION. The words of the IXN-412 and the index types that number its parts (R5, R6, R10).
Only types and their plainest accessors stand here. -/

namespace Sys2Proof

/-- One octet: the smallest unit of every frame, table and register block (R6). -/
abbrev Byte := BitVec 8

/-- Two octets. -/
abbrev Half := BitVec 16

/-- Four octets: one set-up register (R446). -/
abbrev Word := BitVec 32

/-- Eight octets: one word of the retained-state region, as the state digest takes it (R88). -/
abbrev DWord := BitVec 64

/-- The four lanes of R10. -/
inductive Lane where
  | A | B | C | D
  deriving DecidableEq, Repr

/-- The two planes of a ring (R5), and in the same letters the two modules of a pair (R322). -/
inductive Plane where
  | A | B
  deriving DecidableEq, Repr

/-- The two comparator chains of the Eaves block (R238). -/
inductive Chain where
  | X | Y
  deriving DecidableEq, Repr

/-- Four like things: the four lanes, or the four rings. -/
structure Quad (α : Type) where
  a : α
  b : α
  c : α
  d : α
  deriving DecidableEq, Repr

/-- Two like things: the two planes, the two chains, the two output groups, the two peer links. -/
structure Two (α : Type) where
  a : α
  b : α
  deriving DecidableEq, Repr

namespace Lane

/-- The lane's number: A = 0 to D = 3 (R82, R271). -/
def num : Lane → Nat
  | A => 0 | B => 1 | C => 2 | D => 3

/-- The fixed order A, B, C, D of R102. -/
def all : List Lane := [A, B, C, D]

/-- The lane that follows in the fixed order A, B, C, D, A of R102. -/
def succ : Lane → Lane
  | A => B | B => C | C => D | D => A

/-- The lane a two-bit number names. -/
def ofNum (n : Nat) : Lane :=
  if n % 4 = 0 then A else if n % 4 = 1 then B else if n % 4 = 2 then C else D

end Lane

namespace Quad

variable {α β : Type}

/-- The same value four times. -/
def fill (x : α) : Quad α := ⟨x, x, x, x⟩

/-- The lane's share. -/
def get (q : Quad α) : Lane → α
  | .A => q.a | .B => q.b | .C => q.c | .D => q.d

/-- Replace one lane's share. -/
def set (q : Quad α) (l : Lane) (x : α) : Quad α :=
  match l with
  | .A => { q with a := x }
  | .B => { q with b := x }
  | .C => { q with c := x }
  | .D => { q with d := x }

/-- Apply a function to one lane's share. -/
def modify (q : Quad α) (l : Lane) (f : α → α) : Quad α := q.set l (f (q.get l))

/-- Apply a function to every share. -/
def map (f : α → β) (q : Quad α) : Quad β := ⟨f q.a, f q.b, f q.c, f q.d⟩

/-- Apply a function that knows the lane to every share. -/
def mapL (f : Lane → α → β) (q : Quad α) : Quad β := ⟨f .A q.a, f .B q.b, f .C q.c, f .D q.d⟩

/-- The four shares in order. -/
def toList (q : Quad α) : List α := [q.a, q.b, q.c, q.d]

end Quad

namespace Two

variable {α β : Type}

/-- The same value twice. -/
def fill (x : α) : Two α := ⟨x, x⟩

/-- The plane's share. -/
def get (t : Two α) : Plane → α
  | .A => t.a | .B => t.b

/-- Replace one plane's share. -/
def set (t : Two α) (p : Plane) (x : α) : Two α :=
  match p with
  | .A => { t with a := x }
  | .B => { t with b := x }

/-- Apply a function to one plane's share. -/
def modify (t : Two α) (p : Plane) (f : α → α) : Two α := t.set p (f (t.get p))

/-- Apply a function to both shares. -/
def map (f : α → β) (t : Two α) : Two β := ⟨f t.a, f t.b⟩

end Two

/-- The chain's place in a `Two`: X first, Y second. -/
def Chain.side : Chain → Plane
  | .X => .A | .Y => .B

/-- The four field rings of R5, numbered 1 to 4. -/
inductive RingId where
  | r1 | r2 | r3 | r4
  deriving DecidableEq, Repr

namespace RingId

/-- The ring's number, 1 to 4 (R5). -/
def num : RingId → Nat
  | r1 => 1 | r2 => 2 | r3 => 3 | r4 => 4

/-- The four rings in order. -/
def all : List RingId := [r1, r2, r3, r4]

/-- The ring's place in a `Quad`. -/
def slot : RingId → Lane
  | r1 => .A | r2 => .B | r3 => .C | r4 => .D

/-- The ring a number 1 to 4 names. -/
def ofNum : Nat → Option RingId
  | 1 => some r1 | 2 => some r2 | 3 => some r3 | 4 => some r4 | _ => none

end RingId

/-- The plane's number in a frame header: A = 0, B = 1 (R188). -/
def Plane.num : Plane → Nat
  | .A => 0 | .B => 1

end Sys2Proof
end

