-- ==== Sys2Proof/Config.lean ====
section
/-! DEFINITION. What the manual leaves to the implementation or does not state: constants without a body, so that
no proof can lean on a value of theirs. -/

namespace Sys2Proof.Config

/-- The fixed mixing function of a region word's byte offset and value (R88); the manual gives no formula. -/
opaque mix : Nat → DWord → DWord

/-- The public key fused into a lane's key slot 0 to 3 (R160): the affine coordinates of a point. -/
opaque keySlot : Lane → Nat → Nat × Nat

/-- HWVER: silicon step and build level, fixed per module (R451). -/
opaque hwver : Word

/-- RTVER: version of the vital runtime, fixed per release (R451). -/
opaque rtver : Word

/-- SERIAL: the module's serial number (R451). -/
opaque serial : DWord

/-- The bytes of a lane's fuse state, over which FUSE_CRC is taken (R409): the manual gives their number and order nowhere.
Arguments: the lane, its retirement fuse, the fused repairs. -/
opaque fuseBytes : Lane → Bool → List Nat → List Byte

/-- The STANDBY_HEALTH trace is built from a BEAT (R334); the layout of its 24 argument bytes is not given. -/
opaque beatArgs : List Byte → List Byte

/-- The 16-byte head of a journal record (R168): the manual names its fields and gives neither their order nor the KIND codes.
Arguments: the kind by its place in R168's table, the cycle, the record's content. -/
opaque jHead : Nat → DWord → List Byte → List Byte

/-- The content of an EVENT record of a ride-through (R374): cycle, duration in us, lowest bus voltage in 0.1 V; no layout given. -/
opaque jEvent : DWord → Nat → Nat → List Byte

/-- The boot record as bytes (R162): the manual names its contents and gives no layout. Arguments: generation, ASN reserve mark,
epoch, black-box index, remapped sectors with their spares, cold restarts and activations recorded, states of bank 0 and bank 1
(0 EMPTY, 1 LOADING, 2 VERIFIED, 3 ACTIVE). -/
opaque bootBytes : Nat → DWord → Word → Nat → List (Nat × Nat) → Nat × Bool → Nat × Nat → List Byte

/-- What the SHELF field of a start-up record holds while the shelf counter is unknown (R409): no value is stated. -/
opaque shelfUnknown : DWord

/-- How long after its scheduled time a frame's /S/ leaves the cage, as T_LAUNCH tells it (R188): within 1 us (R197), no value
stated. Arguments: FTYPE, ring, plane, cycle. -/
opaque launchNs : Nat → Nat → Nat → DWord → Nat

/-- Junction temperature in degrees Celsius, signed (R461 TEMP_LANE, TEMP_OTHER; R334 TEMP): a physical reading that no command
brings. Arguments: the die (lanes A to D 0 to 3, hub 4, Underlay 5), supervisor time. -/
opaque junctionTemp : Nat → DWord → Byte

/-- MSGID of a syslog message about a record whose code has no name in the catalogue (R422, R423): the manual names none. -/
opaque progName : Nat → String

end Sys2Proof.Config
end

