-- ==== Sys2Proof/Syntax.lean ====
section
/-! DEFINITION. The commands of the block: one constructor of `Instr` for each row of spec/opcode_table.json, with the
data that the event brings with it from outside (a received frame, a written value, a measured reading, what a lane's
opaque program published). What the block already holds is no operand. -/

namespace Sys2Proof

/-- What one lane samples at Ck through its own sense network (R30, R385): whether it reports (R386), the six key
contacts KEY_RUN_1 .. KEY_TST_2 from bit 0 (R461), SW1 to SW24 in bits 0 to 23 with PAIR_POS in bit 24, and the field
supply status of the two output groups, OG1 in bit 0. -/
structure LaneSample where
  live : Bool
  key  : BitVec 6
  sw   : BitVec 25
  sup  : BitVec 2
  deriving DecidableEq, Repr

/-- The hub's offer of station time for Ck (R361): the STEP flag and the 62-bit count of microseconds. -/
structure StationOffer where
  step : Bool
  us   : BitVec 62
  deriving DecidableEq, Repr

/-- One output that a task publishes: endpoint reference (R145), command and hold bit (R192). -/
structure OutCmd where
  ref  : BitVec 24
  cmd  : Bool
  hold : Bool
  deriving DecidableEq, Repr

/-- A write to the retained-state region: byte offset and bytes. -/
structure RWrite where
  off  : Nat
  data : List Byte
  deriving DecidableEq, Repr

/-- What the command task decides on a presented command (R301, R311). -/
inductive TaskVerdict where
  /-- The command is done as its row of R301 says. -/
  | done
  /-- Refused by the command task: reason PROGRAM with the program's DATA. -/
  | refused (data : Word)
  deriving DecidableEq, Repr

/-- A record that a producer hands to the Gutter (R412, R413): code, class (0 ALARM, 1 EVENT, 2 TRACE), unit, the
reporting lanes as bits, and up to 24 argument bytes. -/
structure GRecIn where
  code  : Half
  cls   : Nat
  sev   : Nat
  unit  : Nat
  lanes : BitVec 4
  args  : List Byte
  deriving DecidableEq, Repr

/-- What a vital task publishes at its end (R57): outputs, the group master bits where it publishes them, retained
writes, its verdicts by ASN, the payloads of its indications, and its Gutter records (R422). -/
structure TaskResult where
  outs     : List OutCmd
  gm       : Option (BitVec 2)
  writes   : List RWrite
  verdicts : List (DWord × TaskVerdict)
  inds     : List (List Byte)
  recs     : List GRecIn
  deriving DecidableEq, Repr

/-- The queues of R18 that grant credits, each instance by its own name. -/
inductive QueueId where
  | ringInput (r : RingId) (l : Lane)
  | commandIntake (l : Lane)
  | purlin (src dst : Lane)
  | setQueue (r : RingId) (l : Lane)
  | completion (l : Lane)
  | indication (l : Lane)
  | mirror
  | peerRequest (outgoing : Bool)
  | lease (outgoing : Bool)
  | mramWrite (l : Lane)
  | gutterAlarm
  | gutterEvent
  | gutterTrace
  | bulkIn (l : Lane)
  | bulkOut
  | errorQueue
  deriving DecidableEq, Repr

/-- A lane-produced item that leaves through the hub (R24). -/
inductive ForwardItem where
  | sect (r : RingId) (pos : Nat)
  | completion
  | indication
  deriving DecidableEq, Repr

/-- What BIST runs on (R394). -/
inductive BistUnit where
  | lane (l : Lane)
  | hub
  deriving DecidableEq, Repr

/-- What a BIST slice found (R395, R399): the time it took, whether the pattern matched, the failing SRAM rows and
columns as (bank, address), the failing MRAM sectors, and whether the repeat passed. -/
structure SliceResult where
  elapsedUs : Nat
  matched   : Bool
  rows      : List (Nat × Nat)
  cols      : List (Nat × Nat)
  sectors   : List Nat
  repeatOk  : Bool
  deriving DecidableEq, Repr

/-- The kind an SFP module's identity data names (R184, R325). -/
inductive SfpKind where
  | sx | lx | lx10 | tenGSR | other | empty
  deriving DecidableEq, Repr

/-- One chain's readings of one 500 us window (R238, R242): for each input the five sample points TS1 to TS4 and quiet,
and the same five for each of the four sources, in units of 0.1 V. -/
structure ChainWindow where
  ins  : List (List Nat)
  srcs : List (List Nat)
  deriving DecidableEq, Repr

/-- A network of the Eaves block (R258): a channel OUT1 = 0 to OUT32 = 31, or a group master. -/
inductive NetId where
  | chan (c : Nat)
  | master (g : Plane)
  deriving DecidableEq, Repr

/-- The Eaves block's own measurements at one reading (R254, R263, R272): channel voltages in 0.1 V, currents in mA,
the conduction senses of the 12 elements of each channel and group master, and the two group supplies in 0.1 V. -/
structure EavesMeas where
  volt    : List Nat
  curr    : List Nat
  elems   : List (BitVec 12)
  gmElems : Two (BitVec 12)
  supply  : Two Nat
  deriving DecidableEq, Repr

/-- A PCI Express request as an ERRQ record describes it (R299). -/
structure HostReq where
  posted : Bool
  addr   : DWord
  be     : Byte
  bar    : Byte
  len    : Half
  hdr    : List Byte
  deriving DecidableEq, Repr

/-- Why a request of the host is not supported (R282). -/
inductive UrKind where
  | misaligned | bar2Read | requestType | bar2Write
  deriving DecidableEq, Repr

/-- Where a set-up write goes: BAR0, the MSI-X table of BAR4, or a word of the capabilities of R281 and R283 in the configuration
space: Message Control of MSI-X with its Enable and Function Mask, Device Control, Device Control 2, the uncorrectable error
status of Advanced Error Reporting; and the result of link training. -/
inductive RegSpace where
  | bar0 | bar4 | msixControl | deviceControl | deviceControl2 | aerStatus | linkTrained
  deriving DecidableEq, Repr

/-- How a module request to host memory failed (R298). -/
inductive ReqFail where
  | refused | timeout | notDelivered
  deriving DecidableEq, Repr

/-- A journal record's body (R168). -/
inductive JRec where
  | delta (words : List (Nat × DWord))
  | command (desc : List Byte) (asn : DWord)
  | accept (asn : DWord)
  | terminal (asn : DWord) (status : Byte)
  | event (cycle : DWord) (durUs : Nat) (minBus : Nat)
  | close (digest : DWord)
  deriving DecidableEq, Repr

/-- What an Announce message carries that the module uses (R356, R358): the grandmaster and its UTC offset. -/
structure Announce where
  gm       : DWord
  better   : Bool
  utcValid : Bool
  utcOfs   : Half
  deriving DecidableEq, Repr

/-- The paths that take Gutter records (R412). -/
inductive GPath where
  | evtq | trcq | syslog | blackbox (l : Lane)
  deriving DecidableEq, Repr

/-- The commands of the block: the rows of spec/opcode_table.json in their order. -/
inductive Instr where
  | commonInstant (smp : Quad LaneSample) (strobe : Quad Int)
  | gFrameLaunch
  | ringSectionArrival (r : RingId) (p : Plane) (frame : List Byte) (atNs : Nat)
  | inputClose
  | inputAgreement (noReport fetchBad : Quad Bool) (offer : StationOffer)
  | inputDiverge
  | taskEnd (lanes : Quad Bool) (task : Nat) (runUs : Nat) (res : TaskResult)
  | trussEvaluationComplete (lanes : Quad Bool) (evalUs : Nat)
  | voteDeadline
  | ridgeVote
  | ballotArrival (src : Lane) (k : DWord)
  | voteCompleteLimit
  | setQueuePush
  | hubForwardItem (item : ForwardItem)
  | sFrameLaunch
  | mramWriteComplete (l : Lane)
  | snapshotComplete (l : Lane)
  | diagnosticRelease
  | diagnosticEnd (lanes : Quad Bool) (inds : List (List Byte)) (traces : List GRecIn)
  | diagnosticLimit
  | laneSleep (l : Lane)
  | laneWake (l : Lane)
  | completionDelivered
  | creditReturn (q : QueueId)
  | lockstepMismatch (l : Lane) (clk : Word)
  | stopFlit (src : Lane)
  | bistSliceStart (u : BistUnit)
  | bistSliceEnd (u : BistUnit) (res : SliceResult)
  | blockReinitComplete (l : Lane)
  | rotationDue
  | retainedStateCopyReceived (l : Lane) (damage1 damage2 : List RWrite)
  | yealmFetchComplete (l : Lane) (damage : List RWrite)
  | debugHalt (l : Lane)
  | debugRelease (l : Lane)
  | digestRecompute (l : Lane)
  | sramScrub (l : Lane) (corrected : List Nat) (uncorrectable : Bool)
  | eccCorrected (l : Lane) (row : Nat)
  | eccUncorrectable (l : Lane)
  | trussStats
  | planeStats
  | routeSet (asn : DWord)
  | routeCancel (asn : DWord)
  | pointMove (asn : DWord)
  | signalRestore (asn : DWord)
  | block (asn : DWord)
  | unblock (asn : DWord)
  | auxReleaseRequest (asn : DWord)
  | auxReleaseConfirm (asn : DWord)
  | restartReleaseRequest (asn : DWord)
  | restartReleaseConfirm (asn : DWord)
  | timeSet (asn : DWord)
  | imageLoad (asn : DWord)
  | imageExchange (asn : DWord)
  | rotateNow (asn : DWord)
  | shutdown (asn : DWord)
  | journalRead (asn : DWord)
  | commandExpiry (asn : DWord)
  | requestLapse
  | journalStall
  | hostFetch
  | xfrqInSegment (entry data : List Byte)
  | transferTimeout
  | yealmVerified (l : Lane)
  | journalReadSegment (l : Lane)
  | inputInjectionSegment (entry data : List Byte)
  | exchangeBoundary
  | exchangeCopyComplete (copyBad : Quad Bool)
  | exchangeReloadComplete
  | restartDecision
  | restartLockExpiry (area : Nat)
  | ringSfpInsertion (r : RingId) (p : Plane) (kind : SfpKind)
  | sfpDiagRead (r : RingId) (p : Plane) (rxPower txPower temp : Half)
  | discoverLaunch
  | discoverReturn (r : RingId) (p : Plane) (frames : List (List Byte)) (loopNs : Nat) (unbroken : Bool)
  | timingLaunch
  | ringTopology (r : RingId) (p : Plane)
  | periodicTiming
  | periodicDiscover
  | planeLost (r : RingId) (p : Plane)
  | portLinkUp (r : RingId) (p : Plane) (own : Bool)
  | foreignMasterFrame (r : RingId) (p : Plane) (frame : List Byte)
  | ringRelay (r : RingId) (p : Plane) (frame : List Byte)
  | relayedLaunch (r : RingId) (p : Plane) (frame : List Byte)
  | lFrameSend (l : Lane)
  | lFrameReceive (l : Lane) (damage : List RWrite)
  | eFrameReceive (l : Lane) (lost : Nat) (damage : List RWrite)
  | battenReceiverTimeout (l : Lane)
  | battenDeadline (l : Lane)
  | eavesCommonInstant (edgesX edgesY : List Nat)
  | eavesConfigInForce
  | eavesWindowEnd (x y : ChainWindow)
  | filterChange (c : Chain) (inp : Nat)
  | inputFaultSet (c : Chain) (inp : Nat)
  | inputFaultClear (c : Chain) (inp : Nat)
  | sourceFaultSet (c : Chain) (src : Nat)
  | sourceFaultClear (c : Chain) (src : Nat)
  | discTimerExpiry (c : Chain) (pair : Nat)
  | discClear (c : Chain) (pair : Nat)
  | counterGateEnd (c : Chain) (inp : Nat) (edges : Nat) (spanNs : Nat)
  | readbackReading (m : EavesMeas)
  | testPulseStart (net : NetId)
  | testPulseEnd (net : NetId) (m : EavesMeas) (roseMa : List Nat)
  | crossWindowEnd
  | outputTrip (ch : Nat)
  | tripRetry (ch : Nat)
  | retryCountReset (ch : Nat)
  | fieldSupplyLow (g : Plane)
  | fieldSupplyRecover (g : Plane)
  | fieldSupplyCut (g : Plane)
  | cutClear (g : Plane)
  | hpctlOpen
  | hpctlClose
  | quiesceComplete
  | doorbell (q : Fin 8) (v : Word) (req : HostReq)
  | qctlWrite (q : Fin 8) (v : Word)
  | msixSend (vec : Fin 8)
  | msixUnmask (vec : Fin 8)
  | unsupportedRequest (kind : UrKind) (req : HostReq)
  | poisonedRequest (req : HostReq)
  | bar0ReadTimeout (req : HostReq)
  | postedWriteFail (req : HostReq)
  | moduleRequestFail (how : ReqFail) (req : HostReq)
  | errstatClear (v : Word) (setNow : Word)
  | pairLoRead (off : Nat)
  | bootoptSplit (on : Bool)
  | bootoptLoad (on : Bool)
  | bootoptActivate (on : Bool)
  | timecfgSrc (ptp : Bool)
  | timecfgDomain (dom : Nat)
  | timecfgUtcOfs (ofs : Half)
  | maintPortWrite (off : Nat) (v : Word)
  | registerWrite (sp : RegSpace) (off : Nat) (v : Word)
  | perst
  | renewRelease
  | renewReceive (link : Plane) (msg : List Byte)
  | beatSend
  | beatReceive (link : Plane) (msg : List Byte)
  | linkSend (link : Plane)
  | linkReceive (link : Plane) (msg : List Byte) (rttNs : Nat)
  | leaseExpired
  | leaseClaim
  | pairStartClaim
  | masteryTest
  | peerLinkLost (link : Plane)
  | peerLinkReturn (link : Plane)
  | peerSfpInsertion (link : Plane) (kind : SfpKind)
  | mirrorBlockReceive (link : Plane) (msg : List Byte)
  | shadowComputationComplete (lostA lostB lostC lostD : Bool)
  | peerRequestReceive (link : Plane) (msg : List Byte)
  | peerRequestTimeout
  | ptpSync (ofsUs : Int)
  | timeSourceLost (noMaster : Bool)
  | timeSetHoldover
  | clockWindowCheck (unread : Quad Bool) (supUs : Nat)
  | supplyStart (offUs : Nat) (rstPressed : Bool)
  | supplyLow (bus : Nat)
  | supplyRecovery (durUs : Nat) (minBus : Nat)
  | supplyReset
  | rstRelease (heldUs : Nat)
  | resetStuck
  | rstRearm
  | orderlyReset
  | keyPatternStable
  | keyAllOpenTimeout
  | sealChange
  | switchSense (l : Lane)
  | hubWatchdog
  | junctionOvertemp (u : BistUnit)
  | diesOutOfReset (failing : Quad (List Nat))
  | bootRecordCheck (circuitsOk : Quad Bool)
  | bootYealmAgreed
  | ringStartComplete
  | indicateGather
  | bootShadowStart
  | shutdownBegin
  | shutdownDone
  | mramWriteFault (l : Lane) (sector : Nat)
  | mramUncorrectableRead (l : Lane) (sector : Nat)
  | gutterRecord (rec : GRecIn)
  | gutterPathTake (path : GPath)
  | syslogSend
  | blackboxWrite (l : Lane)
  | cmdqFetch (descs : List (List Byte))
  | linkProbe (r : RingId) (p : Plane) (rttNs : Nat)
  | rstPress
  | reserveStoreExhausted
  | primaryCellExhausted
  | hubSramScrub (uncorrectable : Bool)
  | mramCorrectedRead (l : Lane) (sector : Nat)
  | busMasterEnable (on : Bool)
  | powerStateChange (d3 : Bool)
  | ptpAnnounce (m : Announce)
  deriving DecidableEq, Repr

end Sys2Proof
end

