-- ==== Sys2Proof/WellFormed.lean ====
section
/-! DEFINITION. Which commands are well formed: every operand lies in the range the manual gives it. A command that is
not well formed names no event of the module. -/

namespace Sys2Proof

/-- Endpoint references name at most the 24 bits of R145; bits 21 to 17 are reserved. -/
def OutCmd.wf (o : OutCmd) : Bool := (o.ref.toNat / 2 ^ 17) % 32 == 0

/-- A retained write stays inside the region of 1 MiB (R164). -/
def RWrite.wf (w : RWrite) : Bool := w.off + w.data.length ≤ 1048576

/-- A Gutter record of R413: a class of three, a unit of four, at most 24 argument bytes, a severity of RFC 5424. -/
def GRecIn.wf (g : GRecIn) : Bool := g.cls < 3 && g.unit < 4 && g.args.length ≤ 24 && g.sev < 8

/-- What a task publishes fits R319 and R192. -/
def TaskResult.wf (t : TaskResult) : Bool :=
  t.outs.all OutCmd.wf && t.writes.all RWrite.wf && t.inds.all (fun p => p.length == 48) && t.recs.all GRecIn.wf

/-- A slice result names banks 0 to 191 with rows 0 to 511 or columns 0 to 1 151, and sectors 0 to 4 095 (R400, R403). -/
def SliceResult.wf (r : SliceResult) : Bool :=
  r.rows.all (fun x => x.1 < 192 && x.2 < 512) && r.cols.all (fun x => x.1 < 192 && x.2 < 1152) && r.sectors.all (· < 4096)

/-- A chain's window has five readings of each of 64 inputs and 4 sources (R238). -/
def ChainWindow.wf (w : ChainWindow) : Bool :=
  w.ins.length == 64 && w.ins.all (·.length == 5) && w.srcs.length == 4 && w.srcs.all (·.length == 5)

/-- A reading covers 32 channels (R272). -/
def EavesMeas.wf (m : EavesMeas) : Bool := m.volt.length == 32 && m.curr.length == 32 && m.elems.length == 32

/-- A network is one of OUT1 to OUT32 or a group master (R258). -/
def NetId.wf : NetId → Bool
  | .chan c => c < 32
  | .master _ => true

/-- A request's header is 16 bytes (R299). -/
def HostReq.wf (r : HostReq) : Bool := r.hdr.length == 16

/-- A Zotre frame of R189: a 64 B header and whole 56 B slots, at most 256. -/
def zotreFrameWf (f : List Byte) : Bool := 64 ≤ f.length && (f.length - 64) % 56 == 0 && (f.length - 64) / 56 ≤ 256

/-- A DISCOVER frame of R221: header, 8 B tally, 256 entries of 16 B. -/
def discoverFrameWf (f : List Byte) : Bool := f.length == 64 + 8 + 4096

/-- A peer message of R326 with a 64 B payload (R333, R334). -/
def leaseMsgWf (m : List Byte) : Bool := m.length == 32 + 64 + 4

/-- A bulk transfer entry of R318. -/
def xferEntryWf (e data : List Byte) : Bool := e.length == 64 && data.length ≤ 65536

/-- Offset of a set-up write in its space; a word of a capability has none. -/
def spaceOffWf : RegSpace → Nat → Bool
  | .bar0, off => off < 0x10000
  | .bar4, off => off < 0x1000
  | .msixControl, off | .deviceControl, off | .deviceControl2, off | .aerStatus, off | .linkTrained, off => off == 0

/-- A maintenance port register lies at 0x0600 to 0x0610, a multiple of 4 (R460). -/
def maintOffWf (off : Nat) : Bool := off % 4 == 0 && 0x600 ≤ off && off ≤ 0x610

/-- The well-formed commands. -/
def Instr.wf : Instr → Bool
  | .ringSectionArrival _ _ f _ => zotreFrameWf f
  | .taskEnd _ t _ r => 1 ≤ t && t ≤ 8 && r.wf
  | .diagnosticEnd _ inds tr => inds.all (fun p => p.length == 48) && tr.all GRecIn.wf
  | .bistSliceEnd _ r => r.wf
  | .retainedStateCopyReceived _ d1 d2 => d1.all RWrite.wf && d2.all RWrite.wf
  | .sramScrub _ rows _ => rows.all (· < 81920)
  | .eccCorrected _ row => row < 81920
  | .xfrqInSegment e d => xferEntryWf e d
  | .inputInjectionSegment e d => xferEntryWf e d
  | .restartLockExpiry a => a < 16
  | .discoverReturn _ _ fs _ _ => fs.all discoverFrameWf
  | .foreignMasterFrame _ _ f => 64 ≤ f.length
  | .ringRelay _ _ f => 64 ≤ f.length
  | .relayedLaunch _ _ f => 64 ≤ f.length
  | .lFrameReceive _ d => d.all fun w => w.off + w.data.length ≤ 72
  | .eFrameReceive _ _ d => d.all fun w => w.off + w.data.length ≤ 256
  | .eavesCommonInstant x y => x.length == 8 && y.length == 8
  | .eavesWindowEnd x y => x.wf && y.wf
  | .filterChange _ i => i < 64
  | .inputFaultSet _ i => i < 64
  | .inputFaultClear _ i => i < 64
  | .sourceFaultSet _ i => i < 4
  | .sourceFaultClear _ i => i < 4
  | .discTimerExpiry _ i => i < 32
  | .discClear _ i => i < 32
  | .counterGateEnd _ i _ _ => 56 ≤ i && i < 64
  | .readbackReading m => m.wf
  | .testPulseStart n => n.wf
  | .testPulseEnd n m r => n.wf && m.wf && r.length == 32
  | .outputTrip c => c < 32
  | .tripRetry c => c < 32
  | .retryCountReset c => c < 32
  | .unsupportedRequest _ r => r.wf
  | .poisonedRequest r => r.wf
  | .bar0ReadTimeout r => r.wf
  | .postedWriteFail r => r.wf
  | .moduleRequestFail _ r => r.wf
  | .pairLoRead off => off == 0x508 || off == 0x510 || off == 0x518
  | .maintPortWrite off _ => maintOffWf off
  | .registerWrite sp off _ => off % 4 == 0 && spaceOffWf sp off
  | .doorbell _ _ r => r.wf
  | .renewReceive _ m => leaseMsgWf m
  | .beatReceive _ m => leaseMsgWf m
  | .linkReceive _ m _ => 36 ≤ m.length
  | .timecfgDomain d => d < 128
  | .mramWriteFault _ n => n < 4096
  | .mramUncorrectableRead _ n => n < 4096
  | .mramCorrectedRead _ n => n < 4096
  | .gutterRecord g => g.wf
  | .cmdqFetch ds => ds.length ≤ 64 && ds.all (·.length == 64)
  | .commonInstant _ _ | .gFrameLaunch | .inputClose | .inputAgreement _ _ _ | .inputDiverge
  | .trussEvaluationComplete _ _ | .voteDeadline | .ridgeVote | .ballotArrival _ _ | .voteCompleteLimit | .setQueuePush
  | .hubForwardItem _ | .sFrameLaunch | .mramWriteComplete _ | .snapshotComplete _ | .diagnosticRelease | .diagnosticLimit
  | .laneSleep _ | .laneWake _ | .completionDelivered | .creditReturn _ | .lockstepMismatch _ _ | .stopFlit _
  | .bistSliceStart _ | .blockReinitComplete _ | .rotationDue | .debugHalt _ | .debugRelease _ | .digestRecompute _
  | .eccUncorrectable _ | .trussStats | .planeStats => true
  | .routeSet _ | .routeCancel _ | .pointMove _ | .signalRestore _ | .block _ | .unblock _ | .auxReleaseRequest _
  | .auxReleaseConfirm _ | .restartReleaseRequest _ | .restartReleaseConfirm _ | .timeSet _ | .imageLoad _
  | .imageExchange _ | .rotateNow _ | .shutdown _ | .journalRead _ | .commandExpiry _ | .requestLapse | .journalStall
  | .hostFetch | .transferTimeout | .yealmVerified _ | .journalReadSegment _ | .exchangeBoundary | .exchangeCopyComplete _
  | .exchangeReloadComplete | .restartDecision => true
  | .yealmFetchComplete _ _ => true
  | .ringSfpInsertion _ _ _ | .sfpDiagRead _ _ _ _ _ | .discoverLaunch | .timingLaunch | .ringTopology _ _
  | .periodicTiming | .periodicDiscover | .planeLost _ _ | .portLinkUp _ _ _ | .lFrameSend _ | .battenReceiverTimeout _
  | .battenDeadline _ | .eavesConfigInForce | .crossWindowEnd | .fieldSupplyLow _ | .fieldSupplyRecover _
  | .fieldSupplyCut _ | .cutClear _ => true
  | .hpctlOpen | .hpctlClose | .quiesceComplete | .qctlWrite _ _ | .msixSend _ | .msixUnmask _
  | .errstatClear _ _ | .bootoptSplit _ | .bootoptLoad _ | .bootoptActivate _ | .timecfgSrc _ | .timecfgUtcOfs _
  | .perst | .busMasterEnable _ | .powerStateChange _ => true
  | .renewRelease | .beatSend | .linkSend _ | .leaseExpired | .leaseClaim | .pairStartClaim | .masteryTest
  | .peerLinkLost _ | .peerLinkReturn _ | .peerSfpInsertion _ _ | .mirrorBlockReceive _ _
  | .shadowComputationComplete _ _ _ _ | .peerRequestReceive _ _ | .peerRequestTimeout | .ptpSync _ | .timeSourceLost _
  | .timeSetHoldover | .clockWindowCheck _ _ | .ptpAnnounce _ => true
  | .supplyStart _ _ | .supplyLow _ | .supplyRecovery _ _ | .supplyReset | .rstRelease _ | .resetStuck | .rstRearm
  | .orderlyReset | .keyPatternStable | .keyAllOpenTimeout | .sealChange | .switchSense _ | .hubWatchdog
  | .junctionOvertemp _ | .diesOutOfReset _ | .bootRecordCheck _ | .bootYealmAgreed | .ringStartComplete
  | .indicateGather | .bootShadowStart | .shutdownBegin | .shutdownDone | .gutterPathTake _ | .syslogSend
  | .blackboxWrite _ | .linkProbe _ _ _ | .rstPress | .reserveStoreExhausted | .primaryCellExhausted
  | .hubSramScrub _ => true

end Sys2Proof
end

