-- ==== Sys2Proof/Decode.lean ====
section
/-! DEFINITION. The command a word spells by the bits of spec/opcode_table.json. No row of this hardware's table gives
bits ("fields" is empty in all 192 rows), so no word spells a command. -/

namespace Sys2Proof

/-- The rows of the table that give bits: number of bits, mask, match and command. There is none. -/
def tableRows : List (Nat × Nat × Nat × Instr) := []

/-- The command a word of `nbits` bits spells: the first row of that length whose masked bits match. -/
def decodeTableWord (nbits w : Nat) : Option Instr :=
  (tableRows.find? (fun r => r.1 == nbits && (w &&& r.2.1) == r.2.2.1)).map (fun r => r.2.2.2)

end Sys2Proof
end

