-- ==== Sys2Proof/Machine/Bits.lean ====
section
/-! DEFINITION. Bytes, bit fields, byte orders (R6, R152, R270) and the checksums the manual names (R142, R160, R270). -/

namespace Sys2Proof.Machine

/-- Bit i of a number. -/
def bitAt (n i : Nat) : Bool := n / 2 ^ i % 2 == 1

/-- Bits [hi:lo] of a number. -/
def bitsAt (n hi lo : Nat) : Nat := n / 2 ^ lo % 2 ^ (hi + 1 - lo)

/-- A flag as a number. -/
def ofFlag (b : Bool) : Nat := if b then 1 else 0

/-- n bytes of a value, least significant first (R6: host structures and set-up registers). -/
def leBytes : Nat → Nat → List Byte
  | 0, _ => []
  | n + 1, v => BitVec.ofNat 8 v :: leBytes n (v / 256)

/-- n bytes of a value, most significant first (R6: ring and peer frames; R270). -/
def beBytes (n v : Nat) : List Byte := (leBytes n v).reverse

/-- The value of bytes that stand least significant first. -/
def leNat : List Byte → Nat
  | [] => 0
  | b :: bs => b.toNat + 256 * leNat bs

/-- The value of bytes that stand most significant first. -/
def beNat (bs : List Byte) : Nat := leNat bs.reverse

/-- n bytes from an offset. -/
def slice (l : List Byte) (off n : Nat) : List Byte := (l.drop off).take n

/-- The little-endian field of n bytes at an offset. -/
def fldLE (l : List Byte) (off n : Nat) : Nat := leNat (slice l off n)

/-- The big-endian field of n bytes at an offset. -/
def fldBE (l : List Byte) (off n : Nat) : Nat := beNat (slice l off n)

/-- n zero bytes. -/
def zeros (n : Nat) : List Byte := List.replicate n 0

/-- Are all these bytes 0? -/
def allZero (l : List Byte) : Bool := l.all (· == 0)

/-- Set element i of a list by a function; out of range it changes nothing. -/
def listMod {α : Type} (l : List α) (i : Nat) (f : α → α) : List α :=
  match l, i with
  | [], _ => []
  | x :: xs, 0 => f x :: xs
  | x :: xs, i + 1 => x :: listMod xs i f

/-- The list without repeats of consecutive equal entries. -/
def dedupSorted : List Nat → List Nat
  | [] => []
  | [x] => [x]
  | x :: y :: r => if x = y then dedupSorted (y :: r) else x :: dedupSorted (y :: r)

/-- Put a number into a rising list, once. -/
def insertUp (x : Nat) : List Nat → List Nat
  | [] => [x]
  | y :: r => if x < y then x :: y :: r else if x = y then y :: r else y :: insertUp x r

/-- Union of two rising lists of numbers, rising. -/
def unionSorted (xs ys : List Nat) : List Nat := xs.foldr insertUp ys

/-- Insert by a key, after entries whose key is not larger. -/
def insertBy {α : Type} (key : α → Nat) (x : α) : List α → List α
  | [] => [x]
  | y :: r => if key x < key y then x :: y :: r else y :: insertBy key x r

/-- The list in rising order of a key; entries of equal key keep their order. -/
def sortBy {α : Type} (key : α → Nat) (l : List α) : List α := l.foldl (fun acc x => insertBy key x acc) []

/-- One bit step of a reflected CRC. -/
def crcStepR (w : Nat) (poly : BitVec w) (c : BitVec w) : BitVec w :=
  if c.getLsbD 0 then (c >>> 1) ^^^ poly else c >>> 1

/-- One byte of a reflected CRC. -/
def crcByteR (w : Nat) (poly : BitVec w) (c : BitVec w) (b : Byte) : BitVec w :=
  (List.replicate 8 ()).foldl (fun c _ => crcStepR w poly c) (c ^^^ b.setWidth w)

/-- CRC-32C: polynomial 0x1EDC_6F41 reflected, initial value and final XOR all ones (R142). -/
def crc32c (l : List Byte) : Word := ~~~ (l.foldl (crcByteR 32 0x82F63B78#32) 0xFFFFFFFF#32)

/-- CRC-64/XZ: polynomial 0x42F0_E1EB_A9EA_3693 reflected, initial value and final XOR all ones (R160). -/
def crc64xz (l : List Byte) : DWord :=
  ~~~ (l.foldl (crcByteR 64 0xC96C5795D7870F42#64) 0xFFFFFFFFFFFFFFFF#64)

/-- One bit step of the Batten CRC-16. -/
def crcStep16 (c : Half) : Half := if c.getLsbD 15 then (c <<< 1) ^^^ 0x1021#16 else c <<< 1

/-- One byte of the Batten CRC-16. -/
def crcByte16 (c : Half) (b : Byte) : Half :=
  (List.replicate 8 ()).foldl (fun c _ => crcStep16 c) (c ^^^ (b.setWidth 16 <<< 8))

/-- CRC-16 with polynomial 0x1021, initial value 0xFFFF, no reflection, no final XOR (R270). -/
def crc16 (l : List Byte) : Half := l.foldl crcByte16 0xFFFF#16

/-- A record with its CRC-32C appended, big-endian (ring and peer messages, R190, R326). -/
def withCrcBE (l : List Byte) : List Byte := l ++ beBytes 4 (crc32c l).toNat

/-- A record with its CRC-32C appended, little-endian (host structures). -/
def withCrcLE (l : List Byte) : List Byte := l ++ leBytes 4 (crc32c l).toNat

/-- The largest of a list of numbers, 0 for none. -/
def maxOf (l : List Nat) : Nat := l.foldl max 0

/-- The sum of a list of numbers. -/
def sumOf (l : List Nat) : Nat := l.foldl (· + ·) 0

/-- Least common multiple of a list (R53). -/
def lcmOf (l : List Nat) : Nat := l.foldl Nat.lcm 1

/-- The first element with a property, and its place counted from 0. -/
def findIdxVal {α : Type} (p : α → Bool) : Nat → List α → Option (Nat × α)
  | _, [] => none
  | i, x :: xs => if p x then some (i, x) else findIdxVal p (i + 1) xs

/-- The list with each element's place, counted from 0. -/
def enumFrom0 {α : Type} (l : List α) : List (Nat × α) := (List.range l.length).zip l

/-- Bits of a list of flags, the first in bit 0. -/
def bitsOf : List Bool → Nat
  | [] => 0
  | b :: bs => ofFlag b + 2 * bitsOf bs

/-- n flags of a number, bit 0 first. -/
def flagsOf : Nat → Nat → List Bool
  | 0, _ => []
  | n + 1, v => (v % 2 == 1) :: flagsOf n (v / 2)

/-- The bytes that hold a list of flags, bit j of byte j / 8 (R137). -/
def packFlags (n : Nat) (fs : List Nat) : List Byte :=
  (List.range n).map fun i => BitVec.ofNat 8 (bitsOf ((List.range 8).map fun j => fs.contains (8 * i + j)))

/-- An ASCII text as bytes. -/
def asciiBytes (s : String) : List Byte := s.toList.map fun c => BitVec.ofNat 8 c.toNat

end Sys2Proof.Machine
end

