-- ==== Sys2Proof/Machine/Types.lean ====
section
/-! DEFINITION. The records the state is made of: the station image as a lane reads it, journal and snapshot contents,
ballots, Gutter records, queue items. Plain data only. -/

namespace Sys2Proof.Machine

/-- An addressed store of bytes in canonical form: addresses strictly rising, no entry equal to 0, which is what an
unlisted address reads as (DESIGN CHOICE, log entry 2). -/
abbrev Mem := List Host.Cell

/-- A queue under credit control (R17): the items waiting and the credits its producer holds. -/
structure CQ (α : Type) where
  items   : List α
  credits : Nat
  deriving DecidableEq, Repr

/-- The lane roles of R81, coded 0b000 to 0b111 in this order. -/
inductive Role where
  | off | voting | resting | copy | shadow | excluded | halted | retired
  deriving DecidableEq, Repr

/-- The module states of R8. -/
inductive ModState where
  | off | boot | indicate | vitalRestricted | vital | hold | safeStop | standby | split
  deriving DecidableEq, Repr

/-- The key positions of R379. -/
inductive KeyPos where
  | run | maint | test | invalid
  deriving DecidableEq, Repr

/-- The vote modes of R82, coded 0b00 to 0b11 in this order. -/
inductive VoteMode where
  | none | tooThree | tooThreeNoRot | twoTwo
  deriving DecidableEq, Repr

/-- Quality of an input endpoint (R203, R250). -/
inductive Quality where
  | fresh | aged (n : Nat) | stale | fault
  deriving DecidableEq, Repr

/-- An input endpoint as the program reads it (R207): value and quality. -/
structure EpVal where
  v : Bool
  q : Quality
  deriving DecidableEq, Repr

/-- Channel status codes of R195, coded 0b00 to 0b11 in this order. -/
inductive ChanStatus where
  | off | on | fault | foreign
  deriving DecidableEq, Repr

/-- A lane's decision for a section (R201). -/
inductive Decision where
  | usedBoth | usedA | usedB | discarded | absent
  deriving DecidableEq, Repr

/-- Image bank states of R163. -/
inductive BankState where
  | empty | loading | verified | active
  deriving DecidableEq, Repr

/-- Station time states of R356, coded 0b00 to 0b10 in this order. -/
inductive TimeState where
  | unset | locked | holdover
  deriving DecidableEq, Repr

/-- The causes of exclusion of R96, and the failures that count as one (R98). -/
inductive ExclCause where
  | lockstep | output | digest | truss | batten | fabric | rejoin
  deriving DecidableEq, Repr

/-- Stamp qualities of R371. -/
inductive StampQ where
  | fine | hold | coarse | none
  deriving DecidableEq, Repr

/-! ## The station image -/

/-- An object record of the Truss tables (R144); a role slot of 15 is none. -/
structure ObjRec where
  type     : Nat
  nep      : Nat
  inv      : Half
  outmask  : Half
  gatemask : Half
  s0 : Nat
  s1 : Nat
  s2 : Nat
  s3 : Nat
  s4 : Nat
  area  : Nat
  sect  : Nat
  slots : List (BitVec 24)
  deriving DecidableEq, Repr

/-- An element of a route's list (R147): REQ 0 CLEAR, 1 NORMAL, 2 REVERSE, 3 DANGER, 4 PROTECTED. -/
structure Elem where
  obj : Nat
  req : Nat
  deriving DecidableEq, Repr

/-- A route record with its lists (R146 to R148). -/
structure RouteRec where
  entry     : Nat
  area      : Nat
  path      : List Elem
  flank     : List Elem
  overlap   : List Elem
  conflicts : List Nat
  rsId      : Word
  rsOff     : Nat
  deriving DecidableEq, Repr

/-- A point directory entry with its inverse list (R148). -/
structure PointEnt where
  point   : Nat
  inverse : List Nat
  osId    : Word
  osOff   : Nat
  deriving DecidableEq, Repr

/-- A signal directory entry with its routes (R148). -/
structure SigEnt where
  signal : Nat
  routes : List Nat
  deriving DecidableEq, Repr

/-- The Truss tables (R142, R143) with their lists resolved. -/
structure TrussTab where
  objs     : List ObjRec
  routes   : List RouteRec
  points   : List PointEnt
  sigs     : List SigEnt
  tcbOff   : Nat
  tableCrc : Word
  deriving DecidableEq, Repr

/-- An endpoint map entry (R158). -/
structure EpEnt where
  ref   : BitVec 24
  subst : Bool
  deriving DecidableEq, Repr

/-- An object map entry (R158). -/
structure ObjMapEnt where
  objId   : Word
  type    : Nat
  nep     : Nat
  outmask : Half
  slots   : List (BitVec 24)
  deriving DecidableEq, Repr

/-- A node list entry (R218). -/
structure NodeEnt where
  nodeId : Word
  connId : Word
  holdT  : Nat
  lage   : Nat
  deriving DecidableEq, Repr

/-- A ring header with its node entries (R218). -/
structure NodeList where
  lenIn   : Nat
  cabling : Nat
  nodes   : List NodeEnt
  deriving DecidableEq, Repr

/-- An Eaves input entry (R277). -/
structure EavesIn where
  src   : Nat
  mode  : Nat
  filt  : Nat
  gate  : Nat
  pair  : Nat
  proof : Bool
  disc  : Nat
  deriving DecidableEq, Repr

/-- An Eaves output entry (R277). -/
structure EavesOut where
  used    : Bool
  par     : Nat
  pw      : Nat
  inrush  : Bool
  openChk : Bool
  deriving DecidableEq, Repr

/-- The Eaves configuration section (R277). -/
structure EavesCfg where
  ti     : Nat
  ins    : List EavesIn
  outs   : List EavesOut
  enable : Two Bool
  crc    : Word
  deriving DecidableEq, Repr

/-- A task table entry (R159). -/
structure TaskEnt where
  m       : Nat
  phase   : Nat
  prio    : Nat
  command : Bool
  wcetUs  : Nat
  deriving DecidableEq, Repr

/-- A retained-state directory entry (R164). -/
structure DirEnt where
  id     : Word
  off    : Nat
  type   : Nat
  safe   : Nat
  writer : Nat
  init   : DWord
  deriving DecidableEq, Repr

/-- A timer or edge declaration (R166). -/
structure DeclEnt where
  id       : Word
  kind     : Nat
  presetMs : Nat
  deriving DecidableEq, Repr

/-- The station image as a lane reads it once verified (R152 to R167). -/
structure Yealm where
  split     : Bool
  instCode  : BitVec 20
  crc64     : DWord
  program   : List Byte
  truss     : TrussTab
  endpoints : List EpEnt
  objMap    : List ObjMapEnt
  rings     : Quad NodeList
  eaves     : EavesCfg
  eavesRaw  : List Byte
  tasks     : List TaskEnt
  dir       : List DirEnt
  decls     : List DeclEnt
  periodMs  : Nat
  rotHours  : Nat
  narea     : Nat
  rlockS    : List Nat
  deriving DecidableEq, Repr

/-! ## Gutter records -/

/-- A Gutter record (R413). -/
structure GRec where
  code      : Half
  cls       : Nat
  coalesced : Bool
  loss      : Bool
  sev       : Nat
  lanes     : BitVec 4
  unit      : Nat
  seq       : Word
  cycle     : DWord
  stime     : DWord
  ltime     : DWord
  count     : Nat
  roster    : Word
  args      : List Byte
  deriving DecidableEq, Repr

/-- A syslog message as sent on J11, by its fields (R423): the collector's address and port, PRI, TIMESTAMP in us of UTC or the
NILVALUE, HOSTNAME (SERIAL), APP-NAME, PROCID, MSGID, and the one element of STRUCTURED-DATA with its parameters, code to roster,
then a0 to a5. -/
structure SysMsg where
  dst    : Word
  port   : Nat
  pri    : Nat
  stamp  : Option Int
  host   : DWord
  app    : String
  procid : String
  msgid  : String
  sdid   : String
  params : List (String × Nat)
  words  : List (String × Word)
  deriving DecidableEq, Repr

/-- A record in a class queue with the paths that have taken it (R417). -/
structure GItem where
  rec_  : GRec
  evtq  : Bool
  trcq  : Bool
  sys   : Bool
  bb    : Quad Bool
  deriving DecidableEq, Repr

/-! ## MRAM contents -/

/-- A journal group (R168): `closed` when its CLOSE record is in MRAM. -/
structure JGroup where
  cycle  : DWord
  recs   : List JRec
  closed : Bool
  /-- The module held the lease when it wrote the group (R353). -/
  held   : Bool := true
  deriving DecidableEq, Repr

/-- A snapshot slot (R169): header fields and content. -/
structure Snapshot where
  complete : Bool
  s        : DWord
  lastCyc  : DWord
  ycrc     : DWord
  size     : Nat
  stime    : DWord
  content  : Mem
  /-- CRC-32C over the slot content, which stands in the header. -/
  crc      : Word := 0
  deriving DecidableEq, Repr

/-- The start-up record (R409). -/
structure StartRec where
  result   : Byte
  shelf    : DWord
  cycle    : DWord
  mapCrc   : Word
  fuseCrc  : Word
  rowsFree : Half
  colsFree : Half
  sectFree : Half
  repairs  : Half
  crc      : Word
  deriving DecidableEq, Repr

/-- A repair map entry (R403). -/
structure RepEnt where
  bank  : Nat
  col   : Bool
  spare : Nat
  fused : Bool
  count : Nat
  addr  : Nat
  cycle : Word
  deriving DecidableEq, Repr

/-- One copy of the repair map (R403). -/
structure RepMap where
  gen  : Word
  ents : List RepEnt
  deriving DecidableEq, Repr

/-- One copy of the boot record (R162, R332, R406, R409, R416). -/
structure BootRec where
  gen     : Nat
  asnMark : DWord
  epoch   : Word
  bbIndex : Nat
  start   : Option StartRec
  remaps  : List (Nat × Nat)
  /-- Cold restarts recorded: what was written under a lower count is void for recovery (R171, R176). -/
  colds   : Nat := 0
  /-- Shadow banks were activated in BOOT and no cold restart has followed since (R163, R171). -/
  activated : Bool := false
  deriving DecidableEq, Repr

/-- An image bank (R162, R163): its state, its bytes, and the yealm its last verification read. -/
structure Bank where
  state : BankState
  mem   : Mem
  size  : Nat
  img   : Option Yealm
  /-- A transfer into the bank has ended and its verification is due (R161, R318). -/
  full  : Bool := false
  deriving DecidableEq, Repr

/-- One 256 B write burst in a lane's MRAM write queue (R18). -/
inductive MWrite where
  /-- A burst of a journal group before its last. -/
  | burst (g : JGroup)
  /-- The last burst of a group, with its CLOSE record (R168). -/
  | group (g : JGroup)
  | blackbox (r : GRec)
  deriving DecidableEq, Repr

/-- The bursts of journal groups among the writes. -/
def MWrite.isJournal : MWrite → Bool
  | .burst _ => true | .group _ => true | .blackbox _ => false

/-- The group that a write ends. -/
def MWrite.ends : MWrite → Option JGroup
  | .group g => some g | .burst _ => none | .blackbox _ => none

/-- A lane's MRAM bank (R162). -/
structure Mram where
  bank0    : Bank
  bank1    : Bank
  /-- Boot record, two alternating copies; a copy whose sector was lost is none (R162, R405). -/
  boot     : Two (Option BootRec)
  /-- Repair map, two alternating copies (R403). -/
  maps     : Two (Option RepMap)
  snaps    : Two (Option Snapshot)
  /-- Journal, oldest group first (R168). -/
  journal  : List JGroup
  /-- A needed group was overwritten and no snapshot is complete since (R170). -/
  wrap     : Bool
  /-- Black box: the last 4 096 alarm records, oldest first (R416). -/
  blackbox : List GRec
  /-- Corrected reads per sector with their supervisor times (R406). -/
  corr     : List (Nat × DWord)
  /-- Byte of the journal's record ring at which its oldest group begins (R162, R168). -/
  jPos     : Nat := 0
  deriving DecidableEq, Repr

/-! ## Items of the cycle -/

/-- A 64 B slot of a ring input queue: one section with its tag (R18), and of its frame's header what R200 tests. -/
structure RingSlot where
  ring   : RingId
  plane  : Plane
  pos    : Nat
  atNs   : Nat
  hdr    : List Byte
  sec    : List Byte
  deriving DecidableEq, Repr

/-- A 64 B slot of a set queue: one S section at its node position (R18). -/
structure SetItem where
  pos : Nat
  sec : List Byte
  deriving DecidableEq, Repr

/-- A slot of a command intake queue: one descriptor with the cycle it was fetched for (R18, R31). -/
structure CmdSlot where
  cycle : DWord
  desc  : List Byte
  deriving DecidableEq, Repr

/-- What the flits on a Purlin link carry to another lane: the reports of input agreement (R84), a ballot (R92), STOP (R79), the
retained-state copy (R104), a forged item of difference injection (R110). -/
inductive FlitKind where
  | report | ballot | stop | copy | inject
  deriving DecidableEq, Repr

/-- A flit in a Purlin link buffer (R18) with the cycle it belongs to (R31): the last flit of its message (log entry 80). -/
structure Flit where
  cycle : DWord
  kind  : FlitKind
  deriving DecidableEq, Repr

/-- A completion as a lane produces it (R309). -/
structure Cpl where
  seq    : Word
  status : Byte
  reason : Byte
  opcode : Byte
  step   : Byte
  asn    : DWord
  htag   : DWord
  cycle  : Word
  data   : Word
  deriving DecidableEq, Repr

/-- An indication record (R319). -/
structure Ind where
  kind    : Byte
  nonvital : Bool
  cycle   : Word
  stime   : DWord
  payload : List Byte
  deriving DecidableEq, Repr

/-- A status decided for a command, waiting for the commit of its cycle (R312). -/
structure Verdict where
  asn    : DWord
  status : Byte
  reason : Byte
  data   : Word
  /-- Decided by the runtime outside a presentation: it outlives a missed cycle (R70, R312). -/
  keep   : Bool
  deriving DecidableEq, Repr

/-- A discrepancy entry (R135). -/
structure Disc where
  obj   : Nat
  route : Nat
  cond  : Nat
  pos   : Nat
  deriving DecidableEq, Repr

/-- A lane's ballot (R92): the output image as (reference, command, hold), Eaves drive bits, group master bits, the digest
after commit, the discrepancy summary; `shadow` marks a shadow ballot (R104). -/
structure Ballot where
  k       : DWord
  outs    : List OutCmd
  eaves   : BitVec 32
  gm      : BitVec 2
  digest  : DWord
  summary : DWord
  shadow  : Bool
  deriving DecidableEq, Repr

/-- An L frame as decoded (R271). -/
structure LFrame where
  lane     : Nat
  seq      : Byte
  mark     : Bool
  split    : Bool
  cycle    : Word
  dcycle   : Word
  drive    : BitVec 32
  gm       : BitVec 2
  cfgCycle : Word
  cfgCrc   : Word
  cfgPage  : Nat
  cfgData  : List Byte
  deriving DecidableEq, Repr

/-- An E frame as decoded (R272). -/
structure EFrame where
  rcv      : Nat
  seq      : Byte
  cfgActive : Bool
  cycle    : Word
  estat    : Word
  cfgCrc   : Word
  xcode    : List Nat
  ycode    : List Nat
  ostat    : List Nat
  volt     : List Nat
  curr     : List Nat
  cntx     : List Word
  cnty     : List Word
  supply   : Two Nat
  elem     : Word
  elemLane : Byte
  elemGm   : Byte
  edge     : List Half
  deriving DecidableEq, Repr

/-- A lane's BIST progress (R394, R395): the running pass, its slice, and what the lane still owes after it. -/
inductive BistPass where
  | boot | rest | exclusion | shutdown | inject
  deriving DecidableEq, Repr

/-- The registers of one ring block (R285) and the copies taken at the opening (R453). -/
structure QReg where
  baseLo : Word
  baseHi : Word
  size   : Word
  wbLo   : Word
  wbHi   : Word
  en     : Bool
  vec    : Nat
  idx    : Word
  db     : Word
  cBase  : DWord
  cSize  : Nat
  cWb    : DWord
  deriving DecidableEq, Repr

/-- A segment of the bulk inbound queue: the 64 B entry of XFRQ-IN and the data of the host buffer it describes (R18, R318). -/
structure BulkSeg where
  entry : List Byte
  data  : List Byte
  deriving DecidableEq, Repr

/-- Completion status of the module's answer to a non-posted request of the host. -/
inductive CplStatus where
  | success | unsupported | abort
  deriving DecidableEq, Repr

/-- The module's completion of a non-posted request: its status, the data of a read, the header of the request (R282, R297). -/
structure HostAnswer where
  status : CplStatus
  data   : Word
  hdr    : List Byte
  deriving DecidableEq, Repr

/-- What the module posts to host memory (R293): bytes at an address, or an MSI-X message. -/
inductive HostWrite where
  | mem (addr : DWord) (data : List Byte)
  | msix (vec : Nat) (addr : DWord) (data : Word)
  deriving DecidableEq, Repr

/-- A RENEW payload (R333) with the epoch and cycle of its header. -/
structure Renew where
  epoch   : Word
  cycle   : DWord
  rtime   : DWord
  periodUs : Nat
  incomplete : Bool
  release : Bool
  state   : Byte
  roster  : Word
  ycrc    : DWord
  asnMark : DWord
  exchX   : DWord
  key     : Byte
  deriving DecidableEq, Repr

/-- A BEAT payload (R334) with the epoch and cycle of its header. -/
structure Beat where
  epoch    : Word
  cycle    : DWord
  ack      : DWord
  roster   : Word
  hflags   : Byte
  planes   : Byte
  bist     : Byte
  spareSram : Word
  spareMram : Word
  temp     : List Byte
  rot      : Word
  shadowYcrc : DWord
  shadowSt : Byte
  asnMark  : DWord
  deriving DecidableEq, Repr

/-! ## Peer traffic (R326, R327, R337) -/

/-- What a RING item says of a plane: discovery entries, accepted positions and DLY, with what a claimant needs to compute the delays
again: half-rings, measured loop, link to node N - 1, unbroken or not (R229, R337). -/
structure RingMir where
  ring     : Nat
  plane    : Nat
  found    : List (Nat × List Byte)
  accepted : List Nat
  dly      : List (Nat × Nat)
  halves   : List (Nat × Nat)
  loopNs   : Nat
  probeNs  : Nat
  unbroken : Bool
  deriving DecidableEq, Repr

/-- A mirrored item (R337). -/
inductive MirrorPay where
  /-- Used sections with their decisions, as (ring, kind, position, decision, 56 bytes); the agreed Eaves frame, key, supply and
  switch patterns; the agreed station time. -/
  | inputs (secs : List (Nat × Nat × Nat × Nat × List Byte)) (eframe : List Byte) (key : BitVec 6) (sw : BitVec 25)
      (sup : BitVec 2) (stime : DWord)
  /-- ASNs presented and vital tasks released. -/
  | present (asns : List DWord) (tasks : List Nat)
  /-- The journal group of the cycle, CLOSE last. -/
  | group (recs : List JRec)
  /-- CRC-32C of the voted output image, discrepancy summary. -/
  | result (outCrc : Word) (summary : DWord)
  | ring (planes : List RingMir)
  /-- Slice i of the region: its non-zero bytes as (offset, byte). -/
  | full (i : Nat) (cells : List (Nat × Byte))
  deriving DecidableEq, Repr

/-- A message of the mirror class that waits to leave: a 4 KiB block or a ring relay (R327). -/
structure MirrorMsg where
  relay : Bool
  cycle : DWord
  pay   : List Byte
  deriving DecidableEq, Repr

/-- A block as its receiver reads it: kind, cycle, index within the kind, 4 080 B of content (R337). -/
structure MirrorBlk where
  kind  : Nat
  index : Nat
  cycle : DWord
  data  : List Byte
  deriving DecidableEq, Repr

/-- What a message of the request/response class carries (R318, R327, R343): a part of the yealm that the host loads, with its
place in it; a fetch of the holder's yealm; the two answers. -/
inductive PeerBody where
  | segment (off : Nat) (last : Bool) (data : List Byte)
  | segmentAck
  | fetch (off len : Nat)
  | fetchData (off : Nat) (last : Bool) (data : List Byte)
  deriving DecidableEq, Repr

/-- A message of the request/response class that waits to leave: a response bears the SEQ of its request. -/
structure ReqMsg where
  seq  : Word
  link : Plane
  body : PeerBody
  deriving DecidableEq, Repr

/-- A request without a response: how often it has been sent (0: it waits for a slot), on which link last (R327). -/
structure OpenReq where
  seq  : Word
  body : PeerBody
  sent : Nat
  link : Plane
  deriving DecidableEq, Repr

/-- An item of injected input values of R383: a value, or the end of the injection for its reference. -/
structure Injection where
  ref  : BitVec 24
  v    : Bool
  q    : Quality
  ends : Bool
  from_ : Word
  deriving DecidableEq, Repr

end Sys2Proof.Machine
end

