-- ==== Sys2Proof/Machine/EavesState.lean ====
section
/-! DEFINITION. The state of the Eaves block (R237 to R280). The default of every field is its value at State.reset. -/

namespace Sys2Proof.Machine

/-- Pattern of one window of one input (R239). -/
inductive Pattern where
  | on | off | mid | const | cross
  deriving DecidableEq, Repr

/-- One input as one chain senses it (R239 to R243). -/
structure ChainIn where
  /-- Pattern of the last window (R239). -/
  pat      : Pattern := .off
  /-- The state the filter is counting towards, and the consecutive windows counted (R240). -/
  toward   : Bool := false
  cnt      : Nat := 0
  /-- Filtered state, OFF at power-on (R240). -/
  filt     : Bool := false
  /-- Consecutive CONST, CROSS and MID windows (R241). -/
  nConst   : Nat := 0
  nCross   : Nat := 0
  nMid     : Nat := 0
  /-- Faults held (R241). -/
  fConst   : Bool := false
  fCross   : Bool := false
  fUndef   : Bool := false
  /-- Consecutive windows with only ON or OFF patterns (R241). -/
  nGood    : Nat := 0
  /-- Offset of the first filtered change since the previous common instant [us], 0xFFFF for none (R243). -/
  edge     : Half := 0xFFFF
  /-- Windows left in SETTLING after a configuration change (R279). -/
  settle   : Nat := 0
  deriving DecidableEq, Repr

/-- A dual-channel pair as one chain evaluates it (R244, R245). -/
structure PairSt where
  /-- The discrepancy timer, in windows, while it runs (R245). -/
  timer    : Option Nat := none
  /-- The lower input shows DISC (R245). -/
  disc     : Bool := false
  /-- Consecutive windows in the pair's OFF combination (R245). -/
  nOff     : Nat := 0
  deriving DecidableEq, Repr

/-- A counter-capable input IN57 to IN64 as one chain counts it (R247, R248). -/
structure CounterSt where
  /-- The 32-bit wrapping count, 0 at Eaves power-up (R247). -/
  count    : Word := 0
  /-- Measured frequency of the last completed gate in 0.1 Hz (R248). -/
  freq     : Word := 0
  /-- The first gate has not passed since a change of SRC, MODE or GATE (R279). -/
  settle   : Bool := false
  deriving DecidableEq, Repr

/-- One comparator chain (R238). -/
structure ChainSt where
  ins      : List ChainIn := List.replicate 64 {}
  pairs    : List PairSt := List.replicate 32 {}
  ctrs     : List CounterSt := List.replicate 8 {}
  /-- Consecutive misread and correct windows of each source, and its SOURCE fault (R242). -/
  srcBad   : List Nat := [0, 0, 0, 0]
  srcGood  : List Nat := [0, 0, 0, 0]
  srcFault : List Bool := [false, false, false, false]
  deriving DecidableEq, Repr

/-- A Batten receiver of the Eaves block (R253, R273, R274, R276). -/
structure Receiver where
  /-- SEQ of the last valid L frame; none after a timeout (R273). -/
  seq      : Option Byte := none
  /-- The receiver has valid frames: its bit of ESTAT [3:0] (R272, R274). -/
  valid    : Bool := false
  /-- Consecutive valid frames since the timeout (R274). -/
  nValid   : Nat := 0
  /-- The receiver produces waveforms: its bit of ESTAT [7:4] (R272, R274). -/
  producing : Bool := false
  /-- The last valid frames, newest first: what DRIVE and GM are taken from (R256). -/
  frames   : List LFrame := []
  /-- SEQ of the last E frame sent to the lane (R272). -/
  eSeq     : Byte := 0
  /-- Drive bits and group master bits in force (R256). -/
  drive    : BitVec 32 := 0
  gm       : BitVec 2 := 0
  /-- The lane's frames carry SPLIT (R253). -/
  split    : Bool := false
  /-- Configuration pages received: page and 32 bytes, with the CFG_CRC and CFG_CYCLE they came under (R276). -/
  pages    : List (Nat × List Byte) := []
  cfgCrc   : Word := 0
  cfgCycle : Word := 0
  deriving DecidableEq, Repr

/-- Why a channel's drive is withheld (R263 to R267). -/
inductive ChanLatch where
  | none | foreign | latched | cross | tripped
  deriving DecidableEq, Repr

/-- One output channel (R252 to R267). -/
structure ChanSt where
  /-- Status code of R262, UNUSED until a configuration is in force. -/
  code     : Nat := 0xF
  /-- Readback voltage [0.1 V] and current [mA] (R272). -/
  volt     : Nat := 0
  curr     : Nat := 0
  latch    : ChanLatch := .none
  /-- The channel paired with it in a CROSS (R265). -/
  crossWith : Option Nat := none
  /-- Retries since the last 60 s without a trip (R267). -/
  retries  : Nat := 0
  /-- SHORTED and OPEN elements as found; bit 2p + s: path p of AB AC AD BC BD CD, side s (R254). -/
  shorted  : BitVec 12 := 0
  opened   : BitVec 12 := 0
  /-- Elements found conducting without waveform in the last reading (R254). -/
  seen     : BitVec 12 := 0
  /-- The lanes drive the channel's network at the present instant (R252). -/
  driven   : Bool := false
  /-- The channel is energised: its network and its group master conduct, a test pulse apart (R255). -/
  live     : Bool := false
  /-- The drive changed at the last common instant (R260). -/
  changed  : Bool := false
  /-- Readings of 125 us since the last switch-on or switch-off (R263, R267). -/
  since    : Nat := 0
  /-- An off-pulse of the channel is under way (R259). -/
  pulsing  : Bool := false
  /-- Intervals in a row with an abandoned pulse (R260). -/
  abandoned : Nat := 0
  /-- The interval in which an off-case failure was found and not yet attributed (R263). -/
  offCase  : Option Nat := none
  /-- De-energised for a configuration change (R279). -/
  settle   : Bool := false
  deriving DecidableEq, Repr

/-- One output group (R255, R261, R268, R269). -/
structure GroupSt where
  /-- The group master is closed. -/
  closed   : Bool := false
  /-- The master has been opened by a readback failure and stays open until reset (R264). -/
  latched  : Bool := false
  /-- SUPPLY_WARN (R268). -/
  warn     : Bool := false
  /-- CUT latch (R268). -/
  cut      : Bool := false
  /-- Group supply [0.1 V] (R268). -/
  supply   : Nat := 0
  /-- Readings in a row with the supply below 17.0 V, and at or above 20.4 V (R268, R269). -/
  low      : Nat := 0
  high     : Nat := 0
  /-- The master is driven by the lanes at the present instant. -/
  driven   : Bool := false
  /-- The master bit changed at the last common instant (R261). -/
  changed  : Bool := false
  pulsing  : Bool := false
  abandoned : Nat := 0
  shorted  : BitVec 12 := 0
  opened   : BitVec 12 := 0
  seen     : BitVec 12 := 0
  deriving DecidableEq, Repr

/-- The Eaves block (R237). -/
structure EavesSt where
  /-- Chains X and Y. -/
  chains   : Two ChainSt := Two.fill {}
  /-- Receivers of lanes A to D. -/
  rcv      : Quad Receiver := Quad.fill {}
  /-- Channels OUT1 to OUT32. -/
  outs     : List ChanSt := List.replicate 32 {}
  /-- Groups OG1 and OG2. -/
  groups   : Two GroupSt := Two.fill {}
  /-- The configuration in force (R276). -/
  cfg      : Option EavesCfg := none
  /-- The cycle number of the last instant, as taken from the MARKs (R275). -/
  ck       : Word := 0
  /-- MARK frames received since the last instant in their order: lane and CYCLE (R275). -/
  marks    : List (Lane × Word) := []
  /-- Windows ended since the last common instant (R238). -/
  window   : Nat := 0
  /-- Codes, counters and edges latched at the last instant: X, Y (R243, R247). -/
  codes    : Two (List Nat) := Two.fill (List.replicate 64 0xF)
  ctrLatch : Two (List Word) := Two.fill (List.replicate 8 0)
  edges    : List Half := List.replicate 64 0xFFFF
  /-- Number of the test interval since the configuration came into force, and j of the present cycle (R258). -/
  interval : Nat := 0
  j        : Nat := 0
  deriving DecidableEq, Repr

end Sys2Proof.Machine
end

