-- ==== Sys2Proof/Machine/HubState.lean ====
section
/-! DEFINITION. The state of the hub: ring frame engines, host port, peer links, Gutter, and its time bases. The default
of every field is its value at State.reset. -/

namespace Sys2Proof.Machine

/-- One plane of one ring at the hub (R219 to R235). -/
structure PlaneHub where
  /-- The cage holds a supported SFP module (R185). -/
  sfpOk    : Bool := false
  /-- Receive power, transmit power and temperature of the SFF-8472 diagnostics (R185). -/
  diag     : Half × Half × Half := (0, 0, 0)
  /-- The link of this module's own port is up (R184, R235). -/
  upOwn    : Bool := false
  /-- The link of the peer module's port of the plane is up (R217, R235). -/
  upPeer   : Bool := false
  /-- The plane is started: accepted nodes and TIMING done (R223). -/
  started  : Bool := false
  /-- The start of R223 has been tried: a DISCOVER has been launched for it. -/
  tried    : Bool := false
  /-- The cycle in which the plane last had a DISCOVER or TIMING frame: one in a cycle at the most (R220). -/
  svc      : Option DWord := none
  /-- DISCOVER is due in the next service slot (R226, R235). -/
  discDue  : Bool := false
  /-- TIMING is due in the next service slot (R226). -/
  timDue   : Bool := false
  /-- Positions accepted on the plane (R222). -/
  accepted : List Nat := []
  /-- DLY [ns] per accepted position (R224). -/
  dly      : List (Nat × Nat) := []
  /-- Measured loop delay [ns] (R224). -/
  loopNs   : Nat := 0
  /-- Discovery entries by position, of the nodes found at listed positions, and whether the plane was found unbroken (R221, R337
  RING). -/
  found    : List (Nat × List Byte) := []
  unbroken : Bool := true
  /-- Time from T_LAUNCH to the return that the hub predicts for the frame of each span: FIRST_POS and ns (R226). -/
  preds    : List (Nat × Nat) := []
  /-- A frame of the cycle has returned more than 1 us off its prediction (R226). -/
  off      : Bool := false
  /-- LINK and SYNCST of the last returned TIMING frames per position (R225). -/
  sync     : List (Nat × Nat × Nat) := []
  /-- Link probes that the cage has answered (R224). -/
  probes   : Nat := 0
  /-- Delay of the link between node N-1 and the cage [ns]: as the cage measures it in a pair, in single-module cabling the
  fibre that makes the modelled loop equal the measured one (R224). -/
  probeNs  : Nat := 0
  /-- The modelled loop differs from the measured loop by more than 1 us (R224). -/
  delayBad : Bool := false
  /-- The plane is declared lost (R235). -/
  lost     : Bool := false
  /-- Consecutive cycles without a returned frame (R235). -/
  silent   : Nat := 0
  /-- A frame of the plane has returned in the cycle (R235). -/
  returned : Bool := false
  /-- PLANE_RETURN is due with the first returned G-frame (R235). -/
  returning : Bool := false
  /-- Half-rings served after a break: first position and number of slots of each (R233); empty when unbroken. -/
  halves   : List (Nat × Nat) := []
  /-- Last G-frames, S-frames, DISCOVER and TIMING frames launched. -/
  txG      : List (List Byte) := []
  txS      : List (List Byte) := []
  txD      : List (List Byte) := []
  txT      : List (List Byte) := []
  /-- The last frame this cage turned back for another master, and the last it launched for the peer (R217). -/
  relayed  : List Byte := []
  /-- Modelled loop of an unbroken plane of a pair but for the cage's own link to node N-1, from the last discovery [ns] (R224). -/
  loopBase : Option Nat := none
  /-- Frames of the plane that have reached the hub: FTYPE, FIRST_POS, cycle (R217). -/
  got      : List (Nat × Nat × Nat) := []
  /-- A status section of the claimant's first S-frame returned valid without EPOCH_REJECT (R346). -/
  mastered : Bool := false
  deriving DecidableEq, Repr

/-- The ring frame engines (R10). -/
structure RingHub where
  planes    : Quad (Two PlaneHub) := Quad.fill (Two.fill {})
  /-- The module has backed off the ring: it launches no frame on it (R230). -/
  backedOff : Quad Bool := Quad.fill false
  /-- It backs off the ring from its next cycle on (R230). -/
  backNext  : Quad Bool := Quad.fill false
  /-- Sections written in the hub frame buffer and not yet handed to the lane, for want of credits (R19). -/
  hand      : Quad (List RingSlot) := ⟨[], [], [], []⟩
  /-- S sections that passed R24, per ring: position and 56 bytes. -/
  fwd       : Quad (List SetItem) := ⟨[], [], [], []⟩
  /-- Positions accepted before on some started plane, per ring (R236). -/
  known     : Quad (List Nat) := ⟨[], [], [], []⟩
  /-- Discovery entries, accepted positions or delays have changed since they were last mirrored (R337 RING). -/
  changed   : Bool := false
  /-- Ring frames are inhibited by the Underlay (R331). -/
  inhibited : Bool := false
  deriving DecidableEq, Repr

/-- One MSI-X table entry (R283, R455). -/
structure MsixEnt where
  addr   : DWord
  data   : Word
  masked : Bool
  deriving DecidableEq, Repr

/-- The copies in the Time and Status readback blocks (R449, R458, R461), as registers. -/
structure Readback where
  timestat : Word := 0
  stime    : DWord := 0
  cycle    : DWord := 0
  swstat   : Word := 0
  swlane   : Quad Word := Quad.fill 0
  /-- KEYSTAT: POS reads 0b11 at reset (R461). -/
  keystat  : Word := 3
  lanestat : Word := 0
  laneinfo : Word := 0
  supstat  : Word := 0
  fldstat  : Word := 0
  tempLane : Word := 0
  tempOther : Word := 0
  epoch    : Word := 0
  deriving DecidableEq, Repr

/-- A ring block at its reset value, with the default vector of R284. -/
def QReg.atReset (vec : Nat) : QReg :=
  { baseLo := 0, baseHi := 0, size := 0, wbLo := 0, wbHi := 0, en := false, vec := vec, idx := 0, db := 0,
    cBase := 0, cSize := 64, cWb := 0 }

/-- The host port (R281 to R299, R446 to R461). -/
structure HostPort where
  /-- Ring register blocks q = 0 to 7 (R285). -/
  q        : List QReg := [.atReset 6, .atReset 6, .atReset 0, .atReset 1, .atReset 2, .atReset 3, .atReset 4, .atReset 5]
  /-- HPCTL.EN (R286). -/
  en       : Bool := false
  /-- A write of EN = 1 is held until outstanding requests complete (R453). -/
  heldOpen : Bool := false
  /-- HPSTAT.QUIESCED (R286), 1 at reset. It is 0 while the port is open, and after a close until the requests already issued
  have completed. -/
  quiesced : Bool := true
  /-- HPSTAT.ACTIVE as last signalled, HPSTAT.STATE as last signalled (R284). -/
  sigActive : Bool := false
  sigState : Nat := 1
  /-- A PORT_OPEN indication is due at instant b (R289, R320). -/
  portOpenDue : Bool := false
  /-- Payload of the last MODULE_STATE record: a new one is written whenever a field changes (R319). -/
  modPay   : List Byte := [1, 0, 0, 0, 0, 0, 0, 0, 0, 0, 0, 0, 3]
  /-- Rings whose write-back word is still to be written, for want of Bus Master Enable or in D3hot (R289, R292, R453). -/
  wbDue    : BitVec 8 := 0
  /-- Bus Master Enable (R453). -/
  bme      : Bool := false
  /-- The function is in D3hot (R281). -/
  d3       : Bool := false
  /-- Maximum payload size and maximum read request size as coded in Device Control, completion timeout value of Device Control 2
  (R281). -/
  mps      : Nat := 0
  mrrs     : Nat := 2
  cto      : Nat := 0
  /-- Link speed, Gen1 to Gen3, and width x1, x2 or x4, as trained (R281). -/
  linkSpeed : Nat := 3
  linkWidth : Nat := 4
  /-- Uncorrectable error status of Advanced Error Reporting (R281). -/
  aer      : Word := 0
  /-- MSI-X Enable (R283). -/
  msixEn   : Bool := false
  /-- MSI-X table: entries 0 to 7, masked (R283, R455). -/
  msix     : List MsixEnt := List.replicate 8 { addr := 0, data := 0, masked := true }
  /-- MSI-X Function Mask (R455). -/
  funcMask : Bool := false
  /-- Pending Bit Array (R455). -/
  pba      : BitVec 8 := 0
  /-- Vectors with a message due (R293). -/
  vecDue   : BitVec 8 := 0
  /-- ERRSTAT.SEEN and LOST (R452). -/
  seen     : BitVec 9 := 0
  lostBit  : Bool := false
  /-- ERRCNT and ERRLOST (R452). -/
  errcnt   : Word := 0
  errlost  : Word := 0
  /-- Records lost since the last record written (R299 NLOST). -/
  nlost    : Word := 0
  /-- Error queue, depth 256: ERRQ records waiting (R18). -/
  errq     : CQ (List Byte) := ⟨[], 256⟩
  /-- Bulk outbound queue, depth 64 (R18). -/
  bulkOut  : CQ (List Byte) := ⟨[], 64⟩
  /-- The upper half latched by the last read of a _LO register (R450). -/
  hiLatch  : Word := 0
  /-- Time and status readback copies (R449). -/
  rb       : Readback := {}
  /-- BOOTSTAT [4:0]: RECPATH, WARM, ACTIVATED, SPLIT, NO_IMAGE (R456). -/
  bootstat : BitVec 5 := 0
  /-- Descriptors fetched from CMDQ for the cycle, and how many may be (R39, R295). -/
  fetched  : Nat := 0
  fetchLim : Nat := 0
  /-- Fetched descriptors waiting for intake credits, per lane (R19). -/
  cmdHand  : Quad (List (List Byte)) := ⟨[], [], [], []⟩
  /-- Records written to CPLQ or INDQ that the hub has not yet reported to the lanes (R65). -/
  cplRep   : List Cpl := []
  indRep   : List Ind := []
  /-- INDICATION_MISMATCH count (R24). -/
  mismatch : Nat := 0
  /-- A completion of the cycle could not be written: those behind it wait for the next cycle too (R294, R312). -/
  cplHeld  : Bool := false
  /-- XFRQ-IN segments fetched and waiting for a credit of a lane's bulk inbound queue (R19). -/
  bulkHand : Quad (List BulkSeg) := ⟨[], [], [], []⟩
  /-- The three classes towards the host, each in a buffer of its own (R296): what the module has posted to host memory, the reads
  of host memory that it has issued, its completions; oldest first (R282, R293, R297). -/
  posted   : List HostWrite := []
  reads    : List (DWord × Nat) := []
  cpls     : List HostAnswer := []
  deriving DecidableEq, Repr

/-- One peer link (R325, R329). -/
structure PeerLink where
  sfpOk   : Bool := false
  up      : Bool := false
  /-- Half the round trip measured with LINK messages [ns] (R333). -/
  delayNs : Nat := 0
  /-- SEQ of the last LINK sent and received (R326). -/
  txSeq   : Word := 0
  rxSeq   : Word := 0
  deriving DecidableEq, Repr

/-- The pair (R322 to R353). -/
structure PeerSt where
  links    : Two PeerLink := Two.fill {}
  /-- The module holds the Spar lease (R324). -/
  held     : Bool := false
  /-- The epoch of the lease held, or last held (R332). -/
  epoch    : Word := 0
  /-- PAIR_CONFLICT stands (R323). -/
  conflict : Bool := false
  /-- The last valid RENEW of the holder (R336). -/
  renew    : Option Renew := none
  /-- A valid RENEW of the other module or a valid ring frame of another master was seen since BOOT (R352). -/
  heard    : Bool := false
  /-- The last BEAT of the standby (R334). -/
  beat     : Option Beat := none
  /-- The last BEAT this module sent, as HFLAGS (R334). -/
  sentBeat : Byte := 0
  /-- STANDBY_INCOMPLETE has been raised for the present loss of health (R335). -/
  incAlarm : Bool := false
  /-- Active side: the standby's mirrored state is counted incomplete (R23, R307). -/
  markInc  : Bool := false
  /-- A BEAT without MIRROR_OK has come since: the next one with it ends INCOMPLETE (R339). -/
  markSeen : Bool := false
  /-- Standby side: MIRROR_OK (R339). -/
  mirrorOk : Bool := false
  /-- Standby side: SHADOW_OK (R335). -/
  shadowOk : Bool := false
  /-- FULL slices of the running round applied, every group complete from the first of them onward (R339). -/
  slices   : List Nat := []
  /-- The last slice of an unbroken round has been applied: the mirrored state is complete at the end of the cycle (R339). -/
  mirrorReady : Bool := false
  /-- Highest cycle whose group the standby holds complete (R339). -/
  lastGroup : DWord := 0
  /-- The last cycle whose group has been applied (R338, R345). -/
  lastApplied : DWord := 0
  /-- RESULT of the mirrored cycle (R340): cycle, output CRC, summary. -/
  result   : Option (DWord × Word × DWord) := none
  /-- The mirrored cycle whose INPUTS stand in the ring input queues, with the item (R20, R340). -/
  mirrorIn : Option (DWord × MirrorPay) := none
  /-- PRESENT of a mirrored cycle, the other half of what its computation starts from (R340). -/
  mirrorPres : Option (DWord × MirrorPay) := none
  /-- The mirrored cycle that the standby's lanes compute (R340). -/
  shadowC  : Option DWord := none
  /-- Items that wait until the computation of an earlier cycle has ended (R340). -/
  mirrorHold : List (DWord × MirrorPay) := []
  /-- FULL slices waiting for their cycle's group (R338): cycle, index, content. -/
  fullWait : List (DWord × Nat × List (Nat × Byte)) := []
  /-- A group waiting to be applied until the shadow computation of its cycle has ended (R338, R340). -/
  groupWait : Option JGroup := none
  /-- The holder's key, switch and supply patterns of the mirrored cycle (R337 INPUTS). -/
  mirrorCtl : BitVec 6 × BitVec 25 × BitVec 2 := (0, 0, 0)
  /-- The epoch of the holder's frames last seen at this module's cages, and their highest CYCLE (R336, R339). -/
  frameEpoch : Word := 0
  frameCyc : DWord := 0
  /-- PLANES: the holder's frames of the last observed cycle reached the cage (R334). -/
  planes   : Byte := 0
  /-- RELEASE is set in the RENEW of this cycle (R350). -/
  release  : Bool := false
  /-- The rings of PLANES in the last BEAT before a claim (R346); none once mastery is settled. -/
  claimPlanes : Option Byte := none
  /-- The first cycle k1 of a claim: intake of descriptors begins one cycle later (R344). -/
  claimK   : Option DWord := none
  /-- Credits of the mirror and the request/response class that the other module's hub has granted (R327). -/
  crMirror : Nat := 256
  crReq    : Nat := 64
  /-- Credits of the mirror and the request/response class that have come free here and have not gone back in a header (R326). -/
  backMirror : Nat := 0
  backReq  : Nat := 0
  /-- SEQ of the last message of the lease, mirror and request/response classes sent (R326). -/
  seqLease : Word := 0
  seqMirror : Word := 0
  seqReq   : Word := 0
  /-- The last SEQs taken per class, newest first: another copy of one of them is discarded (R329; log entry 97). -/
  seenLease  : List Word := []
  seenMirror : List Word := []
  seenReq    : List Word := []
  /-- Lease queue of each direction, 4 deep, the oldest is dropped (R18, R327). -/
  leaseOut : List (List Byte) := []
  leaseIn  : List (List Byte) := []
  /-- Mirror queue, 256 blocks (R18), relays ahead of the blocks (R327). -/
  mirrorQ  : CQ MirrorMsg := ⟨[], 256⟩
  /-- Blocks of the cycle that the lanes have not sent yet, for want of a credit (R17). -/
  mirrorWait : List MirrorMsg := []
  /-- The link that the next block takes (R327), and the last message of the class that left. -/
  mirrorTurn : Plane := .A
  mirrorSent : List Byte := []
  /-- Blocks received of items that are not complete (R337). -/
  mirrorAsm : List MirrorBlk := []
  /-- Request/response queue of each direction, 64 messages (R18), and the last message of the class that left. -/
  reqOut   : CQ ReqMsg := ⟨[], 64⟩
  reqIn    : CQ (List Byte) := ⟨[], 64⟩
  reqSent  : List Byte := []
  /-- Requests without a response, oldest first (R327). -/
  openReqs : List OpenReq := []
  /-- Bytes of the holder's yealm fetched so far (R343). -/
  fetchBuf : Mem := []
  fetchLen : Nat := 0
  deriving DecidableEq, Repr

/-- A coalescing store entry (R417): the record, and whether it is the entry reserved for its code. -/
structure StoreEnt where
  rec_     : GRec
  reserved : Bool
  deriving DecidableEq, Repr

/-- The Gutter (R412 to R423). -/
structure Gutter where
  /-- ALARM queue, depth 1 024 (R18). -/
  alarm    : CQ GItem := ⟨[], 1024⟩
  /-- EVENT queue, depth 4 096 (R18). -/
  event    : CQ GItem := ⟨[], 4096⟩
  /-- TRACE queue, depth 8 192 (R18). -/
  trace    : CQ GItem := ⟨[], 8192⟩
  /-- SEQ series of the three queues (R413). -/
  seqA     : Word := 0
  seqE     : Word := 0
  seqT     : Word := 0
  /-- Coalescing store (R417). -/
  store    : List StoreEnt := []
  /-- Events dropped per producer (R418): count, cycle and time of the first, time of the last. -/
  dropped  : List (Nat × Nat × DWord × DWord × DWord) := []
  /-- Traces discarded since the last TRACE_LOSS (R419): SEQ, cycle and time of the first, count, time of the last. -/
  lostTr   : Option (Word × DWord × DWord × Nat × DWord) := none
  /-- Messages the syslog path may still send in its budget (R417): burst of 64. -/
  budget   : Nat := 64
  /-- Records taken by syslog and not yet sent on J11, and the last message sent (R423). -/
  sysq     : List GRec := []
  sent     : Option SysMsg := none
  deriving DecidableEq, Repr

/-- The hub's time bases and PTP slave (R354 to R367, R458). -/
structure TimeSt where
  /-- Ring time [ns] (R354). -/
  ringNs   : DWord := 0
  /-- Ring time of the last common instant Ck [ns]. -/
  ckNs     : DWord := 0
  /-- Supervisor time [us] (R354, R366). -/
  supUs    : DWord := 0
  /-- The Underlay's flag that supervisor time has restarted from 0 (R366). -/
  supLost  : Bool := false
  /-- TIMECFG in force: SRC, DOMAIN, UTC_OFS (R459). -/
  src      : Bool := false
  domain   : Nat := 0
  utcOfs   : Half := 37
  /-- The PTP slave counts as locked (R359). -/
  ptpLock  : Bool := false
  /-- Consecutive Sync messages within 100 us, and consecutive offsets beyond 1 ms (R359). -/
  goodSync : Nat := 0
  badSync  : Nat := 0
  /-- Last filtered offset [us] (R458 OFS). -/
  ptpOfs   : Int := 0
  /-- The grandmaster in use and its UTC offset while valid (R356, R358). -/
  gm       : Option DWord := none
  gmUtc    : Option Half := none
  /-- The reference of the last TIME_SET that the servo slews toward [us on the PTP timescale], with its cycle (R360). -/
  ref      : Option (DWord × DWord) := none
  deriving DecidableEq, Repr

end Sys2Proof.Machine
end

