-- ==== Sys2Proof/Machine/LaneState.lean ====
section
/-! DEFINITION. The state of one lane and of the lanes' agreed input image. The default of every field is its value at
State.reset: where the manual gives none, log entry 1 names it. -/

namespace Sys2Proof.Machine

/-- Empty image bank. -/
def Bank.blank : Bank := { state := .empty, mem := [], size := 0, img := none }

/-- A lane's MRAM as it stands before the first boot: every bank EMPTY, one boot record copy with the ASN
reserve mark one step up, nothing else written (log entry 1). -/
def Mram.blank : Mram :=
  { bank0 := .blank, bank1 := .blank,
    boot := { a := some { gen := 0, asnMark := 1048576, epoch := 0, bbIndex := 0, start := none, remaps := [] }, b := none },
    maps := { a := none, b := none }, snaps := { a := none, b := none },
    journal := [], wrap := false, blackbox := [], corr := [] }

/-- A lane's Truss results of the cycle (R124, R135, R137). -/
structure TrussOut where
  /-- The evaluation of the cycle has ended (R125). -/
  done    : Bool := false
  /-- The evaluation was not complete at Dv (R43). -/
  late    : Bool := false
  /-- Objects whose permit holds (R132, R133). -/
  permits : List Nat := []
  /-- Per route: index, condition code, position, from the evaluation of the cycle; passing routes are not listed (R131). -/
  fails   : List (Nat × Nat × Nat) := []
  /-- SET, LOCK and OVL bits of every route as this cycle's evaluation read them (R129, R138). -/
  readRs  : List Byte := []
  /-- The discrepancy list of R135 in ascending object order. -/
  disc    : List Disc := []
  deriving DecidableEq, Repr

/-- A lane's Truss statistics (R139). -/
structure TrussCount where
  unused  : Nat := 0
  disc    : Nat := 0
  maxUs   : Nat := 0
  sumUs   : Nat := 0
  evals   : Nat := 0
  deriving DecidableEq, Repr

/-- A lane's self-test state (R394 to R410). -/
structure LaneBist where
  /-- The pass that runs, if any (R394). -/
  pass      : Option BistPass := none
  /-- The next or running slice of the pass, 0 to 799 (R395). -/
  slice     : Nat := 0
  /-- A slice is running: its block is isolated (R396). -/
  running   : Bool := false
  /-- The block under test is being re-initialised (R396). -/
  reinit    : Bool := false
  /-- Full passes completed since the rest, exclusion or boot began (R103). -/
  passes    : Nat := 0
  /-- A slice of the running pass had no result, so the pass does not count as passed (R396, R397). -/
  gap       : Bool := false
  /-- The lane's last full BIST pass and injection set passed (R334 BIST). -/
  lastPass  : Bool := false
  /-- A slice has failed since power-on (R334 BIST). -/
  failed    : Bool := false
  /-- Repairs made in the running pass (R409 REPAIRS). -/
  repairs   : Nat := 0
  /-- Supervisor times of the lane's BIST_RETRY events (R399). -/
  retries   : List DWord := []
  /-- Corrected SRAM errors: row with supervisor time (R404). -/
  ecc       : List (Nat × DWord) := []
  /-- Rows marked suspect (R404). -/
  suspect   : List Nat := []
  /-- A slice of groups 6 or 9 has started in the present cycle (R396). -/
  fabricSlice : Bool := false
  deriving DecidableEq, Repr

/-- A node as the lanes hold it (R203 to R207). -/
structure NodeImg where
  /-- Input age a (R203). -/
  a       : Nat
  /-- Status age b (R206). -/
  b       : Nat
  /-- Value and quality of endpoints 0 to 127. -/
  vals    : List EpVal
  /-- Agreed channel status of endpoints 0 to 127. -/
  chan    : List ChanStatus
  /-- NFLAGS of the last used G section (R193). -/
  nflagsG : Half
  /-- HOLD_T of the last used G section (R193). -/
  holdT   : Nat
  /-- DIAG of the last used G section (R194). -/
  diagG   : DWord
  /-- NFLAGS of the last used status section. -/
  nflagsS : Half
  /-- OUT_AGE of the last used status section. -/
  outAge  : Nat
  /-- DIAG of the last used status section. -/
  diagS   : DWord
  /-- A run of agreed discarded G decisions is open (R201). -/
  confG   : Bool
  /-- A run of agreed discarded status decisions is open (R201). -/
  confS   : Bool
  /-- The mismatching HOLD_T of the open NODE_CONFIG run (R204). -/
  cfgRun  : Option Nat
  /-- A G section of the node has been used since the restart: until then the age stands at Lage + 1 (R205). -/
  seen    : Bool := false
  /-- Late sections counted against the node (R36). -/
  late    : Nat
  /-- The cycle in which LATE_SECTION was last counted: a node's section of a cycle counts once (R36). -/
  lateAt  : Option DWord := none
  /-- Stamp of the node's first input edge with its quality (R370, R371). -/
  stamp   : DWord × StampQ
  deriving DecidableEq, Repr

/-- An Eaves input as the lanes hold it (R250, R369). -/
structure EavesVal where
  /-- Agreed X and Y codes (R243). -/
  x     : Nat
  y     : Nat
  /-- Value: a level, or a counter reading. -/
  v     : Word
  q     : Quality
  /-- The last agreed sample had codes ON and OFF (R250). -/
  onOff : Bool
  /-- Agreed edge offset of the last cycle, 0xFFFF for none (R369). -/
  edge  : Half
  stamp : DWord × StampQ
  /-- The program sees status NOT_PROVEN (R246). -/
  notProven : Bool
  deriving DecidableEq, Repr

/-- What a task reads (R56, R61): the agreed input image of its release cycle with the lane's own Eaves output status, injections
laid over it (R383), the commands presented to it, and the retained state as last committed. -/
structure TaskSnap where
  task   : Nat
  cycle  : DWord
  nodes  : Quad (List NodeImg)
  eIn    : List EavesVal
  oStat  : List Nat
  inj    : List Injection
  cmds   : List DWord
  region : Mem
  stime  : DWord
  /-- The agreed key, switch and supply group patterns (R84). -/
  ctl    : BitVec 6 × BitVec 25 × BitVec 2 := (0, 0, 0)
  deriving DecidableEq, Repr

/-- A lane's counts for a node by its own decisions: faults of planes A and B, plane conflicts (R201). -/
structure PlaneCount where
  ring   : Nat
  pos    : Nat
  faultA : Nat := 0
  faultB : Nat := 0
  conf   : Nat := 0
  deriving DecidableEq, Repr

/-- One lane (R10). -/
structure LaneSt where
  /-- Role of the lane (R81). -/
  role      : Role := .off
  /-- The lane's own count of the cycle number, agreed with the inputs (R31). -/
  k         : DWord := 0
  /-- The lane has passed its boot pass or its record check since the last reset (R25). -/
  checked   : Bool := false
  /-- The full difference injection set has passed since the last reset (R111). -/
  injectOk  : Bool := false
  /-- LANEINFO.RECORD: the start-up record as it now stands is valid (R461). -/
  record    : Bool := false
  /-- The retirement fuse is blown (R408). -/
  retFuse   : Bool := false
  /-- The clocks of the core pair and the Truss engine are ungated (R48). -/
  clocksOn  : Bool := false
  /-- The lane has stopped itself on a lockstep mismatch (R79). -/
  stopped   : Bool := false
  /-- The debugger holds both cores (R113). -/
  haltReq   : Bool := false
  /-- The lane withholds its next ballot (R364, R404, R479). -/
  withhold  : Bool := false
  /-- The lane's reset line in the Underlay is asserted (R97). -/
  inReset   : Bool := false
  /-- Program section and Truss tables in SRAM, with the maps of the active yealm (R161, R181). -/
  yealm     : Option Yealm := none
  /-- Retained-state region as last committed (R88, R164). -/
  region    : Mem := []
  /-- The region with the runtime's own writes since, which survive a missed cycle (R70) and reach the region at commit. -/
  work      : Mem := []
  /-- The running state digest (R88). -/
  digest    : DWord := 0
  /-- Commit log: the retained writes of the cycle's tasks and presentations (R89). -/
  log       : List RWrite := []
  /-- Command statuses decided in the cycle, waiting for its commit (R312). -/
  verdicts  : List Verdict := []
  /-- REQUESTs that ended DONE at the last commit, whose challenge is formed from that commit's digest (R316). -/
  newReqs   : List DWord := []
  /-- Outputs as last committed: what the tasks last published (R58). -/
  pub       : List OutCmd := []
  /-- Outputs published in the cycle. -/
  pubNew    : List OutCmd := []
  /-- Group master bits as last committed (R92, R255). -/
  gmPub     : BitVec 2 := 0
  /-- Group master bits published in the cycle. -/
  gmNew     : Option (BitVec 2) := none
  /-- Vital tasks of the cycle that have not ended on this lane, in priority order (R51). -/
  todo      : List Nat := []
  /-- The snapshots of the vital tasks of the cycle that have not ended (R56). -/
  snaps     : List TaskSnap := []
  /-- The shared image of the diagnostic task's run: that of its release cycle (R61). -/
  diagSnap  : Option TaskSnap := none
  /-- Descriptors taken in the cycle with their ASNs, for their COMMAND records (R41, R168). -/
  taken     : List (List Byte × DWord) := []
  /-- The descriptors of the commands in the command table by ASN, in the lane's own SRAM: the region holds no more of them than
  R483 says, the whole stands in the COMMAND record (R168). -/
  descs     : List (DWord × List Byte) := []
  /-- Indications that wait for the indication queue (R27). -/
  inds      : List Ind := []
  /-- The Truss engine's results of the cycle. -/
  truss     : TrussOut := {}
  /-- Truss statistics (R139). -/
  tstat     : TrussCount := {}
  /-- The ballot the lane has formed for the cycle (R92). -/
  ballot    : Option Ballot := none
  /-- Voted ring outputs of the last completed cycle: drive(bit) of R93. -/
  drive     : List OutCmd := []
  /-- Eaves drive bits the lane sends (R94, R256). -/
  driveE    : BitVec 32 := 0
  /-- Group master bits the lane sends (R255). -/
  driveG    : BitVec 2 := 0
  /-- DCYCLE: the instant at which they apply (R271). -/
  dcycle    : DWord := 0
  /-- Voted S sections in the lane's image buffers, per ring (R44). -/
  sImage    : Quad (List SetItem) := ⟨[], [], [], []⟩
  /-- Ring input queues, one per ring, depth 128 (R18). -/
  ringIn    : Quad (CQ RingSlot) := Quad.fill ⟨[], 0⟩
  /-- Sections moved from the ring input queues into the image buffers (R37, R38). -/
  ringBuf   : List RingSlot := []
  /-- Command intake queue, depth 64 (R18). -/
  cmdIn     : CQ CmdSlot := ⟨[], 64⟩
  /-- Descriptors taken from the command intake queue in the cycle (R38, R40). -/
  cmdBuf    : List (List Byte) := []
  /-- Purlin link buffers from the other lanes, depth 64 each (R18). -/
  purlin    : Quad (CQ Flit) := Quad.fill ⟨[], 64⟩
  /-- Set queues, one per ring, depth 32 (R18). -/
  setq      : Quad (CQ SetItem) := Quad.fill ⟨[], 32⟩
  /-- Completion queue, depth 128 (R18). -/
  cplq      : CQ Cpl := ⟨[], 128⟩
  /-- Completions of rejected commands waiting for the completion queue; they carry no ASN (R304). -/
  answers   : List Cpl := []
  /-- Indication queue, depth 512 (R18). -/
  indq      : CQ Ind := ⟨[], 512⟩
  /-- Indications sent in the cycle that the hub has not reported as written (R27). -/
  sentInds  : List Ind := []
  /-- Program indications of the previous cycle that were not written, as the program is told (R27). -/
  unwritten : List Ind := []
  /-- Completion and indication records sent in the cycle (R26, R27). -/
  cplSent   : Nat := 0
  indSent   : Nat := 0
  /-- MRAM write queue, depth 64 (R18). -/
  mramq     : CQ MWrite := ⟨[], 64⟩
  /-- Bursts of the lane's own journal groups that it has not sent yet, for want of a credit (R17, R45). -/
  jWait     : List MWrite := []
  /-- Bulk inbound queue, depth 64 (R18). -/
  bulkIn    : CQ BulkSeg := ⟨[], 64⟩
  /-- Bytes of its front segment that the lane has taken, and bytes taken in the cycle, at most 8 KiB (R318, R383). -/
  bulkOff   : Nat := 0
  bulkCyc   : Nat := 0
  /-- Injection segments taken whole and not agreed yet (R383). -/
  injSegs   : List BulkSeg := []
  /-- Batten receive buffer: E frames, the newest replaces the oldest, depth 2 (R18). -/
  rxBuf     : List EFrame := []
  /-- Batten transmit buffer: L frames, depth 2 (R18). -/
  txBuf     : List (List Byte) := []
  /-- SEQ of the lane's last L frame (R271). -/
  txSeq     : Byte := 0
  /-- Next configuration page the lane sends (R276). -/
  cfgPage   : Nat := 0
  /-- CFG_CYCLE the lane sends, with the CRC of the section it goes with (R276, R279). -/
  cfgCycle  : DWord := 0
  cfgSent   : Option Word := none
  /-- L frames sent since the last common instant; MARK is the frame at Ck - 100 us (R275). -/
  txCount   : Nat := 0
  /-- SEQ of the last valid E frame; none after a timeout (R273). -/
  rxSeq     : Option Byte := none
  /-- The Ck sample of the cycle: the first valid E frame that carries CYCLE k (R249). -/
  eFrame    : Option EFrame := none
  /-- Output status codes OUT1 to OUT32 that the lane goes on with in the cycle: those of its own Ck sample (R249, R251). -/
  oStat     : List Nat := []
  /-- Its bytes as received (R337 INPUTS). -/
  eRaw      : List Byte := []
  /-- Edge offsets of IN1 to IN64 that the E frames of this cycle have carried, and those of the last cycle (R369). -/
  edgeBuf   : List Half := List.replicate 64 0xFFFF
  edgePrev  : List Half := List.replicate 64 0xFFFF
  /-- The lane has no valid Eaves frame for 500 us, or is reported silent (R96). -/
  battenMiss : Bool := false
  /-- The lane has missed its fabric deadline in the cycle (R96). -/
  fabricMiss : Bool := false
  /-- Supervisor times of the lane's exclusions within 24 h (R98). -/
  excl      : List DWord := []
  /-- Adopted decisions since the last report (R85). -/
  adopted   : Nat := 0
  /-- Plane faults and conflicts by the lane's own decisions since the last report, of the nodes that have any (R201). -/
  planeCnt  : List PlaneCount := []
  /-- Failed copy attempts of the rejoin (R105). -/
  copyFails : Nat := 0
  /-- Failed fetches of the active yealm before the rejoin (R105). -/
  fetchFails : Nat := 0
  /-- Matching shadow cycles of the rejoin (R106). -/
  shadowOk  : Nat := 0
  /-- The lane is ready to rejoin: re-initialised, pass and injection done (R98, R104). -/
  rejoinRdy : Bool := false
  /-- The rejoin in progress is one of rotation (R107, R108). -/
  rotJoin   : Bool := false
  /-- The copy of the rejoin has been verified (R105). -/
  copied    : Bool := false
  /-- Mapped region built at an exchange, swapped in at C(X) (R181). -/
  mapped    : Option Mem := none
  /-- The lane's cycle timer: offset from the strobe in ns after alignment (R365). -/
  timerNs   : Int := 0
  /-- Ticks of the lane's own crystal, of 40 ns, that it has counted between the strobes of the running window (R354, R364). -/
  ticks     : Nat := 0
  /-- Strobes ignored for alignment, counted in the window of R364 (R365). -/
  badStrobe : Nat := 0
  /-- The lane's own reading of the key contacts (R30). -/
  key       : BitVec 6 := 0
  /-- The lane's own reading of SW1 to SW24 and PAIR_POS (R385). -/
  sw        : BitVec 25 := 0
  /-- The lane's own reading of the field supply group status (R30, R84). -/
  sup       : BitVec 2 := 0
  /-- The lane reported its reading at the last sample (R386). -/
  live      : Bool := false
  /-- Consecutive cycles in which the lane's reading differed from the agreed one (R386). -/
  swDiff    : Nat := 0
  /-- SWITCH_SENSE stands for the lane (R461). -/
  sense     : Bool := false
  /-- The snapshot the lane writes: start cycle and slot (R169). -/
  snapRun   : Option (DWord × Plane) := none
  /-- Cycle of the lane's newest group that is written (R45, R334 ACK). -/
  written   : DWord := 0
  /-- A journal delta of the lane is unwritten at Ck (R45). -/
  late      : Bool := false
  /-- Alarm records waiting for the black box (R416). -/
  bbWait    : List GRec := []
  /-- How many of them the lane has put into its MRAM write queue in this cycle (R416). -/
  bbCount   : Nat := 0
  /-- The lane's self-test. -/
  bist      : LaneBist := {}
  /-- The lane's MRAM bank (R162). -/
  mram      : Mram := Mram.blank
  deriving DecidableEq, Repr

/-- The agreed input image of the cycle: equal in every lane by R84 to R86, so it is held once. -/
structure Agreed where
  /-- Node images per ring in position order (R203, R206). -/
  nodes   : Quad (List NodeImg) := ⟨[], [], [], []⟩
  /-- Eaves inputs IN1 to IN64 (R250). -/
  eIn     : List EavesVal := []
  /-- Pairs whose agreed value has been OFF in the image of a completed cycle since they became unproven, and the pairs OFF
  in the image of this cycle (R246), pair i in bit i. -/
  pairOff : Nat := 0
  pairOffNow : Nat := 0
  /-- EAVES_LOST has been raised for the present loss (R251). -/
  eavesLost : Bool := false
  /-- The reporting lane took a valid E frame in the cycle (R249, R251). -/
  eavesOk : Bool := false
  /-- ESTAT and SUPPLY of its frame, for the copies that the host reads (R272, R461). -/
  estat   : Word := 0
  supply  : Two Nat := ⟨0, 0⟩
  /-- The used sections of the cycle: ring, kind, position, decision, bytes (R337 INPUTS). -/
  used    : List (Nat × Nat × Nat × Nat × List Byte) := []
  /-- Injected input values (R383). -/
  inj     : List Injection := []
  /-- The last 100 increments of station time [us] (R361). -/
  incs    : List Nat := []
  /-- Consecutive failed station time offers (R362). -/
  badOffers : Nat := 0
  /-- Commands presented to the command task in the cycle, in ASN order (R55). -/
  shown   : List DWord := []
  /-- Commands due for presentation in the cycle, in ASN order (R41, R71). -/
  toShow  : List DWord := []
  /-- Next ASN at the last restart or takeover: what is due of the commands below it is written before anything new (R320, R321). -/
  oldAsn  : Nat := 0
  /-- ASNs confirmed in the cycle, for their ACCEPT records (R168). -/
  accepted : List DWord := []
  /-- Consecutive cycles in which the same CMDQ position failed to belong, and that position (R304). -/
  notBelong : Nat := 0
  notBelongPos : Word := 0
  /-- JOURNAL_STALL: no new descriptors until the command is confirmed (R308). -/
  stalled : Bool := false
  /-- The ASNs whose confirmation is awaited and for how many cycles the oldest has waited (R308). -/
  waited  : Nat := 0
  deriving DecidableEq, Repr

end Sys2Proof.Machine
end

