-- ==== Sys2Proof/Machine/State.lean ====
section
/-! DEFINITION. The state of the module, its faults and refusals, and the machine right after reset. -/

namespace Sys2Proof.Machine

/-- The RST_N button as the Underlay senses it (R376). -/
inductive Button where
  /-- Released and armed. -/
  | armed
  /-- Pressed, its length being measured. -/
  | pressed
  /-- Held beyond 5 s and ignored. -/
  | stuck
  /-- Already pressed when BOOT began, and ignored. -/
  | atPowerOn
  deriving DecidableEq, Repr

/-- What an orderly stop in cycle j leads to (R376, R377, R391). -/
inductive Orderly where
  | reset | shutdown
  deriving DecidableEq, Repr

/-- The Underlay (R10). -/
structure Underlay where
  /-- Hold-up bus voltage [0.1 V] (R372, R461 SUPSTAT). -/
  bus      : Nat := 0
  /-- SUPPLY_WARN (R372). -/
  warn     : Bool := false
  /-- Cycle in which the present dip began (R374). -/
  dipCycle : Option DWord := none
  /-- Ride-through records to be journaled in the next completed cycle: cycle, duration, lowest bus (R374). -/
  dips     : List (DWord × Nat × Nat) := []
  /-- The dies are held in reset (R375). -/
  diesHeld : Bool := true
  /-- The hub alone is held in reset (R479). -/
  hubHeld  : Bool := false
  /-- The reserve store keeps supervisor time (R172, R366). -/
  reserve  : Bool := true
  /-- Supervisor time and cycle of the last common instant (R172). -/
  lastCk   : Option (DWord × DWord) := none
  button   : Button := .armed
  /-- RST_N is pressed now, after debounce (R461). -/
  pressed  : Bool := false
  /-- An orderly reset or shutdown waits for the end of its cycle (R377, R392). -/
  orderly  : Option Orderly := none
  /-- The cycle j of an orderly reset or shutdown has ended: no cycle j+1 is run (R377). -/
  stopAt   : Bool := false
  /-- The hub watchdog has expired (R15). -/
  wdog     : Bool := false
  /-- The lease timer runs: 40 ms from the last RENEW released (R330, R331). -/
  leaseRun : Bool := false
  /-- The lease class is inhibited (R331). -/
  leaseInh : Bool := false
  /-- The HEALTHY contact is closed (R9, R477). -/
  healthy  : Bool := false
  /-- Shelf counter [min]; none when unknown (R409). -/
  shelf    : Option Nat := some 0
  /-- The internal primary cell can keep the shelf counter (R409). -/
  cellOk   : Bool := true
  /-- BOOTSTAT.NBOOT, class U (R447, R456). -/
  nboot    : Nat := 0
  /-- BOOTOPT, class B: SPLIT, LOAD, ACTIVATE (R456). -/
  optSplit : Bool := false
  optLoad  : Bool := false
  optActivate : Bool := false
  /-- TIMECFG, class U: SRC, DOMAIN, UTC_OFS (R458). -/
  timecfg  : Word := 0x00250000
  /-- MPIP, MPMASK, MPGW, LOGDST, LOGCFG, class U (R460). -/
  mpip     : Word := 0
  mpmask   : Word := 0xFFFFFF00
  mpgw     : Word := 0
  logdst   : Word := 0
  logcfg   : Word := 0x02020000
  deriving DecidableEq, Repr

/-- Where bring-up stands (R388). -/
structure BootSt where
  /-- Dies out of reset and repair maps loaded (R388, R401). -/
  diesOut  : Bool := false
  /-- Shadow banks were activated at this boot, so the restart is cold (R163, R457). -/
  activated : Bool := false
  /-- The start-up path has been chosen; the record path was taken (R411). -/
  checked  : Bool := false
  recPath  : Bool := false
  /-- The active yealm is agreed under R163. -/
  agreed   : Bool := false
  /-- NO_IMAGE stands (R389). -/
  noImage  : Bool := false
  /-- BOOT is held by SW21 to SW24 (R385). -/
  swBad    : Bool := false
  /-- Hub failure beyond repair keeps the module in BOOT (R399). -/
  hubBad   : Bool := false
  /-- The split state was set at this boot (R116). -/
  split    : Bool := false
  /-- Ring start on every listed ring has ended (R387). -/
  ringsUp  : Bool := false
  /-- The restart has been decided: warm (true) or cold (false) (R171). -/
  decided  : Option Bool := none
  /-- Boot shadow cycles: instant b (R390). -/
  b        : Option DWord := none
  /-- Lanes that matched in every boot shadow cycle so far (R390). -/
  matched  : Quad Bool := Quad.fill false
  /-- LANES_INSUFFICIENT has been raised for the present lack (R111). -/
  insuff   : Bool := false
  /-- The boot shadow cycles have begun once since the restart was decided (R390). -/
  started  : Bool := false
  /-- The lease was claimed without contact by a module whose newest CLOSE it did not write as the holder: cold (R353). -/
  coldClaim : Bool := false
  /-- Lanes whose region comes from recovery or initialisation (R390). -/
  recov    : Quad Bool := Quad.fill false
  /-- The recovery point L and the roster word recovered with it (R173, R390). -/
  lrec     : DWord := 0
  rost     : Word := 0
  deriving DecidableEq, Repr

/-- The exchange of the station image (R180 to R183), beside EXCH_X and EXCH_ASN in the region. -/
inductive Exchange where
  | idle
  /-- Checks 1 and 2 have passed at the vote of X - 1; the copy runs (R181). -/
  | copying
  /-- The mapped region is built: swap at C(X) (R181). -/
  | ready
  /-- Check 3 has failed: the old yealm is being reloaded (R181). -/
  | reloading
  deriving DecidableEq, Repr

/-- The module as a whole (R8). -/
structure ModSt where
  /-- The module state (R8). -/
  st       : ModState := .off
  boot     : BootSt := {}
  /-- CRC-64 of the agreed active yealm (R163). -/
  ycrc     : DWord := 0
  exch     : Exchange := .idle
  /-- The exchange swapped in at this cycle's Ck: its command ends at the commit (R181). -/
  exchDone : Bool := false
  /-- A snapshot starts at the commit of the next completed cycle: first after a cold restart (R176), exchange (R181), orderly
  shutdown (R392). -/
  snapDue  : Bool := false
  /-- A SHUTDOWN has ended DONE at the last commit: the cycle that opens next is the j of its orderly shutdown (R391, R392). -/
  shutReq  : Bool := false
  /-- The orderly shutdown's BIST pass runs (R392). -/
  shutPass : Bool := false
  /-- The shutdown pass was run from SPLIT: the records are VOID (R119). -/
  shutSplit : Bool := false
  /-- SHUTDOWN_DONE has been raised (R392). -/
  shutDone : Bool := false
  /-- Backed off or withdrawing: STANDBY at the next common instant (R346, R347). -/
  leave    : Bool := false
  /-- The claim takes effect at the next common instant (R344). -/
  claim    : Bool := false
  deriving DecidableEq, Repr

/-- Key switch and sealed switches (R379 to R386). -/
structure Ctl where
  /-- The agreed key pattern, and whether it passed agreement (R84, R461). -/
  contacts : BitVec 6 := 0
  agreed   : Bool := false
  /-- Samples in a row whose agreed pattern shows what this one shows: one position, all open, or neither (R379). -/
  keyRun   : Nat := 0
  /-- The position taken and in force; none until one has been taken (R379). -/
  pos      : Option KeyPos := none
  /-- A position taken that takes effect at the next common instant (R379). -/
  next     : Option KeyPos := none
  /-- The last valid position taken: commands follow it while the position is invalid (R380). -/
  lastValid : Option KeyPos := none
  /-- Agreed field supply group status (R84). -/
  sup      : BitVec 2 := 0
  /-- Agreed switches SW1 to SW24 and PAIR_POS; whether two lanes agreed (R385, R461). -/
  sw       : BitVec 25 := 0
  swValid  : Bool := false
  /-- The switches as read at boot: SW19, SW20 and PAIR_POS act on these (R385). -/
  swBoot   : BitVec 25 := 0
  /-- The agreed reading for which SEAL_CHANGE was last raised (R385). -/
  swSeen   : BitVec 25 := 0
  deriving DecidableEq, Repr

/-- The vital cycle and the vote (R29 to R76, R81 to R109). -/
structure CycleSt where
  /-- Cycle number k of the cycle begun at the last common instant (R31). -/
  k        : DWord := 0
  /-- A vital cycle has been opened and is neither completed nor missed. -/
  opened   : Bool := false
  /-- Input close, input agreement, vote start, vote end of the cycle have passed (R35). -/
  closed   : Bool := false
  agreedIn : Bool := false
  voting   : Bool := false
  voted    : Bool := false
  /-- The cycle is missed (R67). -/
  missed   : Bool := false
  /-- The cycle cannot be voted: the old yealm's reload had not ended at input agreement (R181). -/
  barred   : Bool := false
  /-- Consecutive-miss count n (R72). -/
  misses   : Nat := 0
  /-- Cycles completed since the last cold restart or power-on, and since the last join (R90, R101). -/
  done     : Nat := 0
  sinceJoin : Nat := 0
  /-- Rotation is due (R101). -/
  rotDue   : Bool := false
  /-- MODE and NEXT_REST of the roster word (R82). -/
  mode     : VoteMode := .none
  nextRest : Lane := .A
  /-- The roster word in force since the last common instant, and the one the lanes propose for the next (R82, R92). -/
  roster   : Word := 0
  proposed : Word := 0
  /-- Lanes whose exclusion at the next common instant is decided, with the cause (R96). -/
  toExcl   : Quad (Option ExclCause) := Quad.fill none
  /-- STOP flits received in the cycle (R96). -/
  stops    : Quad Bool := Quad.fill false
  /-- SAFE STOP takes effect at the next common instant (R95). -/
  stopNext : Bool := false
  /-- Vital tasks released in the cycle, and tasks abandoned in the last (R50). -/
  released : List Nat := []
  abandoned : List Nat := []
  /-- Ballots that have arrived by the Purlin fabric (R93). -/
  ballots  : Quad (Option Ballot) := Quad.fill none
  /-- Majority digest and voted image of the last completed cycle (R105, R337). -/
  majDigest : DWord := 0
  outCrc   : Word := 0
  summary  : DWord := 0
  /-- Objects in an unbroken run of shared discrepancies (R138). -/
  discRun  : List Nat := []
  /-- The cycle in which the retained-state copy takes place (R104). -/
  copyNow  : Bool := false
  /-- The lane that rejoins (R98). -/
  rejoiner : Option Lane := none
  /-- Joins at the next common instant (R99). -/
  joinNext : Bool := false
  /-- The S-frame of the cycle has been launched; the set-queue push has been made (R35). -/
  sent     : Bool := false
  pushed   : Bool := false
  /-- Cycle number and epoch stamped into the last S-frame launched (R200). -/
  sCyc     : DWord := 0
  sEpoch   : Word := 0
  /-- Lanes healthy at the last instant, for LANES_3 and LANES_2 (R109). -/
  healthy  : Nat := 0
  /-- Diagnostic task: a run is under way; the limit of the cycle has passed (R47, R62). -/
  diagRun  : Bool := false
  diagLim  : Bool := false
  /-- A copy of an exchange or of a rejoin keeps the diagnostic task from running in the cycle (R46, R181). -/
  noDiag   : Bool := false
  /-- Cycles since the strobe window opened (R364). -/
  window   : Nat := 0
  /-- A cycle gathered in INDICATE is the present one (R390). -/
  gather   : Bool := false
  /-- Inputs of the present cycle come from the mirror (R20). -/
  mirrored : Bool := false
  deriving DecidableEq, Repr

/-- The hub's self-test, the hub's repair map as loaded, its spares (R395, R400, R401). -/
structure HubBist where
  pass     : Option BistPass := none
  slice    : Nat := 0
  running  : Bool := false
  passOk   : Bool := false
  ents     : List RepEnt := []
  /-- Hub SRAM scrubs made, and uncorrectable words found (R398). -/
  scrubs   : Nat := 0
  scrubBad : Nat := 0
  deriving DecidableEq, Repr

/-- The whole module, with the queue of commands that wait. -/
structure State where
  /-- Commands that wait, first in, first out. -/
  pending : List Instr := []
  time    : TimeSt := {}
  ul      : Underlay := {}
  mod     : ModSt := {}
  ctl     : Ctl := {}
  cyc     : CycleSt := {}
  lanes   : Quad LaneSt := Quad.fill {}
  agr     : Agreed := {}
  rings   : RingHub := {}
  eaves   : EavesSt := {}
  host    : HostPort := {}
  peer    : PeerSt := {}
  gut     : Gutter := {}
  hub     : HubBist := {}
  deriving DecidableEq, Repr

/-- Why the machine stops with a fault: no command of this block does, so nobody raises it; it is safe. -/
inductive Fault where
  /-- Raised by no command: the spec gives every command of the table an effect. -/
  | none_
  deriving DecidableEq, Repr

/-- Why a command has no meaning. -/
inductive Refusal where
  /-- The command's row is not modelled; raised by exec alone, safe. -/
  | notModelled (mnemonic : String)
  deriving DecidableEq, Repr

/-- The module right after its reset at power-on: the start condition of R372 has been met and BOOT begins (R387), every
register of every class at its reset value (R285, R286, R447 to R461), no station image, nothing received, an empty
queue. The bus stands at the start threshold (R372; log entry 1). -/
def State.reset : State :=
  { mod := { st := .boot }, ul := { bus := 190, diesHeld := false } }

end Sys2Proof.Machine
end

