-- ==== Sys2Proof/Machine/Ops.lean ====
section
/-! DEFINITION. The named operations over memory, over queues under credit control (R17) and over the lanes as a set
(R25, R83). -/

namespace Sys2Proof.Machine

/-! ## Byte memory: a list of (address, byte) in canonical form -/

/-- The byte at an address; an unlisted address reads 0 (DESIGN CHOICE, log entry 2). -/
def memByte : Mem → Nat → Byte
  | [], _ => 0
  | (x, b) :: r, a => if x = a then b else memByte r a

/-- Store one byte, keeping the canonical form: a 0 removes the entry. -/
def memPut : Mem → Nat → Byte → Mem
  | [], a, b => if b = 0 then [] else [(a, b)]
  | (x, c) :: r, a, b =>
    if a < x then (if b = 0 then (x, c) :: r else (a, b) :: (x, c) :: r)
    else if a = x then (if b = 0 then r else (a, b) :: r)
    else (x, c) :: memPut r a b

/-- n bytes from an address. -/
def memRead : Mem → Nat → Nat → List Byte
  | _, _, 0 => []
  | m, a, n + 1 => memByte m a :: memRead m (a + 1) n

/-- Store bytes from an address. -/
def memWrite : Mem → Nat → List Byte → Mem
  | m, _, [] => m
  | m, a, b :: bs => memWrite (memPut m a b) (a + 1) bs

/-- Every byte of n from an address becomes 0. -/
def memClear (m : Mem) (a n : Nat) : Mem := m.filter fun c => c.1 < a || a + n ≤ c.1

/-- The canonical form: addresses strictly rising, no entry equal to what an unlisted address reads as. -/
def memWf : Mem → Bool
  | [] => true
  | [(_, b)] => b != 0
  | (x, b) :: (y, c) :: r => b != 0 && (x < y && memWf ((y, c) :: r))

/-- The bytes as a memory from address 0. -/
def memOf (l : List Byte) : Mem := memWrite [] 0 l

/-- A little-endian number in memory. -/
def memNat (m : Mem) (a n : Nat) : Nat := leNat (memRead m a n)

/-- Store a little-endian number of n bytes. -/
def memSetNat (m : Mem) (a n v : Nat) : Mem := memWrite m a (leBytes n v)

/-- The 64-bit word with number w of a region (R88). -/
def memWord (m : Mem) (w : Nat) : DWord := BitVec.ofNat 64 (memNat m (8 * w) 8)

/-- Numbers of the 64-bit words in which something but 0 stands. -/
def memWords (m : Mem) : List Nat := dedupSorted (m.map fun c => c.1 / 8)

/-- The 64-bit words in which two regions differ, with their offset and the value of the second (R168 DELTA). -/
def memDelta (old new : Mem) : List (Nat × DWord) :=
  ((unionSorted (memWords old) (memWords new)).filter fun w => memWord old w != memWord new w).map
    fun w => (8 * w, memWord new w)

/-- Apply the absolute values of a DELTA record (R168). -/
def memApply (m : Mem) (d : List (Nat × DWord)) : Mem :=
  d.foldl (fun m x => memWrite m x.1 (leBytes 8 x.2.toNat)) m

/-! ## Queues under credit control (R17, R18) -/

variable {α : Type}

/-- Send one item: only while a credit is held, and one credit per item (R17). -/
def CQ.send (q : CQ α) (x : α) : CQ α :=
  if q.credits = 0 then q else { items := q.items ++ [x], credits := q.credits - 1 }

/-- Send as many of the items as credits allow; answers the queue and what still waits. -/
def CQ.sendAll (q : CQ α) (xs : List α) : CQ α × List α :=
  ({ items := q.items ++ xs.take q.credits, credits := q.credits - (xs.take q.credits).length }, xs.drop q.credits)

/-- The consumer frees the front slot and returns its credit (R17). -/
def CQ.free (q : CQ α) : CQ α :=
  match q.items with
  | [] => q
  | _ :: r => { items := r, credits := q.credits + 1 }

/-- The consumer frees the first slot that holds such an item, if one does. -/
def CQ.freeWhere (q : CQ α) (p : α → Bool) : CQ α :=
  match q.items.find? p with
  | none => q
  | some _ => { items := q.items.eraseP p, credits := q.credits + 1 }

/-- The consumer takes every item and returns the credits. -/
def CQ.drain (q : CQ α) : CQ α := { items := [], credits := q.credits + q.items.length }

/-- The boundary rule: items discarded, all credits (R21). -/
def CQ.boundary (q : CQ α) (depth : Nat) : Nat × CQ α := (q.items.length, { items := [], credits := depth })

/-! ## Lanes -/

/-- Lanes whose state has a property, in the order A to D. -/
def lanesWith (q : Quad LaneSt) (p : LaneSt → Bool) : List Lane := Lane.all.filter fun l => p (q.get l)

/-- Lanes with a role, in the order A to D. -/
def lanesIn (q : Quad LaneSt) (r : Role) : List Lane := lanesWith q fun x => x.role == r

/-- The lanes that vote. -/
def voting (s : State) : List Lane := lanesIn s.lanes .voting

/-- CRC-64 of the yealm in a lane's active bank (R163), if it was read there. -/
def activeImage (m : Mram) : Option Yealm :=
  if m.bank0.state == .active then m.bank0.img else if m.bank1.state == .active then m.bank1.img else none

/-- The shadow bank: bank 1 while bank 0 is ACTIVE, else bank 0 while bank 1 is; with none ACTIVE, bank 0 (R163). -/
def shadowIsOne (m : Mram) : Bool := m.bank0.state == .active

/-- The shadow bank's contents. -/
def shadowBank (m : Mram) : Bank := if shadowIsOne m then m.bank1 else m.bank0

/-- Replace the shadow bank. -/
def setShadow (m : Mram) (b : Bank) : Mram := if shadowIsOne m then { m with bank1 := b } else { m with bank0 := b }

/-- The active bank's contents, if a bank is ACTIVE. -/
def activeBank (m : Mram) : Option Bank :=
  if m.bank0.state == .active then some m.bank0 else if m.bank1.state == .active then some m.bank1 else none

/-- Is the lane ready in the sense of R25? Once the active yealm is agreed it must hold it in its active bank. -/
def readyLane (s : State) (l : Lane) : Bool :=
  let x := s.lanes.get l
  x.role != .retired && x.role != .excluded && x.role != .halted && x.checked &&
    (!s.mod.boot.agreed || (match activeImage x.mram with | some y => y.crc64 == s.mod.ycrc | none => false))

/-- The ready lanes. -/
def readyLanes (s : State) : List Lane := Lane.all.filter (readyLane s)

/-- The lanes that count for agreement and forwarding: those that vote, or the ready lanes while none votes (R25). -/
def counted (s : State) : List Lane := if (voting s).isEmpty then readyLanes s else voting s

/-- The value that at least two of the reports hold while no different value is held by as many (R25). -/
def agree2 [DecidableEq α] (xs : List α) : Option α :=
  match xs.find? (fun x => 2 ≤ xs.count x) with
  | none => none
  | some x => if xs.all (fun y => y = x || xs.count y < xs.count x) then some x else none

/-- Is the lane healthy (R83)? -/
def Role.healthy : Role → Bool
  | .voting | .resting | .copy | .shadow => true
  | .off | .excluded | .halted | .retired => false

/-- Number of healthy lanes (R109). -/
def healthyCount (s : State) : Nat := (lanesWith s.lanes fun x => x.role.healthy).length

/-- The reporting lane: the lowest-lettered voting lane (R415); while none votes the lowest lane that runs shadow cycles, else the
lowest ready lane, else A. -/
def refLane (s : State) : Lane := (voting s ++ lanesIn s.lanes .shadow ++ readyLanes s).headD .A

/-- The lane whose copy of what all lanes hold alike is read. -/
def lead (s : State) : LaneSt := s.lanes.get (refLane s)

/-- The lanes that run the cycle: they vote, or compute shadow cycles (R104). -/
def working (s : State) : List Lane := lanesWith s.lanes fun x => x.role == .voting || x.role == .shadow

/-- Change the lanes of a list. -/
def onLanes (s : State) (ls : List Lane) (f : Lane → LaneSt → LaneSt) : State :=
  { s with lanes := s.lanes.mapL fun l x => if ls.contains l then f l x else x }

/-- Change one lane. -/
def onLane (s : State) (l : Lane) (f : LaneSt → LaneSt) : State := { s with lanes := s.lanes.modify l f }

/-- The lanes as bits, A in bit 0 (R413). -/
def laneMask (ls : List Lane) : BitVec 4 := BitVec.ofNat 4 (sumOf (ls.map fun l => 2 ^ l.num))

/-- The active yealm as the working lanes hold it. -/
def theYealm (s : State) : Option Yealm := (lead s).yealm

/-- The vital period in ms: that of the active yealm, 10 ms while there is none (R33; log entry 4). -/
def periodMs (s : State) : Nat := match theYealm s with | some y => y.periodMs | none => 10

/-- Cycles in 1 s (R169, R317). -/
def cyclesPerS (s : State) : Nat := 1000 / periodMs s

/-- Cycles in 100 ms (R61, R390). -/
def cyclesPer100 (s : State) : Nat := 100 / periodMs s

end Sys2Proof.Machine
end

