-- ==== Sys2Proof/Machine/Flags.lean ====
section
/-! DEFINITION. The words the manual packs roles, modes, states and times into: the roster word (R82), HPSTAT (R286), the
status registers (R461), station time (R356). -/

namespace Sys2Proof.Machine

/-- Role codes of R81. -/
def Role.code : Role → Nat
  | .off => 0 | .voting => 1 | .resting => 2 | .copy => 3 | .shadow => 4 | .excluded => 5 | .halted => 6 | .retired => 7

/-- The role of a code. -/
def Role.ofCode (n : Nat) : Role :=
  match n % 8 with
  | 0 => .off | 1 => .voting | 2 => .resting | 3 => .copy | 4 => .shadow | 5 => .excluded | 6 => .halted | _ => .retired

/-- MODE codes of R82. -/
def VoteMode.code : VoteMode → Nat
  | .none => 0 | .tooThree => 1 | .tooThreeNoRot => 2 | .twoTwo => 3

/-- The mode of a code. -/
def VoteMode.ofCode (n : Nat) : VoteMode :=
  match n % 4 with
  | 0 => .none | 1 => .tooThree | 2 => .tooThreeNoRot | _ => .twoTwo

/-- The roster word of four roles, MODE and NEXT_REST (R82). -/
def rosterWord (roles : Quad Role) (m : VoteMode) (next : Lane) : Word :=
  BitVec.ofNat 32 (roles.a.code + 2 ^ 4 * roles.b.code + 2 ^ 8 * roles.c.code + 2 ^ 12 * roles.d.code
    + 2 ^ 16 * m.code + 2 ^ 18 * next.num)

/-- The roster word in force: it changes only at a common instant (R82). -/
def roster (s : State) : Word := s.cyc.roster

/-- The role a roster word gives a lane. -/
def rosterRole (w : Word) (l : Lane) : Role := Role.ofCode (w.toNat / 2 ^ (4 * l.num))

/-- HPSTAT.STATE (R286); OFF has no code and cannot be read. -/
def ModState.code : ModState → Nat
  | .off => 0 | .boot => 1 | .indicate => 2 | .vitalRestricted => 3 | .vital => 4 | .hold => 5 | .safeStop => 6
  | .standby => 7 | .split => 8

/-- Is the module in a state that runs the vital cycle with outputs as voted (R8)? -/
def ModState.runs : ModState → Bool
  | .vital | .vitalRestricted | .hold => true
  | .off | .boot | .indicate | .safeStop | .standby | .split => false

/-- The module is active and takes commands (R286 ACTIVE, R305). -/
def isActive (s : State) : Bool := s.mod.st.runs

/-- HEALTHY is closed only in VITAL and VITAL-RESTRICTED (R9). -/
def healthyState (m : ModState) : Bool := m == .vital || m == .vitalRestricted

/-- Key position codes of R461 and R319. -/
def KeyPos.code : KeyPos → Nat
  | .run => 0 | .maint => 1 | .test => 2 | .invalid => 3

/-- KEYSTAT.POS: 0b11 until a position has been taken (R379). -/
def keyCode (s : State) : Nat := match s.ctl.pos with | some p => p.code | none => 3

/-- The position whose rows of R380 commands follow: the last valid one while the position is invalid. -/
def keyForCommands (s : State) : Option KeyPos :=
  match s.ctl.pos with
  | some .invalid => s.ctl.lastValid
  | p => p

/-- The key is in MAINT or TEST, or was when it became invalid. -/
def keyMaintOrTest (s : State) : Bool := keyForCommands s == some .maint || keyForCommands s == some .test

/-- The key is in TEST: outputs are forced safe (R382). -/
def inTest (s : State) : Bool := s.ctl.pos == some .test

/-- Agreed reading of switch SWn, n from 1 (R385, R461). -/
def swOn (s : State) (n : Nat) : Bool := s.ctl.sw.toNat.testBit (n - 1)

/-- The reading of SWn taken at boot (R385). -/
def swBootOn (s : State) (n : Nat) : Bool := s.ctl.swBoot.toNat.testBit (n - 1)

/-- The module is one of a pair: SW20 on at boot (R322, R385). -/
def isPair (s : State) : Bool := swBootOn s 20

/-- PAIR_POS at boot: B when set (R322, R461). -/
def pairPosB (s : State) : Bool := swBootOn s 25

/-! ## Station time (R356) -/

/-- Bits [63:62]. -/
def TimeState.code : TimeState → Nat
  | .unset => 0 | .locked => 1 | .holdover => 2

/-- Station time as 64 bits. -/
def stimeWord (st : TimeState) (us : Nat) : DWord := BitVec.ofNat 64 (st.code * 2 ^ 62 + us % 2 ^ 62)

/-- The state in a station time word; 0b11 is reserved and reads as UNSET. -/
def stimeState (w : DWord) : TimeState :=
  match w.toNat / 2 ^ 62 with
  | 1 => .locked | 2 => .holdover | _ => .unset

/-- The count in a station time word. -/
def stimeUs (w : DWord) : Nat := w.toNat % 2 ^ 62

/-! ## Record codes (R421) -/

/-- Traces of the catalogue: TRACE_LOSS and STANDBY_HEALTH. -/
def codeIsTrace (c : Nat) : Bool := c == 0x0185 || c == 0x0882

/-- Alarms take the codes base + 0x01 onward, events and traces base + 0x81 onward. -/
def codeCls (c : Nat) : Nat := if codeIsTrace c then 2 else if c % 256 < 0x81 then 0 else 1

/-- Loss records (R413). -/
def codeIsLoss (c : Nat) : Bool := c == 0x0184 || c == 0x0185 || c == 0x0186

/-- Alarms marked (C). -/
def codeCritical (c : Nat) : Bool :=
  [0x0103, 0x0105, 0x0209, 0x0804, 0x0902, 0x0903, 0x0B03].contains c

/-- Alarms marked (W). -/
def codeWarning (c : Nat) : Bool := [0x0A05, 0x0B02, 0x0B04].contains c

/-- SEV of a code: 2 for (C), 4 for (W) and loss records, 3 for other alarms, 5 for events, 7 for traces. -/
def codeSev (c : Nat) : Nat :=
  if codeIsLoss c then 4
  else if codeCls c = 0 then (if codeCritical c then 2 else if codeWarning c then 4 else 3)
  else if codeCls c = 1 then 5 else 7

/-- The catalogue: of each range its base, its alarms and its events and traces, in the order listed (R421). -/
def catalogue : List (Nat × List String × List String) :=
  [(0x0100,
    ["BOUNDARY_SPILL", "CYCLE_MISSED", "OVERRUN_STOP", "JOURNAL_LATE", "HUB_WATCHDOG"],
    ["TASK_BUDGET", "DIAG_OVERRUN", "INDICATION_MISMATCH", "EVENT_LOSS", "TRACE_LOSS", "BLACKBOX_LOSS"]),
   (0x0200,
    ["LOCKSTEP_MISMATCH", "OUTPUT_MISMATCH", "DIGEST_MISMATCH", "TRUSS_DISCREPANCY", "BATTEN_DEADLINE", "FABRIC_DEADLINE",
     "LANES_3", "LANES_2", "LANES_LOST", "LANES_INSUFFICIENT"],
    ["INPUT_DIVERGE"]),
   (0x0300,
    ["TRUSS_REFUSAL", "TRUSS_LATE", "TRUSS_TABLE"],
    ["TRUSS_REFUSAL_END", "TRUSS_STATS"]),
   (0x0400,
    ["IMAGE_REFUSED", "JOURNAL_WRAP", "NO_IMAGE"],
    ["SNAPSHOT_LATE", "COLD_RESTART", "IMAGE_LOADED"]),
   (0x0500,
    ["RING_SFP", "PLANE_CONFLICT", "NODE_CONFIG", "NODE_REJECT", "RING_DELAY", "RING_BACKOFF", "MASTER_CONFLICT",
     "PLANE_LOST", "NODE_LOST"],
    ["PLANE_STATS", "RING_START", "RING_TOPOLOGY", "PLANE_RETURN"]),
   (0x0600,
    ["ELEMENT_SHORT", "ELEMENT_OPEN", "CHAIN_DIFF", "EAVES_LOST", "OUTPUT_FOREIGN", "OUTPUT_CROSS", "OUTPUT_TRIP",
     "FIELD_SUPPLY_CUT"],
    ["FIELD_SUPPLY_LOW"]),
   (0x0700,
    ["HOST_FETCH", "JOURNAL_STALL"],
    []),
   (0x0800,
    ["PAIR_CONFLICT", "PEER_SFP", "PEER_LINK_LOST", "LEASE_EXPIRED", "STANDBY_INCOMPLETE", "LEASE_CLAIM", "SHADOW_MISMATCH",
     "LEASE_WITHDRAW"],
    ["PEER_LINK_RETURN", "STANDBY_HEALTH"]),
   (0x0900,
    ["STATION_TIME_REJECT", "RING_TIME_FAULT", "SUPERVISOR_CLOCK"],
    ["TIME_SOURCE_LOST", "TIME_SOURCE_LOCK"]),
   (0x0A00,
    ["RESET_STUCK", "KEY_INVALID", "SEAL_CHANGE", "SWITCH_RESERVED", "SWITCH_SENSE"],
    ["SUPPLY_LOW", "RESET_AT_POWERON", "KEY_CHANGE", "SHUTDOWN_BEGIN", "SHUTDOWN_DONE", "INJECT_REFUSED"]),
   (0x0B00,
    ["BIST_FAIL", "SPARES_LOW", "LANE_RETIRED", "SHELF_CELL_LOW"],
    ["BIST_REPAIR", "BIST_RETRY", "BIST_FUSE", "MRAM_REMAP"])]

/-- The name of a code of the catalogue; alarms take the codes base + 0x01 onward, events and traces base + 0x81 onward. -/
def codeName (c : Nat) : Option String :=
  match catalogue.find? fun r => r.1 == c / 256 * 256 with
  | none => none
  | some r => if c % 256 = 0 then none else if c % 256 < 0x81 then r.2.1[c % 256 - 1]? else r.2.2[c % 256 - 0x81]?

/-- A code of the station program's own (R422). -/
def codeOfProgram (c : Nat) : Bool := 0x8000 ≤ c

end Sys2Proof.Machine
end

