-- ==== Sys2Proof/Machine/Region.lean ====
section
/-! DEFINITION. The runtime part of the retained-state region (R483), read and written through its own fields, and the
state digest over the region (R88). -/

namespace Sys2Proof.Machine

/-! ## Header (R483) -/

/-- CYCLE: cycle number of the last committed cycle. -/
def rgCycle (m : Mem) : Nat := memNat m 0x00 8
/-- ROSTER. -/
def rgRoster (m : Mem) : Word := BitVec.ofNat 32 (memNat m 0x08 4)
/-- LASTSEQ. -/
def rgLastSeq (m : Mem) : Nat := memNat m 0x0C 4
/-- NEXT_ASN. -/
def rgNextAsn (m : Mem) : Nat := memNat m 0x10 8
/-- NEXT_TERM. -/
def rgNextTerm (m : Mem) : Nat := memNat m 0x18 8
/-- STIME. -/
def rgStime (m : Mem) : DWord := BitVec.ofNat 64 (memNat m 0x20 8)
/-- PROOF. -/
def rgProof (m : Mem) : Nat := memNat m 0x28 4
/-- NCMD. -/
def rgNcmd (m : Mem) : Nat := memNat m 0x2C 2
/-- HFLAGS.SEQ_SET. -/
def rgSeqSet (m : Mem) : Bool := bitAt (memNat m 0x2E 1) 0
/-- EXCH_X. -/
def rgExchX (m : Mem) : Nat := memNat m 0x30 8
/-- EXCH_ASN. -/
def rgExchAsn (m : Mem) : Nat := memNat m 0x38 8
/-- TSET_S. -/
def rgTsetS (m : Mem) : Nat := memNat m 0x40 8
/-- TSET_NS. -/
def rgTsetNs (m : Mem) : Nat := memNat m 0x48 4
/-- TSET_ASN. -/
def rgTsetAsn (m : Mem) : Nat := memNat m 0x50 8

/-- Write CYCLE. -/
def rgSetCycle (m : Mem) (v : Nat) : Mem := memSetNat m 0x00 8 v
/-- Write ROSTER. -/
def rgSetRoster (m : Mem) (w : Word) : Mem := memSetNat m 0x08 4 w.toNat
/-- Write LASTSEQ and SEQ_SET. -/
def rgSetLastSeq (m : Mem) (v : Nat) : Mem := memSetNat (memSetNat m 0x0C 4 v) 0x2E 1 1
/-- Write NEXT_ASN. -/
def rgSetNextAsn (m : Mem) (v : Nat) : Mem := memSetNat m 0x10 8 v
/-- Write NEXT_TERM. -/
def rgSetNextTerm (m : Mem) (v : Nat) : Mem := memSetNat m 0x18 8 v
/-- Write STIME. -/
def rgSetStime (m : Mem) (w : DWord) : Mem := memSetNat m 0x20 8 w.toNat
/-- Write PROOF. -/
def rgSetProof (m : Mem) (v : Nat) : Mem := memSetNat m 0x28 4 v
/-- Write NCMD. -/
def rgSetNcmd (m : Mem) (v : Nat) : Mem := memSetNat m 0x2C 2 v
/-- Write EXCH_X and EXCH_ASN. -/
def rgSetExch (m : Mem) (x asn : Nat) : Mem := memSetNat (memSetNat m 0x30 8 x) 0x38 8 asn
/-- Write TSET_S, TSET_NS and TSET_ASN. -/
def rgSetTset (m : Mem) (sec ns asn : Nat) : Mem := memSetNat (memSetNat (memSetNat m 0x40 8 sec) 0x48 4 ns) 0x50 8 asn

/-! ## Areas (R178, R179) -/

/-- AFLAGS.LOCKED of area a. -/
def areaLocked (m : Mem) (a : Nat) : Bool := bitAt (memNat m (0x100 + 16 * a) 1) 0
/-- EXPIRY of area a. -/
def areaExpiry (m : Mem) (a : Nat) : Nat := memNat m (0x108 + 16 * a) 8
/-- The idle value of a timer (R166, R483). -/
def timerIdle : Nat := 0xFFFFFFFFFFFFFFFF
/-- Write the entry of area a. -/
def areaSet (m : Mem) (a : Nat) (locked : Bool) (expiry : Nat) : Mem :=
  memSetNat (memSetNat m (0x100 + 16 * a) 1 (ofFlag locked)) (0x108 + 16 * a) 8 expiry
/-- Is any area in restart locking? -/
def anyLocked (m : Mem) : Bool := (List.range 16).any (areaLocked m)

/-! ## Open REQUESTs (R316) -/

/-- An open REQUEST entry of R483. -/
structure ReqEnt where
  asn    : Nat
  rcyc   : Nat
  opcode : Nat
  area   : Nat
  target : Nat
  tkind  : Nat
  chal   : Nat
  deriving DecidableEq, Repr

/-- Read REQUEST entry i. -/
def reqAt (m : Mem) (i : Nat) : ReqEnt :=
  let o := 0x200 + 32 * i
  { asn := memNat m o 8, rcyc := memNat m (o + 8) 8, opcode := memNat m (o + 16) 1, area := memNat m (o + 17) 1,
    target := memNat m (o + 18) 2, tkind := memNat m (o + 20) 1, chal := memNat m (o + 22) 2 }

/-- Is REQUEST entry i OPEN? -/
def reqOpen (m : Mem) (i : Nat) : Bool := bitAt (memNat m (0x200 + 32 * i + 21) 1) 0

/-- Indices of the open REQUESTs. -/
def reqSlots (m : Mem) : List Nat := (List.range 64).filter (reqOpen m)

/-- Write REQUEST entry i, OPEN. -/
def reqPut (m : Mem) (i : Nat) (r : ReqEnt) : Mem :=
  memWrite m (0x200 + 32 * i) (leBytes 8 r.asn ++ leBytes 8 r.rcyc ++ leBytes 1 r.opcode ++ leBytes 1 r.area ++
    leBytes 2 r.target ++ leBytes 1 r.tkind ++ leBytes 1 1 ++ leBytes 2 r.chal ++ zeros 8)

/-- Close REQUEST entry i. -/
def reqClose (m : Mem) (i : Nat) : Mem := memClear m (0x200 + 32 * i) 32

/-! ## Transfers (R318) -/

/-- A transfer entry of R483. -/
structure XferEnt where
  asn    : Nat
  opcode : Nat
  xfrId  : Nat
  param  : List Byte
  doneB  : Nat
  lastc  : Nat
  deriving DecidableEq, Repr

/-- Read transfer entry i. -/
def xferAt (m : Mem) (i : Nat) : XferEnt :=
  let o := 0xA00 + 64 * i
  { asn := memNat m o 8, opcode := memNat m (o + 8) 1, xfrId := memNat m (o + 12) 4, param := memRead m (o + 16) 24,
    doneB := memNat m (o + 40) 8, lastc := memNat m (o + 48) 8 }

/-- Is transfer entry i USED? -/
def xferUsed (m : Mem) (i : Nat) : Bool := bitAt (memNat m (0xA00 + 64 * i + 9) 1) 0

/-- Indices of the running transfers. -/
def xferSlots (m : Mem) : List Nat := (List.range 16).filter (xferUsed m)

/-- Write transfer entry i, USED. -/
def xferPut (m : Mem) (i : Nat) (x : XferEnt) : Mem :=
  memWrite m (0xA00 + 64 * i) (leBytes 8 x.asn ++ leBytes 1 x.opcode ++ leBytes 1 1 ++ zeros 2 ++ leBytes 4 x.xfrId ++
    (x.param ++ zeros 24).take 24 ++ leBytes 8 x.doneB ++ leBytes 8 x.lastc ++ zeros 8)

/-- Free transfer entry i. -/
def xferFree (m : Mem) (i : Nat) : Mem := memClear m (0xA00 + 64 * i) 64

/-! ## Command table -/

/-- A command table entry of R483, STAGE as its six flags. -/
structure CmdEnt where
  asn     : Nat
  htag    : Nat
  xcyc    : Nat
  seq     : Nat
  acyc    : Nat
  tcyc    : Nat
  data    : Nat
  target  : Nat
  opcode  : Nat
  step    : Nat
  area    : Nat
  confirmed : Bool
  accDel  : Bool
  presented : Bool
  terminal : Bool
  termDue : Bool
  status  : Nat
  reason  : Nat
  param   : List Byte
  deriving DecidableEq, Repr

/-- Offset of command table entry i. -/
def cmdOff (i : Nat) : Nat := 0x2000 + 56 * i

/-- Read command table entry i. -/
def cmdAt (m : Mem) (i : Nat) : CmdEnt :=
  let o := cmdOff i
  let st := memNat m (o + 45) 1
  { asn := memNat m o 8, htag := memNat m (o + 8) 8, xcyc := memNat m (o + 16) 8, seq := memNat m (o + 24) 4,
    acyc := memNat m (o + 28) 4, tcyc := memNat m (o + 32) 4, data := memNat m (o + 36) 4,
    target := memNat m (o + 40) 2, opcode := memNat m (o + 42) 1, step := memNat m (o + 43) 1,
    area := memNat m (o + 44) 1, confirmed := bitAt st 1, accDel := bitAt st 2, presented := bitAt st 3,
    terminal := bitAt st 4, termDue := bitAt st 5, status := memNat m (o + 46) 1, reason := memNat m (o + 47) 1,
    param := memRead m (o + 48) 5 }

/-- The STAGE byte of an entry in use. -/
def CmdEnt.stage (c : CmdEnt) : Nat :=
  1 + 2 * ofFlag c.confirmed + 4 * ofFlag c.accDel + 8 * ofFlag c.presented + 16 * ofFlag c.terminal + 32 * ofFlag c.termDue

/-- Write command table entry i, USED. -/
def cmdPut (m : Mem) (i : Nat) (c : CmdEnt) : Mem :=
  memWrite m (cmdOff i) (leBytes 8 c.asn ++ leBytes 8 c.htag ++ leBytes 8 c.xcyc ++ leBytes 4 c.seq ++ leBytes 4 c.acyc ++
    leBytes 4 c.tcyc ++ leBytes 4 c.data ++ leBytes 2 c.target ++ leBytes 1 c.opcode ++ leBytes 1 c.step ++
    leBytes 1 c.area ++ leBytes 1 c.stage ++ leBytes 1 c.status ++ leBytes 1 c.reason ++ (c.param ++ zeros 5).take 5 ++ zeros 3)

/-- Indices of the entries in use: their STAGE byte has USED. -/
def cmdSlots (m : Mem) : List Nat :=
  (m.filter fun c => cmdOff 0 ≤ c.1 && c.1 < cmdOff 1024 && (c.1 - cmdOff 0) % 56 == 45 && c.2.getLsbD 0).map
    fun c => (c.1 - cmdOff 0) / 56

/-- The entries in use with their indices, in ASN order. -/
def cmdList (m : Mem) : List (Nat × CmdEnt) := sortBy (fun x => x.2.asn) ((cmdSlots m).map fun i => (i, cmdAt m i))

/-- The entry of an ASN. -/
def cmdFind (m : Mem) (asn : Nat) : Option (Nat × CmdEnt) := (cmdList m).find? fun x => x.2.asn == asn

/-- The lowest index of a rising list's complement. -/
def firstFree : List Nat → Nat → Nat
  | [], n => n
  | x :: r, n => if x = n then firstFree r (n + 1) else n

/-- Take a new command into the lowest free entry; NCMD goes up (R483; log entry 5). -/
def cmdNew (m : Mem) (c : CmdEnt) : Mem :=
  let used := cmdSlots m
  rgSetNcmd (cmdPut m (firstFree used 0) c) (used.length + 1)

/-- Free entry i; NCMD goes down (R483). -/
def cmdFree (m : Mem) (i : Nat) : Mem :=
  let m' := memClear m (cmdOff i) 56
  rgSetNcmd m' (cmdSlots m').length

/-- Change the entry of an ASN, if one is in use. -/
def cmdUpd (m : Mem) (asn : Nat) (f : CmdEnt → CmdEnt) : Mem :=
  match cmdFind m asn with
  | none => m
  | some (i, c) => cmdPut m i (f c)

/-- The lowest ASN that is not terminal, or the next ASN when none (R319). -/
def lowestOpen (m : Mem) : Nat :=
  match (cmdList m).find? (fun x => !x.2.terminal) with
  | some x => x.2.asn
  | none => rgNextAsn m

/-! ## The state digest (R88) -/

/-- The term of one word: the fixed mixing function of its byte offset and value. -/
def digestTerm (off : Nat) (v : DWord) : DWord := Config.mix off v

/-- What committing a change from one region to another exclusive-ORs into the digest: the terms of the old words out,
those of the new words in. -/
def digestChange (old new : Mem) : DWord :=
  (memDelta old new).foldl (fun d x => d ^^^ digestTerm x.1 (memWord old (x.1 / 8)) ^^^ digestTerm x.1 x.2) 0

/-- The digest over a whole region of n words. -/
def digestWhole (n : Nat) (m : Mem) : DWord := (List.range n).foldl (fun d w => d ^^^ digestTerm (8 * w) (memWord m w)) 0

/-- Size of a directory variable of a TYPE (R165). -/
def typeSize : Nat → Nat
  | 1 => 1 | 2 => 1 | 3 => 2 | 4 => 4 | 5 => 4 | 6 => 8 | 7 => 16 | 8 => 1 | 9 => 1024 | 10 => 64 | _ => 0

/-- Number of 64-bit words of a yealm's region: the runtime part and every variable (R164). -/
def regionWords (y : Yealm) : Nat :=
  (max 0x10000 (maxOf (y.dir.map fun d => d.off + typeSize d.type)) + 7) / 8

/-- Words of the region of a lane: those of its yealm, or of the runtime part alone. -/
def laneWords (x : LaneSt) : Nat := match x.yealm with | some y => regionWords y | none => 0x2000

/-- Apply a list of region writes in order. -/
def applyWrites (m : Mem) (ws : List RWrite) : Mem := ws.foldl (fun m w => memWrite m w.off w.data) m

/-- A committed write to a lane's region outside a cycle's commit: region, pending region and digest take it (R88). -/
def commitWrite (x : LaneSt) (f : Mem → Mem) : LaneSt :=
  let r := f x.region
  { x with region := r, work := f x.work, digest := x.digest ^^^ digestChange x.region r }

/-- A runtime write of the cycle: it waits in the pending region for the cycle that commits (R70, R89). -/
def workWrite (x : LaneSt) (f : Mem → Mem) : LaneSt := { x with work := f x.work }

end Sys2Proof.Machine
end

