-- ==== Sys2Proof/Machine/HostOps.lean ====
section
/-! DEFINITION. The host port's shared operations: descriptor rings (R290 to R294), posted writes (R293), error records
(R299), module state and its reports (R284, R319), indications (R27). -/

namespace Sys2Proof.Machine

/-- The hub is out of reset. -/
def hubUp (s : State) : Bool := s.mod.st != .off && !s.ul.hubHeld

/-- The register block of ring q. -/
def qAt (s : State) (q : Nat) : QReg := s.host.q.getD q (QReg.atReset 0)

/-- Change the register block of ring q. -/
def qMod (s : State) (q : Nat) (f : QReg → QReg) : State := { s with host := { s.host with q := listMod s.host.q q f } }

/-- Ring numbers of R284. -/
def qCMDQ : Nat := 0
def qXFRIN : Nat := 1
def qCPLQ : Nat := 2
def qINDQ : Nat := 3
def qEVTQ : Nat := 4
def qTRCQ : Nat := 5
def qERRQ : Nat := 6
def qXFROUT : Nat := 7

/-- Rings 0 and 1 are consumed by the module, the others produced by it (R284). -/
def qToModule (q : Nat) : Bool := q < 2

/-- Bytes of an entry (R284). -/
def qEntry (q : Nat) : Nat := if q = 2 then 32 else 64

/-- Entries of a ring from its QSIZE: 64 × 2^QSIZE, 11 to 15 acting as 10 (R285). -/
def qEntries (size : Word) : Nat := 64 * 2 ^ min (size.toNat % 16) 10

/-- Neither fetched nor written while its EN or HPCTL.EN is 0 (R289). -/
def ringOn (s : State) (q : Nat) : Bool := s.host.en && (qAt s q).en

/-- The module may issue requests to host memory: Bus Master Enable, D0, hub running (R281, R453). -/
def ringServed (s : State) (q : Nat) : Bool := ringOn s q && s.host.bme && !s.host.d3 && hubUp s

/-- Free entries of a module-to-host ring: full when the indices differ by the ring size (R290). -/
def ringFree (r : QReg) : Nat := r.cSize - (r.idx - r.db).toNat

/-- A record can be written to the ring now (R289, R294, R453). -/
def ringCan (s : State) (q : Nat) : Bool := ringServed s q && 0 < ringFree (qAt s q)

/-- The write-back word: QIDX and the low 32 bits of the cycle number (R292). -/
def wbWord (s : State) (idx : Word) : List Byte := leBytes 4 idx.toNat ++ leBytes 4 (s.cyc.k.toNat % 2 ^ 32)

/-- Post a write to host memory, behind those already posted (R293). -/
def post (s : State) (w : HostWrite) : State := { s with host := { s.host with posted := s.host.posted ++ [w] } }

/-- Bytes of a size code of Device Control: 128 doubled code times. -/
def sizeOfCode (code : Nat) : Nat := 128 * 2 ^ code

/-- Maximum payload of the module's writes: larger settings act as 256 B (R281). -/
def maxPayload (h : HostPort) : Nat := sizeOfCode (min h.mps 1)

/-- Maximum size of the module's reads: 128 B to 4 096 B (R281). -/
def maxRead (h : HostPort) : Nat := sizeOfCode (min h.mrrs 5)

/-- Write data to a host buffer, in requests of at most the maximum payload size (R281). -/
def postData (s : State) (addr : DWord) (data : List Byte) : State :=
  let n := maxPayload s.host
  (List.range ((data.length + n - 1) / n)).foldl (fun s i => post s (.mem (addr + BitVec.ofNat 64 (n * i)) (slice data (n * i) n))) s

/-- Read from host memory, in requests of at most the maximum read request size (R281). -/
def readHost (s : State) (addr : DWord) (len : Nat) : State :=
  let n := maxRead s.host
  let rs := (List.range ((len + n - 1) / n)).map fun i => (addr + BitVec.ofNat 64 (n * i), min n (len - n * i))
  { s with host := { s.host with reads := s.host.reads ++ rs } }

/-- The module completes a request of the host (R296). -/
def complete (s : State) (st : CplStatus) (data : Word) (hdr : List Byte) : State :=
  { s with host := { s.host with cpls := s.host.cpls ++ [⟨st, data, hdr⟩] } }

/-- A message is due on a vector (R293). -/
def vecRaise (s : State) (v : Nat) : State :=
  { s with host := { s.host with vecDue := s.host.vecDue ||| BitVec.ofNat 8 (2 ^ v) } }

/-- Address of entry i of a ring (R290). -/
def entryAddr (r : QReg) (q : Nat) (i : Word) : DWord := r.cBase + BitVec.ofNat 64 (i.toNat % r.cSize * qEntry q)

/-- Write a record to a module-to-host ring: the record, then the write-back word that covers it, then the vector is due
(R292, R293). Where the ring cannot take it nothing changes. -/
def ringPut (s : State) (q : Nat) (rec_ : List Byte) : State :=
  if ringCan s q then
    let r := qAt s q
    let s1 := post s (.mem (entryAddr r q r.idx) rec_)
    let s2 := post s1 (.mem r.cWb (wbWord s (r.idx + 1)))
    vecRaise (qMod s2 q fun r => { r with idx := r.idx + 1 }) r.vec
  else s

/-- The write-back word of a ring and its vector, once requests may be issued: a ring that is not served owes them, and one that
is closed writes nothing (R281, R289, R292, R293, R453). -/
def writeBack (s : State) (q : Nat) : State :=
  let r := qAt s q
  if ringServed s q then vecRaise (post s (.mem r.cWb (wbWord s r.idx))) r.vec
  else if s.host.en then { s with host := { s.host with wbDue := s.host.wbDue ||| BitVec.ofNat 8 (2 ^ q) } }
  else s

/-- The module has consumed n entries of a host-to-module ring: QIDX, the write-back word, the vector (R292, R293). -/
def ringConsume (s : State) (q n : Nat) : State :=
  if n = 0 then s else writeBack (qMod s q fun r => { r with idx := r.idx + BitVec.ofNat 32 n }) q

/-- A host-to-module ring holds an entry that the module has not consumed (R290). -/
def ringHas (s : State) (q : Nat) : Bool := (qAt s q).db != (qAt s q).idx

/-! ## Errors (R299, R452) -/

/-- An ERRQ record but for LOST and NLOST, which it takes when it is written. -/
def errRecord (code flags : Nat) (r : HostReq) (bar : Nat) (supUs : DWord) : List Byte :=
  leBytes 2 code ++ leBytes 2 flags ++ zeros 4 ++ leBytes 8 r.addr.toNat ++ [r.be] ++ leBytes 1 bar ++
    leBytes 2 r.len.toNat ++ zeros 4 ++ leBytes 8 supUs.toNat ++ (r.hdr ++ zeros 16).take 16 ++ zeros 16

/-- Bit of the uncorrectable error status for an ERRQ code, where Advanced Error Reporting has one: Unsupported Request, Completer
Abort, Completion Timeout, Poisoned request (PRESUMED, the PCI Express layout; log entry 107). -/
def aerBit (code : Nat) : Word :=
  if code = 1 || code = 2 then 0x00100000 else if code = 3 then 0x00008000 else if code = 6 then 0x00004000
  else if code = 9 then 0x00001000 else 0

/-- An error of ERRQ code n: ERRSTAT.SEEN, ERRCNT, and its record in the error queue; without a credit there the record is
lost and counted (R294, R299, R452). -/
def errRaise (s : State) (code flags : Nat) (r : HostReq) (bar : Nat) : State :=
  let h := { s.host with seen := s.host.seen ||| BitVec.ofNat 9 (2 ^ (code - 1)), errcnt := s.host.errcnt + 1,
                         aer := s.host.aer ||| aerBit code }
  if h.errq.credits = 0 then
    { s with host := { h with errlost := h.errlost + 1, lostBit := true, nlost := h.nlost + 1 } }
  else { s with host := { h with errq := h.errq.send (errRecord code flags r bar s.time.supUs) } }

/-- EFLAGS of a host's request: POSTED or NONPOSTED (R299). -/
def reqFlags (r : HostReq) : Nat := if r.posted then 1 else 2

/-- The hub takes the oldest error record: it writes it to ERRQ with LOST and NLOST, or loses and counts it (R294, R299). -/
def errWrite (s : State) : State :=
  match s.host.errq.items with
  | [] => s
  | e :: _ =>
    let s1 := { s with host := { s.host with errq := s.host.errq.free } }
    if ringCan s1 qERRQ then
      let fl := fldLE e 2 2 + (if s.host.nlost = 0 then 0 else 8)
      let e' := e.take 2 ++ leBytes 2 fl ++ leBytes 4 s.host.nlost.toNat ++ e.drop 8
      let s2 := ringPut s1 qERRQ e'
      { s2 with host := { s2.host with nlost := 0 } }
    else
      { s1 with host := { s1.host with errlost := s1.host.errlost + 1, lostBit := true, nlost := s1.host.nlost + 1 } }

/-! ## Indications (R27, R319) -/

/-- Bytes of an indication record (R319). -/
def indBytes (i : Ind) : List Byte :=
  [i.kind] ++ leBytes 1 (ofFlag i.nonvital) ++ zeros 2 ++ leBytes 4 i.cycle.toNat ++ leBytes 8 i.stime.toNat ++
    (i.payload ++ zeros 48).take 48

/-- Module records of R319, which wait until they are written (R27). -/
def indIsModule (i : Ind) : Bool := i.kind == 0x10 || i.kind == 0x11 || i.kind == 0x12

/-- Merge a module record into those that wait: a MODULE_STATE or PORT_OPEN record is replaced, EXCHANGE_DEFERRED records
become one with X as first named and the latest deferred X (R27). -/
def indMerge (waiting : List Ind) (i : Ind) : List Ind :=
  if !indIsModule i then waiting ++ [i]
  else
    match waiting.find? fun w => w.kind == i.kind with
    | none => waiting ++ [i]
    | some w =>
      let i' := if i.kind == 0x11 then { i with payload := slice w.payload 0 8 ++ i.payload.drop 8 } else i
      (waiting.filter fun w => w.kind != i.kind) ++ [i']

/-- Send waiting indications as credits and the 512 a cycle allow (R27). -/
def sendInds (x : LaneSt) : LaneSt :=
  let n := min x.indq.credits (512 - x.indSent)
  { x with indq := { items := x.indq.items ++ x.inds.take n, credits := x.indq.credits - (x.inds.take n).length },
           inds := x.inds.drop n, sentInds := x.sentInds ++ x.inds.take n, indSent := x.indSent + (x.inds.take n).length }

/-- The lane forms an indication and sends what it can. -/
def laneInd (x : LaneSt) (i : Ind) : LaneSt := sendInds { x with inds := indMerge x.inds i }

/-- Every lane that counts forms the indication. One formed between Ck and input agreement leaves the lane at the agreement, when
the station time of Ck is known (R319). -/
def indicate (s : State) (i : Ind) : State :=
  onLanes s (counted s) fun _ x => if s.cyc.agreedIn then laneInd x i else { x with inds := indMerge x.inds i }

/-- At input agreement the waiting records of the cycle take the station time of Ck, and leave. -/
def stampInds (k : Word) (x : LaneSt) : LaneSt :=
  sendInds { x with inds := x.inds.map fun i => if i.cycle = k then { i with stime := rgStime x.work } else i }

/-- An indication of a kind with the present cycle and station time (R319). -/
def mkInd (s : State) (kind : Byte) (payload : List Byte) : Ind :=
  { kind := kind, nonvital := s.mod.st == .indicate, cycle := s.cyc.k.setWidth 32, stime := rgStime (lead s).work,
    payload := (payload ++ zeros 48).take 48 }

/-- A delivered terminal completion frees its entry; the next terminal ASN follows (R65, R483). -/
def deliverTerm (m : Mem) (asn : Nat) : Mem :=
  match cmdFind m asn with
  | some (i, _) => rgSetNextTerm (cmdFree m i) (asn + 1)
  | none => m

/-- A lane marks a completion as delivered. -/
def markCpl (c : Cpl) (x : LaneSt) : LaneSt :=
  if c.asn = 0 then { x with answers := x.answers.erase c }
  else if c.status = 0x01 then workWrite x fun m => cmdUpd m c.asn.toNat fun e => { e with accDel := true }
  else workWrite x fun m => deliverTerm m c.asn.toNat

/-- A lane notes an indication as written. -/
def markInd (i : Ind) (x : LaneSt) : LaneSt := { x with sentInds := x.sentInds.erase i }

/-- Lanes that the hub reports its writes to. -/
def reportTo (s : State) : List Lane := lanesWith s.lanes fun x => x.role == .voting || x.role == .shadow || x.role == .off

/-- Every report that the hub has not made yet is made: at the latest by the next common instant, so that no record that was
written is formed again (R27, R65). -/
def reportAll (s : State) : State :=
  let s1 := s.host.cplRep.foldl (fun t c => onLanes t (reportTo s) fun _ x => markCpl c x) s
  let s2 := s.host.indRep.foldl (fun t i => onLanes t (reportTo s) fun _ x => markInd i x) s1
  { s2 with host := { s2.host with cplRep := [], indRep := [] } }

/-- Payload of MODULE_STATE (R319). -/
def moduleStatePay (s : State) : List Byte :=
  leBytes 1 s.mod.st.code ++ zeros 3 ++ leBytes 4 (roster s).toNat ++ leBytes 4 s.peer.epoch.toNat ++ leBytes 1 (keyCode s)

/-- Payload of PORT_OPEN (R319). -/
def portOpenPay (m : Mem) : List Byte := leBytes 8 (rgNextAsn m) ++ leBytes 8 (lowestOpen m) ++ leBytes 4 (rgLastSeq m)

/-- HPSTAT.ACTIVE and HPSTAT.STATE are signalled on vector 7 while HPCTL.EN is 1 when either changed (R284). -/
def signalState (s : State) : State :=
  let a := isActive s
  let c := s.mod.st.code
  let s1 := if s.host.en && (a != s.host.sigActive || c != s.host.sigState) then vecRaise s 7 else s
  { s1 with host := { s1.host with sigActive := a, sigState := c } }

/-- A MODULE_STATE indication is written whenever a field of its payload has changed (R319). -/
def reportState (s : State) : State :=
  let p := moduleStatePay s
  if p = s.host.modPay then s
  else
    let s1 := { s with host := { s.host with modPay := p } }
    indicate s1 (mkInd s1 0x10 p)

/-- The module takes a state: HEALTHY (R9), HPSTAT (R284) and a MODULE_STATE indication (R319, R387) follow. -/
def setState (s : State) (st : ModState) : State :=
  if s.mod.st = st then s
  else
    let s1 := { s with mod := { s.mod with st := st }, ul := { s.ul with healthy := healthyState st } }
    reportState (signalState s1)

end Sys2Proof.Machine
end

