-- ==== Sys2Proof/Machine/GutterOps.lean ====
section
/-! DEFINITION. The Gutter's shared operations: forming a record (R413 to R415, R421), entering a class queue with the
overload rules (R417 to R419), the paths and what leaves a queue (R417, R420). -/

namespace Sys2Proof.Machine

/-- Station time now: the last agreed Ck plus the ring time since; while UNSET, supervisor time with state bits 0 (R414). -/
def stimeNow (s : State) : DWord :=
  let w := rgStime (lead s).work
  match stimeState w with
  | .unset => stimeWord .unset s.time.supUs.toNat
  | st => stimeWord st (stimeUs w + (s.time.ringNs - s.time.ckNs).toNat / 1000)

/-- A record as its producer forms it at its first occurrence (R413). -/
def mkRec (s : State) (code cls sev unit : Nat) (lanes : BitVec 4) (args : List Byte) : GRec :=
  { code := BitVec.ofNat 16 code, cls := cls, coalesced := false, loss := codeIsLoss code, sev := sev, lanes := lanes,
    unit := unit, seq := 0, cycle := s.cyc.k, stime := stimeNow s, ltime := stimeNow s, count := 1, roster := roster s,
    args := (args ++ zeros 24).take 24 }

/-- The 64 bytes of a record (R413). -/
def recBytes (r : GRec) : List Byte :=
  leBytes 2 r.code.toNat ++
    leBytes 1 (r.cls + 4 * ofFlag r.coalesced + 8 * ofFlag r.loss + 16 * r.sev) ++
    leBytes 1 (r.lanes.toNat + 16 * r.unit) ++ leBytes 4 r.seq.toNat ++ leBytes 8 r.cycle.toNat ++
    leBytes 8 r.stime.toNat ++ leBytes 8 r.ltime.toNat ++ leBytes 4 r.count ++ leBytes 4 r.roster.toNat ++ r.args

/-- The three class queues. -/
inductive GClass where
  | alarm | event | trace
  deriving DecidableEq, Repr

/-- The queue a record enters: that of its class, but STANDBY_HEALTH enters the EVENT queue (R412). -/
def queueOf (r : GRec) : GClass :=
  if r.code = 0x0882 then .event else if r.cls = 0 then .alarm else if r.cls = 1 then .event else .trace

/-- A class queue. -/
def gq (g : Gutter) : GClass → CQ GItem
  | .alarm => g.alarm | .event => g.event | .trace => g.trace

/-- Replace a class queue. -/
def setGq (g : Gutter) (c : GClass) (q : CQ GItem) : Gutter :=
  match c with
  | .alarm => { g with alarm := q }
  | .event => { g with event := q }
  | .trace => { g with trace := q }

/-- The next SEQ of a class queue (R413). -/
def gseq (g : Gutter) : GClass → Word
  | .alarm => g.seqA | .event => g.seqE | .trace => g.seqT

/-- Count a SEQ on. -/
def stepSeq (g : Gutter) (c : GClass) : Gutter :=
  match c with
  | .alarm => { g with seqA := g.seqA + 1 }
  | .event => { g with seqE := g.seqE + 1 }
  | .trace => { g with seqT := g.seqT + 1 }

/-! ## Paths (R412, R417) -/

/-- Syslog is attached: LOGCFG.EN, an IPv4 address, a collector that can be reached (R417, R460). -/
def syslogOn (u : Underlay) : Bool :=
  u.logcfg.getLsbD 0 && u.mpip != 0 && u.logdst != 0 &&
    (u.mpgw != 0 || (u.logdst &&& u.mpmask) == (u.mpip &&& u.mpmask))

/-- A path is attached while it can take records (R417). -/
def attached (s : State) : GPath → Bool
  | .evtq => ringOn s qEVTQ
  | .trcq => ringOn s qTRCQ
  | .syslog => syslogOn s.ul
  | .blackbox l => (s.lanes.get l).role != .retired

/-- Is the record one of the path's (R412, R423)? -/
def onPath (r : GRec) : GPath → Bool
  | .evtq => queueOf r == .alarm || queueOf r == .event
  | .trcq => queueOf r == .trace
  | .syslog => r.cls == 0 || r.cls == 1
  | .blackbox _ => queueOf r == .alarm

/-- Every path there is. -/
def allPaths : List GPath := [.evtq, .trcq, .syslog, .blackbox .A, .blackbox .B, .blackbox .C, .blackbox .D]

/-- Has the path taken the record? -/
def takenBy (i : GItem) : GPath → Bool
  | .evtq => i.evtq | .trcq => i.trcq | .syslog => i.sys | .blackbox l => i.bb.get l

/-- Mark the record as taken by the path. -/
def markTaken (i : GItem) : GPath → GItem
  | .evtq => { i with evtq := true }
  | .trcq => { i with trcq := true }
  | .syslog => { i with sys := true }
  | .blackbox l => { i with bb := i.bb.set l true }

/-- Every attached path has taken the record, so that it leaves (R417). -/
def allTaken (s : State) (i : GItem) : Bool := allPaths.all fun p => !(attached s p && onPath i.rec_ p) || takenBy i p

/-- No attached path has taken the record, so that it may be folded into (R417). -/
def noneTaken (s : State) (i : GItem) : Bool := allPaths.all fun p => !(attached s p && takenBy i p)

/-- A record as a queue item that no path has taken. -/
def freshItem (r : GRec) : GItem := { rec_ := r, evtq := false, trcq := false, sys := false, bb := Quad.fill false }

/-- Enter a class queue: the record takes the next SEQ and spends a credit; where no path is attached it leaves at once. -/
def enterQ (s : State) (r : GRec) : State :=
  let c := queueOf r
  let it := freshItem { r with seq := gseq s.gut c }
  let g := stepSeq s.gut c
  if allTaken s it then { s with gut := g } else { s with gut := setGq g c ((gq g c).send it) }

/-! ## Overload (R417 to R419) -/

/-- Two records fold into one: same CODE, UNIT and ARGS bytes 0 to 7 (R417). -/
def foldsWith (a b : GRec) : Bool := a.code == b.code && a.unit == b.unit && a.args.take 8 == b.args.take 8

/-- The record folded into takes the new LTIME, COUNT + 1 and COALESCED (R417). -/
def foldRec (old new : GRec) : GRec := { old with ltime := new.ltime, count := old.count + new.count, coalesced := true }

/-- Change the last element with a property; none where there is none. -/
def updLast {α : Type} (p : α → Bool) (f : α → α) : List α → Option (List α)
  | [] => none
  | x :: r =>
    match updLast p f r with
    | some r' => some (x :: r')
    | none => if p x then some (f x :: r) else none

/-- Who produces the record: the reporting lane, which is the lowest-lettered of LANES, or with no lane named the hub, the Underlay
or the lanes of a module in which none votes (R415, R418; log entry 6). -/
def producer (r : GRec) : Nat :=
  if r.lanes = 0 then 16 * r.unit else (r.lanes &&& -r.lanes).toNat

/-- Put an alarm that finds no credit into its producer's coalescing store (R417). -/
def storeAlarm (g : Gutter) (taken : GItem → Bool) (r : GRec) : Gutter :=
  match updLast (fun e => producer e.rec_ == producer r && foldsWith e.rec_ r) (fun e => { e with rec_ := foldRec e.rec_ r }) g.store with
  | some st => { g with store := st }
  | none =>
    match updLast (fun i => taken i && foldsWith i.rec_ r) (fun i => { i with rec_ := foldRec i.rec_ r }) g.alarm.items with
    | some it => { g with alarm := { g.alarm with items := it } }
    | none =>
      if ((g.store.filter fun e => !e.reserved && producer e.rec_ == producer r).length) < 64 then
        { g with store := g.store ++ [{ rec_ := r, reserved := false }] }
      else
        match updLast (fun e => e.reserved && producer e.rec_ == producer r && e.rec_.code == r.code) (fun e => { e with rec_ := foldRec e.rec_ r }) g.store with
        | some st => { g with store := st }
        | none => { g with store := g.store ++ [{ rec_ := r, reserved := true }] }

/-- Store entries leave as records as soon as credits return, oldest first (R417). -/
def flushStore : Nat → State → State
  | 0, s => s
  | n + 1, s =>
    match s.gut.store with
    | [] => s
    | e :: r =>
      if s.gut.alarm.credits = 0 then s
      else flushStore n (enterQ { s with gut := { s.gut with store := r } } e.rec_)

/-- Count a dropped event of a producer (R418). -/
def countDrop (g : Gutter) (r : GRec) : Gutter :=
  match g.dropped.find? fun d => d.1 == producer r with
  | none => { g with dropped := g.dropped ++ [(producer r, 1, r.cycle, r.stime, r.stime)] }
  | some _ =>
    { g with dropped := g.dropped.map fun d =>
        if d.1 = producer r then (d.1, d.2.1 + 1, d.2.2.1, d.2.2.2.1, r.stime) else d }

/-- The EVENT_LOSS record of a producer's drops (R413, R418). -/
def eventLoss (s : State) (d : Nat × Nat × DWord × DWord × DWord) : GRec :=
  { mkRec s 0x0184 1 4 (d.1 / 16) (BitVec.ofNat 4 (d.1 % 16)) [] with
    count := d.2.1, cycle := d.2.2.1, stime := d.2.2.2.1, ltime := d.2.2.2.2 }

/-- With a credit, a producer that has dropped events sends its EVENT_LOSS first (R418). -/
def sendLoss (s : State) (p : Nat) : State :=
  if s.gut.event.credits = 0 then s
  else
    match s.gut.dropped.find? fun d => d.1 == p with
    | none => s
    | some d =>
      enterQ { s with gut := { s.gut with dropped := s.gut.dropped.filter fun e => e.1 != p } } (eventLoss s d)

/-- Count a discarded trace: the first one's SEQ, cycle and time, their number, the last one's time (R419). -/
def countTrace (g : Gutter) (r : GRec) : Gutter :=
  match g.lostTr with
  | none => { g with lostTr := some (r.seq, r.cycle, r.stime, 1, r.stime) }
  | some (q, c, t, n, _) => { g with lostTr := some (q, c, t, n + 1, r.stime) }

/-- The TRACE queue is full: its oldest trace is discarded and counted (R419). -/
def dropTrace (g : Gutter) : Gutter :=
  match g.trace.items with
  | [] => g
  | i :: r => countTrace { g with trace := { items := r, credits := g.trace.credits + 1 } } i.rec_

/-- A record is handed to its class queue (R412, R417 to R419). -/
def gutPut (s : State) (r : GRec) : State :=
  match queueOf r with
  | .alarm =>
    let s1 := flushStore s.gut.store.length s
    if s1.gut.alarm.credits = 0 then { s1 with gut := storeAlarm s1.gut (noneTaken s1) r } else enterQ s1 r
  | .event =>
    let s1 := sendLoss s (producer r)
    if s1.gut.event.credits = 0 then { s1 with gut := countDrop s1.gut r } else enterQ s1 r
  | .trace =>
    let s1 := if s.gut.trace.credits = 0 then { s with gut := dropTrace s.gut } else s
    enterQ s1 r

/-- Records that every attached path has taken leave their queue and return their credits; waiting store entries and loss
records then enter (R417, R418). -/
def gutDrain (s : State) (c : GClass) : State :=
  let q := gq s.gut c
  let keep := q.items.filter fun i => !allTaken s i
  let s1 := { s with gut := setGq s.gut c { items := keep, credits := q.credits + (q.items.length - keep.length) } }
  match c with
  | .alarm => flushStore s1.gut.store.length s1
  | .event => s1.gut.dropped.foldl (fun s d => sendLoss s d.1) s1
  | .trace => s1

/-- A path was detached or attached: what every attached path has taken leaves (R417). -/
def redrain (s : State) : State := gutDrain (gutDrain (gutDrain s .alarm) .event) .trace

/-! ## Raising a record of the catalogue -/

/-- Raise a record with the class and severity of its code (R421). -/
def raiseRec (s : State) (code unit : Nat) (lanes : BitVec 4) (args : List Byte) : State :=
  gutPut s (mkRec s code (codeCls code) (codeSev code) unit lanes args)

/-- A record about a decision the voting lanes share: written once, LANES holding every voting lane (R415). -/
def raiseShared (s : State) (code : Nat) (args : List Byte) : State := raiseRec s code 0 (laneMask (voting s)) args

/-- A record about a lane's own observation (R415). -/
def raiseLane (s : State) (l : Lane) (code : Nat) (args : List Byte) : State := raiseRec s code 0 (laneMask [l]) args

/-- A record of the hub (R415). -/
def raiseHub (s : State) (code : Nat) (args : List Byte) : State := raiseRec s code 1 0 args

/-- A record of the Underlay (R415). -/
def raiseUl (s : State) (code : Nat) (args : List Byte) : State := raiseRec s code 2 0 args

/-- A record of the Eaves block, agreed from the Batten links (R415). -/
def raiseEaves (s : State) (code : Nat) (args : List Byte) : State := raiseRec s code 3 (laneMask (voting s)) args

/-- Argument fields (R421): one, two, four and eight bytes. -/
def arg1 (v : Nat) : List Byte := leBytes 1 v
/-- A two-byte argument. -/
def arg2 (v : Nat) : List Byte := leBytes 2 v
/-- A four-byte argument. -/
def arg4 (v : Nat) : List Byte := leBytes 4 v
/-- An eight-byte argument. -/
def arg8 (v : Nat) : List Byte := leBytes 8 v
/-- The source instance: the arguments that name it fill bytes 0 to 7, which are 0 when the code has one instance only (R413); what
else a rule names follows from byte 8 on. -/
def argInst (b : List Byte) : List Byte := (b ++ zeros 8).take 8
/-- A lane as the source instance. -/
def argLane (l : Lane) : List Byte := argInst (arg1 l.num)
/-- A plane of a ring as the source instance. -/
def argPlane (r : RingId) (p : Plane) : List Byte := argInst (arg1 r.num ++ arg1 p.num)
/-- A code with one instance only. -/
def argOne : List Byte := zeros 8

end Sys2Proof.Machine
end

