-- ==== Sys2Proof/Machine/LaneOps.lean ====
section
/-! DEFINITION. What happens to a lane as a whole: its records in MRAM (R162, R403, R409), its self-test pass (R394 to
R397), exclusion and retirement (R96 to R99), the roles and the mode (R102, R109). -/

namespace Sys2Proof.Machine

/-! ## Boot record and repair map in MRAM -/

/-- Codes of the bank states in SHADOW_ST, in R163's order. -/
def BankState.code : BankState → Nat
  | .empty => 0 | .loading => 1 | .verified => 2 | .active => 3

/-- An empty boot record. -/
def BootRec.blank : BootRec := { gen := 0, asnMark := 1048576, epoch := 0, bbIndex := 0, start := none, remaps := [] }

/-- The copy in force: the one with the higher generation (R162). -/
def bootCur (m : Mram) : BootRec :=
  match m.boot.a, m.boot.b with
  | some a, some b => if a.gen < b.gen then b else a
  | some a, none => a
  | none, some b => b
  | none, none => BootRec.blank

/-- Is copy a the one in force? -/
def bootCurIsA (m : Mram) : Bool :=
  match m.boot.a, m.boot.b with
  | some a, some b => b.gen ≤ a.gen
  | some _, none => true
  | none, _ => false

/-- Write the boot record: the two copies alternate (R162). -/
def bootWrite (m : Mram) (f : BootRec → BootRec) : Mram :=
  let r := f (bootCur m)
  let r' := { r with gen := (bootCur m).gen + 1 }
  if bootCurIsA m then { m with boot := { m.boot with b := some r' } } else { m with boot := { m.boot with a := some r' } }

/-- The repair map in force: the valid copy with the higher GEN (R403). -/
def mapCur (m : Mram) : RepMap :=
  match m.maps.a, m.maps.b with
  | some a, some b => if a.gen.toNat < b.gen.toNat then b else a
  | some a, none => a
  | none, some b => b
  | none, none => { gen := 0, ents := [] }

/-- The 8 bytes of a repair map entry (R403); the COUNT field as given. -/
def repBytes (e : RepEnt) (count : Nat) : List Byte :=
  leBytes 8 (e.bank + 2 ^ 8 * ofFlag e.col + 2 ^ 9 * e.spare + 2 ^ 11 * ofFlag e.fused + 2 ^ 12 * count + 2 ^ 16 * e.addr
    + 2 ^ 32 * e.cycle.toNat)

/-- Write the repair map: the two copies alternate, GEN goes up by 1, entries stand in BANK then ADDR order (R403). -/
def mapWrite (m : Mram) (ents : List RepEnt) : Mram :=
  let cur := mapCur m
  let new := { gen := cur.gen + 1, ents := sortBy (fun e => 2048 * e.bank + e.addr) ents }
  match m.maps.a, m.maps.b with
  | some a, some b =>
    if a.gen.toNat < b.gen.toNat then { m with maps := { m.maps with a := some new } }
    else { m with maps := { m.maps with b := some new } }
  | some _, none => { m with maps := { m.maps with b := some new } }
  | none, _ => { m with maps := { m.maps with a := some new } }

/-- MAP_CRC of the start-up record: over the entries with every COUNT taken as 0 (R409). -/
def mapCrc (ents : List RepEnt) : Word := crc32c ((ents.map fun e => repBytes e 0).flatten)

/-- FUSE_CRC of the start-up record: over the lane's fuse state (R409). -/
def fuseCrc (l : Lane) (x : LaneSt) : Word :=
  crc32c (Config.fuseBytes l x.retFuse (((mapCur x.mram).ents.filter (·.fused)).map fun e => 2048 * e.bank + e.addr))

/-- The bytes of a start-up record under its CRC (R409). -/
def startBytes (r : StartRec) : List Byte :=
  leBytes 4 0x42495354 ++ leBytes 2 1 ++ [r.result] ++ [0] ++ leBytes 8 r.shelf.toNat ++ leBytes 8 r.cycle.toNat ++
    leBytes 4 r.mapCrc.toNat ++ leBytes 4 r.fuseCrc.toNat ++ leBytes 2 r.rowsFree.toNat ++ leBytes 2 r.colsFree.toNat ++
    leBytes 2 r.sectFree.toNat ++ leBytes 2 r.repairs.toNat ++ zeros 212

/-- The record with the CRC of its bytes. -/
def startSeal (r : StartRec) : StartRec := { r with crc := crc32c (startBytes r) }

/-- Set VOID in the lane's start-up record (R410); LANEINFO.RECORD clears (R461). -/
def voidRecord (x : LaneSt) : LaneSt :=
  match (bootCur x.mram).start with
  | none => { x with record := false }
  | some _ =>
    { x with record := false,
             mram := bootWrite x.mram fun b => { b with start := b.start.map fun r => startSeal { r with result := r.result ||| 0x10 } } }

/-- Free spare rows of a lane's own banks: 4 in each of 160 (R400). -/
def rowsFree (m : Mram) : Nat := 640 - ((mapCur m).ents.filter fun e => e.bank < 160 && !e.col).length
/-- Free spare columns: 1 in each of 160 banks (R400). -/
def colsFree (m : Mram) : Nat := 160 - ((mapCur m).ents.filter fun e => e.bank < 160 && e.col).length
/-- Free spare rows of the hub: 128 (R400). -/
def hubRowsFree (ents : List RepEnt) : Nat := 128 - (ents.filter fun e => 160 ≤ e.bank && !e.col).length
/-- Free spare sectors: 214 (R162). -/
def sectFree (m : Mram) : Nat := 214 - (bootCur m).remaps.length

/-! ## Self-test passes (R394 to R397) -/

/-- Slices of a lane's pass, and of the hub's (R395). -/
def laneSlices : Nat := 800
def hubSlices : Nat := 48

/-- Group 1 to 9 of a lane's slice (R395). -/
def sliceGroup (i : Nat) : Nat :=
  if i < 40 then 1 else if i < 104 then 2 else if i < 584 then 3 else if i < 744 then 4 else if i < 760 then 5
  else if i < 772 then 6 else if i < 776 then 7 else if i < 780 then 8 else 9

/-- A slice of group 7 tests the lane's Batten port, which is isolated for it (R100, R396). -/
def portTested (x : LaneSt) : Bool := x.bist.running && sliceGroup x.bist.slice == 7

/-- Budget of a lane's slice in µs: 20 ms for memory, 50 ms for logic (R395). -/
def sliceBudget (i : Nat) : Nat := if sliceGroup i ≤ 2 then 20000 else 50000

/-- Budget of a hub slice in µs: 8 of memory, 40 of logic (R395). -/
def hubSliceBudget (i : Nat) : Nat := if i < 8 then 20000 else 50000

/-- Start a pass at its first slice; the injection set alone is group 9 (R388, R394). -/
def startPass (b : LaneBist) (p : BistPass) : LaneBist :=
  { b with pass := some p, slice := if p = .inject then 780 else 0, running := false, reinit := false, gap := false, repairs := 0 }

/-- Abandon the running slice: no result, the pass does not count, the block is re-initialised (R397). -/
def abandonSlice (x : LaneSt) : LaneSt :=
  if x.bist.running then { x with bist := { x.bist with running := false, reinit := true, gap := true } } else x

/-- Discard the unfinished rest pass (R394). -/
def endPass (x : LaneSt) : LaneSt := { x with bist := { x.bist with pass := none, running := false, slice := 0 } }

/-! ## The shadow bank (R163) -/

/-- IMAGE_LOAD sets the shadow bank to LOADING first (R163). -/
def loadBank (x : LaneSt) : LaneSt :=
  if x.role.healthy then
    { x with mram := setShadow x.mram { state := .loading, mem := [], size := 0, img := none } }
  else x

/-- An IMAGE_LOAD that failed leaves its bank EMPTY (R163). -/
def unloadBank (x : LaneSt) : LaneSt :=
  if (shadowBank x.mram).state == .loading then
    { x with mram := setShadow x.mram { state := .empty, mem := [], size := 0, img := none } }
  else x

/-! ## Exclusion -/

/-- 24 h in µs of supervisor time (R98). -/
def day24 : Nat := 86400000000

/-- Entries of the last 24 h (R98, R404). -/
def within24 (now : DWord) (ts : List DWord) : List DWord := ts.filter fun t => now.toNat < t.toNat + day24

/-- The alarm of a cause (R96); a failed rejoin copy or fetch has none of its own. -/
def ExclCause.code : ExclCause → Option Nat
  | .lockstep => some 0x0201 | .output => some 0x0202 | .digest => some 0x0203 | .truss => some 0x0204
  | .batten => some 0x0205 | .fabric => some 0x0206 | .rejoin => none

/-- The standby's side of the mirror at its start: nothing received, the mirrored state incomplete (R339). -/
def mirrorFresh (p : PeerSt) : PeerSt :=
  { p with mirrorOk := false, shadowOk := false, slices := [], mirrorReady := false, lastGroup := 0, lastApplied := 0, result := none,
           mirrorIn := none, mirrorPres := none, shadowC := none, mirrorHold := [], fullWait := [], groupWait := none,
           mirrorAsm := [] }

/-- Lanes that vote, or the shadow lanes that vote among themselves in the boot shadow cycles (R390). -/
def voters (s : State) : List Lane :=
  if (voting s).isEmpty && s.mod.boot.b.isSome then lanesIn s.lanes .shadow else voting s

/-- The resting lane, if one rests. -/
def restingLane (s : State) : Option Lane := (lanesIn s.lanes .resting).head?

/-- A resting lane abandons its slice as soon as a voting lane's exclusion is decided, and is the next to rejoin, unless a
rejoin is under way (R98, R107). -/
def callResting (s : State) : State :=
  match restingLane s with
  | none => s
  | some r =>
    let s1 := onLane s r fun x => { (abandonSlice x) with rejoinRdy := !x.bist.running && !x.bist.reinit, rotJoin := false }
    if s1.cyc.rejoiner.isNone then { s1 with cyc := { s1.cyc with rejoiner := some r } } else s1

/-- Decide that a lane is excluded at the next common instant: the first cause stands, its alarm names the lane, its
CYCLE field the cycle (R96). -/
def decideExcl (s : State) (l : Lane) (c : ExclCause) (more : List Byte) : State :=
  match s.cyc.toExcl.get l with
  | some _ => s
  | none =>
    let s1 := { s with cyc := { s.cyc with toExcl := s.cyc.toExcl.set l (some c) } }
    let s2 := match c.code with
      | none => s1
      | some code => raiseShared s1 code (argLane l ++ more)
    if (s.lanes.get l).role = .voting then callResting s2 else s2

/-- The group that was being written is cut off: its CLOSE record is not in MRAM (R168, R375). -/
def cutMram (x : LaneSt) : Mram :=
  match x.mramq.items with
  | .group g :: _ => { x.mram with journal := x.mram.journal ++ [{ g with closed := false }] }
  | .burst g :: _ => { x.mram with journal := x.mram.journal ++ [{ g with closed := false }] }
  | _ => x.mram

/-- The MRAM write queue is blocked after the entry being written, its first (R79): what stands behind it is never written. -/
def blockMram (x : LaneSt) : LaneSt := { x with mramq := { x.mramq with items := x.mramq.items.take 1 }, jWait := [] }

/-- What exclusion does to the lane at the common instant: no credits, drive bits off, reset through the Underlay, a full
BIST pass from its first slice, VOID in its record; the fourth exclusion in 24 h retires it (R97, R98, R410). What waited for
MRAM is lost with the reset (R79, log entry 76). -/
def exclude (now : DWord) (x : LaneSt) : LaneSt :=
  let recent := within24 now x.excl
  let y := voidRecord { x with mram := cutMram x, mramq := ⟨[], 64⟩, jWait := [] }
  { y with
    role := if 3 ≤ recent.length then .retired else .excluded,
    excl := recent ++ [now], inReset := true, clocksOn := true, stopped := false, haltReq := false, withhold := false,
    ringIn := Quad.fill ⟨[], 0⟩, cmdIn := ⟨[], 0⟩, ringBuf := [], cmdBuf := [], bulkIn := ⟨[], 0⟩, bulkOff := 0, injSegs := [],
    drive := [], driveE := 0, driveG := 0, todo := [], snaps := [], ballot := none, log := [], verdicts := [], pubNew := [], gmNew := none,
    inds := [], sentInds := [], snapRun := none, rejoinRdy := false, rotJoin := false, copied := false, shadowOk := 0,
    copyFails := 0, fetchFails := 0, battenMiss := false, fabricMiss := false,
    bist := startPass y.bist .exclusion }

/-- The debug halt takes effect: HALTED, which from then on counts as excluded but is not counted under R98 (R113, R115). -/
def haltLane (x : LaneSt) : LaneSt :=
  { x with role := .halted, haltReq := false, drive := [], driveE := 0, driveG := 0, todo := [], snaps := [], ballot := none, log := [],
           verdicts := [], pubNew := [], gmNew := none, ringIn := Quad.fill ⟨[], 0⟩, cmdIn := ⟨[], 0⟩, rejoinRdy := false,
           copied := false, shadowOk := 0 }

/-- Retire a lane until the next power-on (R98, R99). -/
def retire (x : LaneSt) : LaneSt :=
  { x with role := .retired, drive := [], driveE := 0, driveG := 0, todo := [], snaps := [], ballot := none, log := [], verdicts := [],
           ringIn := Quad.fill ⟨[], 0⟩, cmdIn := ⟨[], 0⟩, rejoinRdy := false, copied := false, shadowOk := 0,
           bist := { x.bist with pass := none, running := false } }

/-- A lane takes RESTING: its rest begins with a pass from the first slice (R100, R394). -/
def restLane (x : LaneSt) : LaneSt :=
  { x with role := .resting, drive := [], driveE := 0, driveG := 0, todo := [], snaps := [], ballot := none, log := [], verdicts := [],
           ringIn := Quad.fill ⟨[], 0⟩, rejoinRdy := false, rotJoin := false, copied := false, shadowOk := 0, copyFails := 0,
           fetchFails := 0, bist := { startPass x.bist .rest with passes := 0 } }

/-! ## Mode and rotation order -/

/-- MODE from the number of lanes that vote and of healthy lanes (R109): with two votes two-out-of-two, with three
two-out-of-three, with rotation while four are healthy. -/
def modeFor (votes healthy : Nat) : VoteMode :=
  if votes < 2 then .none else if votes = 2 then .twoTwo else if healthy = 4 then .tooThree else .tooThreeNoRot

/-- The voting lane that follows a lane in the order A, B, C, D, A (R102). -/
def nextVoting (s : State) (l : Lane) : Option Lane :=
  [l.succ, l.succ.succ, l.succ.succ.succ].find? fun x => (s.lanes.get x).role == .voting

/-- NEXT_REST: the voting lane that follows the resting lane; without a resting lane it stays (R102). -/
def nextRestOf (s : State) : Lane :=
  match restingLane s with
  | none => s.cyc.nextRest
  | some r => (nextVoting s r).getD s.cyc.nextRest

/-- MODE, NEXT_REST and the roster word after the role changes of a common instant (R82). -/
def setMode (s : State) : State :=
  let m := modeFor (voting s).length (healthyCount s)
  let n := nextRestOf s
  { s with cyc := { s.cyc with mode := m, nextRest := n, roster := rosterWord (s.lanes.map (·.role)) m n } }

/-- LANES_3, LANES_2 and LANES_LOST when the number of healthy lanes falls to 3, 2 or below (R109). -/
def lanesAlarm (s : State) : State :=
  let n := healthyCount s
  let s1 :=
    if n < s.cyc.healthy then
      if n = 3 then raiseShared s 0x0207 [] else if n = 2 then raiseShared s 0x0208 [] else if n < 2 then raiseShared s 0x0209 [] else s
    else s
  { s1 with cyc := { s1.cyc with healthy := n } }

/-! ## Batten deadlines (R96, R251) -/

/-- The Batten deadlines missed in the cycle, at its end (R96, R251): when every voting lane missed one the cause is the Eaves
block, EAVES_LOST is raised and no lane is excluded; otherwise each lane that missed it is excluded at this instant. -/
def battenMisses (s : State) : State :=
  let vs := voting s
  let missed := vs.filter fun l => (s.lanes.get l).battenMiss
  let s0 := { s with lanes := s.lanes.map fun x => { x with battenMiss := false } }
  if vs.isEmpty || missed.isEmpty then { s0 with agr := { s0.agr with eavesLost := s.agr.eavesLost && vs.isEmpty } }
  else if missed.length = vs.length then
    let s1 := if s.agr.eavesLost then s0 else raiseShared s0 0x0604 []
    { s1 with agr := { s1.agr with eavesLost := true } }
  else
    let s1 := missed.foldl (fun s l => decideExcl s l .batten []) s0
    { s1 with agr := { s1.agr with eavesLost := false } }

/-! ## SAFE STOP -/

/-- Entering SAFE STOP: no Batten drive, no S-frame, no vital cycle (R74, R95); the lease is neither held nor renewed (R324);
nothing that would lead to another state stays due, for only a reset or power-on leaves it (R387). -/
def enterSafeStop (s : State) : State :=
  let s1 := { s with cyc := { s.cyc with opened := false, stopNext := false },
                     mod := { s.mod with leave := false, claim := false, boot := { s.mod.boot with b := none } },
                     peer := { s.peer with held := false }, ul := { s.ul with leaseRun := false } }
  let s2 := { s1 with lanes := s1.lanes.map fun x => { x with drive := [], driveE := 0, driveG := 0, todo := [], snaps := [] } }
  setState s2 .safeStop

end Sys2Proof.Machine
end

