-- ==== Sys2Proof/Machine/RegionInit.lean ====
section
/-! DEFINITION. The station variables of the region: their cold restart values (R176, R178), their mapping at an exchange
(R183), the Truss carry-over block (R149). -/

namespace Sys2Proof.Machine

/-! ## The carry-over block (R149) -/

/-- PREVHELD of route r. -/
def prevHeld (m : Mem) (tcb r : Nat) : Bool := (memByte m (tcb + r / 8)).getLsbD (r % 8)
/-- REFUSED of route r. -/
def refusedBit (m : Mem) (tcb r : Nat) : Bool := (memByte m (tcb + 0x200 + r / 8)).getLsbD (r % 8)

/-- The 1 024 bytes of a carry-over block with the given routes held and refused. -/
def carryBytes (held refused : List Nat) : List Byte := packFlags 512 held ++ packFlags 512 refused

/-- The carry-over block after a cold restart: PREVHELD all ones, REFUSED all zeros. -/
def carryCold : List Byte := List.replicate 512 0xFF ++ zeros 512

/-! ## Timers (R166) -/

/-- A preset in ms as cycles, at least 1: up for an expire-late-safe timer, down for an expire-early-safe one. -/
def presetCycles (ms safe p : Nat) : Nat := max 1 (if safe = 2 then ms / p else (ms + p - 1) / p)

/-- Restart-locking time of an area in cycles, as an expire-late-safe timer (R179). -/
def rlockCycles (sec p : Nat) : Nat := presetCycles (sec * 1000) 1 p

/-- The preset of a timer's declaration (R166). No rule requires a declaration of every TIMER: one without has the preset 0, which
makes 1 cycle (DESIGN CHOICE, log entry 89). -/
def presetOf (y : Yealm) (id : Word) : Nat :=
  match y.decls.find? fun d => d.id == id && d.kind == 1 with
  | some d => d.presetMs
  | none => 0

/-- START and EXPIRY of a timer. -/
def timerBytes (start expiry : Nat) : List Byte := leBytes 8 start ++ leBytes 8 expiry

/-! ## Cold restart values (R176) -/

/-- The value of a variable after a cold restart: INIT, an idle TIMER, an EDGE with PRIMED 0, the carry-over block. INIT has 8 B:
a BLOB of 64 B takes them as its first, the rest 0 (DESIGN CHOICE, log entry 90). -/
def coldValue (d : DirEnt) : List Byte :=
  if d.type = 7 then timerBytes timerIdle timerIdle
  else if d.type = 8 then [0]
  else if d.type = 9 then carryCold
  else leBytes (typeSize d.type) d.init.toNat

/-- Every declared area is locked, its timer idle until the first common instant; undeclared areas are idle (R178, R179). -/
def coldAreas (y : Yealm) (m : Mem) : Mem :=
  (List.range 16).foldl (fun m a => areaSet m a (a < y.narea) timerIdle) m

/-- A command that a cold restart ends (R177): terminal, ABORTED_RESTART, its completion due; one that was terminal already
keeps its status (R65). -/
def abortCmd (k : Nat) (c : CmdEnt) : CmdEnt :=
  if c.terminal then { c with confirmed := true, termDue := true } else
  { c with confirmed := true, terminal := true, termDue := true, status := 0x05, reason := 0, data := 0, tcyc := k % 2 ^ 32 }

/-- The region after a cold restart (R176 to R178): variables, route state bytes 0, runtime part cleared but for the next ASN
and the commands that end ABORTED_RESTART. -/
def coldRegion (y : Yealm) (nextAsn k : Nat) (aborted : List CmdEnt) : Mem :=
  let m1 := y.dir.foldl (fun m d => memWrite m d.off (coldValue d)) []
  let m2 := y.truss.routes.foldl (fun m r => memPut m r.rsOff 0) m1
  let m3 := coldAreas y m2
  let m4 := rgSetNextAsn m3 nextAsn
  let m5 := aborted.foldl (fun m c => cmdNew m (abortCmd k c)) m4
  let m6 := rgSetNextTerm m5 (match aborted with | [] => nextAsn | c :: _ => c.asn)
  rgSetCycle m6 k

/-- Set the restart-locking timers at the first common instant of cycle k (R179). -/
def setRlock (y : Yealm) (k : Nat) (m : Mem) : Mem :=
  (List.range y.narea).foldl
    (fun m a => if areaLocked m a then areaSet m a true (k + rlockCycles (y.rlockS.getD a 180) y.periodMs) else m) m

/-- The ASN reserve mark that the module's lanes hold: the highest (R176). -/
def reserveMark (s : State) : Nat := maxOf (s.lanes.toList.map fun x => (bootCur x.mram).asnMark.toNat)

/-- The cold restart as a lane's MRAM takes it: recorded in the boot record under its number, every snapshot and journal group written
before it void, the journal afresh (R176). -/
def coldMram (n : Nat) (m : Mram) : Mram :=
  let b := bootWrite m fun b => { b with colds := n, activated := false }
  { b with journal := [], wrap := false, jPos := 0, snaps := m.snaps.map fun o => o.map fun sn => { sn with complete := false } }

/-- The number of the next cold restart: one more than any lane's boot record holds (R176). -/
def nextCold (s : State) : Nat := maxOf (s.lanes.toList.map fun x => (bootCur x.mram).colds) + 1

/-- What waited for the journal is void too; a snapshot under way is given up (R176). -/
def coldQueues (x : LaneSt) : LaneSt :=
  { x with
    mramq := { x.mramq with items := x.mramq.items.filter fun w => !w.isJournal,
                            credits := x.mramq.credits + (x.mramq.items.filter (·.isJournal)).length },
    jWait := [], snapRun := none }

/-- The cold restart in a lane that takes no part in it (R176). -/
def voidLane (n : Nat) (x : LaneSt) : LaneSt := coldQueues { x with mram := coldMram n x.mram }

/-- A lane's cold restart in the running module or at boot: the region, the digest over it, the output image cleared, the
journal afresh, snapshots void, the reserve mark advanced (R58, R176). -/
def coldLane (n mark k : Nat) (aborted : List CmdEnt) (x : LaneSt) : LaneSt :=
  match x.yealm with
  | none => voidLane n x
  | some y =>
    let r := coldRegion y mark k aborted
    let mr := bootWrite (unloadBank x).mram fun b => { b with asnMark := BitVec.ofNat 64 (mark + 2 ^ 20) }
    { voidLane n { x with mram := mr } with
      region := r, work := r, digest := digestWhole (regionWords y) r, log := [], verdicts := [], newReqs := [], descs := [],
      pub := [], pubNew := [], gmPub := 0, gmNew := none, drive := [], driveE := 0, driveG := 0,
      truss := {}, mapped := none }

/-! ## Mapping at an exchange (R183) -/

/-- The route of the old tables with the same RS_ID. -/
def sameRoute (old : Yealm) (rsId : Word) : Option Nat :=
  (findIdxVal (fun r : RouteRec => r.rsId == rsId) 0 old.truss.routes).map (·.1)

/-- The carry-over block under the new route numbers: each route's bits follow its RS_ID (R149). -/
def mapCarry (old new : Yealm) (m : Mem) : List Byte :=
  let rs := (enumFrom0 new.truss.routes).map fun x => (x.1, sameRoute old x.2.rsId)
  let pick (f : Nat → Bool) : List Nat := (rs.filter fun x => match x.2 with | some o => f o | none => false).map (·.1)
  carryBytes (pick (prevHeld m old.truss.tcbOff)) (pick (refusedBit m old.truss.tcbOff))

/-- The new value of one new directory entry (R183). -/
def mapVar (old new : Yealm) (m : Mem) (n : DirEnt) : List Byte :=
  let same := old.dir.find? fun o => o.id == n.id && o.type == n.type
  if n.type = 9 then mapCarry old new m
  else
    match same with
    | some o =>
      let start := memNat m o.off 8
      let expiry := memNat m (o.off + 8) 8
      if n.type = 7 && start != timerIdle then
        let cand := start + presetCycles (presetOf new n.id) n.safe new.periodMs
        timerBytes start (if n.safe = 2 then min expiry cand else max expiry cand)
      else memRead m o.off (typeSize n.type)
    | none => if n.type = 8 then [0] else if n.type = 7 then timerBytes timerIdle timerIdle else leBytes (typeSize n.type) n.init.toNat

/-- The mapped region: the runtime part as it stands, every new variable by `mapVar` (R183). -/
def mapRegion (old new : Yealm) (m : Mem) : Mem :=
  new.dir.foldl (fun acc n => memWrite acc n.off (mapVar old new m n)) (m.filter fun c => c.1 < 0x10000)

/-! ## Node images at a restart (R205, R206) -/

/-- Endpoint number of R5. -/
def epNumber (ring pos j : Nat) : Nat := (ring - 1) * 32768 + pos * 128 + j

/-- SUBST of an endpoint reference; 0 where the map does not list it (R158). -/
def substOf (y : Yealm) (ref : Nat) : Bool :=
  match y.endpoints.find? fun e => e.ref.toNat == ref with
  | some e => e.subst
  | none => false

/-- Every endpoint at its substitute with a quality. -/
def substAll (y : Yealm) (ring pos : Nat) (q : Quality) : List EpVal :=
  (List.range 128).map fun j => ⟨substOf y (epNumber ring pos j), q⟩

/-- A node before its first used sections (R205, R206). -/
def freshNode (y : Yealm) (ring pos : Nat) (n : NodeEnt) : NodeImg :=
  { a := n.lage + 1, b := n.lage + 1, vals := substAll y ring pos .stale, chan := List.replicate 128 .foreign,
    nflagsG := 0, holdT := 0, diagG := 0, nflagsS := 0, outAge := 0, diagS := 0, confG := false, confS := false,
    cfgRun := none, late := 0, stamp := (0, .none) }

/-- The node images before the first used sections of a yealm's rings. -/
def freshNodes (y : Yealm) : Quad (List NodeImg) :=
  y.rings.mapL fun l nl => (enumFrom0 nl.nodes).map fun x => freshNode y (l.num + 1) x.1 x.2

/-- From the first common instant of a restart every node waits for its first used sections (R205, R206). -/
def restartNodes (s : State) : State :=
  match theYealm s with
  | some y => { s with agr := { s.agr with nodes := freshNodes y } }
  | none => s

end Sys2Proof.Machine
end

