-- ==== Sys2Proof/Machine/Instant.lean ====
section
/-! DEFINITION. The common instant Ck (R29 to R31): the boundary rule (R21), the samples (R30), roles (R97, R99, R104),
key and state changes (R379 to R387), the exchange swap (R181), the opening of the cycle; and the lane rows that only mark
points of the timetable. -/

namespace Sys2Proof.Machine

/-! ## Time -/

/-- Ring and supervisor time, and with it the shelf counter (R409), run on to an offset from Ck, if it lies ahead (R35,
R354, R368). -/
def advanceTo (s : State) (offNs : Nat) : State :=
  let target := s.time.ckNs + BitVec.ofNat 64 offNs
  let d := (target - s.time.ringNs).toNat
  if d = 0 || 2 ^ 63 ≤ d then s
  else
    let sup := s.time.supUs + BitVec.ofNat 64 (d / 1000)
    { s with
      time := { s.time with ringNs := target, supUs := sup },
      ul := { s.ul with shelf := s.ul.shelf.map (· + (sup.toNat / 60000000 - s.time.supUs.toNat / 60000000)) } }

/-- The vital period in ns. -/
def periodNs (s : State) : Nat := periodMs s * 1000000

/-- Time reaches the next common instant, one period after the last (R29). -/
def nextCk (s : State) : State :=
  let s1 := advanceTo s (periodNs s)
  { s1 with time := { s1.time with ckNs := s.time.ckNs + BitVec.ofNat 64 (periodNs s) } }

/-! ## The boundary rule (R20, R21, R64) -/

/-- Lanes whose queues take inputs: those that vote or run shadow cycles; while none votes the ready lanes too, but not one
that rests or receives a copy (R20, R25, R81). -/
def getsInput (s : State) (l : Lane) : Bool :=
  match (s.lanes.get l).role with
  | .voting | .shadow => true
  | .off => (voting s).isEmpty && readyLane s l
  | .resting | .copy | .excluded | .halted | .retired => false

/-- Lanes whose command intake queue has credits: every one but those excluded, halted or retired (R19, R97). -/
def takesCommands (x : LaneSt) : Bool :=
  match x.role with
  | .off | .voting | .resting | .copy | .shadow => true
  | .excluded | .halted | .retired => false

/-- What the per-cycle queues still hold: queue of R18 in the order of its table, instance, count. Forged items of an injection are
no items of the cycle (R110). Blocks of the cycle that the mirror queue's credits did not suffice for spill with it (R337). -/
def spills (s : State) : List (Nat × Nat × Nat) :=
  let perLane := Lane.all.flatMap fun l =>
    let x := s.lanes.get l
    (RingId.all.map fun r => (0, 4 * (r.num - 1) + l.num, (x.ringIn.get r.slot).items.length)) ++
    [(1, l.num, x.cmdIn.items.length)] ++
    (Lane.all.map fun src => (2, 4 * l.num + src.num, (x.purlin.get src).items.countP fun f => f.kind != .inject)) ++
    (RingId.all.map fun r => (3, 4 * (r.num - 1) + l.num, (x.setq.get r.slot).items.length)) ++
    [(4, l.num, x.cplq.items.length), (5, l.num, x.indq.items.length)]
  (perLane ++ [(6, 0, s.peer.mirrorQ.items.length + s.peer.mirrorWait.length)]).filter fun x => x.2.2 != 0

/-- Empty queues with full credits for a lane (R20, R21), none for one that is excluded, halted or retired (R97); what was to be
pushed belongs to the cycle just ended. Unwritten program indications are told to the program, module records wait on, one of
each kind, and diagnostic records are dropped (R27). -/
def boundaryLane (gets : Bool) (x : LaneSt) : LaneSt :=
  let left := x.sentInds ++ x.inds
  { x with
    ringIn := Quad.fill ⟨[], if gets then 128 else 0⟩, cmdIn := ⟨[], if takesCommands x then 64 else 0⟩, cmdBuf := [],
    bulkIn := if takesCommands x then { x.bulkIn with credits := 64 - x.bulkIn.items.length } else ⟨[], 0⟩, bulkCyc := 0,
    purlin := Quad.fill ⟨[], 64⟩, setq := Quad.fill ⟨[], 32⟩, cplq := ⟨[], 128⟩, indq := ⟨[], 512⟩, sImage := ⟨[], [], [], []⟩,
    unwritten := left.filter fun i => i.kind == 0x01,
    inds := (left.filter indIsModule).foldl indMerge [],
    sentInds := [], cplSent := 0, indSent := 0, txCount := 0, ballot := none, eFrame := none, edgePrev := x.edgeBuf,
    edgeBuf := List.replicate 64 0xFFFF }

/-- Items of another cycle that a consumer discards count as a boundary spill of their queue (R32). -/
def spillCount (s : State) (queue inst n : Nat) : State :=
  if n = 0 then s else raiseHub s 0x0101 (argInst (arg1 queue ++ arg1 inst) ++ arg2 n)

/-- The descriptors of a cycle among the slots of an intake queue (R31, R32). -/
def cmdsOf (k : DWord) (q : List CmdSlot) : List (List Byte) := (q.filter fun c => c.cycle == k).map (·.desc)

/-- The mirror queue at the instant: a block that spills marks the standby's mirrored state incomplete (R23), a relay does not. -/
def mirrorBoundary (p : PeerSt) : PeerSt :=
  let lost := (p.mirrorQ.items ++ p.mirrorWait).any fun m => !m.relay
  { p with mirrorQ := ⟨[], 256⟩, mirrorWait := [], markInc := p.markInc || lost, markSeen := p.markSeen && !lost }

/-- The boundary rule: a BOUNDARY_SPILL alarm for each queue that is not empty, then empty queues and full credits. A spill
of the mirror queue leaves the standby's state incomplete (R23); one of a Purlin buffer is a missed fabric deadline of the
sender (R64), but in a cycle that was missed no lane is excluded for it (R69). The hub's outstanding reports come first. -/
def boundary (s0 : State) : State :=
  let s := reportAll s0
  let sp := spills s
  let s1 := sp.foldl (fun s x => raiseHub s 0x0101 (argInst (arg1 x.1 ++ arg1 x.2.1) ++ arg2 x.2.2)) s
  let s2 := (Lane.all.filter fun src => !s.cyc.missed && sp.any fun x => x.1 == 2 && x.2.1 % 4 == src.num && (s.lanes.get src).role == .voting).foldl
    (fun s l => decideExcl s l .fabric []) s1
  { s2 with
    lanes := s2.lanes.mapL fun l x => boundaryLane (getsInput s2 l) x,
    rings := { s2.rings with hand := ⟨[], [], [], []⟩, fwd := ⟨[], [], [], []⟩ },
    host := { s2.host with cmdHand := ⟨[], [], [], []⟩, fetched := 0, cplHeld := false },
    peer := mirrorBoundary s2.peer }

/-- A delta of the cycle just ended that is still unwritten, a credit still to come included, raises JOURNAL_LATE and is written ahead of the next (R45). -/
def journalLate (s : State) : State :=
  let ls := lanesWith s.lanes fun x => (x.role == .voting || x.role == .shadow) &&
    (x.jWait ++ x.mramq.items).any (·.isJournal)
  let s1 := ls.foldl (fun s l => raiseLane s l 0x0104 (argLane l)) s
  { s1 with lanes := s1.lanes.mapL fun l x => { x with late := ls.contains l } }

/-! ## Samples and the strobe -/

/-- Each lane samples the key contacts, the supply status and its switch sense network (R30). -/
def sample (s : State) (smp : Quad LaneSample) : State :=
  { s with lanes := s.lanes.mapL fun l x =>
      let m := smp.get l
      { x with live := m.live && (x.role.healthy || readyLane s l), key := m.key, sw := m.sw, sup := m.sup } }

/-- Ticks of the lane's crystal since the last strobe: its own timer ran off one period, and the strobe came `d` ns after what the
timer then expected, from which it had been left off by `timerNs` at the last one (R364, R365). -/
def strobeTicks (perNs : Nat) (d : Int) (x : LaneSt) : Nat := (((perNs : Int) + d - x.timerNs) / 40).toNat

/-- The lane counts its ticks up to the strobe, which re-aligns its cycle timer by at most 2 us; one more than 10 us off is ignored
for the alignment and counted (R364, R365). -/
def alignLane (perNs : Nat) (d : Int) (x : LaneSt) : LaneSt :=
  let y := { x with ticks := x.ticks + strobeTicks perNs d x }
  if 10000 < d.natAbs then { y with badStrobe := x.badStrobe + 1, timerNs := d }
  else { y with timerNs := d - max (-2000) (min 2000 d) }

/-! ## Roles -/

/-- Exclusions, halts and retirements due at the instant (R96 to R99, R113). -/
def applyLeaving (s : State) : State :=
  { s with
    lanes := s.lanes.mapL fun l x =>
      match s.cyc.toExcl.get l with
      | some _ => if x.role == .retired then x else exclude s.time.supUs x
      | none => if x.haltReq then haltLane x else x,
    cyc := { s.cyc with
      toExcl := Quad.fill none, stops := Quad.fill false,
      rejoiner := match s.cyc.rejoiner with
        | some r => if (s.cyc.toExcl.get r).isSome || (s.lanes.get r).haltReq then none else some r
        | none => none,
      joinNext := s.cyc.joinNext && (match s.cyc.rejoiner with
        | some r => (s.cyc.toExcl.get r).isNone && !(s.lanes.get r).haltReq
        | none => false) } }

/-- A lane in COPY whose copy is verified takes SHADOW (R99, R104); from the first of its shadow cycles it has ring input credits
again (R20). -/
def applyShadow (s : State) : State :=
  { s with lanes := s.lanes.map fun x =>
      if x.role == .copy && x.copied then { x with role := .shadow, shadowOk := 0, ringIn := Quad.fill ⟨[], 128⟩ } else x }

/-- The join: the rejoining lane votes, and NEXT_REST rests if three lanes will still vote (R104, R106); the rotation count
starts afresh (R101). -/
def applyJoin (s : State) : State :=
  match s.cyc.joinNext, s.cyc.rejoiner with
  | true, some r =>
    let votes := (voting s).length
    let s1 := onLane s r fun x => { x with role := .voting, shadowOk := 0, rejoinRdy := false, rotJoin := false,
                                           checked := true, bist := (endPass x).bist }
    let s2 := if 3 ≤ votes then onLane s1 s.cyc.nextRest restLane else s1
    { s2 with cyc := { s2.cyc with joinNext := false, rejoiner := none, sinceJoin := 0, rotDue := false } }
  | _, _ => s

/-- A lane of a standby takes COPY, its region coming from the mirror (R99, R338, R341). -/
def standbyCopy (x : LaneSt) : LaneSt :=
  { (endPass x) with role := .copy, copied := true, shadowOk := 0, copyFails := 0, yealm := activeImage x.mram }

/-- While no lane of a standby votes: once every ready lane has passed the injection set and none runs it, three of them, those in
COPY or SHADOW first, go on to shadow the mirrored cycles, and the others rest; after its third matching shadow cycle each votes
(R99, R106, R341; log entry 11). -/
def standbyRoles (s : State) : State :=
  let ls := readyLanes s
  let role (l : Lane) := (s.lanes.get l).role
  if s.mod.st == .standby && (voting s).isEmpty && 2 ≤ ls.length &&
      ls.all (fun l => (s.lanes.get l).injectOk && ((s.lanes.get l).bist.pass.isNone || role l == .resting)) then
    let done := ls.filter fun l => role l == .shadow && 3 ≤ (s.lanes.get l).shadowOk
    if 2 ≤ done.length then onLanes s done fun _ x => { x with role := .voting, shadowOk := 0 }
    else
      let run := ls.filter fun l => role l == .copy || role l == .shadow
      let first := (run ++ (ls.filter fun l => role l == .off) ++ ls.filter fun l => role l == .resting).take 3
      onLanes s ls fun l x =>
        if first.contains l then (if x.role == .shadow then x else standbyCopy x)
        else if x.role == .off then restLane { x with yealm := activeImage x.mram } else x
  else s

/-- Fewer than two lanes would vote: SAFE STOP with LANES_LOST at this instant (R109). -/
def checkVotes (s : State) : State :=
  if s.mod.st.runs && (voting s).length < 2 then
    let s1 := if healthyCount s < 2 then s else raiseShared s 0x0209 []
    enterSafeStop s1
  else s

/-- The lane that rejoins has two matching shadow cycles behind it: with this one it joins (R106). -/
def joinExpected (s : State) : Bool :=
  match s.cyc.rejoiner with
  | some r => (s.lanes.get r).role == .shadow && (s.lanes.get r).shadowOk == 2
  | none => false

/-- The roles after the last of the boot shadow cycles (R390). -/
def bootVotes (s : State) : State :=
  match s.mod.boot.b with
  | some b => if s.cyc.k.toNat = b.toNat + 3 then
      onLanes s ((lanesIn s.lanes .shadow).filter fun l => s.mod.boot.matched.get l) fun _ x => { x with role := .voting }
    else s
  | none => s

/-- The roster word that the lanes propose for the next common instant, from the role changes known once the inputs are agreed and
the join that this cycle completes (R82, R92; log entry 7). -/
def nextRoster (s : State) : Word :=
  (setMode (bootVotes (applyJoin (applyShadow (applyLeaving
    { s with cyc := { s.cyc with joinNext := s.cyc.joinNext || joinExpected s } }))))).cyc.roster

/-- A standby with fewer than two healthy lanes enters SAFE STOP (R387). -/
def checkStandby (before : Nat) (s : State) : State :=
  if s.mod.st == .standby && 2 ≤ before && healthyCount s < 2 then enterSafeStop s else s

/-- A fourth exclusion within 24 h retires the lane: LANE_RETIRED without PERMANENT (R98, R408). Its black box is a path no more
(R417). -/
def retiredAlarms (before s : State) : State :=
  redrain ((Lane.all.filter fun l => (before.lanes.get l).role != .retired && (s.lanes.get l).role == .retired).foldl
    (fun s l => raiseLane s l 0x0B03 (argLane l ++ arg1 0)) s)

/-- Role changes due at the instant, then MODE, NEXT_REST and the alarms of degraded operation. -/
def roles (s : State) : State :=
  checkStandby s.cyc.healthy
    (checkVotes (lanesAlarm (setMode (standbyRoles (applyJoin (applyShadow (retiredAlarms s (applyLeaving s))))))))

/-! ## Key position (R379 to R384) -/

/-- The cold restart of the running module when the key leaves TEST: no reset, the cycle number runs on, every area locked
from this instant k, pending commands ABORTED_RESTART (R177, R384). -/
def coldRunning (s : State) (k : Nat) : State :=
  let cmds := (cmdList (lead s).work).map (·.2)
  let high := rgNextAsn (lead s).work - 1
  let mark := reserveMark s
  let n := nextCold s
  let ls := working s
  let s1 := onLanes s Lane.all fun l x =>
    if x.role == .retired then x
    else if !ls.contains l then voidLane n x
    else
    let y := coldLane n mark k cmds x
    match y.yealm with
    | none => y
    | some ye =>
      let r := setRlock ye k y.region
      { y with region := r, work := r, digest := digestWhole (regionWords ye) r }
  let s2 := { s1 with mod := { s1.mod with snapDue := true }, cyc := { s1.cyc with done := 0, discRun := [] } }
  raiseShared (restartNodes s2) 0x0482 (argOne ++ arg8 high)

/-- The state a vital module takes (R381, R387): HOLD with an invalid key, else by restart locking. -/
def vitalState (s : State) : ModState :=
  if s.ctl.pos == some .invalid then .hold
  else if anyLocked (lead s).region then .vitalRestricted else .vital

/-- A halted lane returns through EXCLUDED for re-initialisation and the injection set; it is not counted under R98 (R99, R115). -/
def releaseHalted (x : LaneSt) : LaneSt :=
  { x with role := .excluded, inReset := true, clocksOn := true, bist := { startPass x.bist .inject with reinit := true } }

/-- A position that was taken comes into force (R379); a move into RUN
leaves every pair unproven (R246); leaving TEST discards the injections and restarts cold (R384); in RUN
every halted lane is released (R115). -/
def applyKey (s : State) (k : Nat) : State :=
  match s.ctl.next with
  | none => s
  | some p =>
    let wasTest := s.ctl.lastValid == some .test
    let s1 := { s with ctl := { s.ctl with pos := some p, next := none, lastValid := if p == .invalid then s.ctl.lastValid else some p } }
    let s2 := if p == .run then
        { s1 with lanes := s1.lanes.map fun x => if x.role == .halted then releaseHalted x else x } else s1
    let s3 := if wasTest && (p == .run || p == .maint) then
        let t := { s2 with agr := { s2.agr with inj := [] } }
        if t.mod.st.runs then setState (coldRunning t k) .vitalRestricted else t
      else s2
    let s4 := if p == .run then
        let t := onLanes s3 (working s3) fun _ x => workWrite x fun m => rgSetProof m 0
        { t with agr := { t.agr with pairOff := 0 } }
      else s3
    reportState s4

/-! ## Module state -/

/-- State changes due at the instant: SAFE STOP (R95), the end of a restart that has backed off (R230, R352), STANDBY (R346, R347), HOLD and its end (R381), VITAL once no area is
locked (R178), the claim (R344). -/
def applyState (s : State) : State :=
  if s.cyc.stopNext && (s.mod.st.runs || s.mod.st == .indicate || s.mod.st == .standby || s.mod.st == .boot) then enterSafeStop s
  else if s.mod.leave && s.mod.st == .boot then
    { s with mod := { s.mod with leave := false }, peer := { s.peer with held := false }, ul := { s.ul with leaseRun := false } }
  else if s.mod.leave && (s.mod.st.runs || s.mod.st == .indicate) then
    let s1 := { s with mod := { s.mod with leave := false }, cyc := { s.cyc with opened := false },
                       peer := { (mirrorFresh s.peer) with held := false, claimPlanes := none },
                       ul := { s.ul with leaseRun := false },
                       lanes := s.lanes.map fun x => { x with drive := [], driveE := 0, driveG := 0 } }
    setState (raiseShared s1 0x0808 []) .standby
  else if s.mod.claim && s.mod.st == .standby then setState { s with mod := { s.mod with claim := false } } (vitalState s)
  else if s.mod.st.runs then setState s (vitalState s)
  else s

/-! ## Exchange (R181) -/

/-- At C(X) the new yealm and the mapped region come into force and the bank roles swap. -/
def swapLane (x : LaneSt) : LaneSt :=
  match x.mapped, (shadowBank x.mram).img with
  | some v, some y =>
    let mr := x.mram
    let m := (x.region.filter fun c => c.1 < 0x10000) ++ v.filter fun c => 0x10000 ≤ c.1
    let w := (x.work.filter fun c => c.1 < 0x10000) ++ v.filter fun c => 0x10000 ≤ c.1
    let mr' := if shadowIsOne mr then
        { mr with bank0 := { mr.bank0 with state := .verified }, bank1 := { mr.bank1 with state := .active } }
      else { mr with bank1 := { mr.bank1 with state := .verified }, bank0 := { mr.bank0 with state := .active } }
    { x with yealm := some y, region := m, work := w, digest := digestWhole (regionWords y) m, mapped := none, mram := mr' }
  | _, _ => x

/-- The swap of the voting lanes at C(X). -/
def applyExchange (s : State) (k : Nat) : State :=
  if s.mod.exch = .ready && rgExchX (lead s).work = k then
    let s1 := onLanes s (voting s) fun _ x => swapLane x
    { s1 with mod := { s1.mod with exch := .idle, exchDone := true, snapDue := true,
                                   ycrc := match theYealm s1 with | some y => y.crc64 | none => s.mod.ycrc } }
  else s

/-! ## Time set-up in force (R459) -/

/-- Station time of the agreed image goes from LOCKED to HOLDOVER. -/
def toHoldover (s : State) : State :=
  onLanes s (working s) fun _ x => workWrite x fun m =>
    if stimeState (rgStime m) == .locked then rgSetStime m (stimeWord .holdover (stimeUs (rgStime m))) else m

/-- TIMECFG takes effect at the next common instant: a change of SRC puts a LOCKED time into HOLDOVER, a change of DOMAIN
restarts the slave's acquisition, and a slave that was locked has lost its source (R359). -/
def applyTimecfg (s : State) : State :=
  let c := s.ul.timecfg.toNat
  let src := bitAt c 0
  let dom := bitsAt c 14 8
  let s0 := if dom != s.time.domain && s.time.ptpLock then raiseHub s 0x0981 [] else s
  let s1 := if src != s.time.src then toHoldover s0 else s0
  let t := s1.time
  let t1 := if dom = t.domain then t else { t with ptpLock := false, goodSync := 0, badSync := 0 }
  { s1 with time := { t1 with src := src, domain := dom, utcOfs := BitVec.ofNat 16 (bitsAt c 31 16) } }

/-! ## Boot shadow cycles (R390) -/

/-- At C(b + 4) the lanes that matched in all three cycles vote and the module enters its next state; with fewer than three
it stays in INDICATE with LANES_INSUFFICIENT, and the roles stand until they are taken afresh. It waits while no key position has been taken (R379). -/
def bootJoin (s : State) (k : Nat) : State :=
  match s.mod.boot.b with
  | none => s
  | some b =>
    if s.mod.st != .indicate || k < b.toNat + 4 || s.ctl.pos.isNone then s
    else
      let ok := lanesWith s.lanes fun x => x.role == .shadow
      let good := ok.filter fun l => s.mod.boot.matched.get l
      let s1 := { s with mod := { s.mod with boot := { s.mod.boot with b := none, matched := Quad.fill false } } }
      if good.length < 3 then
        raiseShared { s1 with mod := { s1.mod with boot := { s1.mod.boot with insuff := true } } } 0x020A []
      else
        let s2 := onLanes s1 good fun _ x => { x with role := .voting, shadowOk := 0 }
        let s3 := setMode s2
        let s4 := { s3 with cyc := { s3.cyc with healthy := healthyCount s3, sinceJoin := 0 } }
        let s5 := lanesAlarm { s4 with cyc := { s4.cyc with healthy := 4 } }
        setState s5 (vitalState s5)

/-! ## The opening of the cycle -/

/-- Completions of a region that are due and not delivered (R312). -/
def undelivered (m : Mem) : Nat :=
  let es := (cmdList m).map (·.2)
  (es.filter fun c => c.confirmed && !c.accDel).length + (es.takeWhile (·.termDue)).length

/-- How many descriptors may be fetched for the cycle: 64, or half the free CPLQ entries less the completions still
undelivered (R39, R295). -/
def fetchLimit (s : State) : Nat :=
  min 64 (ringFree (qAt s qCPLQ) / 2 - (undelivered (lead s).work + (lead s).answers.length))

/-- A vital or boot shadow cycle runs in this state. -/
def cycleRuns (s : State) : Bool := (s.mod.st.runs || (s.mod.st == .indicate && s.mod.boot.b.isSome)) && !s.ul.stopAt

/-- The cycle opens with its number, nothing of it done yet (R31); the syslog budget grows by 2 records a ms to at most
64 (R417). -/
def openCycle (s : State) (k : DWord) : State :=
  let run := cycleRuns s
  { s with
    cyc := { s.cyc with
      k := k, opened := run, closed := false, agreedIn := false, voting := false, voted := false, missed := false, barred := false,
      released := if s.mod.st == .standby then s.cyc.released else [], ballots := Quad.fill none, copyNow := false, sent := false, pushed := false, diagLim := false,
      noDiag := false, window := s.cyc.window + 1, gather := false, mirrored := s.mod.st == .standby },
    agr := { s.agr with shown := if s.mod.st == .standby then s.agr.shown else [], toShow := [], accepted := [] },
    host := { s.host with fetchLim := if s.peer.claimK == some k then 0 else fetchLimit s },
    ul := { s.ul with lastCk := if run then some (s.time.supUs, k) else s.ul.lastCk,
                      orderly := if s.mod.shutReq then some .shutdown else s.ul.orderly },
    mod := { s.mod with shutReq := false, snapDue := s.mod.snapDue || s.mod.shutReq },
    gut := { s.gut with budget := min 64 (s.gut.budget + 2 * periodMs s) },
    lanes := s.lanes.map fun x => { x with k := x.k + 1, taken := [], bbCount := 0, bist := { x.bist with fabricSlice := false } } }

/-- An orderly stop ends with cycle j: from C(j + 1) there is no Batten drive and no cycle (R377, R392). -/
def orderlyStop (s : State) : State :=
  if s.ul.orderly.isSome then
    { s with ul := { s.ul with stopAt := true }, lanes := s.lanes.map fun x => { x with drive := [], driveE := 0, driveG := 0 } }
  else s

/-- PORT_OPEN of a port that was opened before the lanes had finished recovery or initialisation: at instant b (R320). -/
def portOpenAtB (s : State) : State :=
  if s.host.portOpenDue && s.host.en && s.mod.boot.b == some s.cyc.k then
    let s1 := { s with host := { s.host with portOpenDue := false } }
    indicate s1 (mkInd s1 0x12 (portOpenPay (lead s1).work))
  else s

/-- The end of the cycle by which a whole round of FULL slices has been applied: the standby's mirrored state is complete, and
no SHADOW_MISMATCH counts any more (R335, R339). -/
def mirrorEnd (s : State) : State :=
  if s.peer.mirrorReady then { s with peer := { s.peer with mirrorReady := false, mirrorOk := true, shadowOk := true } } else s

/-- A lane that has stopped is excluded at the instant whether or not its STOP flits have been seen (R79, R96, R99). -/
def stoppedLanes (s : State) : State :=
  (lanesWith s.lanes fun x => x.stopped && x.role.healthy).foldl (fun s l => decideExcl s l .lockstep []) s

/-- What cycle k - 1 leaves at its end: its spills, its late deltas, the deadlines missed in it, lanes that have stopped. -/
def endCycle (s : State) : State := stoppedLanes (battenMisses (mirrorEnd (journalLate (boundary s))))

/-- From the instant on the cycle number is k (R31). -/
def countCycle (s : State) : State := { s with cyc := { s.cyc with k := s.cyc.k + 1, agreedIn := false } }

/-- Each lane samples its contacts and is aligned to the strobe (R30, R365). -/
def takeSamples (smp : Quad LaneSample) (strobe : Quad Int) (s : State) : State :=
  let t := sample s smp
  { t with lanes := t.lanes.mapL fun l x => alignLane (periodNs s) (strobe.get l) x }

/-- From its next cycle on the module launches no frame on a ring that it backs off (R230). -/
def ringBackOff (s : State) : State :=
  { s with rings := { s.rings with
      backedOff := s.rings.backedOff.mapL fun l b => b || s.rings.backNext.get l, backNext := Quad.fill false } }

/-- What takes effect at Ck: roles, exchange, key position, module state, time set-up, the join after the boot shadow cycles. -/
def takeEffect (s : State) : State :=
  let k := s.cyc.k.toNat
  bootJoin (applyTimecfg (ringBackOff (applyState (applyKey (applyExchange (roles (orderlyStop s)) k) k)))) k

/-- COMMON_INSTANT (R30): cycle k opens. -/
def commonInstant (smp : Quad LaneSample) (strobe : Quad Int) (s : State) : State :=
  let t := takeEffect (takeSamples smp strobe (countCycle (endCycle (nextCk s))))
  reportState (openCycle (signalState t) t.cyc.k)

/-- COMMON_INSTANT: nothing runs while the module is OFF or its hub is held (R8, R372). -/
def execCommonInstant (smp : Quad LaneSample) (strobe : Quad Int) (s : State) : Host.Outcome State Fault Refusal :=
  .next (if hubUp s then commonInstant smp strobe s else s)

end Sys2Proof.Machine
end

