-- ==== Sys2Proof/Machine/Sections.lean ====
section
/-! DEFINITION. Ring frames and sections (R188 to R196), a lane's test and decision for a section (R200, R201), and the
node image the lanes form from the agreed sections (R202 to R207). -/

namespace Sys2Proof.Machine

/-! ## Frame header (R188) and section (R190 to R196) -/

/-- FTYPE values of the frames the lanes read. -/
def ftG : Nat := 0x5A47
def ftS : Nat := 0x5A53

/-- A 64-byte frame header with its HDR_CRC (R188). -/
def frameHdr (ftype ring plane flags mid nsect first periodUs epoch cycle tLaunch tLatch : Nat) : List Byte :=
  withCrcBE (beBytes 2 ftype ++ [0x01] ++ beBytes 1 (16 * ring + plane) ++ beBytes 1 flags ++ beBytes 1 mid ++
    beBytes 2 nsect ++ beBytes 2 first ++ beBytes 2 periodUs ++ beBytes 4 epoch ++ beBytes 8 cycle ++ beBytes 8 tLaunch ++
    beBytes 8 tLatch ++ zeros 20)

/-- HDR_CRC of a header is correct. -/
def hdrOk (h : List Byte) : Bool := h.length == 64 && fldBE h 0x3C 4 == (crc32c (h.take 0x3C)).toNat

/-- FTYPE. -/
def hdrType (h : List Byte) : Nat := fldBE h 0 2
/-- Ring number of RINGPLANE. -/
def hdrRing (h : List Byte) : Nat := fldBE h 3 1 / 16
/-- Plane bit of RINGPLANE. -/
def hdrPlane (h : List Byte) : Nat := fldBE h 3 1 % 2
/-- FLAGS. -/
def hdrFlags (h : List Byte) : Nat := fldBE h 4 1
/-- MASTER_ID bit. -/
def hdrMid (h : List Byte) : Nat := fldBE h 5 1 % 2
/-- NSECT. -/
def hdrNsect (h : List Byte) : Nat := fldBE h 6 2
/-- FIRST_POS. -/
def hdrFirst (h : List Byte) : Nat := fldBE h 8 2
/-- EPOCH. -/
def hdrEpoch (h : List Byte) : Nat := fldBE h 0x0C 4
/-- CYCLE. -/
def hdrCycle (h : List Byte) : Nat := fldBE h 0x10 8

/-- FTYPE of DISCOVER and TIMING (R220). -/
def ftDiscover : Nat := 0x5A44
def ftTiming : Nat := 0x5A54

/-- A header that a cage takes for a ring frame's: HDR_CRC, a listed FTYPE, FORMAT 0x01 (R188). -/
def ringHdr (h : List Byte) : Bool :=
  hdrOk h && (hdrType h == ftG || hdrType h == ftS || hdrType h == ftDiscover || hdrType h == ftTiming) && fldBE h 2 1 == 1

/-- The section belongs to the cycle: the number its frame carries (R31). -/
def ofCycle (k : DWord) (w : RingSlot) : Bool := hdrCycle w.hdr == k.toNat

/-- CRC of a section under R196: bytes 0 to 51, CONN_ID and EPOCH big-endian. -/
def sectCrc (body : List Byte) (connId epoch : Word) : Word :=
  crc32c (body.take 52 ++ beBytes 4 connId.toNat ++ beBytes 4 epoch.toNat)

/-- A section's CRC field. -/
def secCrcField (sec : List Byte) : Nat := fldBE sec 52 4
/-- A section's SEQ. -/
def secSeq (sec : List Byte) : Nat := fldBE sec 48 4
/-- STYPE. -/
def secType (sec : List Byte) : Nat := fldBE sec 0 1
/-- POS. -/
def secPos (sec : List Byte) : Nat := fldBE sec 1 1
/-- The 8 B safety code of a section: SEQ and CRC (R84). -/
def secCode (sec : List Byte) : List Byte := slice sec 48 8
/-- The two bits of endpoint j (R192): upper and lower. -/
def epBits (sec : List Byte) (j : Nat) : Nat := fldBE sec (8 + j / 4) 1 / 2 ^ (6 - 2 * (j % 4)) % 4
/-- NFLAGS (R193). -/
def secNflags (sec : List Byte) : Half := BitVec.ofNat 16 (fldBE sec 2 2)
/-- Byte 4: HOLD_T of a G section, OUT_AGE of a status section (R193). -/
def secByte4 (sec : List Byte) : Nat := fldBE sec 4 1
/-- DIAG (R194). -/
def secDiag (sec : List Byte) : DWord := BitVec.ofNat 64 (fldBE sec 40 8)
/-- NFLAGS.UNSYNC. -/
def unsync (f : Half) : Bool := f.getLsbD 1
/-- NFLAGS.EPOCH_REJECT. -/
def epochReject (f : Half) : Bool := f.getLsbD 4

/-- Endpoint data: two bits each, endpoint 0 in the top bits of the first byte (R192). -/
def epPack (bits : Nat → Nat) : List Byte :=
  (List.range 32).map fun b => BitVec.ofNat 8
    (64 * bits (4 * b) + 16 * bits (4 * b + 1) + 4 * bits (4 * b + 2) + bits (4 * b + 3))

/-- An S command section (R190 to R196) of a cycle for a node. -/
def sCommand (pos : Nat) (connId epoch : Word) (cycle : DWord) (bits : Nat → Nat) : List Byte :=
  let body := [0x02] ++ beBytes 1 pos ++ zeros 6 ++ epPack bits ++ zeros 8 ++ beBytes 4 (cycle.toNat % 2 ^ 32)
  body ++ beBytes 4 (sectCrc body connId epoch).toNat

/-- The empty section: the invalid-section pattern (R24, R191). -/
def emptySection : List Byte := zeros 56

/-! ## A lane's own test and decision (R200, R201) -/

/-- The copy of a node's section is valid: header, type, position, sequence and code (R200). -/
def validCopy (ftype stype : Nat) (cycle : DWord) (epoch : Word) (n : NodeEnt) (x : RingSlot) : Bool :=
  hdrOk x.hdr && hdrType x.hdr == ftype && hdrCycle x.hdr == cycle.toNat && x.sec.length == 56 &&
    secType x.sec == stype && secPos x.sec == x.pos && secSeq x.sec == cycle.toNat % 2 ^ 32 &&
    secCrcField x.sec == (sectCrc x.sec n.connId epoch).toNat

/-- A lane's report for a section: its decision, the section's code, and the copy it would use (R84, R201). -/
structure SecReport where
  dec  : Decision
  code : List Byte
  sec  : List Byte
  deriving DecidableEq, Repr

/-- The plane comparison of R201 over the valid copies of the two planes. A discarded or absent section has no code to report:
DESIGN CHOICE, log entry 85: the lane then reports eight zero bytes, so that two lanes that discard agree. -/
def decide2 (a b : Option (List Byte)) : SecReport :=
  match a, b with
  | some x, some y => if x = y then ⟨.usedBoth, secCode x, x⟩ else ⟨.discarded, zeros 8, []⟩
  | some x, none => ⟨.usedA, secCode x, x⟩
  | none, some y => ⟨.usedB, secCode y, y⟩
  | none, none => ⟨.absent, zeros 8, []⟩

/-- A lane's valid copy of a node's section on a plane. -/
def copyOn (buf : List RingSlot) (r : RingId) (p : Plane) (pos : Nat) (ok : RingSlot → Bool) : Option (List Byte) :=
  (buf.find? fun x => x.ring == r && x.plane == p && x.pos == pos && ok x).map (·.sec)

/-- A lane's report for the G data or status section of a node. -/
def laneReport (buf : List RingSlot) (r : RingId) (pos : Nat) (ok : RingSlot → Bool) : SecReport :=
  decide2 (copyOn buf r .A pos ok) (copyOn buf r .B pos ok)

/-- Is a decision one of use (R202)? -/
def Decision.used : Decision → Bool
  | .usedBoth | .usedA | .usedB => true
  | .discarded | .absent => false

/-- The agreed section (R84, R202): the decision and code that two counted lanes hold, with the 56 bytes where it is used. -/
structure SecAgreed where
  dec : Option Decision
  sec : Option (List Byte)
  deriving DecidableEq, Repr

/-- Agreement over the reports of the lanes that count. -/
def agreeSec (reps : List SecReport) : SecAgreed :=
  match agree2 (reps.map fun r => (r.dec, r.code)) with
  | none => ⟨none, none⟩
  | some (d, c) =>
    ⟨some d, if d.used then (reps.find? fun r => r.dec == d && r.code == c).map (·.sec) else none⟩

/-! ## The node image (R203 to R207) -/

/-- Values of a used G section whose hold time matches (R203). -/
def gValues (y : Yealm) (ring pos : Nat) (sec : List Byte) : List EpVal :=
  (List.range 128).map fun j =>
    let b := epBits sec j
    if b % 2 = 1 then ⟨b / 2 == 1, .fresh⟩ else ⟨substOf y (epNumber ring pos j), .fault⟩

/-- A cycle without a used G section: last values kept up to Lage, then STALE substitutes (R203); before the node's first one since a
restart the age stands at Lage + 1 (R205). -/
def ageInputs (y : Yealm) (ring pos lage : Nat) (n : NodeImg) : NodeImg :=
  let a := if n.seen then n.a + 1 else lage + 1
  if a ≤ lage then
    { n with a := a, vals := n.vals.map fun v =>
        match v.q with
        | .fresh => { v with q := .aged a }
        | .aged _ => { v with q := .aged a }
        | .stale => v
        | .fault => v }
  else { n with a := a, vals := substAll y ring pos .stale }

/-- Inputs of a node after agreement (R203). -/
def nodeInputs (y : Yealm) (ring pos : Nat) (e : NodeEnt) (sec : Option (List Byte)) (n : NodeImg) : NodeImg :=
  match sec with
  | none => ageInputs y ring pos e.lage n
  | some x =>
    let m := { n with seen := true, nflagsG := secNflags x, holdT := secByte4 x, diagG := secDiag x }
    if unsync (secNflags x) then { m with a := e.lage + 1, vals := substAll y ring pos .stale }
    else if secByte4 x = e.holdT then { m with a := 0, vals := gValues y ring pos x }
    else { m with a := 0, vals := substAll y ring pos .fault }

/-- Channel status codes of a status section (R192, R195). -/
def chanOf : Nat → ChanStatus
  | 0 => .off | 1 => .on | 2 => .fault | _ => .foreign

/-- Channel status of a node after agreement (R206). -/
def nodeStatus (e : NodeEnt) (sec : Option (List Byte)) (n : NodeImg) : NodeImg :=
  match sec with
  | some x =>
    { n with b := 0, chan := (List.range 128).map fun j => chanOf (epBits x j), nflagsS := secNflags x, outAge := secByte4 x,
             diagS := secDiag x }
  | none =>
    let b := n.b + 1
    if b ≤ e.lage then { n with b := b } else { n with b := b, chan := List.replicate 128 .foreign }

/-- What a lane counts by a decision of its own (R201). -/
def planeCount (d : Decision) (c : PlaneCount) : PlaneCount :=
  match d with
  | .usedA => { c with faultB := c.faultB + 1 }
  | .usedB => { c with faultA := c.faultA + 1 }
  | .discarded => { c with conf := c.conf + 1 }
  | .usedBoth | .absent => c

/-- A lane counts its decision for a node's section. -/
def countPlanes (ring pos : Nat) (d : Decision) (x : LaneSt) : LaneSt :=
  let here (c : PlaneCount) : Bool := c.ring == ring && c.pos == pos
  let blank : PlaneCount := { ring := ring, pos := pos }
  if planeCount d blank = blank then x
  else if x.planeCnt.any here then { x with planeCnt := x.planeCnt.map fun c => if here c then planeCount d c else c }
  else { x with planeCnt := x.planeCnt ++ [planeCount d blank] }

/-- The run of discarded decisions of one kind (R201): open or not. -/
def runOpen (d : Option Decision) : Bool := d == some .discarded

/-- The NODE_CONFIG run after a section (R204): a lost section leaves it, a match ends it. -/
def configRun (e : NodeEnt) (sec : Option (List Byte)) (run : Option Nat) : Option Nat :=
  match sec with
  | none => run
  | some x => if secByte4 x = e.holdT then none else some (secByte4 x)

/-- Stamp of a node (R370, R371): station time of the previous Ck plus EDGE_OFS while the section gives one; COARSE for a
change seen without one. -/
def nodeStamp (prevT nowT : DWord) (sec : Option (List Byte)) (old new : NodeImg) : DWord × StampQ :=
  match stimeState nowT with
  | .unset => (0, .none)
  | st =>
    let good : StampQ := if st == .locked then .fine else .hold
    match sec with
    | some x =>
      let ofs := fldBE x 40 2
      if ofs != 0xFFFF && !unsync (secNflags x) then (stimeWord st (stimeUs prevT + ofs), good)
      else if (old.vals.map (·.v)) != new.vals.map (·.v) then (nowT, .coarse) else old.stamp
    | none => if (old.vals.map (·.v)) != new.vals.map (·.v) then (nowT, .coarse) else old.stamp

/-- One node after agreement of both its sections. -/
def nodeStep (y : Yealm) (ring pos : Nat) (e : NodeEnt) (prevT nowT : DWord) (g st : SecAgreed) (n : NodeImg) : NodeImg :=
  let n1 := nodeStatus e st.sec (nodeInputs y ring pos e g.sec n)
  { n1 with confG := runOpen g.dec, confS := runOpen st.dec, cfgRun := configRun e g.sec n.cfgRun,
            stamp := nodeStamp prevT nowT g.sec n n1 }

/-- Records of a node's agreement: PLANE_CONFLICT for each kind and NODE_CONFIG, at the start of a run (R201, R204). -/
def nodeAlarms (ring pos : Nat) (e : NodeEnt) (g st : SecAgreed) (old : NodeImg) (s : State) : State :=
  let at_ := arg1 ring ++ arg1 pos
  let s1 := if runOpen g.dec && !old.confG then raiseShared s 0x0502 (argInst (at_ ++ arg1 0x01)) else s
  let s2 := if runOpen st.dec && !old.confS then raiseShared s1 0x0502 (argInst (at_ ++ arg1 0x03)) else s1
  match configRun e g.sec old.cfgRun with
  | some h => if old.cfgRun = some h then s2 else raiseShared s2 0x0503 (argInst at_ ++ arg1 h ++ arg1 e.holdT)
  | none => s2

/-! ## Agreement of the ring sections (R84 to R86) -/

/-- The G sections belong to cycle k and the status sections to the last S-frame (R37, R200). -/
def gOk (s : State) (n : NodeEnt) : RingSlot → Bool := validCopy ftG 0x01 s.cyc.k s.peer.epoch n
/-- The test of a status section (R200). -/
def stOk (s : State) (n : NodeEnt) : RingSlot → Bool := validCopy ftS 0x03 s.cyc.sCyc s.cyc.sEpoch n

/-- Number of nodes of the lane's list on a ring. -/
def ringNodes (y : Yealm) (r : RingId) : List NodeEnt := (y.rings.get r.slot).nodes

/-- The lane holds a valid copy of the section with the agreed code, on either plane (R85). -/
def holdsCode (buf : List RingSlot) (r : RingId) (pos : Nat) (ok : RingSlot → Bool) (code : List Byte) : Bool :=
  buf.any fun x => x.ring == r && x.pos == pos && ok x && secCode x.sec == code

/-- What one lane does on learning the agreed section (R85): it adopts a different decision and counts it; where the section is
used and the lane holds no copy with the agreed code it fetches the section, and if both copies fail it has missed a fabric
deadline. -/
def adoptLane (g : SecAgreed) (rep : SecReport) (holds fetchBad : Bool) (x : LaneSt) : LaneSt :=
  { x with adopted := x.adopted + ofFlag (g.dec.isSome && g.dec != some rep.dec),
           fabricMiss := x.fabricMiss || (g.sec.isSome && !holds && fetchBad) }

/-- Codes of the decisions (R201), for the INPUTS item: both 0, A 1, B 2, discarded 3, absent 4. -/
def Decision.code : Decision → Nat
  | .usedBoth => 0 | .usedA => 1 | .usedB => 2 | .discarded => 3 | .absent => 4

/-- A used section as an INPUTS entry (R337). -/
def usedSec (ring kind pos : Nat) (g : SecAgreed) : List (Nat × Nat × Nat × Nat × List Byte) :=
  match g.dec, g.sec with
  | some d, some x => [(ring, kind, pos, d.code, x)]
  | _, _ => []

/-- Agree one node's two sections and take them into the image; `ls` are the lanes that count, `all` those that report. -/
def agreeNode (y : Yealm) (ls all : List Lane) (fetchBad : Quad Bool) (prevT nowT : DWord) (r : RingId) (s : State)
    (pe : Nat × NodeEnt) : State :=
  let pos := pe.1
  let e := pe.2
  let gr (l : Lane) := laneReport (s.lanes.get l).ringBuf r pos (gOk s e)
  let sr (l : Lane) := laneReport (s.lanes.get l).ringBuf r pos (stOk s e)
  let g := agreeSec (ls.map gr)
  let st := agreeSec (ls.map sr)
  let imgs := s.agr.nodes.get r.slot
  let old := imgs.getD pos (freshNode y r.num pos e)
  let adopt (l : Lane) (a : SecAgreed) (rep : SecReport) (ok : RingSlot → Bool) : LaneSt → LaneSt :=
    countPlanes r.num pos rep.dec ∘ adoptLane a rep (holdsCode (s.lanes.get l).ringBuf r pos ok (match a.sec with | some b => secCode b | none => [])) (fetchBad.get l)
  let s1 := onLanes s all fun l x => adopt l st (sr l) (stOk s e) (adopt l g (gr l) (gOk s e) x)
  let imgs' := listMod imgs pos fun n => nodeStep y r.num pos e prevT nowT g st n
  let s2 := { s1 with agr := { s1.agr with nodes := s1.agr.nodes.set r.slot imgs',
                                           used := s1.agr.used ++ usedSec r.num 0x01 pos g ++ usedSec r.num 0x03 pos st } }
  nodeAlarms r.num pos e g st old s2

/-- Agree every node of every ring (R84). -/
def agreeRings (y : Yealm) (ls all : List Lane) (fetchBad : Quad Bool) (prevT nowT : DWord) (s : State) : State :=
  RingId.all.foldl (fun s r => (enumFrom0 (ringNodes y r)).foldl (agreeNode y ls all fetchBad prevT nowT r) s) s

end Sys2Proof.Machine
end

