-- ==== Sys2Proof/Machine/EavesImage.lean ====
section
/-! DEFINITION. The Eaves inputs as the lanes agree and hold them (R246, R249 to R251, R369), and the endpoint values the
program and the Truss engine read, injections included (R383). -/

namespace Sys2Proof.Machine

/-! ## Endpoint references (R145) -/

/-- Reference of Eaves input IN(i + 1). -/
def inRef (i : Nat) : Nat := 2 ^ 23 + i
/-- Reference of Eaves output OUT(i + 1). -/
def outRef (i : Nat) : Nat := 2 ^ 23 + 2 ^ 22 + i
/-- LOCAL. -/
def refLocal (ref : BitVec 24) : Bool := ref.getLsbD 23
/-- DIR of a local reference. -/
def refOut (ref : BitVec 24) : Bool := ref.getLsbD 22
/-- Channel of a local reference. -/
def refChan (ref : BitVec 24) : Nat := ref.toNat % 64
/-- Ring endpoint number of a ring reference. -/
def refE (ref : BitVec 24) : Nat := ref.toNat % 2 ^ 17
/-- Ring 1 to 4 of an endpoint number (R5). -/
def eRing (e : Nat) : Nat := e / 32768 + 1
/-- Node position of an endpoint number. -/
def ePos (e : Nat) : Nat := e / 128 % 256
/-- Endpoint within the node. -/
def eIdx (e : Nat) : Nat := e % 128

/-! ## One input (R250) -/

/-- Codes of R243. -/
def cOFF : Nat := 0x0
def cON : Nat := 0x1
def cCROSS : Nat := 0x2
def cCONST : Nat := 0x3
def cUNDEF : Nat := 0x4
def cSOURCE : Nat := 0x5
def cDISC : Nat := 0x6
def cCOUNT : Nat := 0x7
def cSETTLING : Nat := 0x8
def cUNUSED : Nat := 0xF

/-- What a lane reports for an input: chain results X and Y with the counters of IN57 to IN64, and the sequence number of the
frame they come from (R84, R249). Reports are held alike only where all of this is (log entry 84). -/
def eavesReport (f : EFrame) (i : Nat) : Nat × Nat × Word × Word × Byte :=
  (f.xcode.getD i cUNUSED, f.ycode.getD i cUNUSED,
    if 56 ≤ i then f.cntx.getD (i - 56) 0 else 0, if 56 ≤ i then f.cnty.getD (i - 56) 0 else 0, f.seq)

/-- Resolution of a gate in 0.1 Hz (R248). -/
def gateStep (gate : Nat) : Nat := if gate = 0 then 100 else if gate = 1 then 10 else 1

/-- Two counter or frequency values that differ only as R250 allows; a wrapped count differs by the shorter way. -/
def countersAgree (mode gate : Nat) (x y : Word) : Bool :=
  if mode = 3 then
    let d := if x.toNat < y.toNat then y.toNat - x.toNat else x.toNat - y.toNat
    d ≤ gateStep gate + max x.toNat y.toNat / 1000
  else (x - y).toNat ≤ 2 || (y - x).toNat ≤ 2

/-- Value and quality of an input from its agreed results (R250). -/
def eavesValue (mode gate : Nat) (subst : Bool) (x y : Nat) (cx cy : Word) : Word × Quality :=
  if x = y && (x = cON || x = cOFF) then (if x = cON then 1 else 0, .fresh)
  else if x = cCOUNT && y = cCOUNT then
    if mode = 3 && cx = 0xFFFFFFFF#32 then (cx, .fault)
    else if cx = cy || countersAgree mode gate cx cy then (cx, .fresh) else (0, .fault)
  else (if subst then 1 else 0, .fault)

/-- Codes ON and OFF in either order. -/
def onOffDiffer (x y : Nat) : Bool := (x == cON && y == cOFF) || (x == cOFF && y == cON)

/-- An input before its first agreed sample, and one without an agreed sample: STALE with its substitute (R86). Such a cycle
ends a run of agreed samples with ON and OFF (R250 leaves it open: DESIGN CHOICE, log entry 102). -/
def staleInput (subst : Bool) (old : EavesVal) : EavesVal :=
  { old with v := if subst then 1 else 0, q := .stale, onOff := false, notProven := false }

/-- An input as it stands before any sample. -/
def blankInput : EavesVal :=
  { x := cUNUSED, y := cUNUSED, v := 0, q := .stale, onOff := false, edge := 0xFFFF, stamp := (0, .none), notProven := false }

/-- Input entry of an Eaves configuration (R277). -/
def inEnt (c : EavesCfg) (i : Nat) : EavesIn :=
  c.ins.getD i { src := 0, mode := 0, filt := 6, gate := 0, pair := 0, proof := false, disc := 100 }

/-- Output entry of an Eaves configuration (R277). -/
def outEnt (c : EavesCfg) (i : Nat) : EavesOut :=
  c.outs.getD i { used := false, par := 0, pw := 3, inrush := false, openChk := false }

/-- The lowest member of a channel's parallel unit (R257). -/
def unitBase (o : EavesOut) (c : Nat) : Nat := if o.par = 1 then c - c % 2 else if o.par = 2 then c - c % 4 else c

/-- Configuration entry of an input. -/
def inCfg (y : Yealm) (i : Nat) : EavesIn := inEnt y.eaves i

/-- Edge stamp of a pulsed input (R369, R371): `base` is the station time of the instant before the one that latched it. -/
def edgeStamp (st : TimeState) (base : Nat) (nowT : DWord) (filt : Nat) (edge : Option Half) (changed : Bool)
    (old : DWord × StampQ) : DWord × StampQ :=
  match st with
  | .unset => (0, .none)
  | _ =>
    match edge with
    | some d =>
      if d = 0xFFFF#16 then (if changed then (nowT, .coarse) else old)
      else (stimeWord st (base + d.toNat - (filt - 1) * 500), if st == .locked then .fine else .hold)
    | none => if changed then (nowT, .coarse) else old

/-! ## Proof of pairs (R246) -/

/-- Bit i of a set of pairs, set or cleared. -/
def pairBit (n i : Nat) (b : Bool) : Nat := if bitAt n i = b then n else if b then n + 2 ^ i else n - 2 ^ i

/-- One pair after agreement: what its proof bit, its "has been OFF" bit and its "is OFF now" bit become. -/
structure PairProof where
  proof  : Bool
  offBefore : Bool
  offNow : Bool
  deriving DecidableEq, Repr

/-- A pair becomes proven when it is ON after an image of a completed cycle in which it was OFF, and unproven when the agreed
code of its lower input is anything but ON or OFF or its quality is not FRESH (R246). -/
def pairStep (p : PairProof) (x y : Nat) (fresh : Bool) : PairProof :=
  if fresh && x = y && x = cON then { proof := p.proof || p.offBefore, offBefore := p.offBefore, offNow := false }
  else if fresh && x = y && x = cOFF then { p with offNow := true }
  else { proof := false, offBefore := false, offNow := false }

/-! ## Agreement of the Eaves report (R84, R249 to R251) -/

/-- Frames that the lanes which count have taken for this cycle. -/
def eFrames (s : State) (ls : List Lane) : List EFrame := ls.filterMap fun l => (s.lanes.get l).eFrame

/-- Agree one input. -/
def agreeInput (y : Yealm) (frames : List EFrame) (edges : List Half) (base : Nat) (nowT : DWord) (i : Nat)
    (old : EavesVal) : EavesVal :=
  let subst := substOf y (inRef i)
  let c := inCfg y i
  match agree2 (frames.map fun f => eavesReport f i) with
  | none => staleInput subst old
  | some (x, yy, cx, cy, _) =>
    let vq := eavesValue c.mode c.gate subst x yy cx cy
    let e := agree2 edges
    { x := x, y := yy, v := vq.1, q := vq.2, onOff := onOffDiffer x yy, edge := e.getD 0xFFFF,
      stamp := if c.mode = 1 then edgeStamp (stimeState nowT) base nowT c.filt e (vq.1 != old.v) old.stamp else old.stamp,
      notProven := false }

/-- The proof step of pair i, in RUN (R246): the image of its lower input, and the bits. -/
def proofPair (s : State) (y : Yealm) (acc : List EavesVal × Nat × Nat × Nat) (i : Nat) : List EavesVal × Nat × Nat × Nat :=
  let c := inCfg y (2 * i)
  if !(c.proof && c.pair != 0) then acc
  else
    let (ins, proof, offB, offN) := acc
    let v := ins.getD (2 * i) blankInput
    let p := pairStep ⟨bitAt proof i, bitAt offB i, false⟩ v.x v.y (v.q == .fresh)
    let hide := s.ctl.pos == some .run && !p.proof
    (if hide then listMod ins (2 * i) fun v => { v with v := 0, q := .fresh, notProven := true } else ins,
      pairBit proof i p.proof, pairBit offB i p.offBefore, pairBit offN i p.offNow)

/-- Output status codes OUT1 to OUT32 that a lane goes on with: those of its own frame, FOREIGN while it holds none (R249, R251). -/
def ownStatus (f : Option EFrame) : List Nat := match f with | some f => f.ostat | none => List.replicate 32 0x3

/-- The Eaves part of the agreed image. CHAIN_DIFF is raised in every cycle whose sample and the one before it both hold ON and
OFF (DESIGN CHOICE, log entry 102); `nowT` is the agreed station time of Ck. Input results are agreed; output status, group
status and supplies each lane takes from its own frame (R84, R249). -/
def agreeEaves (y : Yealm) (ls : List Lane) (nowT : DWord) (s : State) : State :=
  let frames := eFrames s ls
  let base := stimeUs nowT - (s.agr.incs.take 2).foldl (· + ·) 0
  let old := if s.agr.eIn.length = 64 then s.agr.eIn else List.replicate 64 blankInput
  let ins := (enumFrom0 old).map fun x =>
    agreeInput y frames (ls.map fun l => (s.lanes.get l).edgePrev.getD x.1 0xFFFF) base nowT x.1 x.2
  let diff := (enumFrom0 (old.zip ins)).filter fun x => x.2.1.onOff && x.2.2.onOff
  let proof := rgProof (lead s).work
  let (ins', pr, ob, on_) := (List.range 32).foldl (proofPair s y) (ins, proof, s.agr.pairOff, 0)
  let own := (lead s).eFrame
  let s1 := { s with
    agr := { s.agr with
      eIn := ins', pairOff := ob, pairOffNow := on_, eavesOk := own.isSome,
      estat := match own with | some f => f.estat | none => 0,
      supply := match own with | some f => f.supply | none => ⟨0, 0⟩ },
    lanes := s.lanes.map fun x => { x with oStat := ownStatus x.eFrame } }
  let s2 := if pr = proof then s1 else onLanes s1 (working s1) fun _ x => workWrite x fun m => rgSetProof m pr
  diff.foldl (fun s x => raiseShared s 0x0603 (argInst (arg1 (x.1 + 1)))) s2

/-- A voting lane that holds no valid E frame at input close has missed a Batten deadline; what follows from it is settled at the
end of the cycle, with the deadlines missed later in it (R96, R251). -/
def missedBatten (s : State) : State :=
  { s with lanes := s.lanes.map fun x => { x with battenMiss := x.battenMiss || (x.role == .voting && x.eFrame.isNone) } }

/-! ## What the program and the Truss engine read -/

/-- Is an injected item in force in cycle k? FROM holds the low 32 bits of the first cycle (R383). -/
def injApplies (k : DWord) (i : Injection) : Bool := (k.setWidth 32 - i.from_).toNat < 2 ^ 31

/-- The item in force for a reference: the one taken last among those that apply (R383). -/
def injFor (s : State) (ref : BitVec 24) : Option Injection :=
  match (s.agr.inj.filter fun i => i.ref == ref && injApplies s.cyc.k i).getLast? with
  | some i => if i.ends then none else some i
  | none => none

/-- The agreed value of an input endpoint, without injection; an endpoint no node image holds reads as its STALE substitute. -/
def epAgreed (s : State) (y : Yealm) (ref : BitVec 24) : EpVal :=
  if refLocal ref then
    match s.agr.eIn[refChan ref]? with
    | some v => ⟨v.v.getLsbD 0, v.q⟩
    | none => ⟨substOf y ref.toNat, .stale⟩
  else
    let e := refE ref
    match RingId.ofNum (eRing e) with
    | none => ⟨substOf y ref.toNat, .stale⟩
    | some r =>
      match (s.agr.nodes.get r.slot)[ePos e]? with
      | some n => n.vals.getD (eIdx e) ⟨substOf y ref.toNat, .stale⟩
      | none => ⟨substOf y ref.toNat, .stale⟩

/-- An input endpoint as the program and the Truss engine read it (R383). -/
def epRead (s : State) (y : Yealm) (ref : BitVec 24) : EpVal :=
  match injFor s ref with
  | some i => ⟨i.v, i.q⟩
  | none => epAgreed s y ref

/-- Channel status FOREIGN, or CROSS for an Eaves output, of an output slot (R127); what no status is held for is FOREIGN. `ost`
is the Eaves output status that the lane itself holds (R251). -/
def foreignOut (s : State) (ost : List Nat) (ref : BitVec 24) : Bool :=
  if refLocal ref then
    match ost[refChan ref]? with
    | some c => c == 0x3 || c == 0x4
    | none => true
  else
    let e := refE ref
    match RingId.ofNum (eRing e) with
    | none => true
    | some r =>
      match (s.agr.nodes.get r.slot)[ePos e]? with
      | some n => n.chan.getD (eIdx e) .foreign == .foreign
      | none => true

end Sys2Proof.Machine
end

