-- ==== Sys2Proof/Machine/Truss.lean ====
section
/-! DEFINITION. The Truss engine (R120 to R141): the two permits, the discrepancy list, the summary, the carry-over block
at commit, and the commands of its family. -/

namespace Sys2Proof.Machine

/-! ## What it reads (R124 to R129) -/

/-- An object record where the tables have none. -/
def ObjRec.none_ : ObjRec :=
  { type := 0, nep := 0, inv := 0, outmask := 0, gatemask := 0, s0 := 15, s1 := 15, s2 := 15, s3 := 15, s4 := 15, area := 0,
    sect := 0, slots := [] }

/-- Object i of the tables (R142). -/
def objAt (t : TrussTab) (i : Nat) : ObjRec := t.objs.getD i ObjRec.none_

/-- What one evaluation reads: the state with its agreed image, the lane's yealm, its region as committed, and the Eaves output
status of its own Batten frame (R124). -/
structure TrussIn where
  s : State
  y : Yealm
  m : Mem
  ost : List Nat
  deriving DecidableEq, Repr

/-- What a lane's evaluation reads. -/
def trussIn (s : State) (y : Yealm) (x : LaneSt) : TrussIn := ⟨s, y, x.region, x.oStat⟩

/-- Logical value of an input slot (R126): restrictive 0 unless the endpoint is FRESH or AGED. -/
def logical (e : TrussIn) (o : ObjRec) (slot : Nat) : Bool :=
  match o.slots[slot]? with
  | none => false
  | some ref =>
    let v := epRead e.s e.y ref
    match v.q with
    | .fresh => v.v ^^ o.inv.getLsbD slot
    | .aged _ => v.v ^^ o.inv.getLsbD slot
    | .stale => false
    | .fault => false

/-- Is the object FOREIGN (R127)? Only points, signals, level crossings and protection objects can be. -/
def foreignObj (e : TrussIn) (o : ObjRec) : Bool :=
  (o.type == 1 || o.type == 2 || o.type == 4 || o.type == 5) &&
    (enumFrom0 (o.slots.take o.nep)).any fun x => o.outmask.getLsbD x.1 && foreignOut e.s e.ost x.2

/-- Route r of the tables. -/
def routeAt (t : TrussTab) (r : Nat) : Option RouteRec := t.routes[r]?

/-- Bits of route r's state byte (R128): SET, LOCK, OVL. -/
def routeBit (e : TrussIn) (r b : Nat) : Bool :=
  match routeAt e.y.truss r with
  | some x => (memByte e.m x.rsOff).getLsbD b
  | none => false

/-- Is route r in use (R129)? -/
def inUse (e : TrussIn) (r : Nat) : Bool :=
  routeBit e r 0 || routeBit e r 1 || prevHeld e.m e.y.truss.tcbOff r ||
    (match routeAt e.y.truss r with | some x => foreignObj e (objAt e.y.truss x.entry) | none => false)

/-- Routes of a signal (R148). -/
def routesOf (t : TrussTab) (sig : Nat) : List Nat :=
  match t.sigs.find? fun x => x.signal == sig with
  | some x => x.routes
  | none => []

/-! ## The permits (R130 to R134) -/

/-- An element holds (R130). -/
def elemHolds (e : TrussIn) (el : Elem) : Bool :=
  let o := objAt e.y.truss el.obj
  match el.req with
  | 0 => logical e o o.s0
  | 1 => !foreignObj e o && logical e o o.s0 && !logical e o o.s1 && (o.s2 == 15 || logical e o o.s2)
  | 2 => !foreignObj e o && logical e o o.s1 && !logical e o o.s0 && (o.s2 == 15 || logical e o o.s2)
  | 3 => !foreignObj e o && !(routesOf e.y.truss el.obj).any (inUse e)
  | 4 => !foreignObj e o && logical e o o.s0
  | _ => false

/-- Condition code of a failing path element (R131). -/
def pathCode (req : Nat) : Nat := if req = 0 then 0x01 else if req = 1 || req = 2 then 0x02 else 0x03

/-- The first condition of R131 that route r fails, as condition code and list position (0xFF where the condition
belongs to no list); none when it passes. -/
def routeFail (e : TrussIn) (r : Nat) : Option (Nat × Nat) :=
  match routeAt e.y.truss r with
  | none => some (0x08, 0xFF)
  | some x =>
    if refusedBit e.m e.y.truss.tcbOff r then some (0x09, 0xFF)
    else if !routeBit e r 1 then some (0x08, 0xFF)
    else if foreignObj e (objAt e.y.truss x.entry) then some (0x0A, 0xFF)
    else match findIdxVal (fun el => !elemHolds e el) 0 x.path with
      | some (i, el) => some (pathCode el.req, i)
      | none =>
        match findIdxVal (fun el => !elemHolds e el) 0 x.flank with
        | some (i, _) => some (0x04, i)
        | none =>
          if !x.overlap.isEmpty && !routeBit e r 2 then some (0x05, 0xFF)
          else match findIdxVal (fun el => !elemHolds e el) 0 x.overlap with
            | some (i, _) => some (0x06, i)
            | none =>
              match findIdxVal (fun c =>
                  if (routeAt e.y.truss c).any (fun z => z.entry == x.entry) then routeBit e c 0 || routeBit e c 1
                  else inUse e c) 0 x.conflicts with
              | some (i, _) => some (0x07, i)
              | none => none

/-- The signal permit (R132). -/
def signalPermit (e : TrussIn) (sig : Nat) : Bool :=
  (routesOf e.y.truss sig).any fun r => (routeFail e r).isNone && (routeAt e.y.truss r).any (fun z => z.entry == sig)

/-- Point directory entry of a point. -/
def pointEnt (t : TrussTab) (p : Nat) : Option PointEnt := t.points.find? fun x => x.point == p

/-- The first condition of R133 that the point fails. -/
def pointFail (e : TrussIn) (p : Nat) : Option (Nat × Nat) :=
  let o := objAt e.y.truss p
  match pointEnt e.y.truss p with
  | none => some (0x14, 0xFF)
  | some x =>
    let sec := objAt e.y.truss o.sect
    if foreignObj e o then some (0x14, 0xFF)
    else match findIdxVal (inUse e) 0 x.inverse with
      | some (i, _) => some (0x11, i)
      | none =>
        if !logical e sec sec.s0 then some (0x12, 0xFF)
        else if (memByte e.m x.osOff).getLsbD 0 || areaLocked e.m o.area then some (0x13, 0xFF)
        else none

/-- The objects whose permit holds: signals and points (R120). -/
def permitsOf (e : TrussIn) : List Nat :=
  ((enumFrom0 e.y.truss.objs).filter fun x =>
    if x.2.type = 2 then signalPermit e x.1 else if x.2.type = 1 then (pointFail e x.1).isNone else false).map (·.1)

/-- One evaluation (R125): permits, failing routes and points, and the route state as read. -/
def trussEval (e : TrussIn) : TrussOut :=
  { done := true, late := false, permits := permitsOf e,
    fails := (List.range e.y.truss.routes.length).filterMap fun r => (routeFail e r).map fun c => (r, c.1, c.2),
    readRs := e.y.truss.routes.map fun x => memByte e.m x.rsOff, disc := [] }

/-! ## Gate and discrepancies (R121, R135 to R137) -/

/-- The output image of an endpoint before the gate: what its task last published (R58). -/
def pubAt (pub : List OutCmd) (ref : BitVec 24) : OutCmd :=
  match pub.find? fun o => o.ref == ref with
  | some o => o
  | none => { ref := ref, cmd := false, hold := false }

/-- What a cycle publishes laid over what stands (R58). -/
def mergePub (old new : List OutCmd) : List OutCmd :=
  new.foldl (fun acc o => acc.filter (fun x => x.ref != o.ref) ++ [o]) old

/-- The gated slots of an object. -/
def gatedSlots (o : ObjRec) : List (BitVec 24) :=
  ((enumFrom0 (o.slots.take o.nep)).filter fun x => o.gatemask.getLsbD x.1).map (·.2)

/-- Has the program set a gated slot of the object on? -/
def gatedOn (pub : List OutCmd) (o : ObjRec) : Bool := (gatedSlots o).any fun ref => (pubAt pub ref).cmd

/-- The object's permit in an evaluation that was complete (R43: late, none holds). -/
def permitHolds (t : TrussOut) (obj : Nat) : Bool := t.done && !t.late && t.permits.contains obj

/-- The gate (R121): a gated command whose object's permit does not hold goes off, and its hold bit with it. -/
def gateOut (y : Yealm) (t : TrussOut) (o : OutCmd) : OutCmd :=
  let blocked := (enumFrom0 y.truss.objs).any fun x => (gatedSlots x.2).contains o.ref && !permitHolds t x.1
  if o.cmd && blocked then { o with cmd := false, hold := false } else o

/-- The discrepancy entry of an object whose gated slot is on without its permit (R135). -/
def discOf (e : TrussIn) (late : Bool) (obj : Nat) (o : ObjRec) : Disc :=
  if late then { obj := obj, route := 0xFFFF, cond := 0x1F, pos := 0xFF }
  else if o.type = 1 then
    match pointFail e obj with
    | some (0x11, i) =>
      { obj := obj, cond := 0x11, pos := i,
        route := match pointEnt e.y.truss obj with | some x => x.inverse.getD i 0xFFFF | none => 0xFFFF }
    | some (c, p) => { obj := obj, route := 0xFFFF, cond := c, pos := p }
    | none => { obj := obj, route := 0xFFFF, cond := 0, pos := 0xFF }
  else
    match (routesOf e.y.truss obj).find? fun r => routeBit e r 1 with
    | none => { obj := obj, route := 0xFFFF, cond := 0x08, pos := 0xFF }
    | some r =>
      match routeFail e r with
      | some (c, p) => { obj := obj, route := r, cond := c, pos := p }
      | none => { obj := obj, route := r, cond := 0, pos := 0xFF }

/-- The discrepancy list in ascending object order (R135). -/
def discList (e : TrussIn) (t : TrussOut) (pub : List OutCmd) : List Disc :=
  ((enumFrom0 e.y.truss.objs).filter fun x => gatedOn pub x.2 && !permitHolds t x.1).map
    fun x => discOf e (!t.done || t.late) x.1 x.2

/-- The bytes of an entry (R135). -/
def discBytes (d : Disc) : List Byte :=
  leBytes 2 d.obj ++ leBytes 2 d.route ++ leBytes 1 d.cond ++ leBytes 1 d.pos ++ zeros 2

/-- PERMIT_CRC: over the 2 048-byte permit vector (R137). -/
def permitCrc (permits : List Nat) : Word := crc32c (packFlags 2048 permits)

/-- The discrepancy summary (R137). -/
def summaryOf (t : TrussOut) (disc : List Disc) : DWord :=
  let late := !t.done || t.late
  let dcrc := if disc.isEmpty then 0 else (crc32c ((disc.map discBytes).flatten)).toNat % 2 ^ 16
  BitVec.ofNat 64 ((permitCrc (if late then [] else t.permits)).toNat + 2 ^ 32 * min disc.length 0x7FFF
    + 2 ^ 47 * ofFlag late + 2 ^ 48 * dcrc)

/-- LATE of a summary. -/
def summaryLate (w : DWord) : Bool := w.getLsbD 47

/-- The carry-over block after the commit (R129, R138): PREVHELD from the evaluation's reads, REFUSED set by a
signal's entry that names a route and cleared where both bits were read 0. A late evaluation read no route:
PREVHELD then comes from the region as committed, which is what it would have read. Bits of numbers that no route has become 0:
DESIGN CHOICE, log entry 87. -/
def carryAfter (e : TrussIn) (t : TrussOut) (disc : List Disc) : List Byte :=
  let n := e.y.truss.routes.length
  let read (r : Nat) : Byte := if t.done then t.readRs.getD r 0 else
    (match routeAt e.y.truss r with | some x => memByte e.m x.rsOff | none => 0)
  let held := (List.range n).filter fun r => (read r).getLsbD 0 || (read r).getLsbD 1
  let named := (disc.filter fun d => d.route != 0xFFFF && (objAt e.y.truss d.obj).type == 2).map (·.route)
  let refused := (List.range n).filter fun r =>
    named.contains r || (refusedBit e.m e.y.truss.tcbOff r && ((read r).getLsbD 0 || (read r).getLsbD 1))
  carryBytes held refused

/-! ## Records (R138, R139, R484) -/

/-- ELEM of R484. -/
def discElem (y : Yealm) (d : Disc) : Nat :=
  let r := routeAt y.truss d.route
  let at_ (l : RouteRec → List Elem) : Nat :=
    match r with | some x => (match (l x)[d.pos]? with | some el => el.obj | none => 0xFFFF) | none => 0xFFFF
  if d.cond = 0x01 || d.cond = 0x02 || d.cond = 0x03 then at_ (·.path)
  else if d.cond = 0x04 then at_ (·.flank)
  else if d.cond = 0x06 then at_ (·.overlap)
  else if d.cond = 0x0A then (match r with | some x => x.entry | none => d.obj)
  else if d.cond = 0x12 then (objAt y.truss d.obj).sect
  else 0xFFFF

/-- OROUTE of R484. -/
def discORoute (y : Yealm) (d : Disc) : Nat :=
  if d.cond = 0x07 then (match routeAt y.truss d.route with | some x => x.conflicts.getD d.pos 0xFFFF | none => 0xFFFF)
  else if d.cond = 0x11 then (match pointEnt y.truss d.obj with | some x => x.inverse.getD d.pos 0xFFFF | none => 0xFFFF)
  else 0xFFFF

/-- The arguments of TRUSS_REFUSAL and TRUSS_LATE (R484). -/
def discArgs (y : Yealm) (d : Disc) : List Byte :=
  let o := objAt y.truss d.obj
  let area := if o.type = 2 then (match routeAt y.truss d.route with | some x => x.area | none => o.area) else o.area
  arg2 d.obj ++ arg2 d.route ++ arg1 d.cond ++ arg1 d.pos ++ arg2 (discElem y d) ++ arg2 (discORoute y d) ++ arg1 area

/-- Gated objects whose permit holds while every gated command is off: they are only counted (R139). -/
def unusedPermits (y : Yealm) (t : TrussOut) (pub : List OutCmd) : Nat :=
  ((enumFrom0 y.truss.objs).filter fun x =>
    !(gatedSlots x.2).isEmpty && permitHolds t x.1 && !gatedOn pub x.2).length

/-! ## TRUSS_STATS -/

/-- A lane's report: permits unused, discrepancies, longest and mean evaluation time [us] (R139). -/
def trussStatsLane (s : State) (l : Lane) : State :=
  let c := (s.lanes.get l).tstat
  let s1 := raiseLane s l 0x0382
    (argLane l ++ arg4 c.unused ++ arg4 c.disc ++ arg2 c.maxUs ++ arg2 (if c.evals = 0 then 0 else c.sumUs / c.evals))
  onLane s1 l fun x => { x with tstat := {} }

/-- TRUSS_STATS (R139): once every 100 000 completed cycles each voting lane reports. -/
def execTrussStats (s : State) : Host.Outcome State Fault Refusal :=
  .next (if hubUp s && s.cyc.done != 0 && s.cyc.done % 100000 == 0 then (voting s).foldl trussStatsLane s else s)

end Sys2Proof.Machine
end

