-- ==== Sys2Proof/Machine/CmdOps.lean ====
section
/-! DEFINITION. Host commands as the lanes hold them: the descriptor and its tests (R300 to R306), confirmation (R307,
R308), completions (R309 to R314), the decision of a terminal status (R312). -/

namespace Sys2Proof.Machine

/-! ## Descriptor (R300) -/

/-- SEQ. -/
def dSeq (d : List Byte) : Nat := fldLE d 0 4
/-- OPCODE. -/
def dOp (d : List Byte) : Nat := fldLE d 4 1
/-- STEP. -/
def dStep (d : List Byte) : Nat := fldLE d 5 1
/-- EXPIRY [s]. -/
def dExpiry (d : List Byte) : Nat := fldLE d 6 1
/-- AREA. -/
def dArea (d : List Byte) : Nat := fldLE d 7 1
/-- TARGET. -/
def dTarget (d : List Byte) : Nat := fldLE d 8 2
/-- HTAG. -/
def dHtag (d : List Byte) : Nat := fldLE d 0x10 8
/-- ASN_REF. -/
def dRef (d : List Byte) : Nat := fldLE d 0x18 8
/-- PARAM, 28 bytes. -/
def dParam (d : List Byte) : List Byte := slice d 0x20 28
/-- The CRC of the descriptor is correct. -/
def dCrcOk (d : List Byte) : Bool := d.length == 64 && fldLE d 0x3C 4 == (crc32c (d.take 0x3C)).toNat

/-- Opcodes of R301. -/
def opListed (op : Nat) : Bool := (1 ≤ op && op ≤ 8) || (0x10 ≤ op && op ≤ 0x15)
/-- AUX_RELEASE and RESTART_RELEASE are two-step (R301). -/
def opTwoStep (op : Nat) : Bool := op == 7 || op == 8

/-- PARAM bytes that R302 names for an opcode and step. -/
def paramNamed (op step i : Nat) : Bool :=
  match op with
  | 0x01 => i < 4
  | 0x03 => i == 0
  | 0x05 => i == 4
  | 0x06 => i == 4
  | 0x07 => if step = 2 then i < 2 || i == 4 else i == 0 || i == 4
  | 0x08 => step == 2 && i < 2
  | 0x10 => i < 12
  | 0x11 => i < 16
  | 0x12 => i < 8
  | 0x15 => i < 2 || (4 ≤ i && i < 24)
  | _ => false

/-- The four BCD digits of a challenge are digits. -/
def bcdOk (n : Nat) : Bool := (List.range 4).all fun i => n / 16 ^ i % 16 ≤ 9

/-- The PARAM fields lie in their coded ranges (R304). -/
def paramRange (op step : Nat) (p : List Byte) : Bool :=
  match op with
  | 0x03 => fldLE p 0 1 == 1 || fldLE p 0 1 == 2
  | 0x05 => fldLE p 4 1 ≤ 1
  | 0x06 => fldLE p 4 1 ≤ 1
  | 0x07 => fldLE p 4 1 ≤ 1 && (step != 2 || bcdOk (fldLE p 0 2))
  | 0x08 => step != 2 || bcdOk (fldLE p 0 2)
  | 0x10 => fldLE p 8 4 ≤ 999999999
  | 0x15 => fldLE p 0 1 ≤ 3 && fldLE p 1 1 ≤ 2 && fldLE p 4 4 % 4096 == 0 && fldLE p 4 4 ≤ 1048576 && fldLE p 8 8 % 4096 == 0
  | _ => true

/-- The format test of R304 passes. -/
def formatOk (d : List Byte) : Bool :=
  opListed (dOp d) && (if opTwoStep (dOp d) then dStep d == 1 || dStep d == 2 else dStep d == 0) &&
    allZero (slice d 0x0C 4) && dExpiry d ≤ 120 && (dArea d ≤ 15 || dArea d == 0xFF) && (dRef d == 0 || dStep d == 2) &&
    (enumFrom0 (dParam d)).all (fun x => paramNamed (dOp d) (dStep d) x.1 || x.2 == 0) &&
    paramRange (dOp d) (dStep d) (dParam d)

/-- Later in 32-bit serial arithmetic (R211, R303): the difference lies in 1 to 2^31 - 1. -/
def serialLater (a b : Nat) : Bool :=
  let d := (a + 2 ^ 32 - b % 2 ^ 32) % 2 ^ 32
  1 ≤ d && d < 2 ^ 31

/-- A cycle number in its low 32 bits is at or before another (R309 CYCLE). -/
def cycReached (at_ now : Nat) : Bool := (now + 2 ^ 32 - at_ % 2 ^ 32) % 2 ^ 32 < 2 ^ 31

/-! ## Standby health on the active side (R307, R335) -/

/-- The standby's health is complete: its last BEAT shows COMPLETE and the active has not marked it incomplete. -/
def standbyComplete (s : State) : Bool :=
  isPair s && !s.peer.markInc && (match s.peer.beat with | some b => b.hflags.getLsbD 0 | none => false)

/-- STANDBY_INCOMPLETE naming the failing condition, once for each loss of health (R335, R339). -/
def standbyIncomplete (s : State) (cond : Nat) : State :=
  if s.peer.incAlarm then s
  else
    let s1 := raiseHub s 0x0805 (argOne ++ arg1 cond)
    { s1 with peer := { s1.peer with incAlarm := true } }

/-- Mark the standby's mirrored state incomplete (R23, R307). -/
def markStandby (s : State) : State :=
  if s.peer.markInc then s
  else
    let s1 := { s with peer := { s.peer with markInc := true, markSeen := false } }
    if isPair s1 then standbyIncomplete s1 1 else s1

/-! ## Taking a descriptor (R303 to R306, R315) -/

/-- Expiry cycle of R315; 0 for none. -/
def expiryCycle (k e p : Nat) : Nat := if e = 0 then 0 else k + (e * 1000 + p - 1) / p

/-- The command table entry of a descriptor taken in cycle k (R483). ACYC is the taking cycle, where the acceptance is
decided (R312: decided in k, written in k + 1). -/
def cmdOf (d : List Byte) (asn k p : Nat) : CmdEnt :=
  { asn := asn, htag := dHtag d, xcyc := expiryCycle k (dExpiry d) p, seq := dSeq d, acyc := k % 2 ^ 32, tcyc := 0, data := 0,
    target := dTarget d, opcode := dOp d, step := dStep d, area := dArea d, confirmed := false, accDel := false,
    presented := false, terminal := false, termDue := false, status := 0, reason := 0, param := (dParam d).take 5 }

/-- The boot record's ASN reserve mark runs on in steps of 2^20 until it is above an ASN, before that one is used (R176, R320). -/
def advanceMark (asn : Nat) (x : LaneSt) : LaneSt :=
  let m := (bootCur x.mram).asnMark.toNat
  if m ≤ asn then
    { x with mram := bootWrite x.mram fun b => { b with asnMark := b.asnMark + BitVec.ofNat 64 (2 ^ 20 * ((asn - m) / 2 ^ 20 + 1)) } }
  else x

/-- A lane takes a descriptor: table entry, last SEQ, next ASN, its COMMAND record, and the descriptor in its SRAM (R41, R304).
The ASN is that of the lane's own region. -/
def takeCmdLane (k p : Nat) (d : List Byte) (x : LaneSt) : LaneSt :=
  let asn := rgNextAsn x.work
  let y := advanceMark asn (workWrite x fun m => rgSetNextAsn (rgSetLastSeq (cmdNew m (cmdOf d asn k p)) (dSeq d)) (asn + 1))
  { y with taken := y.taken ++ [(d, BitVec.ofNat 64 asn)], descs := y.descs ++ [(BitVec.ofNat 64 asn, d)] }

/-- Every working lane takes the descriptor. -/
def takeCmd (s : State) (d : List Byte) : State :=
  onLanes s (working s) fun _ x => takeCmdLane s.cyc.k.toNat (periodMs s) d x

/-- The completion of a descriptor that is not accepted (R304, R305). -/
def answerCpl (k : DWord) (d : List Byte) (status reason : Byte) : Cpl :=
  { seq := BitVec.ofNat 32 (dSeq d), status := status, reason := reason, opcode := BitVec.ofNat 8 (dOp d),
    step := BitVec.ofNat 8 (dStep d), asn := 0, htag := BitVec.ofNat 64 (dHtag d), cycle := k.setWidth 32, data := 0 }

/-- Descriptors of the cycle a lane holds at intake close, in CMDQ order (R32, R38, R40). -/
def heldBy (k : DWord) (x : LaneSt) : List (List Byte) := x.cmdBuf ++ cmdsOf k x.cmdIn.items

/-- How the descriptor at a CMDQ position stands at intake close (R40, R304). -/
inductive Belongs where
  /-- Nothing was fetched there. -/
  | nothing
  /-- It does not belong to the cycle and stays in CMDQ. -/
  | wait
  /-- Its CRC is wrong in every counted lane. -/
  | badCrc
  /-- Held alike and correct by every counted lane. -/
  | ok (d : List Byte)
  deriving DecidableEq, Repr

/-- The test of R40 for position i over the lanes that count. -/
def belongs (s : State) (ls : List Lane) (i : Nat) : Belongs :=
  let ds := ls.map fun l => (heldBy s.cyc.k (s.lanes.get l))[i]?
  if ds.isEmpty || ds.all (·.isNone) then (if i < s.host.fetched then .wait else .nothing)
  else if ds.any (·.isNone) then .wait
  else
    let xs := ds.filterMap id
    if xs.all fun d => !dCrcOk d then .badCrc
    else if xs.any fun d => !dCrcOk d then .wait
    else
      match xs with
      | [] => .wait
      | d :: r => if r.all fun e => dSeq e == dSeq d && fldLE e 0x3C 4 == fldLE d 0x3C 4 then .ok d else .wait

/-- Each counted lane answers from its own copy of the descriptor at position i. -/
def answerAll (s : State) (ls : List Lane) (i : Nat) (status reason : Byte) : State :=
  onLanes s ls fun _ x =>
    match (heldBy s.cyc.k x)[i]? with
    | some d => { x with answers := x.answers ++ [answerCpl s.cyc.k d status reason] }
    | none => x

/-- Intake of up to n descriptors from position i (R40, R304 to R306): the state, how many were taken or answered, and
whether the next position failed to belong. -/
def intake (ls : List Lane) : Nat → Nat → State → State × Nat × Bool
  | 0, i, s => (s, i, false)
  | n + 1, i, s =>
    match belongs s ls i with
    | .nothing => (s, i, false)
    | .wait => (s, i, true)
    | .badCrc => intake ls n (i + 1) (answerAll s ls i 0x11 0x01)
    | .ok d =>
      if !isActive s then intake ls n (i + 1) (answerAll s ls i 0x10 0)
      else if s.agr.stalled || 1024 ≤ (cmdSlots (lead s).work).length then (s, i, true)
      else if !formatOk d then intake ls n (i + 1) (answerAll s ls i 0x11 0x02)
      else if rgSeqSet (lead s).work && !serialLater (dSeq d) (rgLastSeq (lead s).work) then
        intake ls n (i + 1) (answerAll s ls i 0x11 0x03)
      else intake ls n (i + 1) (takeCmd s d)

/-- Command intake at its close: descriptors that belong are taken or answered, the CMDQ head passes them (R22), the position
that does not belong is counted (R304). -/
def closeIntake (s : State) (ls : List Lane) : State :=
  let (s1, n, stuck) := intake ls 64 0 s
  let s2 := ringConsume s1 qCMDQ n
  let pos := (qAt s2 qCMDQ).idx
  let same := s.agr.notBelongPos = pos
  { s2 with
    agr := { s2.agr with notBelong := if stuck then (if same then s2.agr.notBelong + 1 else 1) else 0, notBelongPos := pos },
    lanes := s2.lanes.map fun x => { x with cmdBuf := [], cmdIn := x.cmdIn.drain } }

/-! ## Confirmation (R307, R308) -/

/-- A record of a cycle is written on at least two voting lanes (R41, R105). -/
def writtenOnTwo (s : State) (cyc : Nat) : Bool :=
  2 ≤ ((voting s).filter fun l => cycReached cyc (s.lanes.get l).written.toNat).length

/-- The standby has acknowledged the groups up to a cycle (R334 ACK). -/
def standbyAcked (s : State) (cyc : Nat) : Bool :=
  match s.peer.beat with
  | some b => cycReached cyc b.ack.toNat
  | none => false

/-- The acknowledgement of a complete standby has not arrived: it is marked incomplete and no longer waited for. -/
def needAck (s : State) (cyc : Nat) : State := if standbyComplete s && !standbyAcked s cyc then markStandby s else s

/-- The acknowledgements due at the input agreement of cycle k + 1: of every acceptance and every terminal status that is not
confirmed yet, whether or not the lanes' own journals have it (R307). -/
def needAcks (cs : List CmdEnt) (s : State) : State :=
  let s1 := (cs.filter fun c => !c.confirmed).foldl (fun s c => needAck s c.acyc) s
  (cs.filter fun c => c.terminal && !c.termDue).foldl (fun s c => needAck s c.tcyc) s1

/-- Confirm accepted commands in ASN order up to the first whose record is not yet on two lanes. The confirmation of one that has
waited ends a stall (R308). -/
def confirmLoop : List CmdEnt → State → State
  | [], s => { s with agr := { s.agr with waited := 0, stalled := false } }
  | c :: r, s =>
    if c.confirmed then confirmLoop r s
    else if writtenOnTwo s c.acyc then
      let s2 := onLanes s (working s) fun _ x => workWrite x fun m => cmdUpd m c.asn fun e => { e with confirmed := true }
      confirmLoop r { s2 with agr := { s2.agr with accepted := s2.agr.accepted ++ [BitVec.ofNat 64 c.asn], stalled := false } }
    else
      { s with agr := { s.agr with waited := (s.cyc.k.toNat + 2 ^ 32 - c.acyc) % 2 ^ 32 } }

/-- A terminal status whose record the confirmation covers is due to be written (R312). -/
def termLoop : List CmdEnt → State → State
  | [], s => s
  | c :: r, s =>
    if c.terminal && !c.termDue && writtenOnTwo s c.tcyc then
      termLoop r (onLanes s (working s) fun _ x => workWrite x fun m => cmdUpd m c.asn fun e => { e with termDue := true })
    else termLoop r s

/-! ## Completions (R309, R312, R26) -/

/-- The ACCEPTED completion of an entry. -/
def acceptedCpl (c : CmdEnt) : Cpl :=
  { seq := BitVec.ofNat 32 c.seq, status := 0x01, reason := 0, opcode := BitVec.ofNat 8 c.opcode, step := BitVec.ofNat 8 c.step,
    asn := BitVec.ofNat 64 c.asn, htag := BitVec.ofNat 64 c.htag, cycle := BitVec.ofNat 32 c.acyc, data := 0 }

/-- The terminal completion of an entry. -/
def terminalCpl (c : CmdEnt) : Cpl :=
  { acceptedCpl c with status := BitVec.ofNat 8 c.status, reason := BitVec.ofNat 8 c.reason, cycle := BitVec.ofNat 32 c.tcyc,
                       data := BitVec.ofNat 32 c.data }

/-- The 32 bytes of a completion (R309). -/
def cplBytes (c : Cpl) : List Byte :=
  leBytes 4 c.seq.toNat ++ [c.status, c.reason, c.opcode, c.step] ++ leBytes 8 c.asn.toNat ++ leBytes 8 c.htag.toNat ++
    leBytes 4 c.cycle.toNat ++ leBytes 4 c.data.toNat

/-- The undelivered completions of a region in the order they are written: ACCEPTED in ASN order, then terminal ones in ASN
order up to the first command that is not due (R312, R65); first those of the commands below `old`, from before the last
restart or takeover (R320, R321). -/
def dueCpls (old : Nat) (m : Mem) : List Cpl :=
  let es := (cmdList m).map (·.2)
  let acc := es.filter fun c => c.confirmed && !c.accDel
  let ter := es.takeWhile (·.termDue)
  let isOld (c : CmdEnt) : Bool := c.asn < old
  ((acc.filter isOld).map acceptedCpl) ++ ((ter.filter isOld).map terminalCpl) ++
    ((acc.filter fun c => !isOld c).map acceptedCpl) ++ ((ter.filter fun c => !isOld c).map terminalCpl)

/-- Every counted lane sends its completions, at most 128 a cycle (R26); the rest waits for the next cycle. The answers to commands
that were not accepted come last. -/
def produceCpl (s : State) : State :=
  onLanes s (counted s) fun _ x =>
    let due := ((if isActive s then dueCpls s.agr.oldAsn x.work else []) ++ x.answers).take (128 - x.cplSent)
    let (q, _) := x.cplq.sendAll due
    { x with cplq := q, cplSent := x.cplSent + (q.items.length - x.cplq.items.length) }

/-- Commands due for presentation: confirmed, not terminal, and not presented in a completed cycle (R41, R71). -/
def dueShow (m : Mem) : List DWord :=
  ((cmdList m).filter fun x => x.2.confirmed && !x.2.terminal && !x.2.presented).map fun x => BitVec.ofNat 64 x.2.asn

/-! ## Deciding a terminal status -/

/-- Decide a command's terminal status in the running cycle: it takes effect at the commit (R312). The first decision on a
command stands. -/
def decideCmd (s : State) (asn status reason data : Nat) (keep : Bool) : State :=
  onLanes s (working s) fun _ x =>
    if x.verdicts.any fun v => v.asn.toNat == asn then x
    else { x with verdicts := x.verdicts ++ [{ asn := BitVec.ofNat 64 asn, status := BitVec.ofNat 8 status,
                                               reason := BitVec.ofNat 8 reason, data := BitVec.ofNat 32 data, keep := keep }] }

/-- DONE. -/
def stDONE : Nat := 0x02
/-- REFUSED. -/
def stREFUSED : Nat := 0x03
/-- EXPIRED. -/
def stEXPIRED : Nat := 0x04

/-- The full descriptor of a command as the lane holds it in its own SRAM (R11, R12, R483). -/
def descOf (x : LaneSt) (asn : DWord) : Option (List Byte) := (x.descs.find? fun d => d.1 == asn).map (·.2)

/-- The descriptors of the COMMAND records of journal groups (R168). -/
def descsIn (gs : List JGroup) : List (DWord × List Byte) :=
  gs.flatMap fun g => g.recs.filterMap fun r => match r with
    | .command d a => some (a, d)
    | .delta _ => none | .accept _ => none | .terminal _ _ => none | .event _ _ _ => none | .close _ => none

/-- The lane keeps the descriptors of the commands that its region's table holds. -/
def keepDescs (x : LaneSt) : LaneSt :=
  let asns := (cmdList x.work).map fun c => BitVec.ofNat 64 c.2.asn
  { x with descs := x.descs.filter fun d => asns.contains d.1 }

end Sys2Proof.Machine
end

