-- ==== Sys2Proof/Machine/Readback.lean ====
section
/-! DEFINITION. The Time and Status readback copies (R449, R458, R461): non-vital copies that the hub refreshes from what the
lanes agreed and from the Underlay. -/

namespace Sys2Proof.Machine

/-- UTC offset in use: the grandmaster's while valid, else TIMECFG.UTC_OFS (R356). -/
def utcOffset (s : State) : Half := s.time.gmUtc.getD s.time.utcOfs

/-- OFS of TIMESTAT: signed, saturating at 32 767 us either way (R458). -/
def ofsField (o : Int) : Nat := ((max (-32767) (min 32767 o)) % 65536).toNat

/-- TIMESTAT (R458). -/
def timestatWord (s : State) : Word :=
  BitVec.ofNat 32 ((stimeState (rgStime (lead s).region)).code + 4 * ofFlag s.time.ptpLock + 8 * ofFlag s.time.gmUtc.isSome
    + 2 ^ 16 * ofsField s.time.ptpOfs)

/-- SWSTAT (R461). -/
def swstatWord (s : State) : Word := BitVec.ofNat 32 (s.ctl.sw.toNat + 2 ^ 31 * ofFlag s.ctl.swValid)

/-- SWLANE of a lane (R461). -/
def swlaneWord (x : LaneSt) : Word := BitVec.ofNat 32 (x.sw.toNat + 2 ^ 31 * ofFlag x.live)

/-- KEYSTAT (R461). -/
def keystatWord (s : State) : Word :=
  BitVec.ofNat 32 (keyCode s + 2 ^ 8 * s.ctl.contacts.toNat + 2 ^ 14 * ofFlag s.ctl.agreed)

/-- A lane's byte of LANEINFO (R461). -/
def laneinfoByte (now : DWord) (x : LaneSt) : Nat :=
  min 3 (within24 now x.excl).length + 4 * ofFlag x.retFuse + 8 * ofFlag x.record + 16 * ofFlag x.sense

/-- LANEINFO (R461). -/
def laneinfoWord (s : State) : Word :=
  BitVec.ofNat 32 (leNat (s.lanes.toList.map fun x => BitVec.ofNat 8 (laneinfoByte s.time.supUs x)))

/-- SUPSTAT, from the Underlay (R461). -/
def supstatWord (u : Underlay) : Word :=
  BitVec.ofNat 32 (u.bus % 1024 + 2 ^ 10 * ofFlag u.warn + 2 ^ 11 * ofFlag u.healthy + 2 ^ 12 * ofFlag (u.button == .stuck)
    + 2 ^ 13 * ofFlag u.pressed)

/-- FLDSTAT, from the E frame of the refresh; 0 while none is taken (R461). -/
def fldstatWord (s : State) : Word :=
  if s.agr.eavesOk then
    let e := s.agr.estat
    BitVec.ofNat 32 (s.agr.supply.a % 1024 + 2 ^ 10 * ofFlag (e.getLsbD 12) + 2 ^ 11 * ofFlag (e.getLsbD 10)
      + 2 ^ 16 * (s.agr.supply.b % 1024) + 2 ^ 26 * ofFlag (e.getLsbD 13) + 2 ^ 27 * ofFlag (e.getLsbD 11))
  else 0

/-- TEMP_LANE and TEMP_OTHER (R461). -/
def tempLaneWord (s : State) : Word := BitVec.ofNat 32 (leNat ([0, 1, 2, 3].map fun i => Config.junctionTemp i s.time.supUs))
/-- TEMP_OTHER. -/
def tempOtherWord (s : State) : Word := BitVec.ofNat 32 (leNat ([4, 5].map fun i => Config.junctionTemp i s.time.supUs))

/-- Highest lease epoch the module knows (R332, R461). -/
def epochKnown (s : State) : Nat :=
  maxOf (s.peer.epoch.toNat :: s.lanes.toList.map fun x => (bootCur x.mram).epoch.toNat)

/-- The Underlay's copy, which it refreshes every 1 ms (R449). -/
def refreshUl (s : State) : State :=
  { s with host := { s.host with rb := { s.host.rb with supstat := supstatWord s.ul, tempOther := tempOtherWord s } } }

/-- The lane-supplied copies, refreshed whenever the lanes agree new values (R449). -/
def refreshLanes (s : State) : State :=
  let rb := s.host.rb
  { s with host := { s.host with rb := { rb with
      timestat := timestatWord s, stime := rgStime (lead s).region, cycle := s.cyc.k, swstat := swstatWord s,
      swlane := s.lanes.map swlaneWord, keystat := keystatWord s, lanestat := roster s, laneinfo := laneinfoWord s,
      fldstat := fldstatWord s, tempLane := tempLaneWord s, epoch := BitVec.ofNat 32 (epochKnown s) } } }

/-- Both. -/
def refreshAll (s : State) : State := refreshUl (refreshLanes s)

end Sys2Proof.Machine
end

