-- ==== Sys2Proof/Machine/Agree.lean ====
section
/-! DEFINITION. Input close and input agreement (R36, R84 to R87): what the lanes share before the tasks and the Truss
engine run, and the release of both (R50, R125). -/

namespace Sys2Proof.Machine

/-! ## Input close (R36) -/

/-- At input close every section of the cycle in a lane's ring input queues is in its image buffers (R32, R38). -/
def drainRings (k : DWord) (x : LaneSt) : LaneSt :=
  { x with
    ringBuf := x.ringBuf ++ (x.ringIn.a.items ++ x.ringIn.b.items ++ x.ringIn.c.items ++ x.ringIn.d.items).filter (ofCycle k),
    ringIn := x.ringIn.map CQ.drain }

/-- LATE_SECTION: a node's G section that missed input close, counted once for the node and the cycle (R36; log entry 82). A slot
with the empty section holds none. -/
def lateSection (s : State) (w : RingSlot) : State :=
  if (hdrType w.hdr != ftG || w.sec == emptySection) then s
  else
    let late (n : NodeImg) : NodeImg := if n.lateAt = some s.cyc.k then n else { n with late := n.late + 1, lateAt := some s.cyc.k }
    { s with agr := { s.agr with nodes := s.agr.nodes.modify w.ring.slot fun ns => listMod ns w.pos late } }

/-- Sections of another cycle in the ring input queues at input close, counted as spills of their queues (R32). -/
def drainSpills (s : State) : State :=
  (Lane.all.flatMap fun l => RingId.all.map fun r => (l, r)).foldl (fun t x =>
    spillCount t 0 (4 * (x.2.num - 1) + x.1.num) ((((s.lanes.get x.1).ringIn.get x.2.slot).items.countP fun w => !ofCycle s.cyc.k w))) s

/-- INPUT_CLOSE: G sections received after this are not used; those that the hub has not handed over are late (R36). -/
def inputCloseAt (s : State) : State :=
  let s1 := drainSpills (advanceTo s 450000)
  let s2 := s.rings.hand.toList.flatten.foldl lateSection s1
  { s2 with
    cyc := { s2.cyc with closed := true },
    lanes := s2.lanes.map (drainRings s.cyc.k),
    rings := { s2.rings with hand := ⟨[], [], [], []⟩ } }

/-- INPUT_CLOSE (R35, R36). -/
def execInputClose (s : State) : Host.Outcome State Fault Refusal :=
  .next (if hubUp s && !s.cyc.closed then inputCloseAt s else s)

/-! ## Key, supply status, switches (R84, R385, R386) -/

/-- The position that the agreed pattern of the six contacts shows; none for all open (R379). A pattern that failed agreement is
invalid (R87). -/
def keyPattern (agreed : Bool) (c : BitVec 6) : Option KeyPos :=
  if !agreed then some .invalid
  else if c = 0 then none
  else if c = 0b000011 then some .run
  else if c = 0b001100 then some .maint
  else if c = 0b110000 then some .test
  else some .invalid

/-- Another sample has been agreed: the samples in a row that show the same are counted (R379). -/
def keySample (agreed : Bool) (c : BitVec 6) (x : Ctl) : Ctl :=
  { x with contacts := c, agreed := agreed,
           keyRun := if keyPattern agreed c = keyPattern x.agreed x.contacts then x.keyRun + 1 else 1 }

/-- Milliseconds from the first to the last of the samples in a row that show the same (R379). -/
def keyHeldMs (s : State) : Nat := (s.ctl.keyRun - 1) * periodMs s

/-- Agreement of the patterns that the lanes sampled at Ck. Two lanes must read alike; a key pattern that fails agreement
counts as invalid (R87); in BOOT the agreed switches are the reading taken at boot (R385). -/
def ctlAgree (s : State) (ls : List Lane) : State :=
  let live := ls.filter fun l => (s.lanes.get l).live
  let ka := agree2 (live.map fun l => (s.lanes.get l).key)
  let wa := agree2 (live.map fun l => (s.lanes.get l).sw)
  let sa := agree2 (live.map fun l => (s.lanes.get l).sup)
  let sw := wa.getD s.ctl.sw
  { s with
    ctl := { keySample ka.isSome (ka.getD s.ctl.contacts) s.ctl with
      sup := sa.getD s.ctl.sup, sw := sw,
      swValid := wa.isSome,
      swBoot := if s.mod.st == .boot then sw else s.ctl.swBoot,
      swSeen := if s.mod.st == .boot then sw else s.ctl.swSeen },
    lanes := s.lanes.map fun x =>
      if x.live && wa.isSome then { x with swDiff := if x.sw = sw then 0 else x.swDiff + 1, sense := x.sense && x.sw != sw } else x }

/-! ## Station time (R357, R361, R362) -/

/-- The source of station time counts as good: a locked PTP slave, or a TIME_SET of the last 24 h (R359, R360). -/
def sourceGood (s : State) : Bool := if s.time.src then s.time.ptpLock else s.time.ref.isSome

/-- Vital period in us. -/
def periodUs (s : State) : Nat := periodMs s * 1000

/-- The hub's offer passes a lane's check in one of the three cases of R361. -/
def offerOk (s : State) (prev : DWord) (o : StationOffer) : Bool :=
  let inc : Int := (o.us.toNat : Int) - (stimeUs prev : Int)
  let last := (s.agr.incs.take 99)
  let sum : Int := inc + (sumOf last : Nat)
  if o.step then stimeState prev == .unset
  else stimeState prev != .unset &&
    ((inc - (periodUs s : Int)).natAbs ≤ 1 ||
      (last.length == 99 && (sum - (100 * periodUs s : Nat)).natAbs * 10000 ≤ 100 * periodUs s))

/-- The lanes of a set whose own check, against the station time in their own region, the offer passes (R84, R361). -/
def offerPassed (s : State) (ls : List Lane) (o : StationOffer) : List Lane :=
  ls.filter fun l => offerOk s (rgStime (s.lanes.get l).work) o

/-- The agreed station time of Ck: the offer when at least two lanes pass it, else carried forward by exactly P in HOLDOVER
(R84, R87, R362). While UNSET an offer without STEP is no offer and changes nothing. -/
def stationTime (s : State) (ls : List Lane) (o : StationOffer) : State :=
  let prev := rgStime (lead s).work
  let set (s : State) (w : DWord) : State := onLanes s (working s) fun _ x => workWrite x fun m => rgSetStime m w
  if 2 ≤ (offerPassed s ls o).length then
    let st : TimeState := if o.step || sourceGood s then .locked else .holdover
    let s1 := set s (stimeWord st o.us.toNat)
    { s1 with agr := { s1.agr with badOffers := 0,
                                   incs := if o.step then [] else ((o.us.toNat - stimeUs prev) :: s1.agr.incs).take 100 } }
  else if stimeState prev == .unset then s
  else
    let s1 := set s (stimeWord .holdover (stimeUs prev + periodUs s))
    let b := s.agr.badOffers + 1
    let s2 := { s1 with agr := { s1.agr with badOffers := b, incs := (periodUs s :: s1.agr.incs).take 100 } }
    if 10 ≤ b && (b - 10) % 1000 == 0 then raiseShared s2 0x0901 [] else s2

/-! ## Tasks (R50, R51) -/

/-- Is a task due in cycle k by its period and phase (R50)? -/
def taskDue (t : TaskEnt) (k : Nat) : Bool := t.m != 0 && (k + t.m - t.phase % t.m) % t.m == 0

/-- Numbers 1 to 8 of the tasks released in cycle k, in priority order; those abandoned in the last cycle again (R50). -/
def releasedTasks (y : Yealm) (k : Nat) (abandoned : List Nat) : List Nat :=
  let due := (enumFrom0 y.tasks).filter fun t => taskDue t.2 k || abandoned.contains (t.1 + 1)
  (sortBy (fun t : Nat × TaskEnt => t.2.prio) due).map (·.1 + 1)

/-- The snapshot that a task of the lane receives at its release (R56, R61). -/
def taskSnap (s : State) (x : LaneSt) (task : Nat) : TaskSnap :=
  { task := task, cycle := s.cyc.k, nodes := s.agr.nodes, eIn := s.agr.eIn, oStat := x.oStat, inj := s.agr.inj, cmds := [],
    region := x.region, stime := rgStime x.work, ctl := (s.ctl.contacts, s.ctl.sw, s.ctl.sup) }

/-- Release tasks, each with its snapshot, and start the Truss evaluation in every working lane (R50, R56); the roster to be
proposed is settled with the inputs, so that every lane proposes the same (R92). -/
def releaseAll (s : State) (y : Yealm) : State :=
  let ts := releasedTasks y s.cyc.k.toNat s.cyc.abandoned
  let s1 := onLanes s (working s) fun _ x =>
    { x with todo := ts, snaps := ts.map (taskSnap s x), truss := {}, log := [], pubNew := [], gmNew := none, ballot := none }
  { s1 with cyc := { s1.cyc with released := ts, abandoned := [], proposed := nextRoster s1 } }

/-! ## The agreed image (R84 to R86) -/

/-- A ring's node images, as many as its list has nodes. -/
def fitList (fresh ns : List NodeImg) : List NodeImg := ns.take fresh.length ++ fresh.drop ns.length

/-- Node lists as long as the yealm's. -/
def fitNodes (s : State) (y : Yealm) : State :=
  let ns := s.agr.nodes.mapL fun l ns => fitList ((freshNodes y).get l) ns
  { s with agr := { s.agr with nodes := ns } }

/-- Sections, Eaves report and Batten deadlines of the cycle, given the station times of the last and this Ck. -/
def agreeImage (s : State) (y : Yealm) (ls : List Lane) (fetchBad : Quad Bool) (prevT nowT : DWord) : State :=
  let all := lanesWith s.lanes fun x => x.role == .voting || x.role == .shadow
  let s1 := agreeRings y ls all fetchBad prevT nowT (fitNodes { s with agr := { s.agr with used := [] } } y)
  let bad := (voting s1).filter fun l => (s1.lanes.get l).fabricMiss
  let s2 := bad.foldl (fun s l => decideExcl s l .fabric []) s1
  missedBatten (agreeEaves y ls nowT s2)

/-- Each lane's image buffers and deadlines are cleared for the next cycle. -/
def clearInputs (s : State) : State :=
  { s with lanes := s.lanes.map fun x => { x with ringBuf := [], fabricMiss := false } }

/-- The commands' part of input agreement: confirmation, ACCEPTED and terminal completions, intake, presentation. A descriptor
belongs to the cycle only when every counted lane holds it, a silent one too (R22, R40). -/
def agreeCommands (s : State) : State :=
  let s1 := if isActive s then
      let cs := (cmdList (lead s).work).map (·.2)
      let a := confirmLoop cs (needAcks cs s)
      let b := termLoop ((cmdList (lead a).work).map (·.2)) a
      { b with agr := { b.agr with toShow := dueShow (lead b).work } }
    else s
  let s2 := if s1.mod.st == .safeStop || s1.mod.st == .off then s1 else closeIntake s1 (counted s1)
  produceCpl s2

/-- The agreed inputs enter the image and the released tasks are chosen (R84, R50); with an exchange that reloads the cycle is
barred, and its due tasks are released again later (R70, R181). -/
def agreeInputs (ls : List Lane) (fetchBad : Quad Bool) (offer : StationOffer) (s : State) : State :=
  match theYealm s with
  | none => s
  | some y =>
    if !s.cyc.opened && !s.cyc.gather then s
    else
      let t := stationTime s ls offer
      let u := agreeImage t y ls fetchBad (rgStime (lead s).work) (rgStime (lead t).work)
      if !s.cyc.opened then u
      else if s.mod.exch = .reloading then
        { u with cyc := { u.cyc with barred := true, released := releasedTasks y u.cyc.k.toNat u.cyc.abandoned } }
      else releaseAll u y

/-- The copies that the host reads follow: outside the vital cycle all of them (R449). -/
def agreeReadback (s : State) : State := if s.cyc.opened then refreshUl s else refreshAll s

/-- The lanes that do not report are to be excluded. -/
def agreeSilent (noReport : Quad Bool) (s : State) : State :=
  ((voting s).filter fun l => noReport.get l).foldl (fun s l => decideExcl s l .fabric []) s

/-- The cycle number is agreed with the inputs: every lane goes on with the number that two hold (R31). -/
def cycleAgree (s : State) (ls : List Lane) : State :=
  let k := (agree2 (ls.map fun l => (s.lanes.get l).k)).getD s.cyc.k
  { s with cyc := { s.cyc with k := k }, lanes := s.lanes.map fun x => { x with k := k } }

/-- INPUT_AGREEMENT: the input image of the cycle is fixed. -/
def inputAgreementAt (noReport fetchBad : Quad Bool) (offer : StationOffer) (s : State) : State :=
  let s1 := agreeSilent noReport { (advanceTo s 600000) with cyc := { s.cyc with agreedIn := true, closed := true } }
  let ls := (counted s1).filter fun l => !noReport.get l
  let s2 := agreeCommands (clearInputs (agreeInputs ls fetchBad offer (ctlAgree (cycleAgree s1 ls) ls)))
  agreeReadback { s2 with lanes := s2.lanes.map (stampInds (s2.cyc.k.setWidth 32)) }

/-- INPUT_AGREEMENT (R35, R84). -/
def execInputAgreement (noReport fetchBad : Quad Bool) (offer : StationOffer) (s : State) : Host.Outcome State Fault Refusal :=
  .next (if hubUp s && !s.cyc.agreedIn then inputAgreementAt noReport fetchBad offer s else s)

/-! ## INPUT_DIVERGE (R85) -/

/-- INPUT_DIVERGE: once in 100 cycles each voting lane that adopted a decision reports how often. -/
def execInputDiverge (s : State) : Host.Outcome State Fault Refusal :=
  .next (if hubUp s && s.cyc.opened && s.cyc.k.toNat % 100 == 0 then
    ((voting s).filter fun l => (s.lanes.get l).adopted != 0).foldl
      (fun s l => onLane (raiseLane s l 0x0281 (argLane l ++ arg2 (s.lanes.get l).adopted)) l fun x => { x with adopted := 0 }) s
    else s)

end Sys2Proof.Machine
end

