-- ==== Sys2Proof/Machine/Ballot.lean ====
section
/-! DEFINITION. The end of a task (R51, R54, R57), the end of the Truss evaluation (R42, R125), and the ballot a lane forms
when both are done (R92, R121). -/

namespace Sys2Proof.Machine

/-! ## The output image -/

/-- Is the reference an output of the yealm's object map? Input endpoints and unlisted ones are never commanded (R192). -/
def isOutput (y : Yealm) (ref : BitVec 24) : Bool :=
  y.endpoints.any (fun e => e.ref == ref) &&
    (if refLocal ref then refOut ref
     else y.objMap.any fun o => (enumFrom0 (o.slots.take o.nep)).any fun x => x.2 == ref && o.outmask.getLsbD x.1)

/-- Ring part of the output image: command and hold bits of every ring endpoint of the endpoint map, after the gate (R92). -/
def outImage (y : Yealm) (t : TrussOut) (pub : List OutCmd) : List OutCmd :=
  (y.endpoints.filter fun e => !refLocal e.ref).map fun e => gateOut y t (pubAt pub e.ref)

/-- The 32 Eaves drive bits, after the gate (R92, R121). The lanes write all members of a paralleled unit equal (R257): as the
lowest member, from whose bit the Eaves block drives every member (DEDUCED, log entry 101). -/
def eavesImage (y : Yealm) (t : TrussOut) (pub : List OutCmd) : BitVec 32 :=
  BitVec.ofNat 32 (bitsOf ((List.range 32).map fun i =>
    (gateOut y t (pubAt pub (BitVec.ofNat 24 (outRef (unitBase (outEnt y.eaves i) i))))).cmd))

/-! ## The region after commit -/

/-- What a terminal status writes in the command table (R312, R483). -/
def applyVerdict (k : Nat) (m : Mem) (v : Verdict) : Mem :=
  cmdUpd m v.asn.toNat fun c =>
    if c.terminal then c
    else { c with terminal := true, status := v.status.toNat, reason := v.reason.toNat, data := v.data.toNat, tcyc := k % 2 ^ 32 }

/-- The status of the IMAGE_EXCHANGE whose yealm came into force at this cycle's Ck (R181, R301, R313). -/
def exchVerdict (s : State) (x : LaneSt) : List Verdict :=
  if s.mod.exchDone && rgExchAsn x.work != 0 then
    [{ asn := BitVec.ofNat 64 (rgExchAsn x.work), status := 0x02, reason := 0, data := BitVec.ofNat 32 (rgExchX x.work), keep := true }]
  else []

/-- Every status the lane decides in the cycle. -/
def allVerdicts (s : State) (x : LaneSt) : List Verdict := x.verdicts ++ exchVerdict s x

/-- A command that has ended leaves no running transfer, named exchange or pending TIME_SET behind (R483). A TIME_SET that is
taken makes a LOCKED time of one that is not UNSET (R360). -/
def cleanEnded (m : Mem) : Mem :=
  let ended (asn : Nat) : Bool := asn != 0 && (match cmdFind m asn with | some (_, c) => c.terminal | none => false)
  let m1 := (xferSlots m).foldl (fun m i => if ended (xferAt m i).asn then xferFree m i else m) m
  let m2 := if ended (rgExchAsn m) then rgSetExch m1 0 0 else m1
  if ended (rgTsetAsn m) then
    let done := match cmdFind m (rgTsetAsn m) with | some (_, c) => c.status == 0x02 | none => false
    let w := rgStime m
    let m3 := if done && stimeState w != .unset then rgSetStime m2 (stimeWord .locked (stimeUs w)) else m2
    rgSetTset m3 0 0 0
  else m2

/-- The region as it stands after the commit of the present cycle (R57, R89, R129, R312): the runtime's pending writes, the
commit log, the statuses decided, the presentations made, the carry-over block, the roster proposed for the next instant (R92),
the cycle number. -/
def postRegion (s : State) (y : Yealm) (x : LaneSt) (disc : List Disc) : Mem :=
  let k := s.cyc.k.toNat
  let m1 := (allVerdicts s x).foldl (applyVerdict k) (applyWrites x.work x.log)
  let m2 := s.agr.shown.foldl (fun m a => cmdUpd m a.toNat fun c => { c with presented := true }) m1
  rgSetCycle (rgSetRoster (memWrite (cleanEnded m2) y.truss.tcbOff (carryAfter (trussIn s y x) x.truss disc)) s.cyc.proposed) k

/-- What a lane has published, laid over what stood. -/
def pubAfter (x : LaneSt) : List OutCmd := mergePub x.pub x.pubNew

/-- The lane's discrepancies of the cycle. -/
def laneDisc (s : State) (y : Yealm) (x : LaneSt) : List Disc := discList (trussIn s y x) x.truss (pubAfter x)

/-- The lane's ballot for the present cycle (R92). -/
def ballotOf (s : State) (y : Yealm) (x : LaneSt) : Ballot :=
  let pub := pubAfter x
  let disc := laneDisc s y x
  { k := s.cyc.k, outs := outImage y x.truss pub, eaves := eavesImage y x.truss pub, gm := x.gmNew.getD x.gmPub,
    digest := x.digest ^^^ digestChange x.region (postRegion s y x disc), summary := summaryOf x.truss disc,
    shadow := x.role == .shadow }

/-- The lane publishes: not while it withholds its ballot, has stopped or is halted (R79, R113, R364, R404, R479). -/
def publish (s : State) (x : LaneSt) : LaneSt :=
  match x.yealm with
  | none => x
  | some y => if x.withhold || x.stopped || x.haltReq then x else { x with ballot := some (ballotOf s y x) }

/-- A message of the lane stands in the Purlin link buffers of the other lanes until they take it (R17, R18). -/
def flitSent (s : State) (l : Lane) (kind : FlitKind) : State :=
  { s with lanes := s.lanes.mapL fun d x =>
      if d = l then x else { x with purlin := x.purlin.modify l fun q => q.send ⟨s.cyc.k, kind⟩ } }

/-- The other lanes have taken a message of the lane: every link buffer frees its slot (R17). -/
def flitTaken (s : State) (l : Lane) (kind : FlitKind) : State :=
  { s with lanes := s.lanes.mapL fun d x =>
      if d = l then x else { x with purlin := x.purlin.modify l fun q => q.freeWhere fun f => f.kind == kind } }

/-- The vote of a lane begins once its tasks have ended and its evaluation is complete (R42). The lanes of a standby vote on a
mirrored cycle when its computation ends (R340; log entry 100). -/
def tryPublish (s : State) (l : Lane) : State :=
  let x := s.lanes.get l
  if s.mod.st != .standby && (x.role == .voting || x.role == .shadow) && x.todo.isEmpty && x.truss.done && x.ballot.isNone then
    let s1 := { s with lanes := s.lanes.set l (publish s x) }
    if (s1.lanes.get l).ballot.isSome then flitSent s1 l .ballot else s1
  else s

/-- The window in which a vital cycle's tasks and evaluation count: opened, agreed, before the vote deadline. -/
def inWindow (s : State) : Bool :=
  hubUp s && s.cyc.opened && s.cyc.agreedIn && !s.cyc.voting && !s.cyc.voted && !s.cyc.missed && !s.cyc.barred

/-- The standby's lanes compute a mirrored cycle (R340). -/
def inShadow (s : State) : Bool := hubUp s && s.mod.st == .standby && s.peer.shadowC.isSome

/-- The state as tasks and evaluation of a mirrored cycle find it: with that cycle's number. -/
def atCycle (s : State) : State :=
  match s.peer.shadowC with
  | some c => if s.mod.st == .standby then { s with cyc := { s.cyc with k := c } } else s
  | none => s

/-- Of a task of a mirrored cycle nothing goes out: indications, decisions on commands and records are the holder's (R340, R346). -/
def mirroredResult (s : State) (r : TaskResult) : TaskResult :=
  if s.mod.st == .standby then { r with verdicts := [], inds := [], recs := [] } else r

/-! ## TASK_END -/

/-- Is the variable at an offset the task's own (R57, R164)? Writes elsewhere are the task's no-op. -/
def writeAllowed (y : Yealm) (task : Nat) (w : RWrite) : Bool :=
  y.dir.any fun d => d.writer == task && d.type != 9 && d.off ≤ w.off && w.off + w.data.length ≤ d.off + typeSize d.type

/-- The task's entry in the task table. -/
def taskEnt (y : Yealm) (task : Nat) : Option TaskEnt := if task = 0 then none else y.tasks[task - 1]?

/-- Opcodes that the command task carries out (R301). -/
def programOp (op : Nat) : Bool := 1 ≤ op && op ≤ 8

/-- A decision of the command task on a command that was presented to it and is not terminal (R57, R301); a REQUEST and the
runtime's opcodes are not its to decide. An expiry of the same cycle gives way to it (R315). -/
def taskVerdict (s : State) (x : LaneSt) (acc : List Verdict) (v : DWord × TaskVerdict) : List Verdict :=
  match cmdFind x.work v.1.toNat with
  | none => acc
  | some (_, c) =>
    let taken := acc.any fun a => a.asn == v.1 && a.status != 0x04
    if !programOp c.opcode || c.step == 1 || c.terminal || taken || !(c.presented || s.agr.shown.contains v.1) then acc
    else
      let rest := acc.filter fun a => a.asn != v.1
      match v.2 with
      | .done => rest ++ [{ asn := v.1, status := 0x02, reason := 0, data := 0, keep := false }]
      | .refused d => rest ++ [{ asn := v.1, status := 0x03, reason := 0x1A, data := d, keep := false }]

/-- The directory variable in which a write stands. -/
def varAt (y : Yealm) (w : RWrite) : Option DirEnt :=
  y.dir.find? fun d => d.off ≤ w.off && w.off + w.data.length ≤ d.off + typeSize d.type

/-- What a task's write stores (R59, R166): at a TIMER it starts it in cycle k with the preset of its declaration, or stops it
where the write is the idle value; at an EDGE it stores the value with PRIMED (DESIGN CHOICE, log entry 88); any other variable
takes its bytes. -/
def storedWrite (y : Yealm) (k : Nat) (w : RWrite) : RWrite :=
  match varAt y w with
  | none => w
  | some d =>
    if d.type = 7 then
      { off := d.off, data := if !w.data.isEmpty && w.data.all (· == 0xFF) then timerBytes timerIdle timerIdle
          else timerBytes k (k + presetCycles (presetOf y d.id) d.safe y.periodMs) }
    else if d.type = 8 then { off := d.off, data := [BitVec.ofNat 8 (2 + (w.data.headD 0).toNat % 2)] }
    else w

/-- What the end of a task does in one lane. -/
def taskEndLane (s : State) (y : Yealm) (task : Nat) (e : TaskEnt) (r : TaskResult) (x : LaneSt) : LaneSt :=
  let x1 := { x with
    todo := x.todo.drop 1, snaps := x.snaps.filter fun n => n.task != task,
    pubNew := mergePub x.pubNew (r.outs.filter fun o => isOutput y o.ref),
    gmNew := match r.gm with | some g => some g | none => x.gmNew,
    log := x.log ++ (r.writes.filter (writeAllowed y task)).map (storedWrite y s.cyc.k.toNat),
    verdicts := if e.command then r.verdicts.foldl (taskVerdict s x) x.verdicts else x.verdicts }
  r.inds.foldl (fun x p => laneInd x (mkInd s 0x01 p)) x1

/-- The lanes of a set on which the task is the next to end. -/
def taskLanes (s : State) (lanes : Quad Bool) (task : Nat) : List Lane :=
  (working s).filter fun l => lanes.get l && (s.lanes.get l).todo.head? == some task && !(s.lanes.get l).stopped

/-- Records of the station program (R422): codes from 0x8000, classes ALARM and EVENT, written once by the reporting lane. -/
def programRecs (s : State) (recs : List GRecIn) : State :=
  recs.foldl (fun s g => if 0x8000 ≤ g.code.toNat && g.cls < 2 then
    gutPut s (mkRec s g.code.toNat g.cls g.sev 0 (laneMask (voting s)) g.args) else s) s

/-- The end of a task on a set of lanes. -/
def taskEndAt (lanes : Quad Bool) (task runUs : Nat) (r : TaskResult) (s : State) : State :=
  match theYealm s with
  | none => s
  | some y =>
    match taskEnt y task with
    | none => s
    | some e =>
      let ls := taskLanes s lanes task
      let r' := mirroredResult s r
      let s1 := onLanes s ls fun _ x => taskEndLane (atCycle s) y task e r' x
      let s2 := if ls.contains (refLane s) then programRecs s1 r'.recs else s1
      let s3 := if e.wcetUs < runUs then
          ls.foldl (fun s l => raiseLane s l 0x0181 (argInst (arg1 task))) s2 else s2
      ls.foldl tryPublish s3

/-- TASK_END (R51): outside the task window nothing ends. -/
def execTaskEnd (lanes : Quad Bool) (task runUs : Nat) (res : TaskResult) (s : State) : Host.Outcome State Fault Refusal :=
  .next (if inWindow s || inShadow s then taskEndAt lanes task runUs res s else s)

/-! ## TRUSS_EVALUATION_COMPLETE -/

/-- A lane's evaluation ends (R125, R139). -/
def evalLane (s : State) (evalUs : Nat) (x : LaneSt) : LaneSt :=
  match x.yealm with
  | none => x
  | some y =>
    { x with
      truss := trussEval (trussIn s y x),
      tstat := { x.tstat with maxUs := max x.tstat.maxUs evalUs, sumUs := x.tstat.sumUs + evalUs, evals := x.tstat.evals + 1 } }

/-- The evaluation ends on a set of lanes. -/
def trussDoneAt (lanes : Quad Bool) (evalUs : Nat) (s : State) : State :=
  let ls := (working s).filter fun l => lanes.get l && !(s.lanes.get l).truss.done && !(s.lanes.get l).stopped
  ls.foldl tryPublish (onLanes s ls fun _ x => evalLane (atCycle s) evalUs x)

/-- TRUSS_EVALUATION_COMPLETE (R125). -/
def execTrussEvaluationComplete (lanes : Quad Bool) (evalUs : Nat) (s : State) : Host.Outcome State Fault Refusal :=
  .next (if inWindow s || inShadow s then trussDoneAt lanes evalUs s else s)

/-! ## VOTE_DEADLINE and BALLOT_ARRIVAL -/

/-- Dv: offset from Ck of the latest start of the vote [ns] (R35). -/
def deadlineNs (p : Nat) : Nat := if p = 5 then 1600000 else if p = 20 then 16000000 else 6000000

/-- An evaluation that is not complete delivers no permit; a lane whose tasks have ended publishes all the same (R43). -/
def deadlineLane (s : State) (x : LaneSt) : LaneSt :=
  if x.role == .voting || x.role == .shadow then
    let x1 := if x.truss.done then x else { x with truss := { x.truss with late := true } }
    if x1.todo.isEmpty && x1.ballot.isNone then publish s x1 else x1
  else x

/-- The vote deadline. -/
def voteDeadlineAt (s : State) : State :=
  let s1 := advanceTo s (deadlineNs (periodMs s))
  let s2 := { s1 with lanes := s1.lanes.map (deadlineLane s1), cyc := { s1.cyc with voting := true } }
  let late := Lane.all.filter fun l => (s1.lanes.get l).ballot.isNone && (s2.lanes.get l).ballot.isSome
  late.foldl (fun s l => flitSent s l .ballot) s2

/-- VOTE_DEADLINE (R35, R43). -/
def execVoteDeadline (s : State) : Host.Outcome State Fault Refusal :=
  .next (if inWindow s then voteDeadlineAt s else s)

/-- A ballot of the lane is under way to the others. -/
def ballotUnderWay (s : State) (l : Lane) : Bool :=
  Lane.all.any fun d => d != l && ((s.lanes.get d).purlin.get l).items.any fun f => f.kind == .ballot

/-- A lane's ballot arrives at the others; one of another cycle is discarded and counted as a spill of the Purlin buffer
(R32, R93). A ballot that arrives once the vote is over is taken from the buffers and has no other effect: the cycle's own rules
have dealt with its lane (R68, R69). -/
def ballotArrivalAt (src : Lane) (k : DWord) (s : State) : State :=
  if k != s.cyc.k then raiseShared s 0x0101 (argInst (arg1 2 ++ arg1 src.num) ++ arg2 1)
  else if s.cyc.voted || s.cyc.missed then flitTaken s src .ballot
  else
    match (s.lanes.get src).ballot with
    | none => s
    | some b =>
      if (s.cyc.ballots.get src).isSome then s
      else flitTaken { s with cyc := { s.cyc with ballots := s.cyc.ballots.set src (some b) } } src .ballot

/-- BALLOT_ARRIVAL (R32, R67). -/
def execBallotArrival (src : Lane) (k : DWord) (s : State) : Host.Outcome State Fault Refusal :=
  .next (if hubUp s && s.cyc.opened then ballotArrivalAt src k s else s)

end Sys2Proof.Machine
end

