-- ==== Sys2Proof/Machine/PeerCodec.lean ====
section
/-! DEFINITION. The bytes of mirrored items and of request/response payloads (R327, R337). The manual gives their content and leaves
its layout open: everything here but the 16 B head of a block is a DESIGN CHOICE (log entry 96), big-endian as R6 says of peer
messages. -/

namespace Sys2Proof.Machine

variable {α β : Type}

/-! ## Reading and laying down -/

/-- A number of n bytes off the front. -/
def getBE (n : Nat) (b : List Byte) : Nat × List Byte := (beNat (b.take n), b.drop n)

/-- n bytes off the front. -/
def getBytes (n : Nat) (b : List Byte) : List Byte × List Byte := (b.take n, b.drop n)

/-- One field after another. -/
def getPair (f : List Byte → α × List Byte) (g : List Byte → β × List Byte) (b : List Byte) : (α × β) × List Byte :=
  let x := f b
  let y := g x.2
  ((x.1, y.1), y.2)

/-- n items one after another. -/
def getN (f : List Byte → α × List Byte) : Nat → List Byte → List α × List Byte
  | 0, b => ([], b)
  | n + 1, b =>
    let x := f b
    let r := getN f n x.2
    (x.1 :: r.1, r.2)

/-- A list: its length in w bytes, then its items. -/
def getSeq (w : Nat) (f : List Byte → α × List Byte) (b : List Byte) : List α × List Byte :=
  getN f (getBE w b).1 (getBE w b).2

/-- The same laid down. -/
def putSeq (w : Nat) (g : α → List Byte) (xs : List α) : List Byte := beBytes w xs.length ++ xs.flatMap g

/-! ## Journal records (R168) -/

/-- A record. -/
def putJrec : JRec → List Byte
  | .delta ws => beBytes 1 0 ++ putSeq 4 (fun w => beBytes 4 w.1 ++ beBytes 8 w.2.toNat) ws
  | .command d asn => beBytes 1 1 ++ putSeq 2 (fun x => [x]) d ++ beBytes 8 asn.toNat
  | .accept asn => beBytes 1 2 ++ beBytes 8 asn.toNat
  | .terminal asn st => beBytes 1 3 ++ beBytes 8 asn.toNat ++ [st]
  | .event c d v => beBytes 1 4 ++ beBytes 8 c.toNat ++ beBytes 4 d ++ beBytes 4 v
  | .close dg => beBytes 1 5 ++ beBytes 8 dg.toNat

/-- A 64-bit number off the front. -/
def getDW (b : List Byte) : DWord × List Byte := (BitVec.ofNat 64 (getBE 8 b).1, (getBE 8 b).2)

/-- A record off the front. -/
def getJrec (b : List Byte) : JRec × List Byte :=
  let k := getBE 1 b
  if k.1 = 0 then
    let x := getSeq 4 (getPair (getBE 4) getDW) k.2
    (.delta x.1, x.2)
  else if k.1 = 1 then
    let x := getPair (fun b => (b.drop 2 |>.take (getBE 2 b).1, b.drop (2 + (getBE 2 b).1))) getDW k.2
    (.command x.1.1 x.1.2, x.2)
  else if k.1 = 2 then
    let x := getDW k.2
    (.accept x.1, x.2)
  else if k.1 = 3 then
    let x := getPair getDW (getBytes 1) k.2
    (.terminal x.1.1 (x.1.2.headD 0), x.2)
  else if k.1 = 4 then
    let x := getPair getDW (getPair (getBE 4) (getBE 4)) k.2
    (.event x.1.1 x.1.2.1 x.1.2.2, x.2)
  else
    let x := getDW k.2
    (.close x.1, x.2)

/-! ## Items -/

/-- n bytes from address a of a memory that lists none below a. -/
def memRange : Nat → Nat → Mem → List Byte
  | 0, _, _ => []
  | n + 1, a, [] => 0 :: memRange n (a + 1) []
  | n + 1, a, (x, b) :: r => if x = a then b :: memRange n (a + 1) r else 0 :: memRange n (a + 1) ((x, b) :: r)

/-- Bytes from an address as the non-zero cells of a memory. -/
def cellsOf : Nat → List Byte → Mem
  | _, [] => []
  | a, b :: r => if b = 0 then cellsOf (a + 1) r else (a, b) :: cellsOf (a + 1) r

/-- A used section with its decision. -/
def putUsed (e : Nat × Nat × Nat × Nat × List Byte) : List Byte :=
  beBytes 1 e.1 ++ beBytes 1 e.2.1 ++ beBytes 1 e.2.2.1 ++ beBytes 1 e.2.2.2.1 ++ (e.2.2.2.2 ++ zeros 56).take 56

/-- The same off the front. -/
def getUsed : List Byte → (Nat × Nat × Nat × Nat × List Byte) × List Byte :=
  getPair (getBE 1) (getPair (getBE 1) (getPair (getBE 1) (getPair (getBE 1) (getBytes 56))))

/-- A plane of a RING item. -/
def putRingMir (x : RingMir) : List Byte :=
  beBytes 1 x.ring ++ beBytes 1 x.plane ++ beBytes 1 (ofFlag x.unbroken) ++ beBytes 4 x.loopNs ++ beBytes 4 x.probeNs ++
    putSeq 2 (fun e => beBytes 1 e.1 ++ (e.2 ++ zeros 16).take 16) x.found ++ putSeq 2 (beBytes 1) x.accepted ++
    putSeq 2 (fun e => beBytes 1 e.1 ++ beBytes 4 e.2) x.dly ++ putSeq 1 (fun e => beBytes 1 e.1 ++ beBytes 2 e.2) x.halves

/-- The same off the front. -/
def getRingMir (b : List Byte) : RingMir × List Byte :=
  let h := getPair (getBE 1) (getPair (getBE 1) (getPair (getBE 1) (getPair (getBE 4) (getBE 4)))) b
  let f := getSeq 2 (getPair (getBE 1) (getBytes 16)) h.2
  let a := getSeq 2 (getBE 1) f.2
  let d := getSeq 2 (getPair (getBE 1) (getBE 4)) a.2
  let v := getSeq 1 (getPair (getBE 1) (getBE 2)) d.2
  ({ ring := h.1.1, plane := h.1.2.1, unbroken := h.1.2.2.1 = 1, loopNs := h.1.2.2.2.1, probeNs := h.1.2.2.2.2, found := f.1,
     accepted := a.1, dly := d.1, halves := v.1 }, v.2)

/-- Number of an item's kind, in the order of R337's table. -/
def MirrorPay.kind : MirrorPay → Nat
  | .inputs _ _ _ _ _ _ => 0 | .present _ _ => 1 | .group _ => 2 | .result _ _ => 3 | .ring _ => 4 | .full _ _ => 5

/-- The content of an item. -/
def itemBytes : MirrorPay → List Byte
  | .inputs secs e key sw sup st =>
    putSeq 2 putUsed secs ++ putSeq 2 (fun x => [x]) e ++ beBytes 1 key.toNat ++ beBytes 4 sw.toNat ++ beBytes 1 sup.toNat ++
      beBytes 8 st.toNat
  | .present asns tasks => putSeq 2 (fun a => beBytes 8 a.toNat) asns ++ putSeq 1 (beBytes 1) tasks
  | .group recs => putSeq 4 putJrec recs
  | .result crc sum => beBytes 4 crc.toNat ++ beBytes 8 sum.toNat
  | .ring ps => putSeq 1 putRingMir ps
  | .full i cells => beBytes 1 i ++ memRange 65536 (65536 * i) (cells.filter fun c => 65536 * i ≤ c.1 && c.1 < 65536 * (i + 1))

/-- An item of a kind from its content. -/
def itemOf (kind : Nat) (b : List Byte) : Option MirrorPay :=
  if kind = 0 then
    let s := getSeq 2 getUsed b
    let n := getBE 2 s.2
    let e := getBytes n.1 n.2
    let c := getPair (getBE 1) (getPair (getBE 4) (getPair (getBE 1) getDW)) e.2
    some (.inputs s.1 e.1 (BitVec.ofNat 6 c.1.1) (BitVec.ofNat 25 c.1.2.1) (BitVec.ofNat 2 c.1.2.2.1) c.1.2.2.2)
  else if kind = 1 then
    let x := getPair (getSeq 2 getDW) (getSeq 1 (getBE 1)) b
    some (.present x.1.1 x.1.2)
  else if kind = 2 then some (.group (getSeq 4 getJrec b).1)
  else if kind = 3 then
    let x := getPair (getBE 4) getDW b
    some (.result (BitVec.ofNat 32 x.1.1) x.1.2)
  else if kind = 4 then some (.ring (getSeq 1 getRingMir b).1)
  else if kind = 5 then some (.full (getBE 1 b).1 (cellsOf (65536 * (getBE 1 b).1) ((getBE 1 b).2.take 65536)))
  else none

/-! ## Blocks (R337) -/

/-- The 4 KiB block j of an item: 16 B of kind, index and cycle, then 4 080 B of its content, which begins with its length. -/
def blockBytes (kind j : Nat) (cycle : DWord) (content : List Byte) : List Byte :=
  beBytes 4 kind ++ beBytes 4 j ++ beBytes 8 cycle.toNat ++ (slice content (4080 * j) 4080 ++ zeros 4080).take 4080

/-- Blocks that n bytes of content take. -/
def blocksFor (n : Nat) : Nat := max 1 ((n + 4079) / 4080)

/-- The blocks of an item of a cycle. -/
def itemBlocks (cycle : DWord) (p : MirrorPay) : List MirrorMsg :=
  let b := itemBytes p
  let content := beBytes 4 b.length ++ b
  (List.range (blocksFor content.length)).map fun j => { relay := false, cycle := cycle, pay := blockBytes p.kind j cycle content }

/-- A block as its receiver reads it. -/
def blockOf (pay : List Byte) : MirrorBlk :=
  { kind := fldBE pay 0 4, index := fldBE pay 4 4, cycle := BitVec.ofNat 64 (fldBE pay 8 8), data := pay.drop 16 }

/-- The content that the received blocks of a kind and cycle make up; none while a block is missing. -/
def joined (asm : List MirrorBlk) (kind : Nat) (cycle : DWord) : Option (List Byte) :=
  let part (j : Nat) : Option MirrorBlk := asm.find? fun b => b.kind == kind && b.cycle == cycle && b.index == j
  match part 0 with
  | none => none
  | some b =>
    let n := fldBE b.data 0 4
    let parts := (List.range (blocksFor (4 + n))).map part
    if parts.all Option.isSome then
      some (((parts.flatMap fun p => match p with | some x => x.data | none => []).drop 4).take n)
    else none

/-! ## Requests and responses (R318, R327, R343) -/

/-- Bytes of a yealm in one message: a 256 B message holds 220 B between its header and its code. -/
def partBytes : Nat := 192

/-- The payload. -/
def bodyBytes : PeerBody → List Byte
  | .segment off last d => beBytes 1 0 ++ beBytes 4 off ++ beBytes 1 (ofFlag last) ++ beBytes 2 d.length ++ d
  | .segmentAck => beBytes 1 1
  | .fetch off len => beBytes 1 2 ++ beBytes 4 off ++ beBytes 4 len
  | .fetchData off last d => beBytes 1 3 ++ beBytes 4 off ++ beBytes 1 (ofFlag last) ++ beBytes 2 d.length ++ d

/-- A payload as its receiver reads it. -/
def bodyOf (b : List Byte) : Option PeerBody :=
  let k := fldBE b 0 1
  if k = 0 then some (.segment (fldBE b 1 4) (fldBE b 5 1 == 1) (slice b 8 (fldBE b 6 2)))
  else if k = 1 then some .segmentAck
  else if k = 2 then some (.fetch (fldBE b 1 4) (fldBE b 5 4))
  else if k = 3 then some (.fetchData (fldBE b 1 4) (fldBE b 5 1 == 1) (slice b 8 (fldBE b 6 2)))
  else none

/-- Is it a response? -/
def PeerBody.isResponse : PeerBody → Bool
  | .segmentAck => true
  | .fetchData _ _ _ => true
  | .segment _ _ _ => false
  | .fetch _ _ => false

end Sys2Proof.Machine
end

