-- ==== Sys2Proof/Machine/PeerMsg.lean ====
section
/-! DEFINITION. Messages of the peer links and the queues of their classes (R325 to R328): header and code, the mirror class with its
relays, the request/response class. -/

namespace Sys2Proof.Machine

/-! ## Header and code (R325, R326) -/

/-- MASTER_ID of this module, which is its module ID: that of PAIR_POS in a pair, 0 alone (R322, R323). -/
def masterId (s : State) : Nat := if isPair s && pairPosB s then 1 else 0

/-- PTYPE values. -/
def ptRenew : Nat := 0x504E
def ptBeat : Nat := 0x5042
def ptLink : Nat := 0x504B
def ptMirror : Nat := 0x504D
def ptRelay : Nat := 0x5052
def ptRequest : Nat := 0x5051
def ptResponse : Nat := 0x5041

/-- The class of a PTYPE: lease, mirror, request/response; 3 of any other value. -/
def ptClass (ptype : Nat) : Nat :=
  if ptype = ptRenew || ptype = ptBeat || ptype = ptLink then 0
  else if ptype = ptMirror || ptype = ptRelay then 1
  else if ptype = ptRequest || ptype = ptResponse then 2
  else 3

/-- A message: header, payload, CRC-32C, multi-byte fields big-endian (R6). CR_MIRROR and CR_REQ return the credits that have come
free here. -/
def peerMsg (s : State) (ptype : Nat) (link : Plane) (seq : Word) (cycle : Nat) (pay : List Byte) : List Byte :=
  withCrcBE (beBytes 2 ptype ++ beBytes 1 (ptClass ptype + 4 * link.num + 8 * masterId s) ++ [0] ++ beBytes 4 (epochKnown s) ++
    beBytes 4 seq.toNat ++ beBytes 4 pay.length ++ beBytes 8 cycle ++ beBytes 2 (min 65535 s.peer.backMirror) ++
    beBytes 2 (min 65535 s.peer.backReq) ++ zeros 4 ++ pay)

/-- A valid message of a type on a link: length, CRC, PTYPE with its class, the link it names. -/
def peerValid (ptype : Nat) (link : Plane) (m : List Byte) : Bool :=
  36 ≤ m.length && fldBE m (m.length - 4) 4 == (crc32c (m.take (m.length - 4))).toNat && fldBE m 0 2 == ptype &&
    fldBE m 2 1 % 4 == ptClass ptype && bitAt (fldBE m 2 1) 2 == (link == .B) && fldBE m 12 4 + 36 == m.length

/-- Sender's module ID. -/
def pmSender (m : List Byte) : Nat := ofFlag (bitAt (fldBE m 2 1) 3)
/-- EPOCH. -/
def pmEpoch (m : List Byte) : Nat := fldBE m 4 4
/-- SEQ. -/
def pmSeq (m : List Byte) : Word := BitVec.ofNat 32 (fldBE m 8 4)
/-- CYCLE. -/
def pmCycle (m : List Byte) : DWord := BitVec.ofNat 64 (fldBE m 0x10 8)
/-- CR_MIRROR. -/
def pmCrMirror (m : List Byte) : Nat := fldBE m 0x18 2
/-- CR_REQ. -/
def pmCrReq (m : List Byte) : Nat := fldBE m 0x1A 2
/-- Payload. -/
def pmPay (m : List Byte) : List Byte := slice m 32 (m.length - 36)

/-- A SEQ among those taken of its class; the last 256 are kept (log entry 97). -/
def noteSeq (seen : List Word) (q : Word) : List Word := (q :: seen).take 256

/-- Where a message has gone out, the credits in its header are back with the other module (R326). -/
def creditsBack (sent : Bool) (s : State) : State :=
  let n := if sent then 65535 else 0
  { s with peer := { s.peer with backMirror := s.peer.backMirror - n, backReq := s.peer.backReq - n } }

/-- The port takes and sends messages: module of a pair, suitable SFP (R322, R325). -/
def linkLive (s : State) (l : Plane) : Bool := hubUp s && isPair s && (s.peer.links.get l).sfpOk

/-- The link is up (R329). -/
def linkUp (s : State) (l : Plane) : Bool := linkLive s l && (s.peer.links.get l).up

/-- The other link. -/
def otherLink : Plane → Plane
  | .A => .B
  | .B => .A

/-! ## The mirror class (R18, R327, R337) -/

/-- Credits that a message of n bytes of payload takes: one for each 4 KiB. -/
def blocksOf (n : Nat) : Nat := max 1 ((n + 4095) / 4096)

/-- The lanes send the blocks they hold as far as the queue's credits go (R17). -/
def pumpMirror (s : State) : State :=
  let (q, rest) := s.peer.mirrorQ.sendAll s.peer.mirrorWait
  { s with peer := { s.peer with mirrorQ := q, mirrorWait := rest } }

/-- Put an item of the cycle into the mirror queue, block by block as credits allow (R337). -/
def mirrorPut (s : State) (p : MirrorPay) : State :=
  pumpMirror { s with peer := { s.peer with mirrorWait := s.peer.mirrorWait ++ itemBlocks s.cyc.k p } }

/-- A frame is relayed to the other module (R217): ahead of every mirror block that has not begun (R327). The ring frame engines never
stall the fibre (R19): where the queue has no room the relay is dropped. -/
def relaySend (s : State) (frame : List Byte) : State :=
  let q := s.peer.mirrorQ
  let n := blocksOf frame.length
  if q.credits < n then s
  else
    let m : MirrorMsg := { relay := true, cycle := s.cyc.k, pay := frame }
    { s with peer := { s.peer with mirrorQ := {
        items := q.items.filter (·.relay) ++ [m] ++ q.items.filter (fun x => !x.relay), credits := q.credits - n } } }

/-- The link of the next message of the mirror class: the two take turns while both are up; none while both are down. -/
def mirrorLink (s : State) : Option Plane :=
  if linkUp s s.peer.mirrorTurn then some s.peer.mirrorTurn
  else if linkUp s (otherLink s.peer.mirrorTurn) then some (otherLink s.peer.mirrorTurn) else none

/-- The message at the front of the mirror queue leaves on a link, within the credits that the other hub has granted; its slots are
free again. -/
def mirrorLeave (s : State) : State :=
  match s.peer.mirrorQ.items, mirrorLink s with
  | m :: r, some link =>
    let n := blocksOf m.pay.length
    if s.peer.crMirror < n then s
    else
      let q := s.peer.seqMirror + 1
      let out := peerMsg s (if m.relay then ptRelay else ptMirror) link q m.cycle.toNat m.pay
      let s1 := creditsBack true s
      pumpMirror { s1 with peer := { s1.peer with
        mirrorQ := { items := r, credits := s.peer.mirrorQ.credits + n }, crMirror := s.peer.crMirror - n, seqMirror := q,
        mirrorSent := out, mirrorTurn := otherLink link } }
  | _, _ => s

/-! ## The request/response class (R327, R328) -/

/-- Requests use J9 while it is up, otherwise J10. -/
def reqLink (s : State) : Plane := if (s.peer.links.get .A).up then .A else .B

/-- Slots and credits that requests leave to the responses, so that none waits behind a request (R328; DESIGN CHOICE, log entry
98). -/
def respReserve : Nat := 32

/-- Requests that have not been sent yet go into the queue as its credits allow. -/
def pumpReqs (s : State) : State :=
  s.peer.openReqs.foldl (fun t r =>
    if r.sent = 0 && respReserve < t.peer.reqOut.credits then
      { t with peer := { t.peer with
          reqOut := t.peer.reqOut.send { seq := r.seq, link := reqLink s, body := r.body },
          openReqs := t.peer.openReqs.map fun x => if x.seq = r.seq then { x with sent := 1, link := reqLink s } else x } }
    else t) s

/-- A new request: SEQ goes up by 1 per message. -/
def sendReq (s : State) (b : PeerBody) : State :=
  let q := s.peer.seqReq + 1
  pumpReqs { s with peer := { s.peer with
    seqReq := q, openReqs := s.peer.openReqs ++ [{ seq := q, body := b, sent := 0, link := reqLink s }] } }

/-- A response takes the SEQ of its request and waits behind no request (R328); without a credit the request will be repeated. -/
def sendResp (s : State) (seq : Word) (b : PeerBody) : State :=
  let q := s.peer.reqOut
  if q.credits = 0 then s
  else
    let items := (q.items.filter fun m => m.body.isResponse) ++ [{ seq := seq, link := reqLink s, body := b }] ++
      q.items.filter fun m => !m.body.isResponse
    { s with peer := { s.peer with reqOut := { items := items, credits := q.credits - 1 } } }

/-- The message at the front of the queue leaves on its link, within the credits that the other hub has granted. -/
def reqLeave (s : State) : State :=
  match s.peer.reqOut.items with
  | [] => s
  | m :: _ =>
    if s.peer.crReq = 0 || (!m.body.isResponse && s.peer.crReq ≤ respReserve) || !linkUp s m.link then s
    else
      let out := peerMsg s (if m.body.isResponse then ptResponse else ptRequest) m.link m.seq s.cyc.k.toNat (bodyBytes m.body)
      let s1 := creditsBack true s
      pumpReqs { s1 with peer := { s1.peer with
        reqOut := s.peer.reqOut.free, crReq := s.peer.crReq - 1, reqSent := out } }

end Sys2Proof.Machine
end

