-- ==== Sys2Proof/Machine/Commit.lean ====
section
/-! DEFINITION. What the end of a cycle does: commit of a completed cycle (R44, R57, R89, R129, R168, R169), a missed one
(R70 to R75), the rejoin in between (R98, R104, R106), the mirror items (R337). -/

namespace Sys2Proof.Machine

/-! ## Drive (R93, R94, R382) -/

/-- What the vote of a completed cycle yields: the majority of every bit, of the digest and of the summary. -/
structure Majority where
  outs    : List OutCmd
  eaves   : BitVec 32
  gm      : BitVec 2
  digest  : DWord
  summary : DWord
  deriving DecidableEq, Repr

/-- drive(bit) = own(bit) and maj(bit), for command and hold bits. -/
def driveOuts (own maj : List OutCmd) : List OutCmd :=
  (own.zip maj).map fun x => { x.1 with cmd := x.1.cmd && x.2.cmd, hold := x.1.hold && x.2.hold }

/-- The S command sections of a ring that a lane forms from its drive (R94, R190 to R196): 0b00 for what is no listed output. -/
def ringSections (y : Yealm) (r : RingId) (epoch : Word) (k : DWord) (drive : List OutCmd) : List SetItem :=
  (enumFrom0 (ringNodes y r)).map fun n =>
    let bits (j : Nat) : Nat :=
      match drive.find? fun o => o.ref.toNat == epNumber r.num n.1 j with
      | some o => 2 * ofFlag o.cmd + ofFlag o.hold
      | none => 0
    { pos := n.1, sec := sCommand n.1 n.2.connId epoch k bits }

/-- The S sections of every ring. -/
def allSections (y : Yealm) (epoch : Word) (k : DWord) (drive : List OutCmd) : Quad (List SetItem) :=
  ⟨ringSections y .r1 epoch k drive, ringSections y .r2 epoch k drive, ringSections y .r3 epoch k drive,
    ringSections y .r4 epoch k drive⟩

/-- A voting lane's drive after a completed cycle; in TEST every bit goes out as 0 (R382). Outside the states that run
the vital cycle nothing is driven (R256, R390). -/
def setDrive (s : State) (y : Yealm) (maj : Majority) (b : Ballot) (x : LaneSt) : LaneSt :=
  let live := s.mod.st.runs && x.role == .voting
  let forced := inTest s || !live
  let outs := if forced then [] else driveOuts b.outs maj.outs
  { x with
    drive := outs,
    driveE := if forced then 0 else b.eaves &&& maj.eaves,
    driveG := if forced then 0 else b.gm &&& maj.gm,
    dcycle := s.cyc.k + 1,
    sImage := if live then allSections y s.peer.epoch s.cyc.k outs else ⟨[], [], [], []⟩ }

/-! ## Challenges (R316) -/

/-- Four BCD digits. -/
def toBcd (n : Nat) : Nat := n % 10 + 16 * (n / 10 % 10) + 256 * (n / 100 % 10) + 4096 * (n / 1000 % 10)

/-- The challenge of a REQUEST that ended DONE at the commit that gave the digest. -/
def challenge (digest : DWord) (asn : Nat) : Nat :=
  toBcd ((crc32c (leBytes 8 digest.toNat ++ leBytes 8 asn)).toNat % 10000)

/-- Enter the challenges of the cycle's REQUESTs: in the REQUEST entry and as DATA of the command (R313, R483). -/
def putChallenge (digest : DWord) (m : Mem) (asn : Nat) : Mem :=
  let c := challenge digest asn
  let m1 := (reqSlots m).foldl (fun m i => if (reqAt m i).asn = asn then reqPut m i { reqAt m i with chal := c } else m) m
  cmdUpd m1 asn fun e => { e with data := c }

/-- The REQUESTs that a cycle's statuses end DONE. -/
def doneRequests (m : Mem) (vs : List Verdict) : List DWord :=
  (vs.filter fun v => v.status == 0x02#8 && (match cmdFind m v.asn.toNat with
    | some (_, c) => opTwoStep c.opcode && c.step == 1
    | none => false)).map (·.asn)

/-! ## Journal (R168) and snapshots (R169) -/

/-- Bytes of a record: its head of 16 B and its content (R168). -/
def jrecSize : JRec → Nat
  | .delta ws => 16 + 12 * ws.length
  | .command _ _ => 88
  | .accept _ => 24
  | .terminal _ _ => 25
  | .event _ _ _ => 36
  | .close _ => 32

/-- Bytes of a group. -/
def groupSize (g : JGroup) : Nat := sumOf (g.recs.map jrecSize)

/-- The 256 B write bursts of a group (R18). -/
def bursts (g : JGroup) : List MWrite := List.replicate ((groupSize g - 1) / 256) (.burst g) ++ [.group g]

/-- The lane sends the bursts it holds as far as its credits go (R17). -/
def sendWaiting (x : LaneSt) : LaneSt :=
  let (q, rest) := x.mramq.sendAll x.jWait
  { x with mramq := q, jWait := rest }

/-- Put a group into the MRAM write queue behind what still waits, burst by burst as credits allow (R17, R44, R45); a stopped
lane's queue is blocked (R79). -/
def queueGroup (g : JGroup) (x : LaneSt) : LaneSt := if x.stopped then x else sendWaiting { x with jWait := x.jWait ++ bursts g }

/-- Numbers of the 64-bit words that n bytes from an offset touch. -/
def wordsOf (off n : Nat) : List Nat := (List.range ((off % 8 + n + 7) / 8)).map (off / 8 + ·)

/-- Numbers of the region words that a commit writes whatever they held: CYCLE, ROSTER, the carry-over block, and the words of the
commit log (R82, R89, R129). -/
def writtenWords (y : Yealm) (log : List RWrite) : List Nat :=
  unionSorted (log.flatMap fun w => wordsOf w.off w.data.length) (unionSorted (wordsOf y.truss.tcbOff 1024) [0, 1])

/-- The words written at a commit with their new values, in rising order: those it writes, changed or not, and every other that the
runtime's writes have changed (R168). -/
def commitDelta (written : List Nat) (old new : Mem) : List (Nat × DWord) :=
  (unionSorted written ((memDelta old new).map (·.1 / 8))).map fun w => (8 * w, memWord new w)

/-- The older snapshot slot: one that was never written, then one that is not complete or void, then the one that started earlier
(R169, R176). -/
def olderSlot (t : Two (Option Snapshot)) : Plane :=
  match t.a, t.b with
  | none, _ => .A
  | some _, none => .B
  | some a, some b =>
    if a.complete == b.complete then (if b.s.toNat < a.s.toNat then .B else .A) else if a.complete then .B else .A

/-- Start a snapshot at the commit of cycle k: the older slot's header is begun (R169). -/
def snapBegin (k : DWord) (x : LaneSt) : LaneSt :=
  let slot := olderSlot x.mram.snaps
  let ycrc := match x.yealm with | some y => y.crc64 | none => 0
  let sn : Snapshot := { complete := false, s := k, lastCyc := k, ycrc := ycrc, size := 8 * laneWords x, stime := rgStime x.region, content := [] }
  { x with snapRun := some (k, slot), mram := { x.mram with snaps := x.mram.snaps.set slot (some sn) } }

/-- A due snapshot starts, or is skipped with SNAPSHOT_LATE while the last one runs (R169). -/
def snapStart (s : State) (l : Lane) : State :=
  if (s.lanes.get l).snapRun.isSome then raiseLane s l 0x0481 (argLane l)
  else onLane s l (snapBegin s.cyc.k)

/-- Is a snapshot due at this commit (R169, R176, R181, R392)? -/
def snapDueNow (s : State) : Bool := s.mod.snapDue || s.cyc.k.toNat % cyclesPerS s == 0

/-! ## Commit of one lane -/

/-- Commit: region, digest, output image, drive, journal group (R44, R57, R89, R168). -/
def commitLane (s : State) (maj : Majority) (x : LaneSt) : LaneSt :=
  match x.yealm, x.ballot with
  | some y, some b =>
    let disc := laneDisc s y x
    let post := postRegion s y x disc
    let vs := allVerdicts s x
    let dg := x.digest ^^^ digestChange x.region post
    let reqs := doneRequests x.work vs
    let group : JGroup := {
      cycle := s.cyc.k, closed := false,
      recs := (x.taken.map fun t => JRec.command t.1 t.2) ++ (s.agr.accepted.map JRec.accept) ++
        (vs.map fun v => JRec.terminal v.asn v.status) ++ (s.ul.dips.map fun d => JRec.event d.1 d.2.1 d.2.2) ++
        [JRec.delta (commitDelta (writtenWords y x.log) x.region post), JRec.close dg] }
    let x1 := { x with
      region := post, work := reqs.foldl (fun m a => putChallenge dg m a.toNat) post, digest := dg, log := [], verdicts := [],
      newReqs := reqs, pub := pubAfter x, pubNew := [], gmPub := x.gmNew.getD x.gmPub, gmNew := none,
      tstat := { x.tstat with unused := x.tstat.unused + unusedPermits y x.truss (pubAfter x), disc := x.tstat.disc + disc.length } }
    queueGroup group (setDrive s y maj b (keepDescs x1))
  | _, _ => x

/-! ## Truss records (R138) -/

/-- TRUSS_REFUSAL or TRUSS_LATE in the first cycle of a run for an object, TRUSS_REFUSAL_END in the first without it. -/
def trussRecords (s : State) (y : Yealm) (disc : List Disc) : State :=
  let new := disc.filter fun d => !s.cyc.discRun.contains d.obj
  let s1 := new.foldl (fun s d => raiseShared s (if d.cond = 0x1F then 0x0302 else 0x0301) (discArgs y d)) s
  let ended := s.cyc.discRun.filter fun o => !disc.any fun d => d.obj == o
  let s2 := ended.foldl (fun s o => raiseShared s 0x0381 (argInst (arg2 o))) s1
  { s2 with cyc := { s2.cyc with discRun := disc.map (·.obj) } }

/-! ## Exchange deferral (R75, R108, R181) -/

/-- X as the command named it; the region's X where the descriptor is no longer at hand. -/
def exchNamed (s : State) (m : Mem) : Nat :=
  match descOf (lead s) (BitVec.ofNat 64 (rgExchAsn m)) with
  | some d => fldLE (dParam d) 0 8
  | none => rgExchX m

/-- An exchange due at the next instant moves to the instant after it, and the host is told. -/
def deferExchange (s : State) : State :=
  let m := (lead s).work
  let x := s.cyc.k.toNat + 2
  let ind := mkInd s 0x11 (leBytes 8 (exchNamed s m) ++ leBytes 8 x ++ leBytes 8 (rgExchAsn m))
  let s1 := onLanes s (working s) fun _ l => workWrite { l with mapped := none } fun m => rgSetExch m x (rgExchAsn m)
  indicate { s1 with mod := { s1.mod with exch := .idle } } ind

/-- Is an exchange due at the next common instant? -/
def exchDueNext (s : State) : Bool := rgExchX (lead s).work == s.cyc.k.toNat + 1

/-! ## Rejoin (R98, R103, R104, R106 to R108) -/

/-- The lane's active bank holds the voting lanes' active yealm (R104, R105). -/
def holdsActive (s : State) (l : Lane) : Bool :=
  match activeImage (s.lanes.get l).mram with
  | some y => y.crc64 == s.mod.ycrc
  | none => false

/-- Rotation starts at this commit (R101, R103, R108). -/
def rotationStarts (s : State) (r : Lane) : Bool :=
  let x := s.lanes.get r
  s.cyc.rotDue && s.cyc.mode == .tooThree && swOn s 18 && 1 ≤ x.bist.passes && !x.bist.running && !x.bist.reinit &&
    (rgExchX (lead s).work == 0 || s.cyc.k.toNat + 8 < rgExchX (lead s).work)

/-- The lane that rejoins from this commit on: one already called; a resting lane while fewer than three vote; the resting
lane at rotation. -/
def pickRejoin (s : State) : State :=
  match s.cyc.rejoiner with
  | some _ => s
  | none =>
    match restingLane s with
    | none => s
    | some r =>
      if (voting s).length < 3 then callResting s
      else if rotationStarts s r then
        { (onLane s r fun x => { x with rejoinRdy := true, rotJoin := true }) with cyc := { s.cyc with rejoiner := some r } }
      else s

/-- Cycle c: the rejoining lane is ready and holds the active yealm; it takes COPY and the copy runs in the idle time (R104).
A copy that failed is repeated (R105). -/
def startCopy (s : State) : State :=
  match s.cyc.rejoiner with
  | none => s
  | some r =>
    let x := s.lanes.get r
    let ready := x.rejoinRdy && (x.role == .resting || x.role == .excluded) && holdsActive s r
    let again := x.role == .copy && !x.copied
    if ready || again then
      let s1 := onLane s r fun x => { (endPass x) with role := .copy, inReset := false, copied := false, shadowOk := 0 }
      { s1 with cyc := { s1.cyc with copyNow := true, noDiag := true } }
    else s

/-- The bits of a ballot's output image: command and hold of every endpoint in the order of the map, 32 Eaves drive bits, two
group master bits (R92). -/
def ballotBits (outs : List OutCmd) (eaves : BitVec 32) (gm : BitVec 2) : List Bool :=
  (outs.flatMap fun o => [o.cmd, o.hold]) ++ flagsOf 32 eaves.toNat ++ flagsOf 2 gm.toNat

/-- The first bit in which a ballot differs from the majority (R96). -/
def firstBit (maj : Majority) (b : Ballot) : Option Nat :=
  (findIdxVal (fun x : Bool × Bool => x.1 != x.2) 0
    ((ballotBits b.outs b.eaves b.gm).zip (ballotBits maj.outs maj.eaves maj.gm))).map (·.1)

/-- How a ballot differs from the majority: the first differing field with what its alarm names (R96). -/
def ballotFault (maj : Majority) (b : Ballot) : Option (ExclCause × List Byte) :=
  match firstBit maj b with
  | some i => some (.output, arg4 i)
  | none =>
    if b.digest != maj.digest then some (.digest, arg8 b.digest.toNat ++ arg8 maj.digest.toNat)
    else if b.summary != maj.summary then some (.truss, arg8 b.summary.toNat ++ arg8 maj.summary.toNat)
    else none

/-- A shadow lane's ballot of a completed cycle is compared with the majority (R106); a missing one is a missed deadline. -/
def shadowResult (maj : Majority) (b : Option Ballot) : Option (ExclCause × List Byte) :=
  match b with
  | none => some (.fabric, [])
  | some b => ballotFault maj b

/-- A shadow cycle of a rejoin (R106): three matches lead to the join, a difference fails the rejoin. A lane that was halted or
has stopped before it published leaves its role for that reason (R79, R99, R113). -/
def shadowLane (maj : Majority) (s : State) (l : Lane) : State :=
  if (s.cyc.ballots.get l).isNone && ((s.lanes.get l).haltReq || (s.lanes.get l).stopped) then s
  else match shadowResult maj (s.cyc.ballots.get l) with
  | some c => decideExcl s l c.1 c.2
  | none =>
    let n := (s.lanes.get l).shadowOk + 1
    let s1 := onLane s l fun x => { x with shadowOk := n }
    if n = 3 then { s1 with cyc := { s1.cyc with joinNext := true } } else s1

/-! ## Mirror (R337) -/

/-- The journal group of the cycle as the reporting lane queued it. -/
def groupOf (x : LaneSt) (k : DWord) : List JRec :=
  match (x.mramq.items ++ x.jWait).findSome? fun w => match w.ends with
      | some g => if g.cycle = k then some g.recs else none
      | none => none with
  | some r => r
  | none => []

/-- What is mirrored of a plane (R337 RING). -/
def ringMir (r : RingId) (p : Plane) (x : PlaneHub) : RingMir :=
  { ring := r.num, plane := p.num, found := x.found, accepted := x.accepted, dly := x.dly, halves := x.halves, loopNs := x.loopNs,
    probeNs := x.probeNs, unbroken := x.unbroken }

/-- Discovery entries, accepted positions and delays of every plane (R337 RING). -/
def ringItem (s : State) : MirrorPay :=
  .ring (RingId.all.flatMap fun r =>
    let p := s.rings.planes.get r.slot
    [ringMir r .A p.a, ringMir r .B p.b])

/-- Slice i of a region: its non-zero bytes (R337 FULL). -/
def fullSlice (m : Mem) (i : Nat) : MirrorPay := .full i (m.filter fun c => 65536 * i ≤ c.1 && c.1 < 65536 * (i + 1))

/-- After the vote of a cycle the active of a pair mirrors it. RESULT goes with a missed cycle too, in which no image was voted: its
CRC and summary are those of no output and no discrepancy. -/
def mirrorCycle (s : State) : State :=
  if !(isPair s && isActive s) then s
  else
    let x := lead s
    let k := s.cyc.k.toNat
    let s1 := mirrorPut s (.inputs s.agr.used x.eRaw s.ctl.contacts s.ctl.sw s.ctl.sup (rgStime x.region))
    let s2 := mirrorPut s1 (.present s1.agr.shown s1.cyc.released)
    let s3 := mirrorPut s2 (.group (groupOf (lead s2) s2.cyc.k))
    let s4 := mirrorPut s3 (if s3.cyc.missed then .result (crc32c []) 0 else .result s3.cyc.outCrc s3.cyc.summary)
    let s5 := if s4.rings.changed || k % 100 = 0 then
        { (mirrorPut s4 (ringItem s4)) with rings := { s4.rings with changed := false } } else s4
    if k % 100 < 16 then mirrorPut s5 (fullSlice (lead s5).region (k % 100)) else s5

/-! ## What commands start at a commit -/

/-- Microseconds on the PTP timescale of a time in UTC (R356). -/
def utcToUs (s : State) (sec ns : Nat) : Nat := (sec + (utcOffset s).toNat) * 1000000 + ns / 1000

/-- A TIME_SET taken in the cycle becomes the servo's reference (R360). -/
def takeTime (s : State) (m : Mem) : State :=
  if rgTsetAsn m = 0 then s
  else { s with time := { s.time with ref := some (BitVec.ofNat 64 (utcToUs s (rgTsetS m) (rgTsetNs m)), s.cyc.k) } }

/-- What one command of the cycle starts or ends in the module as it commits: a taken TIME_SET, a begun IMAGE_LOAD, one that
failed, ROTATE_NOW, SHUTDOWN. -/
def commitEffect (m : Mem) (vs : List Verdict) (s : State) (c : CmdEnt) : State :=
  match vs.find? fun v => v.asn.toNat == c.asn with
  | some v =>
    if v.status == 0x02#8 then
      if c.opcode = 0x10 then takeTime s m
      else if c.opcode = 0x13 then { s with cyc := { s.cyc with rotDue := true } }
      else if c.opcode = 0x14 then { s with mod := { s.mod with shutReq := true } }
      else s
    else if c.opcode = 0x11 && (xferSlots m).any (fun i => (xferAt m i).asn == c.asn) then
      { s with lanes := s.lanes.map unloadBank }
    else s
  | none =>
    if c.opcode = 0x11 && s.agr.shown.contains (BitVec.ofNat 64 c.asn) && !c.presented then
      { s with lanes := s.lanes.map loadBank }
    else s

/-- The effects of every command of the region that a lane commits. -/
def commitEffects (s : State) (x : LaneSt) : State :=
  (cmdList x.work).foldl (fun s c => commitEffect (applyWrites x.work x.log) (allVerdicts s x) s c.2) s

/-! ## A completed cycle -/

/-- Bytes of an output image, for the CRC of RESULT (R337): bits packed in the order of the endpoint map. -/
def imageBytes (maj : Majority) : List Byte :=
  let bits := (maj.outs.flatMap fun o => [o.cmd, o.hold]) ++ flagsOf 32 maj.eaves.toNat ++ flagsOf 2 maj.gm.toNat
  leBytes ((bits.length + 7) / 8) (bitsOf bits)

/-- The lanes that commit: they vote or shadow and have formed their ballot. -/
def committers (s : State) : List Lane := (working s).filter fun l => (s.lanes.get l).ballot.isSome

/-- Commit, journal, snapshots and counts of a completed cycle. -/
def completeCycle (s : State) (maj : Majority) : State :=
  let ls := committers s
  let agreeing := (voters s).find? fun l => match (s.lanes.get l).ballot with | some b => b.summary == maj.summary | none => false
  let s1 := match agreeing with
    | none => s
    | some l =>
      match (s.lanes.get l).yealm with
      | some y => trussRecords s y (laneDisc s y (s.lanes.get l))
      | none => s
  let firstShadow := ls.filter fun l => (s.lanes.get l).role == .shadow && (s.lanes.get l).shadowOk == 0 && s.mod.boot.b.isNone
  let eff := match ls.head? with | some l => commitEffects s1 (s.lanes.get l) | none => s1
  let s2 := onLanes eff ls fun _ x => commitLane s1 maj x
  let s3 := if snapDueNow s2 then ls.foldl snapStart s2 else firstShadow.foldl snapStart s2
  { s3 with
    cyc := { s3.cyc with
      voted := true, voting := true, misses := 0, done := s3.cyc.done + 1, sinceJoin := s3.cyc.sinceJoin + 1,
      majDigest := maj.digest, summary := maj.summary, outCrc := crc32c (imageBytes maj) },
    agr := { s3.agr with pairOff := s3.agr.pairOff ||| s3.agr.pairOffNow, accepted := [] },
    ul := { s3.ul with dips := [] },
    mod := { s3.mod with exchDone := false, snapDue := false } }

/-- After the commit: the rejoining lane's shadow cycle, the next rejoin, a deferral of R108, mirror and readback. -/
def afterCommit (s : State) (maj : Majority) : State :=
  let s1 := if s.mod.boot.b.isSome then s else (lanesIn s.lanes .shadow).foldl (shadowLane maj) s
  let s2 := if s1.mod.st.runs then startCopy (pickRejoin s1) else s1
  let late := exchDueNext s2 && (match s2.cyc.rejoiner with
    | some r => !(s2.lanes.get r).rotJoin
    | none => false)
  let s3 := if late then deferExchange s2 else s2
  refreshLanes (mirrorCycle s3)

/-! ## A missed cycle (R70 to R75) -/

/-- The group of a missed cycle: its COMMAND records and a CLOSE with the unchanged digest (R168). -/
def missedGroup (s : State) (x : LaneSt) : JGroup :=
  { cycle := s.cyc.k, closed := false, recs := (x.taken.map fun t => JRec.command t.1 t.2) ++ [JRec.close x.digest] }

/-- What a missed cycle does in a lane: outputs, retained writes and decisions are discarded; from the second miss on every
Eaves output goes off (R70, R72). -/
def missLane (s : State) (n : Nat) (x : LaneSt) : LaneSt :=
  let x1 := { x with todo := [], snaps := [], log := [], pubNew := [], gmNew := none, ballot := none, verdicts := x.verdicts.filter (·.keep),
                     sImage := ⟨[], [], [], []⟩, dcycle := s.cyc.k + 1 }
  let x2 := if 2 ≤ n then { x1 with driveE := 0, driveG := 0 } else x1
  queueGroup (missedGroup s x) x2

/-- The cycle is missed; `stop`: with SAFE STOP at the next common instant (R93). -/
def missCycle (s : State) (stop : Bool) : State :=
  let n := s.cyc.misses + 1
  let s1 := onLanes s (working s) fun _ x => missLane s n x
  let s2 := { s1 with cyc := { s1.cyc with missed := true, voting := true, misses := n, abandoned := s1.cyc.released,
                                           stopNext := s1.cyc.stopNext || (stop && s1.mod.st.runs) },
                      mod := { s1.mod with boot := { s1.mod.boot with
                        matched := if s1.mod.boot.b.isSome then Quad.fill false else s1.mod.boot.matched } } }
  let s3 := if exchDueNext s2 && s2.mod.st.runs then deferExchange s2 else s2
  let s4 := mirrorCycle s3
  if !s4.mod.st.runs then s4
  else if n < 3 then raiseShared s4 0x0102 []
  else enterSafeStop (raiseShared s4 0x0103 [])

end Sys2Proof.Machine
end

