-- ==== Sys2Proof/Machine/Vote.lean ====
section
/-! DEFINITION. The Ridge vote (R93) and the vote-complete limit (R67 to R72). -/

namespace Sys2Proof.Machine

/-- maj(bit): on where at least two ballots are on. With two publishers that is where both are (R93). -/
def majFlag (fs : List Bool) : Bool := 2 ≤ fs.count true

/-- The majority of the ring part. -/
def majOuts (bs : List Ballot) : List OutCmd :=
  match bs with
  | [] => []
  | b :: _ => (enumFrom0 b.outs).map fun x =>
      { x.2 with
        cmd := majFlag (bs.map fun c => match c.outs[x.1]? with | some o => o.cmd | none => false),
        hold := majFlag (bs.map fun c => match c.outs[x.1]? with | some o => o.hold | none => false) }

/-- The majority of n bits. -/
def majBits (n : Nat) (xs : List Nat) : Nat := bitsOf ((List.range n).map fun i => majFlag (xs.map fun x => x.testBit i))

/-- The majority of the ballots that arrived; none where no two digests or no two summaries are equal. -/
def majority (bs : List Ballot) : Option Majority :=
  match agree2 (bs.map (·.digest)), agree2 (bs.map (·.summary)) with
  | some d, some m =>
    some { outs := majOuts bs, eaves := BitVec.ofNat 32 (majBits 32 (bs.map (·.eaves.toNat))),
           gm := BitVec.ofNat 2 (majBits 2 (bs.map (·.gm.toNat))), digest := d, summary := m }
  | _, _ => none

/-- How the vote of R93 ends. -/
inductive VoteEnd where
  /-- The cycle completes with the majority; the lanes to exclude with their causes. -/
  | completed (maj : Majority) (out : List (Lane × ExclCause × List Byte))
  /-- The cycle is missed; with SAFE STOP at the next instant or without; the lanes to exclude all the same. -/
  | missed (stop : Bool) (out : List (Lane × ExclCause × List Byte))
  deriving DecidableEq, Repr

/-- Publishers: the voters whose ballot for the cycle has arrived, with their ballots. -/
def publishers (s : State) : List (Lane × Ballot) :=
  (voters s).filterMap fun l => (s.cyc.ballots.get l).map fun b => (l, b)

/-- Voters without a ballot that have missed a fabric deadline: not one that is halted or has stopped (R79, R113). -/
def silentVoters (s : State) : List Lane :=
  (voters s).filter fun l => (s.cyc.ballots.get l).isNone && !(s.lanes.get l).haltReq && !(s.lanes.get l).stopped

/-- The vote of the cycle (R93). -/
def takeVote (s : State) : VoteEnd :=
  let pubs := publishers s
  let bs := pubs.map (·.2)
  let three := 3 ≤ (voters s).length
  if three && pubs.length = 3 then
    match majority bs with
    | none => .missed true []
    | some maj =>
      let out := pubs.filterMap fun p => (ballotFault maj p.2).map fun c => (p.1, c.1, c.2)
      if 2 ≤ out.length then .missed true out else .completed maj out
  else if pubs.length = 2 then
    let out := (silentVoters s).map fun l => (l, ExclCause.fabric, [])
    match majority bs with
    | none => .missed true out
    | some maj =>
      if pubs.any fun p => (ballotFault maj p.2).isSome then .missed true out
      else .completed maj out
  else if !three && pubs.length = 1 then .missed true []
  else .missed false []

/-- In the boot shadow cycles a lane stays matched only while its ballot equals the majority (R390). -/
def bootMatch (s : State) (out : List (Lane × ExclCause × List Byte)) : State :=
  if s.mod.boot.b.isSome then
    let ok := (publishers s).map (·.1)
    { s with mod := { s.mod with boot := { s.mod.boot with
        matched := s.mod.boot.matched.mapL fun l m => m && ok.contains l && !out.any fun o => o.1 == l } } }
  else s

/-- The vote is taken: exclusions, commit, or a missed cycle. -/
def endVote (s : State) : State :=
  match takeVote s with
  | .missed stop out => missCycle (out.foldl (fun s o => decideExcl s o.1 o.2.1 o.2.2) s) stop
  | .completed maj out =>
    let s1 := bootMatch s out
    let s2 := out.foldl (fun s o => decideExcl s o.1 o.2.1 o.2.2) s1
    afterCommit (completeCycle s2 maj) maj

/-- A cycle whose vote is still open. -/
def voteOpen (s : State) : Bool :=
  hubUp s && s.cyc.opened && s.cyc.agreedIn && !s.cyc.voted && !s.cyc.missed && !(voters s).isEmpty

/-- Every ballot that is to be compared has arrived: those of the voters, and of a rejoining lane in its shadow cycles (R106). A
halted or stopped lane is waited for only while the ballot it published before is under way (R79, R113). -/
def allArrived (s : State) : Bool :=
  (voters s ++ lanesIn s.lanes .shadow).all fun l =>
    (s.cyc.ballots.get l).isSome || (((s.lanes.get l).haltReq || (s.lanes.get l).stopped) && !ballotUnderWay s l)

/-- RIDGE_VOTE (R93): taken as soon as every publisher's ballot is there. -/
def execRidgeVote (s : State) : Host.Outcome State Fault Refusal :=
  .next (if voteOpen s && !s.cyc.barred && allArrived s then endVote s else s)

/-- Vote-complete limit: offset from Ck [ns] (R35). -/
def voteLimitNs (p : Nat) : Nat := if p = 5 then 2000000 else if p = 20 then 16600000 else 6600000

/-- At the vote-complete limit the vote is taken with what has arrived; withheld ballots have had their effect. -/
def voteLimitAt (s : State) : State :=
  let s1 := advanceTo s (voteLimitNs (periodMs s))
  let s2 := if s1.cyc.barred then missCycle s1 false else endVote s1
  { s2 with lanes := s2.lanes.mapL fun l x => { x with withhold := x.withhold && (s1.lanes.get l).ballot.isSome } }

/-- VOTE_COMPLETE_LIMIT (R67 to R72). -/
def execVoteCompleteLimit (s : State) : Host.Outcome State Fault Refusal :=
  .next (if voteOpen s then voteLimitAt s else s)

end Sys2Proof.Machine
end

