-- ==== Sys2Proof/Machine/AfterVote.lean ====
section
/-! DEFINITION. What follows the vote: the set-queue push and the forwarding through the hub (R24, R44), delivery (R27, R65),
the MRAM writes (R45, R168 to R170), the diagnostic task (R61 to R63), sleep (R48), the digest recomputation (R90). -/

namespace Sys2Proof.Machine

/-! ## Set queues (R18, R44) -/

/-- The image-buffer engine pushes sections into a ring's set queue as far as credits allow. -/
def fillSetq (r : Lane) (x : LaneSt) : LaneSt :=
  let (q, rest) := (x.setq.get r).sendAll (x.sImage.get r)
  { x with setq := x.setq.set r q, sImage := x.sImage.set r rest }

/-- On every ring. -/
def fillAllSetq (x : LaneSt) : LaneSt := fillSetq .D (fillSetq .C (fillSetq .B (fillSetq .A x)))

/-- Offset from Ck of the S-frame launch: P - 2.5 ms [ns] (R35). -/
def sLaunchNs (p : Nat) : Nat := p * 1000000 - 2500000

/-- The push begins 40 us before the S-frame launch, in every lane that has voted S sections. -/
def setQueuePushAt (s : State) : State :=
  let s1 := advanceTo s (sLaunchNs (periodMs s) - 40000)
  { (onLanes s1 (voting s1) fun _ x => fillAllSetq x) with cyc := { s1.cyc with pushed := true } }

/-- SET_QUEUE_PUSH (R35, R44). -/
def execSetQueuePush (s : State) : Host.Outcome State Fault Refusal :=
  .next (if hubUp s && s.cyc.voted && !s.cyc.pushed then setQueuePushAt s else s)

/-! ## HUB_FORWARD_ITEM (R24) -/

/-- Fronts of the counted lanes' queues. -/
def fronts {α : Type} (s : State) (ls : List Lane) (f : LaneSt → List α) : List α := ls.filterMap fun l => (f (s.lanes.get l)).head?

/-- A section at a node position: forwarded when two counted lanes hold identical copies; the lanes push on as credits
return. A position without two copies keeps the invalid-section pattern (R24). -/
def forwardSect (s : State) (r : RingId) (pos : Nat) : State :=
  let ls := (counted s).filter fun l => match ((s.lanes.get l).setq.get r.slot).items.head? with
    | some i => i.pos == pos
    | none => false
  let items := fronts s ls fun x => (x.setq.get r.slot).items
  let s1 := onLanes s ls fun _ x => fillSetq r.slot { x with setq := x.setq.modify r.slot CQ.free }
  match agree2 items with
  | some i => { s1 with rings := { s1.rings with fwd := s1.rings.fwd.modify r.slot (· ++ [i]) } }
  | none => s1

/-- INDICATION_MISMATCH (R24). -/
def countMismatch (s : State) (q : Nat) : State :=
  let s1 := { s with host := { s.host with mismatch := s.host.mismatch + 1 } }
  raiseHub s1 0x0183 (argInst (arg1 q))

/-- The oldest completion of the lanes: written to CPLQ when two counted lanes hold it alike and the ring can take it. Once one of
the cycle could not be written none behind it is, so that their order stands (R312). -/
def forwardCpl (s : State) : State :=
  let ls := counted s
  let items := fronts s ls fun x => x.cplq.items
  let s1 := onLanes s ls fun _ x => { x with cplq := x.cplq.free }
  if items.isEmpty then s
  else
    match agree2 items with
    | none => countMismatch { s1 with host := { s1.host with cplHeld := true } } qCPLQ
    | some c =>
      if ringCan s1 qCPLQ && !s1.host.cplHeld then
        let s2 := ringPut s1 qCPLQ (cplBytes c)
        { s2 with host := { s2.host with cplRep := s2.host.cplRep ++ [c] } }
      else { s1 with host := { s1.host with cplHeld := true } }

/-- The oldest indication of the lanes, in the same way to INDQ. -/
def forwardInd (s : State) : State :=
  let ls := counted s
  let items := fronts s ls fun x => x.indq.items
  let s1 := onLanes s ls fun _ x => let y := { x with indq := x.indq.free }; if s.cyc.agreedIn then sendInds y else y
  if items.isEmpty then s
  else
    match agree2 items with
    | none => countMismatch s1 qINDQ
    | some i =>
      if ringCan s1 qINDQ then
        let s2 := ringPut s1 qINDQ (indBytes i)
        { s2 with host := { s2.host with indRep := s2.host.indRep ++ [i] } }
      else s1

/-- HUB_FORWARD_ITEM (R24). -/
def execHubForwardItem (item : ForwardItem) (s : State) : Host.Outcome State Fault Refusal :=
  .next (if hubUp s then
    match item with
    | .sect r pos => forwardSect s r pos
    | .completion => forwardCpl s
    | .indication => forwardInd s
    else s)

/-! ## COMPLETION_DELIVERED (R65) -/

/-- The hub reports the oldest record that it has written. -/
def deliverOne (s : State) : State :=
  let all := reportTo s
  match s.host.cplRep, s.host.indRep with
  | c :: r, _ => { (onLanes s all fun _ x => markCpl c x) with host := { s.host with cplRep := r } }
  | [], i :: r => { (onLanes s all fun _ x => markInd i x) with host := { s.host with indRep := r } }
  | [], [] => s

/-- COMPLETION_DELIVERED (R27, R65). -/
def execCompletionDelivered (s : State) : Host.Outcome State Fault Refusal :=
  .next (if hubUp s then deliverOne s else s)

/-! ## MRAM_WRITE_COMPLETE (R45, R168, R170, R416) -/

/-- Bytes of the journal area: 224 sectors of 4 KiB (R162). -/
def journalBytes : Nat := 917504

/-- Start cycle of the newest complete snapshot. -/
def newestSnap (m : Mram) : Option DWord :=
  match m.snaps.a, m.snaps.b with
  | some a, some b =>
    if a.complete && b.complete then some (if a.s.toNat < b.s.toNat then b.s else a.s)
    else if a.complete then some a.s else if b.complete then some b.s else none
  | some a, none => if a.complete then some a.s else none
  | none, some b => if b.complete then some b.s else none
  | none, none => none

/-- Drop oldest groups until the journal fits its area; answers the groups kept and those dropped. -/
def fitJournal : Nat → List JGroup → List JGroup → List JGroup × List JGroup
  | 0, gs, out => (gs, out)
  | n + 1, gs, out =>
    match gs with
    | [] => ([], out)
    | g :: r => if sumOf (gs.map groupSize) ≤ journalBytes then (gs, out) else fitJournal n r (out ++ [g])

/-- The last n elements. -/
def lastN {α : Type} (n : Nat) (l : List α) : List α := l.drop (l.length - n)

/-- A group is in MRAM with its CLOSE: it counts as written (R45, R168); a needed group that it overwrote is a wrap (R170). -/
def groupWritten (s : State) (l : Lane) (g : JGroup) : State :=
  let x := s.lanes.get l
  let (keep, dropped) := fitJournal (x.mram.journal.length + 1) (x.mram.journal ++ [{ g with closed := true }]) []
  let needed := match newestSnap x.mram with
    | some c => dropped.any fun d => c.toNat ≤ d.cycle.toNat
    | none => !dropped.isEmpty
  let s1 := onLane s l fun x =>
    { x with mram := { x.mram with journal := keep, wrap := x.mram.wrap || needed,
                                   jPos := (x.mram.jPos + sumOf (dropped.map groupSize)) % journalBytes },
             written := g.cycle, late := false }
  if needed && !x.mram.wrap then raiseLane s1 l 0x0402 (argLane l) else s1

/-- A black box record is in MRAM: slot i mod 4 096, the index kept in the boot record (R416). -/
def boxWritten (r : GRec) (x : LaneSt) : LaneSt :=
  let i := (bootCur x.mram).bbIndex
  let m := { x.mram with blackbox := lastN 4096 (x.mram.blackbox ++ [{ r with seq := BitVec.ofNat 32 i }]) }
  { x with mram := bootWrite m fun b => { b with bbIndex := i + 1 } }

/-- The write that leads a lane's MRAM write queue is complete: the bursts of a group that stand before its last one go with it.
While the last one still waits for a credit the write is not complete. -/
def mramDone (s : State) (l : Lane) : State :=
  let q := (s.lanes.get l).mramq
  let isBurst (w : MWrite) : Bool := match w with | .burst _ => true | .group _ => false | .blackbox _ => false
  match q.items.dropWhile isBurst with
  | [] => s
  | w :: r =>
    let s1 := onLane s l fun x => { x with mramq := { items := r, credits := q.credits + (q.items.length - r.length) } }
    let s2 := match w with
      | .group g => groupWritten s1 l g
      | .blackbox r => onLane s1 l (boxWritten r)
      | .burst _ => s1
    onLane s2 l sendWaiting

/-- The controller frees the slot of a burst that it has written before the last of its group (R17). -/
def burstFree (x : LaneSt) : LaneSt :=
  match x.mramq.items with
  | .burst _ :: _ => { x with mramq := x.mramq.free }
  | _ => x

/-- MRAM_WRITE_COMPLETE (R45); in a stopped lane the entry being written is the last (R79). -/
def execMramWriteComplete (l : Lane) (s : State) : Host.Outcome State Fault Refusal :=
  .next (if hubUp s && (s.lanes.get l).role != .retired then mramDone s l else s)

/-! ## SNAPSHOT_COMPLETE (R169, R170) -/

/-- The slot header is written: the snapshot is complete, and a wrap is over. -/
def snapDone (k : DWord) (x : LaneSt) : LaneSt :=
  match x.snapRun with
  | none => x
  | some (c, slot) =>
    let sn := match x.mram.snaps.get slot with
      | some sn => some { sn with complete := true, s := c, lastCyc := k, content := x.region, crc := crc32c (memRead x.region 0 sn.size) }
      | none => none
    { x with snapRun := none, mram := { x.mram with snaps := x.mram.snaps.set slot sn, wrap := false } }

/-- SNAPSHOT_COMPLETE (R169): written directly from the live region. -/
def execSnapshotComplete (l : Lane) (s : State) : Host.Outcome State Fault Refusal :=
  .next (if hubUp s && (s.lanes.get l).snapRun.isSome then onLane s l (snapDone s.cyc.k) else s)

/-! ## Diagnostic task (R61 to R63) -/

/-- A diagnostic run starts on the image of its release cycle; one still running is abandoned with DIAG_OVERRUN, and the new run
has the new image (R61, R62). -/
def diagReleaseAt (s : State) : State :=
  let s1 := if s.cyc.diagRun then raiseShared s 0x0182 [] else s
  { (onLanes s1 (counted s1) fun _ x => { x with diagSnap := some (taskSnap s1 x 0) }) with cyc := { s1.cyc with diagRun := true } }

/-- DIAGNOSTIC_RELEASE (R61): every 100 ms, while cycles run and on the gathered image in INDICATE (R390). The rule gives the rate
and no phase: the cycles with k mod n = 0 release it (DESIGN CHOICE, log entry 81). -/
def execDiagnosticRelease (s : State) : Host.Outcome State Fault Refusal :=
  .next (if hubUp s && (s.mod.st.runs || s.mod.st == .indicate) && s.cyc.k.toNat % cyclesPer100 s == 0 then diagReleaseAt s else s)

/-- The diagnostic task runs between vote completion and the diagnostic limit, not in a cycle with a copy (R46, R47, R181). -/
def diagTime (s : State) : Bool :=
  (s.cyc.voted || s.cyc.missed || s.cyc.gather) && !s.cyc.diagLim && !s.cyc.noDiag

/-- The run ends: non-vital indications and trace records, nothing else (R61, R63, R422). -/
def diagEndAt (lanes : Quad Bool) (inds : List (List Byte)) (traces : List GRecIn) (s : State) : State :=
  let ls := (counted s).filter fun l => lanes.get l
  let s1 := onLanes s ls fun _ x => inds.foldl (fun x p => laneInd x { mkInd s 0x02 p with nonvital := true }) x
  let s2 := if ls.contains (refLane s) then
      traces.foldl (fun s g => if 0x8000 ≤ g.code.toNat && g.cls == 2 then
        gutPut s (mkRec s g.code.toNat 2 g.sev 0 (laneMask (voting s)) g.args) else s) s1
    else s1
  { s2 with cyc := { s2.cyc with diagRun := false }, lanes := s2.lanes.map fun x => { x with diagSnap := none } }

/-- DIAGNOSTIC_END (R62, R63). -/
def execDiagnosticEnd (lanes : Quad Bool) (inds : List (List Byte)) (traces : List GRecIn) (s : State) :
    Host.Outcome State Fault Refusal :=
  .next (if hubUp s && s.cyc.diagRun && diagTime s then diagEndAt lanes inds traces s else s)

/-- DIAGNOSTIC_LIMIT: P - 1.5 ms (R35, R47). -/
def execDiagnosticLimit (s : State) : Host.Outcome State Fault Refusal :=
  .next (if hubUp s then
    let s1 := advanceTo s (periodNs s - 1500000)
    { s1 with cyc := { s1.cyc with diagLim := true } } else s)

/-! ## Sleep (R48) -/

/-- Has the lane no work left after the vote? -/
def laneIdle (s : State) (x : LaneSt) : Bool :=
  (s.cyc.voted || s.cyc.missed) && x.todo.isEmpty && (!s.cyc.diagRun || s.cyc.diagLim || s.cyc.noDiag) &&
    x.bist.pass.isNone && (x.role == .voting || x.role == .shadow)

/-- LANE_SLEEP: the clocks of the core pair and the Truss engine are gated off. -/
def execLaneSleep (l : Lane) (s : State) : Host.Outcome State Fault Refusal :=
  .next (if hubUp s && laneIdle s (s.lanes.get l) then onLane s l fun x => { x with clocksOn := false } else s)

/-- LANE_WAKE: the cycle timer ungates them at P - 0.15 ms; a lane stopped under R79 stays gated. -/
def execLaneWake (l : Lane) (s : State) : Host.Outcome State Fault Refusal :=
  .next (if hubUp s && !(s.lanes.get l).stopped then
    onLane (advanceTo s (periodNs s - 150000)) l fun x => { x with clocksOn := true } else s)

/-! ## XFRQ-OUT (R18, R318) -/

/-- The JOURNAL_READ of an XFRQ-OUT entry with LAST ends DONE with the number of bytes written (R301, R313, R318). -/
def readDone (s : State) (e : List Byte) : State :=
  let m := (lead s).work
  match (xferSlots m).find? fun i => (xferAt m i).opcode == 0x15 && (xferAt m i).xfrId == fldLE e 0 4 with
  | some i => if bitAt (fldLE e 12 4) 0 then decideCmd s (xferAt m i).asn stDONE 0 (xferAt m i).doneB true else s
  | none => s

/-- The hub writes the front entry of the bulk outbound queue to XFRQ-OUT (R18, R318). -/
def bulkLeave (s : State) : State :=
  match s.host.bulkOut.items with
  | [] => s
  | e :: _ =>
    if ringCan s qXFROUT then
      readDone (ringPut { s with host := { s.host with bulkOut := s.host.bulkOut.free } } qXFROUT e) e
    else s

/-! ## DIGEST_RECOMPUTE (R90) -/

/-- DIGEST_RECOMPUTE: once every 1 024 completed cycles the digest is recomputed from the whole region. -/
def execDigestRecompute (l : Lane) (s : State) : Host.Outcome State Fault Refusal :=
  .next (if hubUp s && s.cyc.done != 0 && s.cyc.done % 1024 == 0 && (s.lanes.get l).role == .voting then
    onLane s l fun x => { x with digest := digestWhole (laneWords x) x.region } else s)

end Sys2Proof.Machine
end

