-- ==== Sys2Proof/Machine/Present.lean ====
section
/-! DEFINITION. The presentation of accepted commands (R301, R485): one row of the table per command and step. And what else
becomes of a command: expiry (R315), lapse of a REQUEST (R317), journal stall (R308), a position that does not belong (R304). -/

namespace Sys2Proof.Machine

/-! ## The tests of R485 -/

/-- A refusal: status, reason, DATA. -/
abbrev Refuse := Option (Nat × Nat × Nat)

/-- REFUSED with a reason. -/
def refuse (reason : Nat) : Refuse := some (stREFUSED, reason, 0)

/-- The first test that refuses. -/
def firstRefuse : List Refuse → Refuse
  | [] => none
  | some r :: _ => some r
  | none :: t => firstRefuse t

/-- Test 1: expiry (R315). -/
def tExpiry (k : Nat) (c : CmdEnt) : Refuse := if c.xcyc != 0 && c.xcyc ≤ k then some (stEXPIRED, 0, 0) else none

/-- Test 2: key position (R301, R380). While no position has been taken only what every position allows passes. -/
def tKey (s : State) (op : Nat) : Refuse :=
  let p := keyForCommands s
  if op = 0x14 then (if p == some .maint then none else refuse 0x10)
  else if op = 0x12 || op = 0x13 then (if p == some .run || p == some .maint then none else refuse 0x10)
  else none

/-- Test 3: every voting lane reads SW17 on for IMAGE_EXCHANGE (R180), SW18 on for ROTATE_NOW (R301). -/
def tSwitch (s : State) (op : Nat) : Refuse :=
  if op = 0x12 then (if (voting s).all fun l => (s.lanes.get l).sw.getLsbD 16 then none else refuse 0x11)
  else if op = 0x13 then (if swOn s 18 then none else refuse 0x11)
  else none

/-- Test 4: module state and MODE, and an exchange already named (R163, R180, R301). -/
def tState (s : State) (m : Mem) (op : Nat) : Refuse :=
  if op = 0x11 then (if rgExchX m = 0 then none else refuse 0x12)
  else if op = 0x12 then (if s.mod.st.runs && rgExchX m == 0 then none else refuse 0x12)
  else if op = 0x13 then (if s.cyc.mode == .tooThree then none else refuse 0x12)
  else none

/-- Test 5: HOLD (R381). -/
def tHold (s : State) (op : Nat) : Refuse :=
  if s.mod.st == .hold && (op = 0x01 || op = 0x03 || op = 0x07) then refuse 0x13 else none

/-- TARGET names an object of the types given, in the area of the command (R311). -/
def objTarget (y : Yealm) (c : CmdEnt) (types : Nat → Bool) : Bool :=
  c.target < y.truss.objs.length && types (objAt y.truss c.target).type && c.area == (objAt y.truss c.target).area

/-- TARGET names a route in the area of the command. -/
def routeTarget (y : Yealm) (c : CmdEnt) : Bool :=
  match routeAt y.truss c.target with
  | some r => c.area == r.area
  | none => false

/-- Test 6: TARGET, TKIND and AREA (R301, R311). -/
def tTarget (y : Yealm) (c : CmdEnt) : Refuse :=
  let ok :=
    if c.opcode = 0x01 || c.opcode = 0x02 then routeTarget y c
    else if c.opcode = 0x03 then objTarget y c (· == 1)
    else if c.opcode = 0x04 then objTarget y c (· == 2)
    else if c.opcode = 0x05 || c.opcode = 0x06 || c.opcode = 0x07 then
      (if fldLE c.param 4 1 = 1 then routeTarget y c else objTarget y c (· != 0))
    else if c.opcode = 0x08 then c.target == 0xFFFF && c.area < y.narea
    else c.target == 0xFFFF && c.area == 0xFF
  if ok then none else refuse 0x15

/-- Test 7: restart locking (R178, R301). -/
def tLocked (m : Mem) (c : CmdEnt) : Refuse :=
  if (c.opcode = 0x01 || c.opcode = 0x02 || c.opcode = 0x03 || c.opcode = 0x07) && areaLocked m c.area then refuse 0x14 else none

/-- The open REQUEST that a new one of the command replaces (R316). -/
def replacedReq (m : Mem) (c : CmdEnt) : Option Nat :=
  (reqSlots m).find? fun i =>
    let r := reqAt m i
    r.opcode == c.opcode &&
      (if c.opcode = 0x08 then r.area == c.area else r.target == c.target && r.tkind == fldLE c.param 4 1)

/-- XFR_ID in the PARAM of an IMAGE_LOAD or a JOURNAL_READ (R302). -/
def xfrIdOf (op : Nat) (p : List Byte) : Nat := if op = 0x11 then fldLE p 0 4 else fldLE p 20 4

/-- Test 8: capacity (R311 BUSY). -/
def tBusy (m : Mem) (c : CmdEnt) (p : List Byte) : Refuse :=
  let xs := (xferSlots m).map (xferAt m)
  let busy :=
    if opTwoStep c.opcode && c.step == 1 then 64 ≤ (reqSlots m).length && (replacedReq m c).isNone
    else if c.opcode = 0x11 then
      (xs.any fun x => x.opcode == 0x11) || (xs.any fun x => x.xfrId == xfrIdOf 0x11 p) || 16 ≤ xs.length
    else if c.opcode = 0x15 then (xs.any fun x => x.xfrId == xfrIdOf 0x15 p) || 16 ≤ xs.length
    else if c.opcode = 0x10 then rgTsetAsn m != 0
    else false
  if busy then refuse 0x19 else none

/-- The open REQUEST that a CONFIRM names (R317). -/
def confirmReq (m : Mem) (c : CmdEnt) (ref : Nat) : Option Nat :=
  (reqSlots m).find? fun i =>
    let r := reqAt m i
    r.asn == ref && r.opcode == c.opcode && r.target == c.target && r.area == c.area &&
      r.tkind == (if c.opcode = 0x07 then fldLE c.param 4 1 else 0)

/-- Test 9: the tests of R317, in their order; W is the number of cycles in 1 s. A CONFIRM taken before the cycle of its REQUEST
is too early. -/
def tConfirm (m : Mem) (w : Nat) (c : CmdEnt) (ref : Nat) : Refuse :=
  match confirmReq m c ref with
  | none => refuse 0x18
  | some i =>
    let r := reqAt m i
    let age := (c.acyc + 2 ^ 32 - r.rcyc % 2 ^ 32) % 2 ^ 32
    if age < 5 * w || 2 ^ 31 ≤ age then refuse 0x17
    else if 60 * w < age then refuse 0x18
    else if fldLE c.param 0 2 != r.chal then refuse 0x16
    else none

/-- The yealm that every voting lane holds VERIFIED in its shadow bank: the same in each (R180). -/
def nextYealm (s : State) : Option Yealm :=
  let bs := (voting s).map fun l => shadowBank (s.lanes.get l).mram
  match bs.head? with
  | none => none
  | some b =>
    match b.img with
    | none => none
    | some n =>
      if bs.all fun c => c.state == .verified && (match c.img with | some y => y.crc64 == n.crc64 | none => false) then some n else none

/-- Test 10 of IMAGE_EXCHANGE (R180, R181): BOUNDARY, then EXCHANGE with DATA 4 to 6. -/
def tExchange (s : State) (y : Yealm) (p : List Byte) : Refuse :=
  let x := fldLE p 0 8
  let k := s.cyc.k.toNat
  match nextYealm s with
  | none => refuse 0x1D
  | some n =>
    if x < k + 8 || k + 6000 < x then refuse 0x1D
    else if n.periodMs != y.periodMs then some (stREFUSED, 0x1C, 4)
    else if n.split then some (stREFUSED, 0x1C, 5)
    else if isPair s && !(match s.peer.beat with
        | some bt => bt.shadowYcrc == n.crc64 && bt.shadowSt == 2
        | none => false) then some (stREFUSED, 0x1C, 6)
    else none

/-- Test 10 of TIME_SET (R360). -/
def tTime (s : State) (m : Mem) (p : List Byte) : Refuse :=
  let w := rgStime m
  let us := utcToUs s (fldLE p 0 8) (fldLE p 8 4)
  let far := stimeState w != .unset && 60000000 < (us - stimeUs w) + (stimeUs w - us)
  if s.time.src || far then refuse 0x1E else none

/-- The tests of R485 in their order. -/
def presentTests (s : State) (y : Yealm) (m : Mem) (c : CmdEnt) (d : List Byte) : Refuse :=
  let p := dParam d
  firstRefuse [
    tExpiry s.cyc.k.toNat c, tKey s c.opcode, tSwitch s c.opcode, tState s m c.opcode, tHold s c.opcode, tTarget y c,
    tLocked m c, tBusy m c p,
    (if opTwoStep c.opcode && c.step == 2 then tConfirm m (cyclesPerS s) c (dRef d) else none),
    (if c.opcode = 0x12 then tExchange s y p else none), (if c.opcode = 0x10 then tTime s m p else none)]

/-! ## What a command that passed does -/

/-- The region as the commands of the cycle before this one leave it. -/
def viewMem (x : LaneSt) : Mem := applyWrites x.work x.log

/-- A write to the commit log that turns one region into another where they differ. -/
def logDelta (old new : Mem) : List RWrite := (memDelta old new).map fun w => { off := w.1, data := leBytes 8 w.2.toNat }

/-- A retained write of the runtime in the cycle: it stands in the commit log of every working lane (R70, R89). -/
def logWrite (s : State) (f : Mem → Mem) : State :=
  onLanes s (working s) fun _ x => { x with log := x.log ++ logDelta (viewMem x) (f (viewMem x)) }

/-- A REQUEST opens its entry, in the place of the one it replaces or the first free one (R316). -/
def openReq (k : Nat) (c : CmdEnt) (m : Mem) : Mem :=
  let i := (replacedReq m c).getD (firstFree (reqSlots m) 0)
  reqPut m i { asn := c.asn, rcyc := k, opcode := c.opcode, area := c.area, target := c.target,
               tkind := if c.opcode = 0x07 then fldLE c.param 4 1 else 0, chal := 0 }

/-- A transfer starts in the first free entry (R318). -/
def openXfer (k : Nat) (c : CmdEnt) (p : List Byte) (m : Mem) : Mem :=
  xferPut m (firstFree (xferSlots m) 0)
    { asn := c.asn, opcode := c.opcode, xfrId := xfrIdOf c.opcode p, param := p.take 24, doneB := 0, lastc := k }

/-- A CONFIRM closes the REQUEST it names, whether it passes or not (R317). -/
def closeReq (c : CmdEnt) (ref : Nat) (m : Mem) : Mem :=
  match confirmReq m c ref with
  | some i => reqClose m i
  | none => m

/-- What a command that passed every test does at its presentation: its retained writes, and its status where the runtime
decides it at this cycle's commit (R301). -/
def carryOut (s : State) (c : CmdEnt) (d : List Byte) : State :=
  let k := s.cyc.k.toNat
  let p := dParam d
  let done (s : State) : State := decideCmd s c.asn stDONE 0 0 false
  if opTwoStep c.opcode && c.step == 1 then done (logWrite s (openReq k c))
  else if opTwoStep c.opcode && c.step == 2 then
    let s1 := logWrite s (closeReq c (dRef d))
    if c.opcode = 0x08 then done (logWrite s1 fun m => areaSet m c.area false timerIdle) else s1
  else if c.opcode = 0x10 then done (logWrite s fun m => rgSetTset m (fldLE p 0 8) (fldLE p 8 4) c.asn)
  else if c.opcode = 0x11 || c.opcode = 0x15 then logWrite s (openXfer k c p)
  else if c.opcode = 0x12 then logWrite s fun m => rgSetExch m (fldLE p 0 8) c.asn
  else if c.opcode = 0x13 || c.opcode = 0x14 then done s
  else s

/-- A command that a test refused ends there; a CONFIRM tested under R317 closes its REQUEST all the same. -/
def refuseCmd (s : State) (c : CmdEnt) (d : List Byte) (r : Nat × Nat × Nat) : State :=
  let s1 := decideCmd s c.asn r.1 r.2.1 r.2.2 false
  if opTwoStep c.opcode && c.step == 2 && (r.2.1 = 0x16 || r.2.1 = 0x17 || r.2.1 = 0x18) then
    logWrite s1 (closeReq c (dRef d))
  else s1

/-- The command at the head of the cycle's presentations is the one named (R55, R71), and no task of the cycle has ended yet:
nothing a task reads changes while it runs (R56). -/
def presentable (s : State) (asn : DWord) : Bool :=
  inWindow s && isActive s && s.agr.toShow.head? == some asn && (lead s).todo == s.cyc.released

/-- The command stands in the snapshot of the command task (R55, R56). -/
def showLane (y : Yealm) (asn : DWord) (x : LaneSt) : LaneSt :=
  { x with snaps := x.snaps.map fun n =>
      if (match taskEnt y n.task with | some e => e.command | none => false) then { n with cmds := n.cmds ++ [asn] } else n }

/-- A command is presented to the command task of every working lane. -/
def showCmd (y : Yealm) (asn : DWord) (s : State) : State :=
  { (onLanes s (working s) fun _ x => showLane y asn x) with agr := { s.agr with shown := s.agr.shown ++ [asn] } }

/-- Presentation of one command, if its opcode and step are those of the row. One of the runtime's commands that is refused still
reaches the command task for indication (R301, R485). -/
def presentAt (op step : Nat) (asn : DWord) (s : State) : State :=
  match theYealm s, cmdFind (lead s).work asn.toNat with
  | some y, some (_, c) =>
    if c.opcode = op && c.step = step then
      let d := (descOf (lead s) asn).getD (zeros 64)
      let s1 := { s with agr := { s.agr with toShow := s.agr.toShow.drop 1 } }
      match presentTests s y (viewMem (lead s)) c d with
      | some r => refuseCmd (if r.1 = stREFUSED && 0x10 ≤ op then showCmd y asn s1 else s1) c d r
      | none => carryOut (showCmd y asn s1) c d
    else s
  | _, _ => s

/-- A row of the table: the presentation of a command of its opcode and step. -/
def presentCmd (op step : Nat) (asn : DWord) (s : State) : State := if presentable s asn then presentAt op step asn s else s

/-- ROUTE_SET (R301). -/
def execRouteSet (asn : DWord) (s : State) : Host.Outcome State Fault Refusal := .next (presentCmd 0x01 0 asn s)
/-- ROUTE_CANCEL (R301). -/
def execRouteCancel (asn : DWord) (s : State) : Host.Outcome State Fault Refusal := .next (presentCmd 0x02 0 asn s)
/-- POINT_MOVE (R301). -/
def execPointMove (asn : DWord) (s : State) : Host.Outcome State Fault Refusal := .next (presentCmd 0x03 0 asn s)
/-- SIGNAL_RESTORE (R301). -/
def execSignalRestore (asn : DWord) (s : State) : Host.Outcome State Fault Refusal := .next (presentCmd 0x04 0 asn s)
/-- BLOCK (R301). -/
def execBlock (asn : DWord) (s : State) : Host.Outcome State Fault Refusal := .next (presentCmd 0x05 0 asn s)
/-- UNBLOCK (R301). -/
def execUnblock (asn : DWord) (s : State) : Host.Outcome State Fault Refusal := .next (presentCmd 0x06 0 asn s)
/-- AUX_RELEASE, REQUEST (R316). -/
def execAuxReleaseRequest (asn : DWord) (s : State) : Host.Outcome State Fault Refusal := .next (presentCmd 0x07 1 asn s)
/-- AUX_RELEASE, CONFIRM (R317). -/
def execAuxReleaseConfirm (asn : DWord) (s : State) : Host.Outcome State Fault Refusal := .next (presentCmd 0x07 2 asn s)
/-- RESTART_RELEASE, REQUEST (R316). -/
def execRestartReleaseRequest (asn : DWord) (s : State) : Host.Outcome State Fault Refusal := .next (presentCmd 0x08 1 asn s)
/-- RESTART_RELEASE, CONFIRM (R179, R317). -/
def execRestartReleaseConfirm (asn : DWord) (s : State) : Host.Outcome State Fault Refusal := .next (presentCmd 0x08 2 asn s)
/-- TIME_SET (R360). -/
def execTimeSet (asn : DWord) (s : State) : Host.Outcome State Fault Refusal := .next (presentCmd 0x10 0 asn s)
/-- IMAGE_LOAD (R163, R318). -/
def execImageLoad (asn : DWord) (s : State) : Host.Outcome State Fault Refusal := .next (presentCmd 0x11 0 asn s)
/-- IMAGE_EXCHANGE (R180). -/
def execImageExchange (asn : DWord) (s : State) : Host.Outcome State Fault Refusal := .next (presentCmd 0x12 0 asn s)
/-- ROTATE_NOW (R301). -/
def execRotateNow (asn : DWord) (s : State) : Host.Outcome State Fault Refusal := .next (presentCmd 0x13 0 asn s)
/-- SHUTDOWN (R391). -/
def execShutdown (asn : DWord) (s : State) : Host.Outcome State Fault Refusal := .next (presentCmd 0x14 0 asn s)
/-- JOURNAL_READ (R318). -/
def execJournalRead (asn : DWord) (s : State) : Host.Outcome State Fault Refusal := .next (presentCmd 0x15 0 asn s)

/-! ## Expiry, lapse, stall -/

/-- Has the command's expiry come in the present cycle (R315)? With EXPIRY 0 once it has been presented. -/
def expired (s : State) (c : CmdEnt) : Bool :=
  c.confirmed && !c.terminal &&
    (if c.xcyc = 0 then c.presented || s.agr.shown.contains (BitVec.ofNat 64 c.asn) else c.xcyc ≤ s.cyc.k.toNat)

/-- COMMAND_EXPIRY (R315): EXPIRED at the commit of this cycle unless its own decision comes first. -/
def execCommandExpiry (asn : DWord) (s : State) : Host.Outcome State Fault Refusal :=
  .next (if inWindow s && isActive s && (lead s).ballot.isNone then
    match cmdFind (lead s).work asn.toNat with
    | some (_, c) => if expired s c then decideCmd s asn.toNat stEXPIRED 0 0 false else s
    | none => s
    else s)

/-- REQUESTs open for more than 60 s at the end of this cycle. -/
def lapsedReqs (m : Mem) (k w : Nat) : List Nat := (reqSlots m).filter fun i => 60 * w < k - (reqAt m i).rcyc

/-- REQUEST_LAPSE (R317): they are closed at the commit of the cycle. -/
def execRequestLapse (s : State) : Host.Outcome State Fault Refusal :=
  .next (if inWindow s && isActive s && (lead s).ballot.isNone then
    logWrite s fun m => (lapsedReqs m s.cyc.k.toNat (cyclesPerS s)).foldl reqClose m
    else s)

/-- JOURNAL_STALL (R308): after 50 cycles no new descriptor is taken until the command is confirmed. -/
def execJournalStall (s : State) : Host.Outcome State Fault Refusal :=
  .next (if hubUp s && isActive s && 50 ≤ s.agr.waited && !s.agr.stalled then
    raiseShared { s with agr := { s.agr with stalled := true } } 0x0702 [] else s)

/-- HOST_FETCH (R304): the same CMDQ position has failed to belong in 8 consecutive cycles. -/
def execHostFetch (s : State) : Host.Outcome State Fault Refusal :=
  .next (if hubUp s && s.agr.notBelong == 8 then raiseShared s 0x0701 (argOne ++ arg4 s.agr.notBelongPos.toNat) else s)

end Sys2Proof.Machine
end

