-- ==== Sys2Proof/Machine/Ecdsa.lean ====
section
/-! DEFINITION. The signature of a yealm (R160): ECDSA over P-256 with SHA-256. The manual names the scheme and leaves its parameters
to the standards, FIPS 180-4 for the hash and SEC 2 for the curve (PRESUMED, log entry 23). -/

namespace Sys2Proof.Machine

/-! ## SHA-256 -/

/-- The 64 round constants. -/
def shaK : List Word :=
  [0x428a2f98, 0x71374491, 0xb5c0fbcf, 0xe9b5dba5, 0x3956c25b, 0x59f111f1, 0x923f82a4, 0xab1c5ed5] ++
  [0xd807aa98, 0x12835b01, 0x243185be, 0x550c7dc3, 0x72be5d74, 0x80deb1fe, 0x9bdc06a7, 0xc19bf174] ++
  [0xe49b69c1, 0xefbe4786, 0x0fc19dc6, 0x240ca1cc, 0x2de92c6f, 0x4a7484aa, 0x5cb0a9dc, 0x76f988da] ++
  [0x983e5152, 0xa831c66d, 0xb00327c8, 0xbf597fc7, 0xc6e00bf3, 0xd5a79147, 0x06ca6351, 0x14292967] ++
  [0x27b70a85, 0x2e1b2138, 0x4d2c6dfc, 0x53380d13, 0x650a7354, 0x766a0abb, 0x81c2c92e, 0x92722c85] ++
  [0xa2bfe8a1, 0xa81a664b, 0xc24b8b70, 0xc76c51a3, 0xd192e819, 0xd6990624, 0xf40e3585, 0x106aa070] ++
  [0x19a4c116, 0x1e376c08, 0x2748774c, 0x34b0bcb5, 0x391c0cb3, 0x4ed8aa4a, 0x5b9cca4f, 0x682e6ff3] ++
  [0x748f82ee, 0x78a5636f, 0x84c87814, 0x8cc70208, 0x90befffa, 0xa4506ceb, 0xbef9a3f7, 0xc67178f2]

/-- The initial hash value. -/
def shaInit : List Word :=
  [0x6a09e667, 0xbb67ae85, 0x3c6ef372, 0xa54ff53a, 0x510e527f, 0x9b05688c, 0x1f83d9ab, 0x5be0cd19]

/-- The message with its padding: a 1 bit, zeros, the length in bits, to a multiple of 64 B. -/
def shaPad (m : List Byte) : List Byte := m ++ [0x80] ++ zeros ((119 - m.length % 64) % 64) ++ beBytes 8 (8 * m.length)

/-- The word that follows a window of sixteen in the message schedule. -/
def shaNext (w : List Word) : Word :=
  let x := w.getD 1 0
  let y := w.getD 14 0
  w.getD 0 0 + (x.rotateRight 7 ^^^ x.rotateRight 18 ^^^ x >>> 3) + w.getD 9 0 + (y.rotateRight 17 ^^^ y.rotateRight 19 ^^^ y >>> 10)

/-- One round with its constant: the eight working words, and the window whose first word the round takes. -/
def shaRound (st : List Word × List Word) (k : Word) : List Word × List Word :=
  match st.1 with
  | [a, b, c, d, e, f, g, h] =>
    let t1 := h + (e.rotateRight 6 ^^^ e.rotateRight 11 ^^^ e.rotateRight 25) + ((e &&& f) ^^^ (~~~ e &&& g)) + k + st.2.getD 0 0
    let t2 := (a.rotateRight 2 ^^^ a.rotateRight 13 ^^^ a.rotateRight 22) + ((a &&& b) ^^^ (a &&& c) ^^^ (b &&& c))
    ([t1 + t2, a, b, c, d + t1, e, f, g], st.2.drop 1 ++ [shaNext st.2])
  | _ => st

/-- The hash value after a block of 64 B. -/
def shaBlock (h : List Word) (b : List Byte) : List Word :=
  let w := (List.range 16).map fun i => BitVec.ofNat 32 (fldBE b (4 * i) 4)
  List.zipWith (· + ·) h (shaK.foldl shaRound (h, w)).1

/-- The hash value after the first n blocks. -/
def shaBlocks : Nat → List Word → List Byte → List Word
  | 0, h, _ => h
  | n + 1, h, m => shaBlocks n (shaBlock h (m.take 64)) (m.drop 64)

/-- The SHA-256 digest of a message, 32 B. -/
def sha256 (m : List Byte) : List Byte :=
  let p := shaPad m
  (shaBlocks (p.length / 64) shaInit p).flatMap fun w => beBytes 4 w.toNat

/-! ## P-256 -/

/-- The prime of the field. -/
def p256P : Nat := 0xFFFFFFFF00000001000000000000000000000000FFFFFFFFFFFFFFFFFFFFFFFF
/-- The order of the base point. -/
def p256N : Nat := 0xFFFFFFFF00000000FFFFFFFFFFFFFFFFBCE6FAADA7179E84F3B9CAC2FC632551
/-- The coefficient b; a is -3. -/
def p256B : Nat := 0x5AC635D8AA3A93E7B3EBBD55769886BC651D06B0CC53B0F63BCE3C3E27D2604B
/-- The base point. -/
def p256G : Nat × Nat :=
  (0x6B17D1F2E12C4247F8BCE6E563A440F277037D812DEB33A0F4A13945D898C296,
    0x4FE342E2FE1A7F9B8EE7EB4A7C0F9E162BCE33576B315ECECBB6406837BF51F5)

/-- x to the power of the n low bits of e, modulo m. -/
def powMod (m x : Nat) : Nat → Nat → Nat
  | 0, _ => 1
  | n + 1, e => let h := powMod m x n (e / 2); let q := h * h % m; if e % 2 = 1 then q * x % m else q

/-- The inverse modulo a prime of 256 bits. -/
def invMod (m x : Nat) : Nat := powMod m (x % m) 256 (m - 2)

/-- a - b modulo m. -/
def subMod (m a b : Nat) : Nat := (a + (m - b % m)) % m

/-- The point with the slope l through (x1, y1), whose line meets the abscissa x2 too. -/
def chord (l x1 y1 x2 : Nat) : Nat × Nat :=
  let x := subMod p256P (l * l) (x1 + x2)
  (x, subMod p256P (l * subMod p256P x1 x) y1)

/-- The sum of two points; none is the point at infinity. -/
def ecAdd : Option (Nat × Nat) → Option (Nat × Nat) → Option (Nat × Nat)
  | none, q => q
  | some p, none => some p
  | some (x1, y1), some (x2, y2) =>
    if x1 = x2 then
      if (y1 + y2) % p256P = 0 then none
      else some (chord (subMod p256P (3 * x1 * x1) 3 * invMod p256P (2 * y1) % p256P) x1 y1 x1)
    else some (chord (subMod p256P y2 y1 * invMod p256P (subMod p256P x2 x1) % p256P) x1 y1 x2)

/-- The multiple of a point by the n low bits of e. -/
def ecMul (p : Nat × Nat) : Nat → Nat → Option (Nat × Nat)
  | 0, _ => none
  | n + 1, e => let h := ecMul p n (e / 2); let d := ecAdd h h; if e % 2 = 1 then ecAdd d (some p) else d

/-- The point lies on the curve. -/
def onCurve (q : Nat × Nat) : Bool :=
  q.1 < p256P && q.2 < p256P && q.2 * q.2 % p256P == (subMod p256P (q.1 * q.1 * q.1) (3 * q.1) + p256B) % p256P

/-- The signature r, s over a message is valid under a public key (R160): both lie in 1 to n - 1, and the point
(e / s) G + (r / s) Q has the abscissa r modulo n. -/
def ecdsaValid (q : Nat × Nat) (msg sig : List Byte) : Bool :=
  let r := fldBE sig 0 32
  let s := fldBE sig 32 32
  let w := invMod p256N s
  let u1 := beNat (sha256 msg) * w % p256N
  let u2 := r * w % p256N
  sig.length == 64 && onCurve q && 1 ≤ r && r < p256N && 1 ≤ s && s < p256N &&
    match ecAdd (ecMul p256G 256 u1) (ecMul q 256 u2) with
    | some p => p.1 % p256N == r
    | none => false

end Sys2Proof.Machine
end

