-- ==== Sys2Proof/Machine/Container.lean ====
section
/-! DEFINITION. The yealm container (R152 to R160): its header, its section table, the packed streams, and the sections of it
that are not the Truss tables, as a lane reads them. Nothing here refuses: the checks stand in Verify.lean. -/

namespace Sys2Proof.Machine

/-! ## Header (R153) -/

/-- MAGIC of the header. -/
def yMagic (b : List Byte) : Nat := fldLE b 0x00 4
/-- FORMAT. -/
def yFormat (b : List Byte) : Nat := fldLE b 0x04 2
/-- FLAGS. -/
def yFlags (b : List Byte) : Nat := fldLE b 0x06 2
/-- INSTCODE. -/
def yInst (b : List Byte) : Nat := fldLE b 0x08 4
/-- KEYSLOT. -/
def yKeySlot (b : List Byte) : Nat := fldLE b 0x0C 4
/-- STORED_SIZE. -/
def yStored (b : List Byte) : Nat := fldLE b 0x20 4
/-- UNPACKED_SIZE. -/
def yUnpacked (b : List Byte) : Nat := fldLE b 0x24 4
/-- NSECT. -/
def yNsect (b : List Byte) : Nat := fldLE b 0x28 2
/-- SECTAB_OFF. -/
def ySectab (b : List Byte) : Nat := fldLE b 0x2C 4
/-- SIG_OFF. -/
def ySigOff (b : List Byte) : Nat := fldLE b 0x30 4

/-- The CRC-64 that stands behind the signature block (R152, R160). -/
def yCrcField (b : List Byte) : Nat := fldLE b (ySigOff b + 64) 8

/-- The stored bytes of a bank, as long as STORED_SIZE says; a size beyond a bank is cut to the bank (R162). -/
def bankBytes (k : Bank) : List Byte :=
  memRead k.mem 0 (min 6291456 (memNat k.mem 0x20 4))

/-! ## Section table (R155) and packed streams (R157) -/

/-- A section table entry. -/
structure SecEnt where
  type   : Nat
  sflags : Nat
  off    : Nat
  size   : Nat
  usize  : Nat
  deriving DecidableEq, Repr

/-- Entry i of the table at 0x100. -/
def secEnt (b : List Byte) (i : Nat) : SecEnt :=
  let o := 0x100 + 16 * i
  { type := fldLE b o 2, sflags := fldLE b (o + 2) 2, off := fldLE b (o + 4) 4, size := fldLE b (o + 8) 4,
    usize := fldLE b (o + 12) 4 }

/-- The ten entries of the table. -/
def secTable (b : List Byte) : List SecEnt := (List.range 10).map (secEnt b)

/-- PACKED. -/
def SecEnt.packed (e : SecEnt) : Bool := bitAt e.sflags 0

/-- Unpack a token stream; none where a token runs beyond the end. The first argument bounds the number of tokens. -/
def unpack : Nat → List Byte → Option (List Byte)
  | _, [] => some []
  | 0, _ :: _ => none
  | n + 1, c :: r =>
    if c.toNat < 128 then
      if r.length < c.toNat + 1 then none
      else (unpack n (r.drop (c.toNat + 1))).map fun t => r.take (c.toNat + 1) ++ t
    else (unpack n r).map fun t => zeros (c.toNat - 127) ++ t

/-- A section's unpacked bytes; none where its stream does not produce exactly USIZE bytes. -/
def secBytes (b : List Byte) (e : SecEnt) : Option (List Byte) :=
  let raw := slice b e.off e.size
  if raw.length != e.size then none
  else if e.packed then
    match unpack e.size raw with
    | some u => if u.length = e.usize then some u else none
    | none => none
  else if e.size = e.usize then some raw else none

/-- A section by its TYPE 1 to 10, empty where it is not exact. -/
def sect (b : List Byte) (type : Nat) : List Byte := (secBytes b (secEnt b (type - 1))).getD []

/-- Records of n bytes, as many as fit. -/
def records (n : Nat) (b : List Byte) : List (List Byte) := (List.range (b.length / n)).map fun i => slice b (n * i) n

/-! ## Endpoint map and object map (R158) -/

/-- An endpoint map entry. -/
def epEntOf (r : List Byte) : EpEnt :=
  let w := fldLE r 0 4
  { ref := BitVec.ofNat 24 w, subst := bitAt w 24 }

/-- The 16 slots at 0x10 of an object record or object map entry. -/
def slotsOf (r : List Byte) : List (BitVec 24) := (List.range 16).map fun j => BitVec.ofNat 24 (fldLE r (0x10 + 3 * j) 3)

/-- An object map entry. -/
def objMapOf (r : List Byte) : ObjMapEnt :=
  let w := fldLE r 4 4
  { objId := BitVec.ofNat 32 (fldLE r 0 4), type := bitsAt w 3 0, nep := bitsAt w 8 4, outmask := BitVec.ofNat 16 (bitsAt w 31 16),
    slots := slotsOf r }

/-! ## Node lists (R218) -/

/-- A node entry. -/
def nodeEntOf (r : List Byte) : NodeEnt :=
  { nodeId := BitVec.ofNat 32 (fldLE r 0 4), connId := BitVec.ofNat 32 (fldLE r 4 4), holdT := fldLE r 8 1, lage := fldLE r 9 1 }

/-- NNODE of ring i, counted from 0. -/
def nnode (b : List Byte) (i : Nat) : Nat := fldLE b (16 * i) 2

/-- Index of ring i's first node entry. -/
def nodeBase (b : List Byte) (i : Nat) : Nat := sumOf ((List.range i).map (nnode b))

/-- The raw node entries of ring i. -/
def nodeRecs (b : List Byte) (i : Nat) : List (List Byte) :=
  (List.range (nnode b i)).map fun k => slice b (64 + 16 * (nodeBase b i + k)) 16

/-- The list of ring i. -/
def nodeListOf (b : List Byte) (i : Nat) : NodeList :=
  { lenIn := fldLE b (16 * i + 2) 2, cabling := fldLE b (16 * i + 4) 1, nodes := (nodeRecs b i).map nodeEntOf }

/-- The four lists. -/
def ringsOf (b : List Byte) : Quad NodeList := ⟨nodeListOf b 0, nodeListOf b 1, nodeListOf b 2, nodeListOf b 3⟩

/-! ## Eaves configuration (R277) -/

/-- An input entry. -/
def eavesInOf (w : Nat) : EavesIn :=
  { src := bitsAt w 1 0, mode := bitsAt w 3 2, filt := bitsAt w 9 4, gate := bitsAt w 11 10, pair := bitsAt w 13 12,
    proof := bitAt w 14, disc := bitsAt w 25 16 }

/-- An output entry. -/
def eavesOutOf (w : Nat) : EavesOut :=
  { used := bitAt w 0, par := bitsAt w 2 1, pw := bitsAt w 5 3, inrush := bitAt w 6, openChk := bitAt w 7 }

/-- The configuration of the 512 bytes of a section. -/
def eavesCfgOf (b : List Byte) : EavesCfg :=
  { ti := fldLE b 6 1, ins := (List.range 64).map fun i => eavesInOf (fldLE b (0x10 + 4 * i) 4),
    outs := (List.range 32).map fun i => eavesOutOf (fldLE b (0x110 + 4 * i) 4),
    enable := ⟨bitAt (fldLE b 0x190 4) 0, bitAt (fldLE b 0x194 4) 0⟩, crc := BitVec.ofNat 32 (fldLE b 0x1FC 4) }

/-! ## Task table (R159), directory (R164), declarations (R166) -/

/-- A task table entry. -/
def taskOf (r : List Byte) : TaskEnt :=
  { m := fldLE r 0 2, phase := fldLE r 2 2, prio := fldLE r 4 1, command := bitAt (fldLE r 5 1) 0, wcetUs := fldLE r 8 4 }

/-- A directory entry. -/
def dirOf (r : List Byte) : DirEnt :=
  let w := fldLE r 4 4
  { id := BitVec.ofNat 32 (fldLE r 0 4), off := bitsAt w 19 0, type := bitsAt w 23 20, safe := bitsAt w 25 24,
    writer := bitsAt w 29 26, init := BitVec.ofNat 64 (fldLE r 8 8) }

/-- A declaration. -/
def declOf (r : List Byte) : DeclEnt :=
  { id := BitVec.ofNat 32 (fldLE r 0 4), kind := fldLE r 4 1, presetMs := fldLE r 8 4 }

/-! ## Truss tables (R142 to R148) -/

/-- Counts of the Truss header, in its order NOBJ, NROUTE, NPOINT, NSIG, NELEM, NCONF, NINV, NSRT. -/
def tCount (t : List Byte) (i : Nat) : Nat := fldLE t (8 + 4 * i) 4
/-- SECT_OFF of section i. -/
def tOff (t : List Byte) (i : Nat) : Nat := fldLE t (0x28 + 4 * i) 4
/-- SECT_CRC of section i. -/
def tCrc (t : List Byte) (i : Nat) : Nat := fldLE t (0x48 + 4 * i) 4
/-- TOTAL_SIZE. -/
def tTotal (t : List Byte) : Nat := fldLE t 0x6C 4

/-- Bytes of an entry of each section, in section order. -/
def tEntry (i : Nat) : Nat := [64, 32, 4, 2, 16, 2, 8, 2].getD i 1
/-- Which count of the header each section has. -/
def tCountOf (i : Nat) : Nat := [0, 1, 4, 5, 2, 6, 3, 7].getD i 0
/-- Bytes of section i without its padding. -/
def tSize (t : List Byte) (i : Nat) : Nat := tEntry i * tCount t (tCountOf i)
/-- The bytes of section i. -/
def tSect (t : List Byte) (i : Nat) : List Byte := slice t (tOff t i) (tSize t i)
/-- The records of section i. -/
def tRecs (t : List Byte) (i : Nat) : List (List Byte) := records (tEntry i) (tSect t i)

/-- An object record (R144). -/
def objOf (r : List Byte) : ObjRec :=
  let w0 := fldLE r 0 4
  let w1 := fldLE r 4 4
  let w2 := fldLE r 8 4
  { type := bitsAt w0 3 0, nep := bitsAt w0 8 4, inv := BitVec.ofNat 16 (bitsAt w0 31 16), outmask := BitVec.ofNat 16 (bitsAt w1 15 0),
    gatemask := BitVec.ofNat 16 (bitsAt w1 31 16), s0 := bitsAt w2 3 0, s1 := bitsAt w2 7 4, s2 := bitsAt w2 11 8,
    s3 := bitsAt w2 15 12, s4 := bitsAt w2 19 16, area := bitsAt w2 23 20, sect := bitsAt (fldLE r 12 4) 13 0, slots := slotsOf r }

/-- The counts and offsets of a route record (R146). -/
structure RouteHead where
  npath  : Nat
  nflank : Nat
  novl   : Nat
  nconf  : Nat
  pathOff  : Nat
  flankOff : Nat
  ovlOff   : Nat
  confOff  : Nat
  deriving DecidableEq, Repr

/-- Of a route record. -/
def routeHead (r : List Byte) : RouteHead :=
  let w := fldLE r 4 4
  { npath := bitsAt w 5 0, nflank := bitsAt w 13 8, novl := bitsAt w 20 16, nconf := bitsAt w 30 24, pathOff := fldLE r 8 4,
    flankOff := fldLE r 12 4, ovlOff := fldLE r 16 4, confOff := fldLE r 20 4 }

/-- An element (R147). -/
def elemOf (r : List Byte) : Elem :=
  let w := fldLE r 0 4
  { obj := bitsAt w 13 0, req := bitsAt w 18 16 }

/-- A list entry of R148. -/
def listEnt (r : List Byte) : Nat := fldLE r 0 2 % 4096

/-- A route with its lists (R146 to R148). -/
def routeOf (elems : List Elem) (confs : List Nat) (r : List Byte) : RouteRec :=
  let h := routeHead r
  let w0 := fldLE r 0 4
  { entry := bitsAt w0 13 0, area := bitsAt w0 19 16, path := (elems.drop h.pathOff).take h.npath,
    flank := (elems.drop h.flankOff).take h.nflank, overlap := (elems.drop h.ovlOff).take h.novl,
    conflicts := (confs.drop h.confOff).take h.nconf, rsId := BitVec.ofNat 32 (fldLE r 0x18 4), rsOff := bitsAt (fldLE r 0x1C 4) 19 0 }

/-- A point directory entry with its inverse list. -/
def pointOf (invs : List Nat) (r : List Byte) : PointEnt :=
  let w := fldLE r 0 4
  { point := bitsAt w 13 0, inverse := (invs.drop (fldLE r 4 4)).take (bitsAt w 22 16), osId := BitVec.ofNat 32 (fldLE r 8 4),
    osOff := bitsAt (fldLE r 12 4) 19 0 }

/-- A signal directory entry with its routes. -/
def sigOf (srts : List Nat) (r : List Byte) : SigEnt :=
  let w := fldLE r 0 4
  { signal := bitsAt w 13 0, routes := (srts.drop (fldLE r 4 4)).take (bitsAt w 22 16) }

/-- The Truss tables of a section. -/
def trussOf (t : List Byte) : TrussTab :=
  let elems := (tRecs t 2).map elemOf
  let confs := (tRecs t 3).map listEnt
  { objs := (tRecs t 0).map objOf, routes := (tRecs t 1).map (routeOf elems confs),
    points := (tRecs t 4).map (pointOf ((tRecs t 5).map listEnt)), sigs := (tRecs t 6).map (sigOf ((tRecs t 7).map listEnt)),
    tcbOff := fldLE t 0x68 4, tableCrc := BitVec.ofNat 32 (fldLE t 0xF8 4) }

/-! ## The whole -/

/-- The yealm of a container's bytes. -/
def yealmOf (b : List Byte) : Yealm :=
  let p := sect b 10
  let ev := sect b 6
  { split := bitAt (yFlags b) 0, instCode := BitVec.ofNat 20 (yInst b), crc64 := BitVec.ofNat 64 (yCrcField b), program := sect b 1,
    truss := trussOf (sect b 2), endpoints := (records 4 (sect b 3)).map epEntOf, objMap := (records 64 (sect b 4)).map objMapOf,
    rings := ringsOf (sect b 5), eaves := eavesCfgOf ev, eavesRaw := ev, tasks := (records 16 (sect b 7)).map taskOf,
    dir := (records 16 (sect b 8)).map dirOf, decls := (records 16 (sect b 9)).map declOf, periodMs := fldLE p 0 2,
    rotHours := fldLE p 2 1, narea := fldLE p 3 1, rlockS := (List.range 16).map fun a => fldLE p (8 + 2 * a) 2 }

end Sys2Proof.Machine
end

