-- ==== Sys2Proof/Machine/TrussLoad.lean ====
section
/-! DEFINITION. The load checks of the Truss tables (R150). Each check answers the first failing record, none where it
passes; record 0 stands for the header. -/

namespace Sys2Proof.Machine

/-- The place of the first element that fails. -/
def firstBad {α : Type} (l : List α) (ok : α → Bool) : Option Nat := (findIdxVal (fun x => !ok x) 0 l).map (·.1)

/-- A single test, at record 0. -/
def hdrBad (ok : Bool) : Option Nat := if ok then none else some 0

/-- The first failure of several. -/
def orBad : List (Option Nat) → Option Nat
  | [] => none
  | some r :: _ => some r
  | none :: t => orBad t

/-- Check 1: MAGIC, FORMAT, HDR_CRC. -/
def tCheck1 (t : List Byte) : Option Nat :=
  hdrBad (fldLE t 0 4 == 0x54525353 && fldLE t 4 2 == 1 && fldLE t 0xFC 4 == (crc32c (t.take 0xFC)).toNat && 256 ≤ t.length)

/-- Check 2: every SECT_CRC, and TABLE_CRC. -/
def tCheck2 (t : List Byte) : Option Nat :=
  orBad [firstBad (List.range 8) fun i => tCrc t i == (crc32c (tSect t i)).toNat,
    hdrBad (fldLE t 0xF8 4 == (crc32c (slice t 0x100 (tTotal t - 0x100))).toNat)]

/-- Bytes from one place up to another are 0. -/
def zeroGap (t : List Byte) (a b : Nat) : Bool := allZero (slice t a (b - a))

/-- Where section i must end at the latest: the next section's offset, or TOTAL_SIZE. -/
def tNext (t : List Byte) (i : Nat) : Nat := if i = 7 then tTotal t else tOff t (i + 1)

/-- Reserved fields of an object record are 0. -/
def objRsv (r : List Byte) : Bool :=
  bitsAt (fldLE r 0 4) 15 9 == 0 && bitsAt (fldLE r 8 4) 31 24 == 0 && bitsAt (fldLE r 12 4) 31 14 == 0

/-- Reserved fields of a route record are 0. -/
def routeRsv (r : List Byte) : Bool :=
  bitsAt (fldLE r 0 4) 15 14 == 0 && bitsAt (fldLE r 0 4) 31 20 == 0 && bitsAt (fldLE r 4 4) 7 6 == 0 &&
    bitsAt (fldLE r 4 4) 15 14 == 0 && bitsAt (fldLE r 4 4) 23 21 == 0 && !bitAt (fldLE r 4 4) 31 && bitsAt (fldLE r 0x1C 4) 31 20 == 0

/-- Reserved fields of an element are 0. -/
def elemRsv (r : List Byte) : Bool := bitsAt (fldLE r 0 4) 15 14 == 0 && bitsAt (fldLE r 0 4) 31 19 == 0

/-- Reserved bits of a list entry are 0. -/
def listRsv (r : List Byte) : Bool := bitsAt (fldLE r 0 2) 15 12 == 0

/-- Reserved fields of a point directory entry are 0. -/
def pointRsv (r : List Byte) : Bool :=
  bitsAt (fldLE r 0 4) 15 14 == 0 && bitsAt (fldLE r 0 4) 31 23 == 0 && bitsAt (fldLE r 12 4) 31 20 == 0

/-- Reserved fields of a signal directory entry are 0. -/
def sigRsv (r : List Byte) : Bool := bitsAt (fldLE r 0 4) 15 14 == 0 && bitsAt (fldLE r 0 4) 31 23 == 0

/-- Counts within R140. -/
def tCounts (t : List Byte) (y : TrussTab) : Bool :=
  tCount t 0 ≤ 16384 && tCount t 1 ≤ 4096 && tCount t 2 ≤ 4096 && tCount t 3 ≤ 4096 && tCount t 7 == tCount t 1 &&
    (y.objs.filter fun o => o.type == 3).length ≤ 8192 && t.length ≤ 3879731 && tTotal t == t.length

/-- The lists of a route are within R140: 1 to 48 path elements with at least one CLEAR, 32, 16, 64. -/
def routeCounts (h : RouteHead) (r : RouteRec) : Bool :=
  1 ≤ h.npath && h.npath ≤ 48 && r.path.any (fun e => e.req == 0) && h.nflank ≤ 32 && h.novl ≤ 16 && h.nconf ≤ 64

/-- Check 3: counts within R140, offsets, padding, reserved fields. -/
def tCheck3 (t : List Byte) (y : TrussTab) : Option Nat :=
  orBad [
    hdrBad (tCounts t y && allZero (slice t 6 2) && allZero (slice t 0x70 136) && 256 ≤ tOff t 0 && zeroGap t 256 (tOff t 0)),
    firstBad (List.range 8) fun i =>
      tOff t i % 256 == 0 && tOff t i + tSize t i ≤ tNext t i && tNext t i ≤ tTotal t && zeroGap t (tOff t i + tSize t i) (tNext t i),
    firstBad (tRecs t 0) objRsv, firstBad (tRecs t 1) routeRsv, firstBad (tRecs t 2) elemRsv, firstBad (tRecs t 3) listRsv,
    firstBad (tRecs t 4) pointRsv, firstBad (tRecs t 5) listRsv, firstBad (tRecs t 6) sigRsv, firstBad (tRecs t 7) listRsv,
    firstBad ((tRecs t 1).zip y.routes) fun x => routeCounts (routeHead x.1) x.2,
    firstBad (tRecs t 4) fun r => bitsAt (fldLE r 0 4) 22 16 ≤ 64,
    firstBad (tRecs t 6) fun r => bitsAt (fldLE r 0 4) 22 16 ≤ 64,
    firstBad y.objs fun o => o.nep ≤ 16]

/-- Check 4: TYPE, NEP, OUTMASK and every slot as the object map has them. -/
def tCheck4 (y : Yealm) : Option Nat :=
  orBad [
    firstBad (y.truss.objs.zip y.objMap) fun x =>
      x.1.type == x.2.type && x.1.nep == x.2.nep && x.1.outmask == x.2.outmask && x.1.slots == x.2.slots,
    hdrBad (y.truss.objs.length == y.objMap.length)]

/-- Slot j of the object is a used input. -/
def slotIn (o : ObjRec) (j : Nat) : Bool :=
  j < o.nep && !o.outmask.getLsbD j && (match o.slots[j]? with | some r => !(refLocal r && refOut r) | none => false)

/-- Slot j of the object is a used output. -/
def slotOut (o : ObjRec) (j : Nat) : Bool :=
  j < o.nep && o.outmask.getLsbD j && (match o.slots[j]? with | some r => !refLocal r || refOut r | none => false)

/-- A role slot that reads: an input, and no Eaves input in a counter mode. -/
def roleIn (y : Yealm) (o : ObjRec) (j : Nat) : Bool :=
  slotIn o j && (match o.slots[j]? with | some r => !(refLocal r && 2 ≤ (inCfg y (refChan r)).mode) | none => false)

/-- The input role slots of an object by its type (R144). -/
def roleInputs (o : ObjRec) : List Nat :=
  if o.type = 1 then [o.s0, o.s1] ++ (if o.s2 = 15 then [] else [o.s2])
  else if o.type = 3 || o.type = 4 || o.type = 5 then [o.s0] else []

/-- Role slots and GATEMASK as R144 gives them for the type. -/
def rolesOk (y : Yealm) (o : ObjRec) : Bool :=
  let g := o.gatemask.toNat
  let none15 (l : List Nat) : Bool := l.all (· == 15)
  (roleInputs o).all (roleIn y o) &&
    (match o.type with
    | 0 => none15 [o.s0, o.s1, o.s2, o.s3, o.s4] && g == 0
    | 1 => o.s3 != o.s4 && slotOut o o.s3 && slotOut o o.s4 && g == 2 ^ o.s3 + 2 ^ o.s4
    | 2 => none15 [o.s0, o.s1, o.s2, o.s3, o.s4] && g != 0 && (List.range 16).all fun j => !bitAt g j || slotOut o j
    | 3 | 4 | 5 => none15 [o.s1, o.s2, o.s3, o.s4] && g == 0
    | 6 => none15 [o.s0, o.s1, o.s2, o.s3, o.s4] && g == 0
    | _ => false)

/-- The gated endpoints of an object. -/
def gatedOf (o : ObjRec) : List (BitVec 24) :=
  ((enumFrom0 o.slots).filter fun x => x.1 < o.nep && o.gatemask.getLsbD x.1).map (·.2)

/-- Check 5: role slots, GATEMASK, each gated endpoint in the GATEMASK of exactly one object. -/
def tCheck5 (y : Yealm) : Option Nat :=
  let all := y.truss.objs.flatMap gatedOf
  firstBad y.truss.objs fun o => rolesOk y o && (gatedOf o).all fun r => all.count r == 1

/-- Check 6: the substitute of every input role slot equals its INV bit. -/
def tCheck6 (y : Yealm) : Option Nat :=
  firstBad y.truss.objs fun o => (roleInputs o).all fun j =>
    match o.slots[j]? with
    | some r => substOf y r.toNat == o.inv.getLsbD j
    | none => false

/-- Check 7: the SECT of every point is a track section; of anything else it is 0 (R144). -/
def tCheck7 (y : TrussTab) : Option Nat :=
  firstBad y.objs fun o =>
    if o.type = 1 then o.sect < y.objs.length && (objAt y o.sect).type == 3 else o.sect == 0

/-- An element's REQ suits its list and its object's type (R130, R147). -/
def elemOk (y : TrussTab) (flank : Bool) (e : Elem) : Bool :=
  let t := (objAt y e.obj).type
  match e.req with
  | 0 => t == 3
  | 1 | 2 => t == 1
  | 3 => flank && t == 2
  | 4 => t == 4 || t == 5
  | _ => false

/-- Where the lists of each route begin in the element pool and in the conflict pool when there are no gaps. -/
def poolStarts : Nat → Nat → List RouteHead → List (Nat × Nat)
  | _, _, [] => []
  | e, c, h :: r => (e, c) :: poolStarts (e + h.npath + h.nflank + h.novl) (c + h.nconf) r

/-- Check 8: entries, elements, the canonical element pool. -/
def tCheck8 (t : List Byte) (y : TrussTab) : Option Nat :=
  let hs := (tRecs t 1).map routeHead
  orBad [
    firstBad y.routes fun r =>
      (objAt y r.entry).type == 2 && r.path.all (elemOk y false) && r.flank.all (elemOk y true) && r.overlap.all (elemOk y false),
    firstBad (hs.zip (poolStarts 0 0 hs)) fun x =>
      x.1.pathOff == x.2.1 && x.1.flankOff == x.2.1 + x.1.npath && x.1.ovlOff == x.2.1 + x.1.npath + x.1.nflank,
    hdrBad (sumOf (hs.map fun h => h.npath + h.nflank + h.novl) == tCount t 4)]

/-- A list of routes is rising and names routes there are. -/
def routeList (y : TrussTab) (l : List Nat) : Bool :=
  l.all (fun r => r < y.routes.length) && (l.zip (l.drop 1)).all fun x => x.1 < x.2

/-- Conflicts of route r. -/
def confOf (y : TrussTab) (r : Nat) : List Nat := match y.routes[r]? with | some x => x.conflicts | none => []

/-- Check 9: conflict lists. -/
def tCheck9 (t : List Byte) (y : TrussTab) : Option Nat :=
  let hs := (tRecs t 1).map routeHead
  orBad [
    firstBad (enumFrom0 y.routes) fun x =>
      routeList y x.2.conflicts && !x.2.conflicts.contains x.1 && x.2.conflicts.all (fun c => (confOf y c).contains x.1) &&
        (enumFrom0 y.routes).all fun z => z.1 == x.1 || z.2.entry != x.2.entry || x.2.conflicts.contains z.1,
    firstBad (hs.zip (poolStarts 0 0 hs)) fun x => x.1.confOff == x.2.2,
    hdrBad (sumOf (hs.map (·.nconf)) == tCount t 5)]

/-- Routes that name an object in their path, flank or overlap. -/
def naming (y : TrussTab) (obj : Nat) : List Nat :=
  ((enumFrom0 y.routes).filter fun x => (x.2.path ++ x.2.flank ++ x.2.overlap).any fun e => e.obj == obj).map (·.1)

/-- Offsets of lists that stand in the order of their owners without gaps. -/
def listStarts : Nat → List Nat → List Nat
  | _, [] => []
  | n, k :: r => n :: listStarts (n + k) r

/-- The lists of a directory stand without gaps and fill their pool. -/
def dirPools (recs : List (List Byte)) (total : Nat) : Option Nat :=
  let ns := recs.map fun r => bitsAt (fldLE r 0 4) 22 16
  orBad [firstBad (recs.zip (listStarts 0 ns)) fun x => fldLE x.1 4 4 == x.2, hdrBad (sumOf ns == total)]

/-- The objects of a type, in ascending order. -/
def objsOf (y : TrussTab) (type : Nat) : List Nat := ((enumFrom0 y.objs).filter fun o => o.2.type == type).map (·.1)

/-- Check 10: one entry per point in ascending order, each inverse list the set of routes that name the point. -/
def tCheck10 (t : List Byte) (y : TrussTab) : Option Nat :=
  orBad [firstBad y.points fun p => p.inverse == naming y p.point, dirPools (tRecs t 4) (tCount t 6),
    hdrBad (y.points.map (·.point) == objsOf y 1)]

/-- Check 11: one entry per signal in ascending order, each route list the set of routes with that ENTRY. -/
def tCheck11 (t : List Byte) (y : TrussTab) : Option Nat :=
  orBad [
    firstBad y.sigs fun g => g.routes == ((enumFrom0 y.routes).filter fun x => x.2.entry == g.signal).map (·.1),
    dirPools (tRecs t 6) (tCount t 7), hdrBad (y.sigs.map (·.signal) == objsOf y 2)]

/-- A state ID resolves through the directory to a one-byte state variable at an offset. -/
def resolves (y : Yealm) (id : Word) (off : Nat) : Bool := y.dir.any fun d => d.id == id && d.type == 2 && d.off == off

/-- Check 12: RS_ID, OS_ID and TCB_OFF resolve, all distinct. -/
def tCheck12 (y : Yealm) : Option Nat :=
  let ids := y.truss.routes.map (·.rsId) ++ y.truss.points.map (·.osId)
  orBad [
    firstBad y.truss.routes fun r => resolves y r.rsId r.rsOff && ids.count r.rsId == 1,
    firstBad y.truss.points fun p => resolves y p.osId p.osOff && ids.count p.osId == 1,
    hdrBad (y.dir.any fun d => d.type == 9 && d.off == y.truss.tcbOff)]

/-- Check 13: every AREA is declared. -/
def tCheck13 (y : Yealm) : Option Nat :=
  orBad [firstBad y.truss.objs fun o => o.area < y.narea, firstBad y.truss.routes fun r => r.area < y.narea]

/-- The first failing check of R150 with its first failing record. -/
def trussFail (t : List Byte) (y : Yealm) : Option (Nat × Nat) :=
  let k := y.truss
  (findIdxVal (fun x : Option Nat => x.isSome) 1
    [tCheck1 t, tCheck2 t, tCheck3 t k, tCheck4 y, tCheck5 y, tCheck6 y, tCheck7 k, tCheck8 t k, tCheck9 t k, tCheck10 t k,
      tCheck11 t k, tCheck12 y, tCheck13 y]).map fun x => (x.1, x.2.getD 0)

end Sys2Proof.Machine
end

