-- ==== Sys2Proof/Machine/Verify.lean ====
section
/-! DEFINITION. Verification of a yealm by one lane (R161): ten steps in their order, the first that fails refuses it. -/

namespace Sys2Proof.Machine

/-- Are the entries of a list of numbers strictly rising? -/
def rising : List Nat → Bool
  | [] => true
  | [_] => true
  | x :: y :: r => x < y && rising (y :: r)

/-- Every element of a list occurs once. -/
def distinct {α : Type} [DecidableEq α] (l : List α) : Bool := l.all fun x => l.count x == 1

/-! ## Steps 1 to 6 -/

/-- Step 1: STORED_SIZE within the bank and SIG_OFF + 72 (R153, R157); CRC-64 (R160). -/
def vStep1 (b : List Byte) : Bool :=
  yStored b ≤ 6291456 && yStored b == ySigOff b + 72 && b.length == yStored b &&
    yCrcField b == (crc64xz (b.take (ySigOff b + 64))).toNat

/-- Step 2: MAGIC, FORMAT, HDR_CRC, reserved fields (R153). -/
def vStep2 (b : List Byte) : Bool :=
  yMagic b == 0x594C4D31 && yFormat b == 1 && fldLE b 0xFC 4 == (crc32c (b.take 0xFC)).toNat && yFlags b / 2 == 0 &&
    yInst b / 2 ^ 20 == 0 && yKeySlot b / 4 == 0 && allZero (slice b 0x2A 2) && allZero (slice b 0x34 200)

/-- Step 3: the signature under the key of KEYSLOT (R160). -/
def vStep3 (l : Lane) (b : List Byte) : Bool :=
  ecdsaValid (Config.keySlot l (yKeySlot b % 4)) (b.take (ySigOff b)) (slice b (ySigOff b) 64)

/-- Step 4: the installation code, with SW1 to SW16 as the lane itself reads them (R154). -/
def vStep4 (sw : BitVec 25) (b : List Byte) : Bool := yInst b % 2 ^ 16 == sw.toNat % 2 ^ 16

/-- Unpacked limits of the ten section types (R156). -/
def secLimit (type : Nat) : Nat :=
  [3145728, 3879731, 524672, 1048576, 262144, 4096, 256, 1048576, 524288, 64].getD (type - 1) 0

/-- Where each section ends at the latest: at the next one, the last at SIG_OFF. -/
def secEnds (b : List Byte) : List Nat := ((secTable b).drop 1).map (·.off) ++ [ySigOff b]

/-- One section table entry (R155, R156) with the padding behind its section. -/
def secOk (b : List Byte) (i : Nat) (e : SecEnt) (end_ : Nat) : Bool :=
  e.type == i + 1 && e.sflags / 2 == 0 && e.off % 256 == 0 && e.off + e.size ≤ end_ && zeroGap b (e.off + e.size) end_ &&
    e.usize ≤ secLimit e.type && (secBytes b e).isSome

/-- Step 5: the section table, alignment and order, every packed stream exact (R152, R155 to R157). -/
def vStep5 (b : List Byte) : Bool :=
  yNsect b == 10 && ySectab b == 0x100 && ySigOff b % 256 == 0 && 0x1A0 ≤ (secEnt b 0).off && zeroGap b 0x1A0 (secEnt b 0).off &&
    (enumFrom0 ((secTable b).zip (secEnds b))).all fun x => secOk b x.1 x.2.1 x.2.2

/-- Bytes of the sections unpacked, with header and section table. -/
def unpackedSize (b : List Byte) : Nat := 256 + 160 + sumOf ((secTable b).map (·.usize))

/-- The limits of R140 that hold per route, per point and per signal. -/
def listLimits (t : List Byte) (y : TrussTab) : Bool :=
  ((tRecs t 1).zip y.routes).all (fun x => routeCounts (routeHead x.1) x.2) &&
    (tRecs t 4).all (fun r => bitsAt (fldLE r 0 4) 22 16 ≤ 64) && (tRecs t 6).all (fun r => bitsAt (fldLE r 0 4) 22 16 ≤ 64)

/-- Step 6: the capacities of R3 and R140, the vital period of R4 and R33. -/
def vStep6 (b : List Byte) (y : Yealm) : Bool :=
  let types (t : Nat) : Nat := (y.objMap.filter fun o => o.type == t).length
  let t := sect b 2
  yUnpacked b == unpackedSize b && unpackedSize b ≤ 12582912 && (List.range 4).all (fun i => nnode (sect b 5) i ≤ 256) &&
    y.endpoints.length ≤ 131168 && y.objMap.length ≤ 16384 && types 1 ≤ 4096 && types 2 ≤ 4096 && types 3 ≤ 8192 &&
    y.objMap.all (fun o => o.nep ≤ 16) && tCount t 0 ≤ 16384 && tCount t 1 ≤ 4096 && tCount t 2 ≤ 4096 && tCount t 3 ≤ 4096 &&
    listLimits t y.truss && y.tasks.length ≤ 8 && y.narea ≤ 16 && (y.periodMs == 5 || y.periodMs == 10 || y.periodMs == 20) &&
    (y.periodMs != 5 || y.endpoints.length ≤ 65536)

/-! ## Step 7 -/

/-- The parameters section (R167). -/
def paramsOk (p : List Byte) (y : Yealm) : Bool :=
  p.length == 64 && 1 ≤ y.rotHours && y.rotHours ≤ 24 && 1 ≤ y.narea && y.narea ≤ 16 && allZero (slice p 4 4) && allZero (slice p 0x28 24) &&
    (enumFrom0 y.rlockS).all fun x => if x.1 < y.narea then 60 ≤ x.2 && x.2 ≤ 600 else x.2 == 0

/-- Alignment of a directory variable: its size (R165). -/
def dirAligned (d : DirEnt) : Bool := typeSize d.type != 0 && d.off % typeSize d.type == 0

/-- One directory entry (R164, R165). -/
def dirOk (y : Yealm) (d : DirEnt) : Bool :=
  d.id != 0 && d.id.toNat < 0xFFFF0000 && 0x10000 ≤ d.off && d.off + typeSize d.type ≤ 1048576 && dirAligned d &&
    (if d.type = 7 then d.safe == 1 || d.safe == 2 else d.safe == 0) &&
    (if d.type = 9 then d.writer == 14 else d.writer == 14 || (1 ≤ d.writer && d.writer ≤ y.tasks.length)) &&
    (!(d.type == 7 || d.type == 8 || d.type == 9) || d.init == 0)

/-- The variables do not overlap (R165). -/
def dirApart (ds : List DirEnt) : Bool :=
  let s := sortBy (fun d : DirEnt => d.off) ds
  (s.zip (s.drop 1)).all fun x => x.1.off + typeSize x.1.type ≤ x.2.off

/-- The directory (R164, R165), raw and read. -/
def directoryOk (raw : List Byte) (y : Yealm) : Bool :=
  raw.length % 16 == 0 && rising (y.dir.map (·.id.toNat)) && y.dir.all (dirOk y) && dirApart y.dir &&
    (y.dir.filter fun d => d.type == 9).length == 1 && (records 16 raw).all fun r => bitsAt (fldLE r 4 4) 31 30 == 0

/-- One declaration (R166): a timer or an edge of the directory, an edge without preset. -/
def declOk (y : Yealm) (r : List Byte) : Bool :=
  let d := declOf r
  allZero (slice r 5 3) && allZero (slice r 12 4) && (d.kind == 1 || (d.kind == 2 && d.presetMs == 0)) &&
    y.dir.any fun e => e.id == d.id && e.type == (if d.kind = 1 then 7 else 8)

/-- The declarations. -/
def declsOk (raw : List Byte) (y : Yealm) : Bool :=
  raw.length % 16 == 0 && (records 16 raw).all (declOk y) && distinct (y.decls.map (·.id))

/-- A reference is well formed (R145). -/
def refOk (r : BitVec 24) : Bool :=
  bitsAt r.toNat 21 17 == 0 &&
    (if refLocal r then bitsAt r.toNat 16 6 == 0 && (!refOut r || refChan r < 32) else !refOut r)

/-- Outputs of the object map's ring endpoints. -/
def mapOutputs (y : Yealm) : List (BitVec 24) :=
  y.objMap.flatMap fun o => ((enumFrom0 o.slots).filter fun x => x.1 < o.nep && o.outmask.getLsbD x.1).map (·.2)

/-- The endpoint map (R158): ascending, reserved bits 0, SUBST 0 for outputs. -/
def endpointsOk (raw : List Byte) (y : Yealm) : Bool :=
  let outs := mapOutputs y
  raw.length % 4 == 0 && rising (y.endpoints.map (·.ref.toNat)) &&
    (records 4 raw).all (fun r => bitsAt (fldLE r 0 4) 31 25 == 0) &&
    y.endpoints.all fun e => refOk e.ref && (!e.subst || !((refLocal e.ref && refOut e.ref) || outs.contains e.ref))

/-- The object map (R158). -/
def objMapOk (raw : List Byte) (y : Yealm) : Bool :=
  raw.length % 64 == 0 && y.objMap.all (fun o => o.objId != 0) && distinct (y.objMap.map (·.objId)) &&
    (records 64 raw).all fun r => bitsAt (fldLE r 4 4) 15 9 == 0 && allZero (slice r 8 8)

/-- One ring's header and entries (R218); `pair` is SW20 as the lane reads it. -/
def nodeListOk (pair : Bool) (raw : List Byte) (i : Nat) : Bool :=
  let n := nodeListOf raw i
  allZero (slice raw (16 * i + 5) 11) && n.cabling == ofFlag pair && (!pair || n.lenIn == 0) &&
    (nodeRecs raw i).all (fun r => allZero (slice r 10 6)) &&
    n.nodes.all fun e => e.nodeId != 0 && e.connId != 0 && e.connId != 0xFFFFFFFF &&
      1 ≤ e.holdT && e.holdT ≤ 5 && 1 ≤ e.lage && e.lage ≤ 3

/-- The node lists: their length, every ring, every CONN_ID distinct. -/
def nodeListsOk (pair : Bool) (raw : List Byte) (y : Yealm) : Bool :=
  raw.length == 64 + 16 * nodeBase raw 4 && (List.range 4).all (nodeListOk pair raw) &&
    distinct (y.rings.toList.flatMap fun n => n.nodes.map (·.connId))

/-- One Eaves input entry in its ranges (R277, R278); i counts from 0. -/
def eavesInOk (ins : List EavesIn) (w i : Nat) : Bool :=
  let e := eavesInOf w
  let up := ins.getD (i + 1) e
  !bitAt w 15 && bitsAt w 31 26 == 0 && 2 ≤ e.filt && e.filt ≤ 40 && e.gate != 3 && e.pair != 3 &&
    (e.mode < 2 || (56 ≤ i && e.src == 0)) &&
    (if i % 2 = 1 then e.pair == 0 && !e.proof && e.disc == 0
     else 5 ≤ e.disc && e.disc ≤ 1000 && (e.pair == 0 || (e.mode == 1 && up.mode == 1)))

/-- The members of the paralleled channel i (R257). -/
def parMembers (par i : Nat) : List Nat :=
  if par = 1 then [i / 2 * 2, i / 2 * 2 + 1] else if par = 2 then (List.range 4).map (i / 4 * 4 + ·) else [i]

/-- One Eaves output entry (R257, R277, R278). -/
def eavesOutOk (outs : List EavesOut) (w i : Nat) : Bool :=
  let e := eavesOutOf w
  bitsAt w 31 8 == 0 && e.par != 3 && 1 ≤ e.pw && e.pw ≤ 4 &&
    (parMembers e.par i).all fun j =>
      match outs[j]? with
      | some o => o.par == e.par && o.pw == e.pw && o.inrush == e.inrush && o.openChk == e.openChk
      | none => false

/-- An Eaves endpoint of the map is configured, an output in an enabled group (R278). -/
def eavesUsed (c : EavesCfg) (r : BitVec 24) : Bool :=
  !refLocal r ||
    (if refOut r then (match c.outs[refChan r]? with | some o => o.used | none => false) &&
        (if refChan r < 16 then c.enable.a else c.enable.b)
     else match c.ins[refChan r]? with | some i => i.mode != 0 | none => false)

/-- The Eaves configuration section (R277, R278). -/
def eavesOk (raw : List Byte) (y : Yealm) : Bool :=
  let c := y.eaves
  raw.length == 512 && fldLE raw 0 4 == 0x45415631 && fldLE raw 4 2 == 1 && fldLE raw 8 4 == 512 &&
    fldLE raw 0x1FC 4 == (crc32c (raw.take 0x1FC)).toNat && 1 ≤ c.ti && c.ti ≤ 100 && allZero (slice raw 7 1) && allZero (slice raw 12 4) &&
    allZero (slice raw 0x198 100) && fldLE raw 0x190 4 / 2 == 0 && fldLE raw 0x194 4 / 2 == 0 &&
    (List.range 64).all (fun i => eavesInOk c.ins (fldLE raw (0x10 + 4 * i) 4) i) &&
    (List.range 32).all (fun i => eavesOutOk c.outs (fldLE raw (0x110 + 4 * i) 4) i) && y.endpoints.all fun e => eavesUsed c e.ref

/-- Step 7: parameters, directory, declarations, the Eaves section (R278), and the formats of the maps and node lists. -/
def vStep7 (sw : BitVec 25) (b : List Byte) (y : Yealm) : Bool :=
  paramsOk (sect b 10) y && directoryOk (sect b 8) y && declsOk (sect b 9) y && eavesOk (sect b 6) y && endpointsOk (sect b 3) y &&
    objMapOk (sect b 4) y && nodeListsOk (sw.getLsbD 19) (sect b 5) y

/-! ## Steps 8 to 10 -/

/-- Task budget of R52 in us. -/
def taskBudgetUs (p : Nat) : Nat := if p = 5 then 700 else if p = 20 then 15100 else 5100

/-- One task (R49). -/
def taskOk (p : Nat) (t : TaskEnt) : Bool := 1 ≤ t.m && t.m * p ≤ 1000 && t.phase < t.m && 1 ≤ t.prio && t.prio ≤ 8

/-- Step 8: the task table under R49, R53 and R55. -/
def vStep8 (raw : List Byte) (y : Yealm) : Bool :=
  let h := lcmOf (y.tasks.map (·.m))
  raw.length % 16 == 0 && (records 16 raw).all (fun r => fldLE r 5 1 / 2 == 0 && allZero (slice r 6 2)) &&
    y.tasks.all (taskOk y.periodMs) && distinct (y.tasks.map (·.prio)) && h ≤ 10000 &&
    (List.range h).all (fun k => sumOf ((y.tasks.filter fun t => taskDue t k).map (·.wcetUs)) ≤ taskBudgetUs y.periodMs) &&
    (match y.tasks.filter (·.command) with | [t] => t.m == 1 | _ => false)

/-- How a verification ends. -/
inductive Verified where
  | ok (y : Yealm)
  /-- Refused at a step of R161; at step 9 with the check of R150 and the first failing record. -/
  | refused (step : Nat) (truss : Option (Nat × Nat))
  deriving DecidableEq, Repr

/-- Verification under R161 by lane l, which reads the sealed switches `sw`; `split` is the boot-time split state. -/
def verify (l : Lane) (sw : BitVec 25) (split : Bool) (b : List Byte) : Verified :=
  let y := yealmOf b
  if !vStep1 b then .refused 1 none
  else if !vStep2 b then .refused 2 none
  else if !vStep3 l b then .refused 3 none
  else if !vStep4 sw b then .refused 4 none
  else if !vStep5 b then .refused 5 none
  else if !vStep6 b y then .refused 6 none
  else if !vStep7 sw b y then .refused 7 none
  else if !vStep8 (sect b 7) y then .refused 8 none
  else
    match trussFail (sect b 2) y with
    | some c => .refused 9 (some c)
    | none => if y.split = split then .ok y else .refused 10 none

/-- The alarms of a refused yealm: TRUSS_TABLE with check and record (R150), IMAGE_REFUSED with the step (R161). -/
def refuseImage (s : State) (l : Lane) (step : Nat) (truss : Option (Nat × Nat)) : State :=
  let s1 := match truss with
    | some c => raiseLane s l 0x0303 (argLane l ++ arg1 c.1 ++ arg4 c.2)
    | none => s
  raiseLane s1 l 0x0401 (argLane l ++ arg1 step)

end Sys2Proof.Machine
end

