-- ==== Sys2Proof/Machine/Transfers.lean ====
section
/-! DEFINITION. What moves in bulk: descriptor fetches (R39, R295), image segments (R318, R389), verification and fetch of a
yealm (R161, R105), journal reads (R318), input injection (R383), and the boundary of an online exchange (R181, R182). -/

namespace Sys2Proof.Machine

/-! ## CMDQ_FETCH (R19, R39, R295) -/

/-- Descriptors that the host has put into CMDQ and that the hub has not fetched for this cycle. -/
def cmdqReady (s : State) : Nat := ((qAt s qCMDQ).db - (qAt s qCMDQ).idx).toNat - s.host.fetched

/-- A descriptor goes into a lane's intake queue, or waits in the hub for a credit, behind what waits. -/
def fetchOne (s : State) (d : List Byte) : State :=
  Lane.all.foldl (fun s l =>
    if (s.host.cmdHand.get l).isEmpty && (s.lanes.get l).cmdIn.credits != 0 then
      onLane s l fun x => { x with cmdIn := x.cmdIn.send ⟨s.cyc.k, d⟩ }
    else { s with host := { s.host with cmdHand := s.host.cmdHand.set l (s.host.cmdHand.get l ++ [d]) } }) s

/-- A fetch of descriptors completes: as many as the cycle's limit and the ring hold. -/
def cmdqFetchAt (descs : List (List Byte)) (s : State) : State :=
  let n := min (s.host.fetchLim - s.host.fetched) (cmdqReady s)
  let ds := descs.take n
  let r := qAt s qCMDQ
  let s1 := readHost s (entryAddr r qCMDQ (r.idx + BitVec.ofNat 32 s.host.fetched)) (64 * ds.length)
  let s2 := ds.foldl fetchOne s1
  { s2 with host := { s2.host with fetched := s2.host.fetched + ds.length } }

/-- CMDQ_FETCH: only between Ck and intake close, and not in SAFE STOP (R305). -/
def execCmdqFetch (descs : List (List Byte)) (s : State) : Host.Outcome State Fault Refusal :=
  .next (if ringServed s qCMDQ && !s.cyc.agreedIn && s.mod.st != .safeStop then cmdqFetchAt descs s else s)

/-! ## Image segments (R318) -/

/-- An XFRQ-IN entry's CRC is correct. -/
def xfrCrcOk (e : List Byte) : Bool := e.length == 64 && fldLE e 0x3C 4 == (crc32c (e.take 0x3C)).toNat
/-- XFR_ID of an entry. -/
def xfrId (e : List Byte) : Nat := fldLE e 0 4
/-- OFFSET. -/
def xfrOff (e : List Byte) : Nat := fldLE e 4 4
/-- LENGTH. -/
def xfrLen (e : List Byte) : Nat := fldLE e 8 4
/-- LAST. -/
def xfrLast (e : List Byte) : Bool := bitAt (fldLE e 12 4) 0

/-- LENGTH as R318 allows it, with as many bytes fetched. -/
def segLenOk (e data : List Byte) : Bool :=
  data.length == xfrLen e && xfrLen e ≤ 65536 && (xfrLast e || (4096 ≤ xfrLen e && xfrLen e % 4096 == 0))

/-- Segments cover the stored size exactly, in their order: this one follows what has been taken, and it is the last one where
it reaches the end. -/
def segFits (e data : List Byte) (taken stored : Nat) : Bool :=
  segLenOk e data && xfrOff e == taken &&
    (if xfrLast e then taken + data.length == stored else taken + data.length < stored)

/-- A lane takes a segment into its LOADING shadow bank. -/
def bankTake (data : List Byte) (last : Bool) (x : LaneSt) : LaneSt :=
  let b := shadowBank x.mram
  if b.state == .loading && !b.full then
    { x with mram := setShadow x.mram { b with mem := memWrite b.mem b.size data, size := b.size + data.length, full := last } }
  else x

/-- The running IMAGE_LOAD, as its transfer entry (R318: only one runs). -/
def runningLoad (m : Mem) : Option (Nat × XferEnt) :=
  match (xferSlots m).find? fun i => (xferAt m i).opcode == 0x11 with
  | some i => some (i, xferAt m i)
  | none => none

/-- STORED_SIZE and CRC-64 as the IMAGE_LOAD names them (R302). -/
def loadSize (x : XferEnt) : Nat := fldLE x.param 4 4
/-- The CRC-64. -/
def loadCrc (x : XferEnt) : Nat := fldLE x.param 8 8

/-- Image data in messages of the request/response class, each with its place in the image (R318, R327). -/
def segParts (off : Nat) (last : Bool) (data : List Byte) : List PeerBody :=
  let n := (data.length + partBytes - 1) / partBytes
  (List.range n).map fun i => .segment (off + partBytes * i) (last && i + 1 == n) (slice data (partBytes * i) partBytes)

/-- The active lanes pass what they take to the standby over the request/response class, as credits allow (R318). -/
def passSegment (s : State) (off : Nat) (last : Bool) (data : List Byte) : State :=
  if isPair s then (segParts off last data).foldl sendReq s else s

/-- The running IMAGE_LOAD fails with reason TRANSFER. -/
def failLoad (s : State) (x : XferEnt) : State := decideCmd s x.asn stREFUSED 0x1F 0 true

/-- BOOTOPT.LOAD acts: in BOOT with the key in MAINT or TEST (R389, R457). -/
def bootLoadOn (s : State) : Bool := s.mod.st == .boot && s.ul.optLoad && keyMaintOrTest s

/-! ### The lanes take bulk data in their idle time (R19, R318, R383) -/

/-- Data that a lane takes in a cycle: 8 KiB (R318, R383). -/
def bulkPerCycle : Nat := 8192

/-- What of the lane's front segment it takes now. -/
def bulkPiece (x : LaneSt) (b : BulkSeg) : List Byte := slice b.data x.bulkOff (bulkPerCycle - x.bulkCyc)

/-- With that piece the lane has taken the whole segment. -/
def bulkDone (x : LaneSt) (b : BulkSeg) : Bool := b.data.length ≤ x.bulkOff + (bulkPiece x b).length

/-- The lane passes over a piece; after the whole segment its slot is free. -/
def bulkPass (b : BulkSeg) (x : LaneSt) : LaneSt :=
  let n := (bulkPiece x b).length
  if bulkDone x b then { x with bulkIn := x.bulkIn.free, bulkOff := 0, bulkCyc := x.bulkCyc + n }
  else { x with bulkOff := x.bulkOff + n, bulkCyc := x.bulkCyc + n }

/-- The lane frees the slot of a segment that it does not take. -/
def bulkDrop (x : LaneSt) : LaneSt := { x with bulkIn := x.bulkIn.free, bulkOff := 0 }

/-- The lane takes a piece of an image segment into its LOADING shadow bank. -/
def bulkTake (b : BulkSeg) (x : LaneSt) : LaneSt :=
  bulkPass b (bankTake (bulkPiece x b) (xfrLast b.entry && bulkDone x b) x)

/-- The transfer entry of the running IMAGE_LOAD counts the bytes that every voting lane holds (R483). -/
def countLoad (s : State) : State :=
  match runningLoad (lead s).work, (voting s).map fun l => (shadowBank (s.lanes.get l).mram).size with
  | some (i, e), n :: r =>
    let m := r.foldl min n
    if m ≤ e.doneB then s else onLanes s (working s) fun _ x => workWrite x fun w => xferPut w i { e with doneB := m }
  | _, _ => s

/-- A lane goes on with a segment of the running IMAGE_LOAD. A voting lane ends the transfer where the entry's CRC is wrong or the
segment does not follow what it holds; the segment that the lane of reference has taken whole goes to the standby. -/
def loadStep (s : State) (l : Lane) (e : XferEnt) (b : BulkSeg) : State :=
  let x := s.lanes.get l
  let bank := shadowBank x.mram
  let drop := onLane s l bulkDrop
  let fail := if x.role == .voting then failLoad drop e else drop
  if !xfrCrcOk b.entry then fail
  else if xfrId b.entry != e.xfrId || bank.state != .loading || bank.full then drop
  else if x.bulkOff = 0 && !segFits b.entry b.data bank.size (loadSize e) then fail
  else
    let s1 := countLoad (onLane s l (bulkTake b))
    if bulkDone x b && l == refLane s then passSegment s1 (xfrOff b.entry) (xfrLast b.entry) b.data else s1

/-- A ready lane goes on with a segment of XFR_ID 0 in BOOT; OFFSET 0 starts the transfer anew, a segment that does not follow or
whose entry is damaged leaves the bank EMPTY. STORED_SIZE stands in the header already taken. -/
def bootStep (b : BulkSeg) (x : LaneSt) : LaneSt :=
  let y := if xfrOff b.entry = 0 && x.bulkOff = 0 then
      { x with mram := setShadow x.mram { state := .loading, mem := [], size := 0, img := none } } else x
  let bank := shadowBank y.mram
  if xfrCrcOk b.entry && bank.state == .loading && segLenOk b.entry b.data && (x.bulkOff != 0 || xfrOff b.entry == bank.size) then
    bulkTake b y
  else bulkDrop (unloadBank x)

/-- XFR_ID of injected input values (R383). -/
def injId : Nat := 0xFFFFFFFF

/-- A lane goes on with an injection segment, which it keeps once it has taken it whole. -/
def injectStep (b : BulkSeg) (x : LaneSt) : LaneSt :=
  if !xfrCrcOk b.entry then bulkDrop x
  else
    let y := bulkPass b x
    if bulkDone x b then { y with injSegs := y.injSegs ++ [b] } else y

/-- A lane goes on with the segment that leads its bulk inbound queue; one of no transfer leaves it. -/
def bulkStep (l : Lane) (s : State) : State :=
  let x := s.lanes.get l
  match x.bulkIn.items with
  | [] => s
  | b :: _ =>
    if xfrId b.entry = injId then onLane s l (injectStep b)
    else if isActive s then
      match runningLoad (lead s).work with
      | some (_, e) => loadStep s l e b
      | none => onLane s l bulkDrop
    else if bootLoadOn s && xfrId b.entry == 0 && readyLane s l then onLane s l (bootStep b)
    else onLane s l bulkDrop

/-- The hub writes the next waiting segment into a lane's queue as its credit comes back (R19). -/
def handBulk (l : Lane) (s : State) : State :=
  match s.host.bulkHand.get l with
  | [] => s
  | b :: r =>
    if (s.lanes.get l).bulkIn.credits = 0 then s
    else { (onLane s l fun x => { x with bulkIn := x.bulkIn.send b }) with host := { s.host with bulkHand := s.host.bulkHand.set l r } }

/-- A fetched segment goes into every lane's queue, or waits in the hub for a credit, behind what waits (R19). -/
def spreadBulk (s : State) (b : BulkSeg) : State :=
  Lane.all.foldl (fun s l => handBulk l { s with host := { s.host with bulkHand := s.host.bulkHand.set l (s.host.bulkHand.get l ++ [b]) } }) s

/-- The running IMAGE_LOAD has had a segment in this cycle: its 10 s run afresh (R318). -/
def loadArrived (s : State) (e : List Byte) : State :=
  match runningLoad (lead s).work with
  | some (i, x) =>
    if isActive s && xfrId e == x.xfrId then
      onLanes s (working s) fun _ y => workWrite y fun m => xferPut m i { x with lastc := s.cyc.k.toNat }
    else s
  | none => s

/-- The hub may fetch the next entry of XFRQ-IN: the ring has one, and not every lane still waits for a credit (R19, R290). -/
def bulkReady (s : State) : Bool :=
  ringServed s qXFRIN && ringHas s qXFRIN && Lane.all.any fun l => (s.host.bulkHand.get l).isEmpty

/-- The hub fetches an XFRQ-IN entry once, and the data it describes. -/
def fetchBulk (b : BulkSeg) (s : State) : State :=
  let r := qAt s qXFRIN
  let s1 := readHost (readHost s (entryAddr r qXFRIN r.idx) 64) (BitVec.ofNat 64 (fldLE b.entry 0x10 8)) b.data.length
  spreadBulk (ringConsume (loadArrived s1 b.entry) qXFRIN 1) b

/-! ### Injected input values (R383) -/

/-- The 8 B item of an injection segment. -/
def injItem (r : List Byte) : Injection :=
  let v := fldLE r 3 1
  { ref := BitVec.ofNat 24 (fldLE r 0 3), v := bitAt v 0,
    q := (match bitsAt v 2 1 with | 0 => .fresh | 1 => .stale | _ => .fault),
    ends := bitsAt v 2 1 == 3, from_ := BitVec.ofNat 32 (fldLE r 4 4) }

/-- An input listed in the endpoint map, reserved bits of IVAL 0. -/
def injItemOk (y : Yealm) (r : List Byte) : Bool :=
  let i := injItem r
  y.endpoints.any (fun e => e.ref == i.ref) && !isOutput y i.ref && bitsAt (fldLE r 3 1) 7 3 == 0

/-- The first item that refuses the whole segment; an entry outside TEST is refused at its first item. -/
def injBad (s : State) (y : Yealm) (data : List Byte) : Option Nat :=
  if !inTest s then some 0 else firstBad (records 8 data) (injItemOk y)

/-- An agreed segment of injected values, taken whole or refused with INJECT_REFUSED. -/
def injectAt (b : BulkSeg) (s : State) : State :=
  match theYealm s with
  | none => s
  | some y =>
    match injBad s y b.data with
    | some i => raiseShared s 0x0A86 (argOne ++ arg4 (xfrOff b.entry) ++ arg2 i)
    | none => { s with agr := { s.agr with inj := s.agr.inj ++ (records 8 b.data).map injItem } }

/-- The lanes agree the oldest segment that each of them has taken whole, by its CRC-32C, before use (R383). -/
def injectAgree (s : State) : State :=
  let ls := counted s
  let segs := ls.filterMap fun l => (s.lanes.get l).injSegs.head?
  if ls.isEmpty || segs.length < ls.length then s
  else
    let s1 := { s with lanes := s.lanes.map fun x => { x with injSegs := x.injSegs.drop 1 } }
    match agree2 (segs.map fun b => crc32c b.data) with
    | none => s1
    | some c => match segs.find? fun b => crc32c b.data == c with | some b => injectAt b s1 | none => s1

/-- The lanes go on with what leads their bulk inbound queues. -/
def bulkSteps (ls : List Lane) (s : State) : State := injectAgree (ls.foldl (fun s l => bulkStep l s) s)

/-- The lane that has freed a slot, or still has a segment to take, goes on (R17, R19). -/
def bulkReturn (l : Lane) (s : State) : State := handBulk l (bulkSteps [l] s)

/-! ### XFRQ_IN_SEGMENT -/

/-- XFRQ_IN_SEGMENT (R318, R389): the lanes begin with what leads their queues; each credit returned takes a lane on. -/
def execXfrqInSegment (entry data : List Byte) (s : State) : Host.Outcome State Fault Refusal :=
  .next (if bulkReady s && xfrId entry != injId then bulkSteps Lane.all (fetchBulk ⟨entry, data⟩ s) else s)

/-- Cycles in 10 s. -/
def cyclesPer10s (s : State) : Nat := 10000 / periodMs s

/-- TRANSFER_TIMEOUT (R318): no segment for 10 s while some are still to come. -/
def execTransferTimeout (s : State) : Host.Outcome State Fault Refusal :=
  .next (if hubUp s && isActive s then
    match runningLoad (lead s).work with
    | some (_, x) =>
      if x.doneB < loadSize x && x.lastc + cyclesPer10s s ≤ s.cyc.k.toNat then failLoad s x else s
    | none => s
    else s)

/-! ## YEALM_VERIFIED (R161, R163, R301, R389) -/

/-- Every voting lane holds the yealm of a CRC-64 VERIFIED in its shadow bank. -/
def votersHold (s : State) (crc : Nat) : Bool :=
  !(voting s).isEmpty && (voting s).all fun l =>
    let b := shadowBank (s.lanes.get l).mram
    b.state == .verified && (match b.img with | some y => y.crc64.toNat == crc | none => false)

/-- In a pair the standby's last BEAT reports it VERIFIED (R334). -/
def standbyHolds (s : State) (crc : Nat) : Bool :=
  !isPair s || (match s.peer.beat with | some b => b.shadowYcrc.toNat == crc && b.shadowSt == 2 | none => false)

/-- IMAGE_LOAD ends DONE once the voting lanes and the standby hold the yealm VERIFIED (R301). -/
def loadDone (s : State) : State :=
  match runningLoad (lead s).work with
  | some (_, x) => if isActive s && votersHold s (loadCrc x) && standbyHolds s (loadCrc x) then decideCmd s x.asn stDONE 0 0 true else s
  | none => s

/-- The checks of R161 refuse a yealm in a lane: the bank is EMPTY again, the IMAGE_LOAD ends REFUSED with the step. -/
def imageRefused (s : State) (l : Lane) (step : Nat) (t : Option (Nat × Nat)) : State :=
  let s1 := refuseImage (onLane s l unloadBank) l step t
  match runningLoad (lead s1).work with
  | some (_, x) => if isActive s1 then decideCmd s1 x.asn stREFUSED 0x1B step true else s1
  | none => s1

/-- The yealm stands VERIFIED in the lane's shadow bank; in BOOT that is reported (R389). -/
def imageHeld (s : State) (l : Lane) (y : Yealm) : State :=
  let s1 := onLane s l fun x => { x with mram := setShadow x.mram { shadowBank x.mram with state := .verified, img := some y, full := false } }
  if s1.mod.st == .boot then raiseLane s1 l 0x0483 (argLane l) else loadDone s1

/-- A lane ends the verification of the yealm in its shadow bank. -/
def yealmVerifiedAt (l : Lane) (s : State) : State :=
  let x := s.lanes.get l
  match verify l x.sw s.mod.boot.split (bankBytes (shadowBank x.mram)) with
  | .refused step t => imageRefused s l step t
  | .ok y =>
    match runningLoad (lead s).work with
    | some (_, e) =>
      if isActive s && y.crc64.toNat != loadCrc e then failLoad (onLane s l unloadBank) e else imageHeld s l y
    | none => imageHeld s l y

/-- YEALM_VERIFIED. -/
def execYealmVerified (l : Lane) (s : State) : Host.Outcome State Fault Refusal :=
  let b := shadowBank (s.lanes.get l).mram
  .next (if hubUp s && b.state == .loading && b.full then yealmVerifiedAt l s else s)

/-! ## YEALM_FETCH_COMPLETE (R105, R163) -/

/-- The lane the active yealm is fetched from: another one that holds it (R105: another one where there is one after a failed
fetch). -/
def fetchSource (s : State) (l : Lane) : Option Lane :=
  let ls := (counted s).filter fun d => d != l && holdsActive s d
  ls[(s.lanes.get l).fetchFails % max 1 ls.length]?

/-- Replace a lane's active bank; where none is ACTIVE it is bank 0. -/
def setActive (m : Mram) (b : Bank) : Mram := if m.bank1.state == .active then { m with bank1 := b } else { m with bank0 := b }

/-- A fetched yealm has arrived: verified under R161 it stands ACTIVE in the lane; after the third failure the rejoin fails. -/
def fetchDone (l src : Lane) (damage : List RWrite) (s : State) : State :=
  match activeBank (s.lanes.get src).mram with
  | none => s
  | some b =>
    let x := s.lanes.get l
    let mem := applyWrites b.mem damage
    let got : Bank := { state := .active, mem := mem, size := b.size, img := none }
    let fail (s : State) : State :=
      let s1 := onLane s l fun x => { x with fetchFails := x.fetchFails + 1, mram := setActive x.mram got }
      if 3 ≤ (s1.lanes.get l).fetchFails && s1.cyc.rejoiner == some l then decideExcl s1 l .rejoin [] else s1
    match verify l x.sw s.mod.boot.split (bankBytes got) with
    | .refused step t => fail (refuseImage s l step t)
    | .ok y =>
      if y.crc64 = s.mod.ycrc then
        onLane s l fun x => { x with fetchFails := 0, mram := setActive x.mram { got with img := some y } }
      else fail s

/-- YEALM_FETCH_COMPLETE: of a lane that does not hold the agreed active yealm. -/
def execYealmFetchComplete (l : Lane) (damage : List RWrite) (s : State) : Host.Outcome State Fault Refusal :=
  .next (if hubUp s && s.mod.boot.agreed && !holdsActive s l && (s.lanes.get l).role != .retired then
    match fetchSource s l with
    | some src => fetchDone l src damage s
    | none => s
    else s)

/-! ## JOURNAL_READ_SEGMENT (R318) -/

/-- The bytes of a journal record (R168); its head's layout is not given. -/
def jrecBytes (cycle : DWord) (r : JRec) : List Byte :=
  let rec_ (kind : Nat) (body : List Byte) : List Byte := (Config.jHead kind cycle body ++ zeros 16).take 16 ++ body
  match r with
  | .delta ws => rec_ 0 (ws.flatMap fun w => leBytes 4 w.1 ++ leBytes 8 w.2.toNat)
  | .command d asn => rec_ 1 (d ++ leBytes 8 asn.toNat)
  | .accept asn => rec_ 2 (leBytes 8 asn.toNat)
  | .terminal asn st => rec_ 3 (leBytes 8 asn.toNat ++ [st])
  | .event c d v => rec_ 4 (Config.jEvent c d v)
  | .close dg => rec_ 5 (leBytes 8 cycle.toNat ++ leBytes 8 dg.toNat)

/-- A boot record as bytes, with the states of the banks and its start-up record (R162, R409). -/
def bootRecBytes (m : Mram) (b : BootRec) : List Byte :=
  Config.bootBytes b.gen b.asnMark b.epoch b.bbIndex b.remaps (b.colds, b.activated) (m.bank0.state.code, m.bank1.state.code) ++
    (match b.start with | some r => startBytes r ++ leBytes 4 r.crc.toNat | none => [])

/-- What a JOURNAL_READ reads of a lane (R302): its journal from a cycle, its black box from an index, or its boot record. -/
def readContent (m : Mram) (src first : Nat) : List Byte :=
  if src = 0 then
    (m.journal.filter fun g => first ≤ g.cycle.toNat).flatMap fun g => g.recs.flatMap (jrecBytes g.cycle)
  else if src = 1 then (m.blackbox.filter fun r => first ≤ r.seq.toNat).flatMap recBytes
  else bootRecBytes m (bootCur m)

/-- The XFRQ-OUT entry of a segment (R318). -/
def outEntry (id off len flags : Nat) (addr : DWord) (data : List Byte) : List Byte :=
  leBytes 4 id ++ leBytes 4 off ++ leBytes 4 len ++ leBytes 4 flags ++ leBytes 8 addr.toNat ++ zeros 36 ++ leBytes 4 (crc32c data).toNat

/-- The next segment of a JOURNAL_READ: at most 64 KiB, posted to the host buffer, its entry in the bulk outbound queue. -/
def readSegment (s : State) (l : Lane) (i : Nat) (x : XferEnt) : State :=
  let all := readContent (s.lanes.get l).mram (fldLE x.param 1 1) (fldLE x.param 16 4)
  let cut := all.take (fldLE x.param 4 4)
  let data := slice cut x.doneB 65536
  let last := cut.length ≤ x.doneB + data.length
  let trunc := last && cut.length < all.length
  let addr := BitVec.ofNat 64 (fldLE x.param 8 8 + x.doneB)
  let entry := outEntry x.xfrId x.doneB data.length (ofFlag last + 2 * ofFlag trunc) addr data
  let s1 := postData s addr data
  let s2 := { s1 with host := { s1.host with bulkOut := s1.host.bulkOut.send entry } }
  bulkLeave (onLanes s2 (working s2) fun _ y => workWrite y fun m =>
    xferPut m i { x with doneB := x.doneB + data.length, lastc := s.cyc.k.toNat })

/-- A running JOURNAL_READ of a lane that has not handed over its last entry. -/
def runningRead (s : State) (l : Lane) : Option (Nat × XferEnt) :=
  let m := (lead s).work
  ((xferSlots m).find? fun i => (xferAt m i).opcode == 0x15 && fldLE (xferAt m i).param 0 1 == l.num &&
    !s.host.bulkOut.items.any (fun e => xfrId e == (xferAt m i).xfrId && xfrLast e) &&
    !(lead s).verdicts.any (fun v => v.asn.toNat == (xferAt m i).asn)).map fun i => (i, xferAt m i)

/-- JOURNAL_READ_SEGMENT: through the named lane only, when XFRQ-OUT and the bulk outbound queue have room. -/
def execJournalReadSegment (l : Lane) (s : State) : Host.Outcome State Fault Refusal :=
  .next (if isActive s && ringCan s qXFROUT && s.host.bulkOut.credits != 0 && (s.lanes.get l).role != .retired &&
      !(s.lanes.get l).stopped then
    match runningRead s l with
    | some (i, x) => readSegment s l i x
    | none => s
    else s)

/-! ## INPUT_INJECTION_SEGMENT (R383) -/

/-- INPUT_INJECTION_SEGMENT: an XFRQ-IN entry with XFR_ID 0xFFFF_FFFF. -/
def execInputInjectionSegment (entry data : List Byte) (s : State) : Host.Outcome State Fault Refusal :=
  .next (if bulkReady s && xfrId entry == injId then bulkSteps Lane.all (fetchBulk ⟨entry, data⟩ s) else s)

/-! ## The boundary of an online exchange (R181, R182) -/

/-- Routes with bit b of their state byte set. -/
def routesSet (y : Yealm) (m : Mem) (b : Nat) : List RouteRec := y.truss.routes.filter fun r => (memByte m r.rsOff).getLsbD b

/-- Check 1 of R182 passes: every locked route's RS_ID is a U8 of the new directory. -/
def exchCheck1 (old new : Yealm) (m : Mem) : Bool :=
  (routesSet old m 1).all fun r => new.dir.any fun d => d.id == r.rsId && d.type == 2

/-- Objects a route names: its entry and every element. -/
def routeObjs (r : RouteRec) : List Nat := r.entry :: (r.path ++ r.flank ++ r.overlap).map (·.obj)

/-- A point or signal keeps its type, slots, INV and OUTMASK in the new object map. -/
def objKept (old new : Yealm) (o : Nat) : Bool :=
  let a := objAt old.truss o
  if a.type = 1 || a.type = 2 then
    match old.objMap[o]? with
    | none => false
    | some e =>
      match findIdxVal (fun n : ObjMapEnt => n.objId == e.objId) 0 new.objMap with
      | none => false
      | some (i, n) =>
        n.type == e.type && n.nep == e.nep && n.slots == e.slots && n.outmask == e.outmask && (objAt new.truss i).inv == a.inv
  else true

/-- Check 2 of R182 passes. -/
def exchCheck2 (old new : Yealm) (m : Mem) : Bool :=
  old.truss.routes.all fun r =>
    if (memByte m r.rsOff).getLsbD 0 || (memByte m r.rsOff).getLsbD 1 then (routeObjs r).all (objKept old new) else true

/-- The boundary refuses the exchange: reason and DATA. Key position and SW17 are tested again (R180, R381). -/
def boundaryRefuse (s : State) : Option (Nat × Nat) :=
  let x := lead s
  if s.mod.st == .hold || tKey s 0x12 != none then some (0x10, 0)
  else if tSwitch s 0x12 != none then some (0x11, 0)
  else
    match x.yealm, nextYealm s with
    | some old, some new =>
      if !exchCheck1 old new x.region then some (0x1C, 1)
      else if !exchCheck2 old new x.region then some (0x1C, 2)
      else none
    | _, _ => some (0x1D, 0)

/-- The boundary: refused, or the copy begins and the diagnostic task does not run. -/
def exchBoundaryAt (s : State) : State :=
  match boundaryRefuse s with
  | some (r, d) => decideCmd s (rgExchAsn (lead s).work) stREFUSED r d true
  | none => { s with mod := { s.mod with exch := .copying }, cyc := { s.cyc with noDiag := true } }

/-- EXCHANGE_BOUNDARY: at the completed vote of cycle X - 1. -/
def execExchangeBoundary (s : State) : Host.Outcome State Fault Refusal :=
  .next (if hubUp s && s.mod.st.runs && s.cyc.voted && s.mod.exch == .idle && rgExchX (lead s).work != 0 && exchDueNext s &&
      !(lead s).verdicts.any (fun v => v.asn.toNat == rgExchAsn (lead s).work) then
    exchBoundaryAt s else s)

/-- Build the mapped region of a voting lane (R183). -/
def mapLane (x : LaneSt) : LaneSt :=
  match x.yealm, (shadowBank x.mram).img with
  | some old, some new => { x with mapped := some (mapRegion old new x.region) }
  | _, _ => x

/-- Check 3 of R182 on the copy of every voting lane; where it fails in any, the old yealm is reloaded in all. -/
def exchCopyAt (copyBad : Quad Bool) (s : State) : State :=
  if (voting s).any fun l => copyBad.get l then
    decideCmd { s with mod := { s.mod with exch := .reloading } } (rgExchAsn (lead s).work) stREFUSED 0x1C 3 true
  else { (onLanes s (voting s) fun _ x => mapLane x) with mod := { s.mod with exch := .ready } }

/-- EXCHANGE_COPY_COMPLETE. -/
def execExchangeCopyComplete (copyBad : Quad Bool) (s : State) : Host.Outcome State Fault Refusal :=
  .next (if hubUp s && s.mod.exch == .copying then exchCopyAt copyBad s else s)

/-- EXCHANGE_RELOAD_COMPLETE: the old yealm stands in SRAM again. -/
def execExchangeReloadComplete (s : State) : Host.Outcome State Fault Refusal :=
  .next (if hubUp s && s.mod.exch == .reloading then { s with mod := { s.mod with exch := .idle } } else s)

end Sys2Proof.Machine
end

