-- ==== Sys2Proof/Machine/Repair.lean ====
section
/-! DEFINITION. Memory errors, spares and retirement (R398 to R408): what BIST and the memories in service share. -/

namespace Sys2Proof.Machine

/-! ## Retirement (R98, R99, R408) -/

/-- Lanes that are not retired. -/
def aliveLanes (s : State) : List Lane := lanesWith s.lanes fun x => x.role != .retired

/-- In BOOT fewer than two lanes are left: SAFE STOP with LANES_LOST (R387). -/
def bootFew (s : State) : State :=
  if s.mod.st == .boot && (aliveLanes s).length < 2 then enterSafeStop (raiseShared s 0x0209 []) else s

/-- A lane with a failure beyond repair is retired; exhausted spares make that permanent and blow its retirement fuse. -/
def retireLane (s : State) (l : Lane) (exhausted : Bool) : State :=
  let s1 := onLane s l fun x =>
    let y := retire (voidRecord x)
    { y with retFuse := x.retFuse || exhausted, bist := { y.bist with failed := true, lastPass := false } }
  let s2 := { s1 with cyc := { s1.cyc with toExcl := s1.cyc.toExcl.set l none,
                                           rejoiner := if s1.cyc.rejoiner = some l then none else s1.cyc.rejoiner,
                                           joinNext := s1.cyc.joinNext && s1.cyc.rejoiner != some l } }
  bootFew (redrain (raiseLane s2 l 0x0B03 (argLane l ++ arg1 (ofFlag exhausted))))

/-! ## Spare sectors (R406, R407) -/

/-- First spare sector of a bank: those behind every area of R162. -/
def firstSpare : Nat := 3882

/-- SPARES_LOW when a count falls below its limit (R407). -/
def sparesLow (s : State) (who before after limit : Nat) (hub : Bool) : State :=
  if limit ≤ before && after < limit then
    (if hub then raiseHub s 0x0B02 (argInst (arg1 who)) else raiseLane s (Lane.ofNum who) 0x0B02 (argInst (arg1 who)))
  else s

/-- Record a remap in both boot record copies. -/
def remapBoth (m : Mram) (sector spare : Nat) : Mram :=
  let f (b : BootRec) : BootRec := { b with remaps := b.remaps ++ [(sector, spare)] }
  bootWrite (bootWrite m f) id

/-- Remap a sector to the lowest free spare: MRAM_REMAP, VOID in the record (R410). Without a spare the lane is retired. -/
def remapSector (s : State) (l : Lane) (sector : Nat) : State :=
  let m := (s.lanes.get l).mram
  let free := sectFree m
  if free = 0 then retireLane s l true
  else
    let spare := firstSpare + (bootCur m).remaps.length
    let s1 := onLane s l fun x =>
      voidRecord { x with mram := { (remapBoth x.mram sector spare) with corr := x.mram.corr.filter fun c => c.1 != sector } }
    let s2 := raiseLane s1 l 0x0B84 (argLane l ++ arg2 sector)
    sparesLow s2 l.num free (sectFree (s2.lanes.get l).mram) 54 false

/-- The sector of an area that a sector stands for: a spare in use holds what was remapped to it. -/
def areaSector (m : Mram) (sector : Nat) : Nat :=
  match (bootCur m).remaps.find? fun r => r.2 == sector with
  | some r => r.1
  | none => sector

/-! ## Lost content (R405) -/

/-- Groups of the journal that have a byte in sector n of its area. -/
def groupsIn (m : Mram) (n : Nat) : List JGroup :=
  let rec go (pos : Nat) : List JGroup → List JGroup
    | [] => []
    | g :: r =>
      let z := groupSize g
      let a := pos % journalBytes
      let hit := (a < 4096 * (n + 1) && 4096 * n < a + z) || 4096 * n + journalBytes < a + z
      if hit then g :: go (pos + z) r else go (pos + z) r
  go m.jPos m.journal

/-- Black box records of sector n of its area: 64 slots of 64 B. -/
def boxIn (m : Mram) (n : Nat) : List GRec := m.blackbox.filter fun r => r.seq.toNat % 4096 / 64 == n

/-- A bank that lost a sector: an ACTIVE one holds no verified yealm any more and fetches it, another one is EMPTY. -/
def bankLost (b : Bank) (n : Nat) : Bank :=
  if b.state == .active then { b with mem := memClear b.mem (4096 * n) 4096, img := none }
  else { b with state := .empty, mem := [], size := 0, img := none, full := false }

/-- What the loss of a sector's content does, by its area (R162, R405). -/
def loseSector (m : Mram) (n : Nat) : Mram :=
  if n < 2 then { m with boot := { m.boot with a := none } }
  else if n < 4 then { m with boot := { m.boot with b := none } }
  else if n < 6 then { m with maps := { m.maps with a := none } }
  else if n < 8 then { m with maps := { m.maps with b := none } }
  else if n < 1544 then { m with bank0 := bankLost m.bank0 (n - 8) }
  else if n < 3080 then { m with bank1 := bankLost m.bank1 (n - 1544) }
  else if n < 3337 then { m with snaps := { m.snaps with a := m.snaps.a.map fun x => { x with complete := false } } }
  else if n < 3594 then { m with snaps := { m.snaps with b := m.snaps.b.map fun x => { x with complete := false } } }
  else if n < 3818 then
    let bad := groupsIn m (n - 3594)
    { m with journal := m.journal.map fun g => if bad.contains g then { g with closed := false } else g }
  else if n < 3882 then { m with blackbox := m.blackbox.filter fun r => !(boxIn m (n - 3818)).contains r }
  else m

/-- BLACKBOX_LOSS: an EVENT whose COUNT is the number of records lost (R416). -/
def boxLoss (s : State) (l : Lane) (count : Nat) : State :=
  if count = 0 then s else gutPut s { mkRec s 0x0186 1 4 0 (laneMask [l]) (argLane l) with count := count }

/-! ## MRAM commands (R405, R406) -/

/-- MRAM_WRITE_FAULT: the data goes to the spare sector. -/
def execMramWriteFault (l : Lane) (sector : Nat) (s : State) : Host.Outcome State Fault Refusal :=
  .next (if hubUp s && (s.lanes.get l).role != .retired then remapSector s l sector else s)

/-- An uncorrectable read: the content is lost, the sector remapped, the record VOID. -/
def sectorLost (l : Lane) (sector : Nat) (s : State) : State :=
  let m := (s.lanes.get l).mram
  let n := areaSector m sector
  let lost := if 3818 ≤ n && n < 3882 then (boxIn m (n - 3818)).length else 0
  let s1 := onLane s l fun x => { x with mram := loseSector x.mram n }
  boxLoss (remapSector s1 l sector) l lost

/-- MRAM_UNCORRECTABLE_READ. -/
def execMramUncorrectableRead (l : Lane) (sector : Nat) (s : State) : Host.Outcome State Fault Refusal :=
  .next (if hubUp s && (s.lanes.get l).role != .retired then sectorLost l sector s else s)

/-- Corrected reads of a sector within 24 h. -/
def corrCount (now : DWord) (m : Mram) (sector : Nat) : Nat :=
  (within24 now ((m.corr.filter fun c => c.1 == sector).map (·.2))).length

/-- A corrected read is counted; the ninth within 24 h remaps the sector. -/
def sectorCorrected (l : Lane) (sector : Nat) (s : State) : State :=
  let now := s.time.supUs
  let s1 := onLane s l fun x => { x with mram := { x.mram with corr := x.mram.corr ++ [(sector, now)] } }
  if 8 < corrCount now (s1.lanes.get l).mram sector then remapSector s1 l sector else s1

/-- MRAM_CORRECTED_READ. -/
def execMramCorrectedRead (l : Lane) (sector : Nat) (s : State) : Host.Outcome State Fault Refusal :=
  .next (if hubUp s && (s.lanes.get l).role != .retired then sectorCorrected l sector s else s)

/-! ## SRAM in service (R404) -/

/-- A single-bit error is corrected and counted against its row; the fourth within 24 h makes the row suspect. -/
def rowCorrected (now : DWord) (row : Nat) (x : LaneSt) : LaneSt :=
  let e := x.bist.ecc ++ [(row, now)]
  let n := (within24 now ((e.filter fun c => c.1 == row).map (·.2))).length
  { x with bist := { x.bist with ecc := e, suspect := if 4 ≤ n && !x.bist.suspect.contains row then x.bist.suspect ++ [row] else x.bist.suspect } }

/-- ECC_CORRECTED. -/
def execEccCorrected (l : Lane) (row : Nat) (s : State) : Host.Outcome State Fault Refusal :=
  .next (if hubUp s && (s.lanes.get l).role != .retired then onLane s l (rowCorrected s.time.supUs row) else s)

/-- A voting lane withholds its next ballot (R404, R479). -/
def withholdVoter (x : LaneSt) : LaneSt := if x.role == .voting then { x with withhold := true } else x

/-- ECC_UNCORRECTABLE. -/
def execEccUncorrectable (l : Lane) (s : State) : Host.Outcome State Fault Refusal :=
  .next (if hubUp s then onLane s l withholdVoter else s)

/-- SRAM_SCRUB: once every 100 000 completed cycles a voting lane reads every word. -/
def execSramScrub (l : Lane) (corrected : List Nat) (uncorrectable : Bool) (s : State) : Host.Outcome State Fault Refusal :=
  .next (if hubUp s && s.cyc.done != 0 && s.cyc.done % 100000 == 0 && (s.lanes.get l).role == .voting then
    onLane s l fun x =>
      let y := corrected.foldl (fun x r => rowCorrected s.time.supUs r x) x
      if uncorrectable then withholdVoter y else y
    else s)

/-- HUB_SRAM_SCRUB (R398): once a second; what it finds reaches the lanes only through the codes the lanes check. -/
def execHubSramScrub (uncorrectable : Bool) (s : State) : Host.Outcome State Fault Refusal :=
  .next (if hubUp s then
    { s with hub := { s.hub with scrubs := s.hub.scrubs + 1, scrubBad := s.hub.scrubBad + ofFlag uncorrectable } } else s)

/-! ## JUNCTION_OVERTEMP (R479) -/

/-- The hub stops: it is held in reset, and the Underlay's watchdog expires (R15, R479). Each lane writes HUB_WATCHDOG into its
black box, and the module enters SAFE STOP. -/
def hubStops (s : State) : State :=
  let s1 := { s with lanes := s.lanes.mapL fun l (x : LaneSt) =>
    if x.role == Role.retired then x else boxWritten (mkRec s 0x0105 0 2 0 (laneMask [l]) []) x }
  let s2 := { s1 with ul := { s1.ul with wdog := true } }
  match s2.mod.st with
  | .vital | .vitalRestricted | .hold | .standby | .indicate => enterSafeStop s2
  | .boot => if s2.peer.held then enterSafeStop s2 else s2
  | .off | .safeStop | .split => s2

/-- JUNCTION_OVERTEMP. -/
def execJunctionOvertemp (u : BistUnit) (s : State) : Host.Outcome State Fault Refusal :=
  .next (if hubUp s then
    match u with
    | .lane l => onLane s l withholdVoter
    | .hub =>
      let t := hubStops s
      { t with ul := { t.ul with hubHeld := true } }
    else s)

/-- HUB_WATCHDOG (R15): the hub has not served the Underlay's watchdog within 2 ms. -/
def execHubWatchdog (s : State) : Host.Outcome State Fault Refusal :=
  .next (if s.mod.st != .off && !s.ul.wdog then hubStops s else s)

end Sys2Proof.Machine
end

