-- ==== Sys2Proof/Machine/Inject.lean ====
section
/-! DEFINITION. Difference injection (R110): the ten injections, the patterns that the injection generators of the other lanes
forge, and the detectors of the lane under test, which must trip on every one. -/

namespace Sys2Proof.Machine

/-- The injections, in the order of the table. -/
inductive Inject where
  | leadOut | trailIn | peerImage | majOff | majOn | peerDigest | peerSummary | planes | badCode | report
  deriving DecidableEq, Repr

/-- All of them. -/
def Inject.all : List Inject :=
  [.leadOut, .trailIn, .peerImage, .majOff, .majOn, .peerDigest, .peerSummary, .planes, .badCode, .report]

/-- The injection that a slice of group 9 runs: its twenty slices take the ten in the order of the table, two to each
(R395; DESIGN CHOICE, log entry 86). -/
def Inject.ofSlice (i : Nat) : Option Inject := if i < 780 then none else Inject.all[(i - 780) / 2]?

/-- The injection flips bits of the lane's own delay registers; every other takes forged items from other lanes. -/
def Inject.own : Inject → Bool
  | .leadOut | .trailIn => true
  | .peerImage | .majOff | .majOn | .peerDigest | .peerSummary | .planes | .badCode | .report => false

/-- Forged items are accepted by a lane in role RESTING or EXCLUDED, by one in role OFF at start-up, and by any lane during a
shutdown pass; a lane in any other role discards them. -/
def acceptsInject (s : State) (x : LaneSt) : Bool :=
  s.mod.shutPass || (match x.role with
    | .resting | .excluded => true
    | .off => !s.mod.st.runs
    | .voting | .copy | .shadow | .halted | .retired => false)

/-- The generators in the source lanes' fabric ports put their forged items, tagged INJECT, into the link buffers of the lane under
test (R18, R110). -/
def forgeItems (s : State) (l : Lane) (srcs : List Lane) : State :=
  onLane s l fun x => srcs.foldl (fun x a => { x with purlin := x.purlin.modify a fun q => q.send ⟨s.cyc.k, .inject⟩ }) x

/-- The lane has taken them, or its role has changed and it discards them. -/
def injectTaken (x : LaneSt) : LaneSt :=
  { x with purlin := x.purlin.map fun q => q.freeWhere fun f => f.kind == .inject }

/-! ## Patterns and detectors -/

/-- The own ballot that the patterns are forged against: `n` endpoints, every bit alike. -/
def ownBallot (n : Nat) (on : Bool) : Ballot :=
  { k := 0, outs := List.replicate n { ref := 0, cmd := on, hold := on }, eaves := if on then BitVec.allOnes 32 else 0,
    gm := if on then 3 else 0, digest := 0, summary := 0, shadow := false }

/-- A ballot with one bit of its output image inverted. -/
def flipBit (b : Ballot) (i : Nat) : Ballot :=
  let n := 2 * b.outs.length
  if i < n then
    { b with outs := (enumFrom0 b.outs).map fun o =>
        if o.1 ≠ i / 2 then o.2 else if i % 2 = 0 then { o.2 with cmd := !o.2.cmd } else { o.2 with hold := !o.2.hold } }
  else if i < n + 32 then { b with eaves := b.eaves ^^^ BitVec.ofNat 32 (2 ^ (i - n)) }
  else { b with gm := b.gm ^^^ BitVec.ofNat 2 (2 ^ (i - n - 32)) }

/-- Comparator positions of an output image of n endpoints. -/
def imagePositions (n : Nat) : List Nat := List.range (2 * n + 34)

/-- The vote of the lane under test on its own ballot and two equal forged ones, compared with its own. -/
def forgedVote (own forged : Ballot) : Option ExclCause :=
  match majority [own, forged, forged] with
  | some m => (ballotFault m own).map (·.1)
  | none => none

/-- The output bits that the drive gate lets through: own and majority (R93). -/
def gatedBits (own forged : Ballot) : List Bool :=
  match majority [own, forged, forged] with
  | some m => ballotBits (driveOuts own.outs m.outs) (own.eaves &&& m.eaves) (own.gm &&& m.gm)
  | none => ballotBits own.outs own.eaves own.gm

/-- The node, slot and section that plane and code patterns are forged for. -/
def forgedNode : NodeEnt := { nodeId := 1, connId := 1, holdT := 20, lage := 3 }
/-- A valid G section for the cycle and epoch. -/
def forgedSection (k epoch : Word) (d : Byte) : List Byte :=
  let body := [0x01#8, 0] ++ zeros 6 ++ [d] ++ zeros 39 ++ beBytes 4 k.toNat
  body ++ beBytes 4 (sectCrc body forgedNode.connId epoch).toNat
/-- A section in a slot as the safety code check reads it. -/
def forgedSlot (s : State) (sec : List Byte) : RingSlot :=
  { ring := .r1, plane := .A, pos := 0, atNs := 0,
    hdr := frameHdr ftG 1 0 0 0 1 0 0 s.peer.epoch.toNat s.cyc.k.toNat 0 0, sec := sec }

/-- The code of a section with one bit inverted. -/
def flipCode (sec : List Byte) (i : Nat) : List Byte :=
  sec.take (52 + i / 8) ++ [sec.getD (52 + i / 8) 0 ^^^ BitVec.ofNat 8 (2 ^ (i % 8))] ++ sec.drop (53 + i / 8)

/-- The lane's own report: it holds no copy. -/
def ownReport : SecReport := ⟨.absent, zeros 8, []⟩
/-- The forged report: the section used. -/
def forgedReport (s : State) : SecReport :=
  let x := forgedSection (s.cyc.k.setWidth 32) s.peer.epoch 0x55
  ⟨.usedBoth, secCode x, x⟩

/-- The detector named in the table trips on every pattern of the injection. The comparators of the core pair and its registers are
hardware of their own: whether they trip is the slice's result. -/
def Inject.trips (s : State) (i : Inject) : Bool :=
  let n := match theYealm s with | some y => (y.endpoints.filter fun e => !refLocal e.ref).length | none => 0
  let off := ownBallot n false
  let on := ownBallot n true
  let k := s.cyc.k.setWidth 32
  let sec := forgedSection k s.peer.epoch 0x55
  match i with
  | .leadOut | .trailIn => true
  | .peerImage => (imagePositions n).all fun b => forgedVote off (flipBit off b) == some .output
  | .majOff => !(gatedBits on off).contains true
  | .majOn => !(gatedBits off on).contains true
  | .peerDigest => (List.range 64).all fun b => forgedVote off { off with digest := BitVec.ofNat 64 (2 ^ b) } == some .digest
  | .peerSummary => (List.range 64).all fun b => forgedVote off { off with summary := BitVec.ofNat 64 (2 ^ b) } == some .truss
  | .planes => (decide2 (some sec) (some (forgedSection k s.peer.epoch 0xAA))).dec == .discarded
  | .badCode => (List.range 32).all fun b => !validCopy ftG 0x01 s.cyc.k s.peer.epoch forgedNode (forgedSlot s (flipCode sec b))
  | .report =>
    let g := agreeSec [ownReport, forgedReport s, forgedReport s]
    (adoptLane g (ownReport) false false ({} : LaneSt)).adopted == 1

/-- The result of a slice of the injection set: the lane's circuits answered, and the detector trips. -/
def injectPassed (s : State) (slice : Nat) : Bool :=
  match Inject.ofSlice slice with
  | some i => i.trips s
  | none => true

end Sys2Proof.Machine
end

