-- ==== Sys2Proof/Machine/Lanes.lean ====
section
/-! DEFINITION. What happens to a lane by itself: lockstep (R79), debug halt (R113 to R115), rotation (R101), the retained-state
copy (R105), and its self-test slices (R394 to R399). -/

namespace Sys2Proof.Machine

/-! ## Lockstep (R79, R96) -/

/-- A slice of the core pair or an injection into its delay registers runs: a comparator trip is its result (R79, R110). -/
def tripWanted (x : LaneSt) : Bool :=
  x.bist.running && (sliceGroup x.bist.slice == 3 || (match Inject.ofSlice x.bist.slice with | some i => i.own | none => false))

/-- The core pair runs in lockstep, and nothing provokes the trip on purpose (R79). -/
def lockstepLive (s : State) (x : LaneSt) : Bool :=
  (x.role == .voting || x.role == .resting || x.role == .copy || x.role == .shadow) && !x.stopped && s.mod.st != .split && !tripWanted x

/-- The lane stops at once: clocks gated, Batten transmitter silent, a STOP flit to each other lane, and the recorder writes
LOCKSTEP_MISMATCH into its own black box. -/
def lockstepAt (l : Lane) (clk : Word) (s : State) : State :=
  let r := mkRec s 0x0201 0 3 0 (laneMask [l]) (argLane l ++ arg8 s.cyc.k.toNat ++ arg4 clk.toNat)
  flitSent (onLane s l fun x => boxWritten r { (blockMram x) with stopped := true, clocksOn := false, txBuf := [] }) l .stop

/-- LOCKSTEP_MISMATCH. -/
def execLockstepMismatch (l : Lane) (clk : Word) (s : State) : Host.Outcome State Fault Refusal :=
  .next (if hubUp s && lockstepLive s (s.lanes.get l) then lockstepAt l clk s else s)

/-- The other lanes see the STOP flit: the lane is excluded at the next common instant (R96). -/
def stopFlitAt (src : Lane) (s : State) : State :=
  let s1 := flitTaken { s with cyc := { s.cyc with stops := s.cyc.stops.set src true } } src .stop
  decideExcl s1 src .lockstep []

/-- STOP_FLIT. -/
def execStopFlit (src : Lane) (s : State) : Host.Outcome State Fault Refusal :=
  .next (if hubUp s && (s.lanes.get src).stopped && !s.cyc.stops.get src then stopFlitAt src s else s)

/-! ## Debug (R113 to R115) -/

/-- A halt request is accepted: in TEST for any lane, in MAINT for a resting lane only. -/
def haltAllowed (s : State) (x : LaneSt) : Bool :=
  let p := keyForCommands s
  x.role.healthy && !x.haltReq && (p == some .test || (p == some .maint && x.role == .resting))

/-- DEBUG_HALT: both cores stop at once; a resting lane abandons its slice (R397); HALTED at the next common instant. -/
def execDebugHalt (l : Lane) (s : State) : Host.Outcome State Fault Refusal :=
  .next (if hubUp s && haltAllowed s (s.lanes.get l) then
    onLane s l fun x => { (abandonSlice x) with haltReq := true, clocksOn := false } else s)

/-- DEBUG_RELEASE: a halted lane returns through EXCLUDED. -/
def execDebugRelease (l : Lane) (s : State) : Host.Outcome State Fault Refusal :=
  .next (if hubUp s && (s.lanes.get l).role == .halted then onLane s l releaseHalted else s)

/-! ## Rotation (R101) -/

/-- The rotation period in completed cycles. -/
def rotationCycles (y : Yealm) : Nat := y.rotHours * 3600000 / y.periodMs

/-- ROTATION_DUE: that many completed cycles since the last join, with SW18 on and MODE 0b01. -/
def execRotationDue (s : State) : Host.Outcome State Fault Refusal :=
  .next (if hubUp s then
    match theYealm s with
    | some y => if swOn s 18 && s.cyc.mode == .tooThree && rotationCycles y ≤ s.cyc.sinceJoin then
        { s with cyc := { s.cyc with rotDue := true } } else s
    | none => s
    else s)

/-! ## The retained-state copy (R104, R105) -/

/-- The lanes that send the copy: two voting lanes; in the boot roles a lane whose copy is verified (R390). -/
def copySources (s : State) : List Lane :=
  if s.mod.boot.b.isSome then lanesWith s.lanes fun x => x.role == .copy && x.copied else voting s

/-- The lane has taken the copy: the region, the runtime's pending writes, the output image and the decisions in progress. -/
def takeCopy (src : LaneSt) (y : Yealm) (m : Mem) (x : LaneSt) : LaneSt :=
  { x with
    copied := true, copyFails := 0, yealm := some y, region := m, work := src.work, digest := digestWhole (regionWords y) m,
    descs := src.descs, log := [], verdicts := src.verdicts.filter (·.keep), pub := src.pub, pubNew := [], gmPub := src.gmPub, gmNew := none, truss := {},
    inds := src.inds, unwritten := src.unwritten, answers := src.answers, todo := [], snaps := [], ballot := none, mapped := none }

/-- A copy attempt failed: repeated in the next completed cycle, after the third the rejoin fails. -/
def copyFailed (s : State) (l : Lane) : State :=
  let s1 := onLane s l fun x => { x with copyFails := x.copyFails + 1 }
  if 3 ≤ (s1.lanes.get l).copyFails then decideExcl s1 l .rejoin [] else s1

/-- Both copies have arrived: identical word for word, with the majority digest of cycle c, and the yealm in the lane's own
active bank. -/
def copyReceived (l : Lane) (damage1 damage2 : List RWrite) (s : State) : State :=
  match copySources s, activeImage (s.lanes.get l).mram with
  | a :: r, some y =>
    let b := r.headD a
    let m1 := applyWrites (s.lanes.get a).region damage1
    let m2 := applyWrites (s.lanes.get b).region damage2
    if m1 = m2 && digestWhole (regionWords y) m1 = s.cyc.majDigest && y.crc64 = s.mod.ycrc then
      onLane s l (takeCopy (s.lanes.get a) y m1)
    else copyFailed s l
  | _, _ => copyFailed s l

/-- RETAINED_STATE_COPY_RECEIVED. -/
def execRetainedStateCopyReceived (l : Lane) (damage1 damage2 : List RWrite) (s : State) : Host.Outcome State Fault Refusal :=
  .next (if hubUp s && s.cyc.copyNow && (s.lanes.get l).role == .copy && !(s.lanes.get l).copied then
    copyReceived l damage1 damage2 { s with cyc := { s.cyc with copyNow := s.mod.boot.b.isSome } } else s)

end Sys2Proof.Machine
end

