-- ==== Sys2Proof/Machine/Bist.lean ====
section
/-! DEFINITION. Slices of the self-test (R394 to R400): start, end, re-initialisation, what a pass leads to. -/

namespace Sys2Proof.Machine

/-- How a unit is named in a record: lane 0 to 3, or 4 for the hub. -/
def unitNum : BistUnit → Nat
  | .lane l => l.num
  | .hub => 4

/-- Raise a self-test record about a unit. -/
def raiseUnit (s : State) (u : BistUnit) (code : Nat) (args : List Byte) : State :=
  match u with
  | .lane l => raiseLane s l code (argLane l ++ args)
  | .hub => raiseHub s code (argInst (arg1 4) ++ args)

/-! ## Spares (R400, R403) -/

/-- The lowest free spare row of a bank. -/
def freeRow (ents : List RepEnt) (bank : Nat) : Option Nat :=
  (List.range 4).find? fun i => !ents.any fun e => e.bank == bank && !e.col && e.spare == i

/-- A spare for a failing element; none when its bank has none left. -/
def giveSpare (cycle : DWord) (col : Bool) (ents : List RepEnt) (f : Nat × Nat) : Option (List RepEnt) :=
  let mk (spare : Nat) : RepEnt :=
    { bank := f.1, col := col, spare := spare, fused := false, count := 0, addr := f.2, cycle := cycle.setWidth 32 }
  if col then (if ents.any fun e => e.bank == f.1 && e.col then none else some (ents ++ [mk 0]))
  else (freeRow ents f.1).map fun i => ents ++ [mk i]

/-- Spares for every failing element; none when one finds none. -/
def giveAll (cycle : DWord) (col : Bool) : List (Nat × Nat) → List RepEnt → Option (List RepEnt)
  | [], e => some e
  | f :: r, e => (giveSpare cycle col e f).bind (giveAll cycle col r)

/-- The repair map with spares for failing rows and columns. -/
def repairMap (cycle : DWord) (rows cols : List (Nat × Nat)) (ents : List RepEnt) : Option (List RepEnt) :=
  (giveAll cycle false rows ents).bind (giveAll cycle true cols)

/-! ## Failure beyond repair (R399) -/

/-- BIST_FAIL: the lane is retired, the hub keeps the module in BOOT. -/
def beyondRepair (s : State) (u : BistUnit) (slice group : Nat) (exhausted : Bool) : State :=
  let s1 := raiseUnit s u 0x0B01 (arg2 slice ++ arg1 group ++ arg1 (ofFlag exhausted))
  match u with
  | .lane l => retireLane s1 l exhausted
  | .hub => { s1 with hub := { s1.hub with pass := none, running := false, passOk := false },
                      mod := { s1.mod with boot := { s1.mod.boot with hubBad := true } } }

/-! ## The end of a pass -/

/-- After an exclusion pass (R98): a rest while three lanes vote or another rejoin runs, else the rejoin; while none votes
the lane is ready again (R390). -/
def afterExclusion (s : State) (l : Lane) : State :=
  if (voting s).isEmpty || 3 ≤ (voting s).length || s.cyc.rejoiner.isSome then onLane s l fun x => { (restLane x) with inReset := false }
  else { (onLane s l fun x => { x with rejoinRdy := true, inReset := false }) with cyc := { s.cyc with rejoiner := some l } }

/-- A lane's boot pass has ended: ready for the roles of R390 or R341, or RESTING in a module that is up already (R99, R411). -/
def afterBoot (s : State) (l : Lane) : State :=
  if s.mod.st == .boot || s.mod.st == .indicate || s.mod.st == .split || (voting s).isEmpty then s else onLane s l restLane

/-- The last slice of a lane's pass has ended. -/
def passEnd (s : State) (l : Lane) : State :=
  let x := s.lanes.get l
  let ok := !x.bist.gap
  let set (s : State) (f : LaneBist → LaneBist) : State :=
    onLane s l fun x => { x with injectOk := ok, bist := f { x.bist with lastPass := ok } }
  match x.bist.pass with
  | none => s
  | some .rest => onLane s l fun x =>
      { x with injectOk := x.injectOk || ok,
               bist := { startPass x.bist .rest with reinit := x.bist.reinit, lastPass := ok, passes := x.bist.passes + ofFlag ok } }
  | some .exclusion =>
    if ok then afterExclusion (onLane (set s fun b => { b with pass := none }) l fun x => { x with checked := true }) l
    else onLane s l fun x => { x with bist := { startPass x.bist .exclusion with reinit := x.bist.reinit } }
  | some .boot => afterBoot (onLane (set s fun b => { b with pass := none }) l fun x => { x with checked := true }) l
  | some .shutdown => set s fun b => { b with pass := none }
  | some .inject =>
    let s1 := onLane s l fun x => { x with injectOk := ok, bist := { x.bist with pass := none } }
    if x.role == .excluded then
      (if ok then afterExclusion s1 l
       else onLane s l fun x => { x with bist := { startPass x.bist .inject with reinit := x.bist.reinit } })
    else s1

/-- The slice has ended, its block is re-initialised; the next one follows or the pass ends. -/
def nextSlice (s : State) (l : Lane) : State :=
  let i := (s.lanes.get l).bist.slice + 1
  let s1 := onLane s l fun x => { (injectTaken x) with bist := { x.bist with running := false, reinit := true, slice := i } }
  if laneSlices ≤ i then passEnd s1 l else s1

/-! ## BIST_SLICE_START (R396) -/

/-- Lanes that can serve counterpart patterns: voting lanes; with none, the other lanes that are not retired, in the injection
set of the record path the other ready lanes (R110). -/
def counterparts (s : State) (l : Lane) (p : BistPass) : List Lane :=
  match p with
  | .rest | .exclusion => voting s
  | .boot | .shutdown => (aliveLanes s).filter (· != l)
  | .inject => if (voting s).isEmpty then (readyLanes s).filter (· != l) else voting s

/-- Groups 6 and 9 need counterparts. -/
def needsPeers (i : Nat) : Bool := sliceGroup i == 6 || sliceGroup i == 9

/-- In a rest or exclusion pass, or while lanes vote, such a slice starts only after the vote of a cycle, at most one in a cycle; without two
counterparts it has no result. The injection set takes forged items from two of them (R110). -/
def laneSliceStart (s : State) (l : Lane) : State :=
  let x := s.lanes.get l
  match x.bist.pass with
  | none => s
  | some p =>
    if x.bist.running || x.bist.reinit || x.role == .retired || s.cyc.rejoiner == some l then s
    else if needsPeers x.bist.slice then
      let inService := p == .rest || p == .exclusion || (p == .inject && !(voting s).isEmpty)
      if (counterparts s l p).length < 2 then
        (if inService then s else nextSlice (onLane s l fun x => { x with bist := { x.bist with gap := true } }) l)
      else if inService && !((s.cyc.voted || s.cyc.missed) && !x.bist.fabricSlice) then s
      else if sliceGroup x.bist.slice = 9 && !acceptsInject s x then s
      else
        let s1 := onLane s l fun x => { x with bist := { x.bist with running := true, fabricSlice := true } }
        if sliceGroup x.bist.slice = 9 then forgeItems s1 l ((counterparts s l p).take 2) else s1
    else onLane s l fun x => { x with bist := { x.bist with running := true } }

/-- BIST_SLICE_START. -/
def execBistSliceStart (u : BistUnit) (s : State) : Host.Outcome State Fault Refusal :=
  .next (if hubUp s then
    match u with
    | .lane l => laneSliceStart s l
    | .hub => if s.hub.pass.isSome && !s.hub.running then { s with hub := { s.hub with running := true } } else s
    else s)

/-! ## BIST_SLICE_END (R399) -/

/-- Suspect rows in the four banks of a memory slice, as (bank, row) (R404). -/
def suspectIn (x : LaneSt) (i : Nat) : List (Nat × Nat) :=
  (x.bist.suspect.filter fun r => r / 512 / 4 == i).map fun r => (r / 512, r % 512)

/-- An SRAM memory slice of a lane failed: spares, repair map, BIST_REPAIR, repeat. -/
def sramFail (s : State) (l : Lane) (i : Nat) (rows cols : List (Nat × Nat)) (repeatOk : Bool) : State :=
  let x := s.lanes.get l
  let s0 := onLane s l voidRecord
  match repairMap s.cyc.k rows cols (mapCur x.mram).ents with
  | none => beyondRepair s0 (.lane l) i 1 true
  | some ents =>
    let before := rowsFree x.mram
    let s1 := onLane s0 l fun x =>
      { x with mram := mapWrite x.mram ents,
               bist := { x.bist with repairs := x.bist.repairs + rows.length + cols.length,
                                     suspect := x.bist.suspect.filter fun r => r / 512 / 4 != i } }
    let s2 := raiseUnit s1 (.lane l) 0x0B81 (arg2 i)
    let s3 := sparesLow s2 l.num before (rowsFree (s2.lanes.get l).mram) 160 false
    if repeatOk then nextSlice s3 l else beyondRepair s3 (.lane l) i 1 true

/-- An MRAM memory slice found failing sectors: each is remapped. -/
def mramFail (s : State) (l : Lane) (i : Nat) (sectors : List Nat) : State :=
  let s0 := onLane s l voidRecord
  if sectFree (s.lanes.get l).mram < sectors.length then beyondRepair s0 (.lane l) i 2 true
  else nextSlice (sectors.foldl (fun s n => remapSector s l n) s0) l

/-- A logic slice failed: it is repeated once; a pass is a BIST_RETRY, a second one within 24 h is beyond repair. -/
def logicFail (s : State) (l : Lane) (i g : Nat) (repeatOk : Bool) : State :=
  let s0 := onLane s l voidRecord
  if !repeatOk then beyondRepair s0 (.lane l) i g false
  else
    let now := s.time.supUs
    let old := within24 now (s.lanes.get l).bist.retries
    let s1 := onLane (raiseUnit s0 (.lane l) 0x0B82 (arg2 i)) l fun x => { x with bist := { x.bist with retries := old ++ [now] } }
    if old.isEmpty then nextSlice s1 l else beyondRepair s1 (.lane l) i g false

/-- The running slice of a lane ends with its result. -/
def laneSliceEnd (s : State) (l : Lane) (r : SliceResult) : State :=
  let x := s.lanes.get l
  let i := x.bist.slice
  let g := sliceGroup i
  let late := sliceBudget i < r.elapsedUs
  let rows := r.rows ++ if g = 1 then (suspectIn x i).filter fun f => !r.rows.contains f else []
  if !late && r.matched && injectPassed s i && rows.isEmpty && r.cols.isEmpty && r.sectors.isEmpty then nextSlice s l
  else
    let s1 := onLane s l fun x => { x with bist := { x.bist with failed := true } }
    if g = 1 then sramFail s1 l i rows r.cols r.repeatOk
    else if g = 2 then mramFail s1 l i r.sectors
    else if g = 9 then beyondRepair (onLane s1 l voidRecord) (.lane l) i g false
    else logicFail s1 l i g r.repeatOk

/-- The hub's next slice. -/
def hubNext (s : State) : State :=
  let i := s.hub.slice + 1
  if hubSlices ≤ i then { s with hub := { s.hub with pass := none, running := false, slice := 0, passOk := true } }
  else { s with hub := { s.hub with running := false, slice := i } }

/-- Every lane's map takes the hub's new entries (R401). -/
def writeHubEnts (s : State) (ents : List RepEnt) : State :=
  { s with
    hub := { s.hub with ents := ents.filter fun e => 160 ≤ e.bank },
    lanes := s.lanes.map fun x =>
      if x.role == .retired then x
      else { x with mram := mapWrite x.mram (((mapCur x.mram).ents.filter fun e => e.bank < 160) ++ ents.filter fun e => 160 ≤ e.bank) } }

/-- The running slice of the hub ends with its result. -/
def hubSliceEnd (s : State) (r : SliceResult) : State :=
  let i := s.hub.slice
  let late := hubSliceBudget i < r.elapsedUs
  if !late && r.matched && r.rows.isEmpty && r.cols.isEmpty then hubNext s
  else if i < 8 then
    match repairMap s.cyc.k r.rows r.cols s.hub.ents with
    | none => beyondRepair s .hub i 1 true
    | some ents =>
      let s1 := raiseUnit (writeHubEnts s ents) .hub 0x0B81 (arg2 i)
      let s2 := sparesLow s1 4 (hubRowsFree s.hub.ents) (hubRowsFree s1.hub.ents) 32 true
      if r.repeatOk then hubNext s2 else beyondRepair s2 .hub i 1 true
  else if r.repeatOk then hubNext (raiseUnit s .hub 0x0B82 (arg2 i))
  else beyondRepair s .hub i 3 false

/-- BIST_SLICE_END. -/
def execBistSliceEnd (u : BistUnit) (res : SliceResult) (s : State) : Host.Outcome State Fault Refusal :=
  .next (if hubUp s then
    match u with
    | .lane l => if (s.lanes.get l).bist.running then laneSliceEnd s l res else s
    | .hub => if s.hub.running then hubSliceEnd s res else s
    else s)

/-! ## BLOCK_REINIT_COMPLETE (R396, R397) -/

/-- The block is usable again; a lane that abandoned its slice for a rejoin is ready for it (R104, R107). -/
def reinitDone (s : State) (l : Lane) : State :=
  onLane s l fun x => { x with bist := { x.bist with reinit := false }, rejoinRdy := x.rejoinRdy || s.cyc.rejoiner == some l }

/-- BLOCK_REINIT_COMPLETE. -/
def execBlockReinitComplete (l : Lane) (s : State) : Host.Outcome State Fault Refusal :=
  .next (if hubUp s && (s.lanes.get l).bist.reinit then reinitDone s l else s)

end Sys2Proof.Machine
end

