-- ==== Sys2Proof/Machine/Power.lean ====
section
/-! DEFINITION. Supply, reset button, module resets, key switch and sealed switches (R366, R372 to R386, R447). -/

namespace Sys2Proof.Machine

/-! ## A reset of the module (R266, R375, R377, R447) -/

/-- The FOREIGN, CROSS and overcurrent latches of a channel and its withheld shorted elements clear (R266). -/
def clearChan (c : ChanSt) : ChanSt :=
  { c with latch := .none, crossWith := none, retries := 0, shorted := 0, seen := 0, offCase := none }

/-- The latches of a group master clear (R264, R266). -/
def clearGroup (g : GroupSt) : GroupSt := { g with latched := false, shorted := 0, seen := 0 }

/-- What a module reset clears in the Eaves block (R266). -/
def clearEaves (e : EavesSt) : EavesSt := { e with outs := e.outs.map clearChan, groups := e.groups.map clearGroup }

/-- A lane after a module reset: what stands in MRAM, in its fuses and in supervisor time remains. A retired lane stays
retired until the next power-on, one with a blown retirement fuse for good (R98, R408). -/
def laneReset (power : Bool) (x : LaneSt) : LaneSt :=
  { role := if x.retFuse || (x.role == .retired && !power) then .retired else .off,
    retFuse := x.retFuse, excl := x.excl, mram := cutMram x, pub := x.pub, gmPub := x.gmPub,
    bist := { retries := x.bist.retries, ecc := x.bist.ecc, suspect := x.bist.suspect,
              failed := x.bist.failed && !power, lastPass := x.bist.lastPass } }

/-- The Underlay through a module reset: its class B and U registers, supervisor time's anchor and the shelf counter remain
(R172, R409, R447). -/
def ulReset (u : Underlay) : Underlay :=
  { u with warn := false, dipCycle := none, dips := [], hubHeld := false, orderly := none, stopAt := false, wdog := false,
           leaseRun := false, leaseInh := false, healthy := false }

/-- A peer link keeps its module; the link is down (R325). -/
def linkReset (l : PeerLink) : PeerLink := { sfpOk := l.sfpOk }

/-- A plane keeps its SFP module and its diagnostics; its links are down. -/
def planeReset (p : PlaneHub) : PlaneHub := { sfpOk := p.sfpOk, diag := p.diag }

/-- Every die but the Underlay is reset: hub registers, queues, time bases and lane memories start afresh (R354, R375, R377,
R447). What was posted to host memory stays there. -/
def moduleReset (power : Bool) (s : State) : State :=
  { pending := s.pending,
    time := { supUs := s.time.supUs, supLost := s.time.supLost, src := s.ul.timecfg.getLsbD 0,
              domain := bitsAt s.ul.timecfg.toNat 14 8, utcOfs := BitVec.ofNat 16 (bitsAt s.ul.timecfg.toNat 31 16) },
    ul := ulReset s.ul,
    lanes := s.lanes.map (laneReset power),
    rings := { planes := s.rings.planes.map fun t => t.map planeReset },
    eaves := clearEaves s.eaves,
    host := { posted := s.host.posted },
    peer := { links := s.peer.links.map linkReset },
    hub := { ents := s.hub.ents, scrubs := s.hub.scrubs, scrubBad := s.hub.scrubBad } }

/-- BOOT begins; a button already pressed is ignored (R376, R387). -/
def enterBoot (s : State) : State :=
  let s1 := { s with mod := { s.mod with st := .boot }, ul := { s.ul with diesHeld := false } }
  if s1.ul.pressed then raiseUl { s1 with ul := { s1.ul with button := .atPowerOn } } 0x0A82 []
  else { s1 with ul := { s1.ul with button := .armed } }

/-! ## Supply (R372 to R375) -/

/-- The Underlay's class B and U registers at its power-on (R447, R456, R458, R460). -/
def ulPowerOn (u : Underlay) : Underlay :=
  { u with nboot := 0, optSplit := false, optLoad := false, optActivate := false, timecfg := 0x00250000, mpip := 0,
           mpmask := 0xFFFFFF00, mpgw := 0, logdst := 0, logcfg := 0x02020000 }

/-- The start condition is met after `offUs` without supply: supervisor time has run on from the reserve store, or restarted
from 0 with the Underlay's power-on (R366); the shelf counter has run on from its cell. The Eaves block comes up with the
supply (log entry 10). -/
def supplyStartAt (offUs : Nat) (rstPressed : Bool) (s : State) : State :=
  let lost := s.time.supLost
  let sup := if lost then 0 else s.time.supUs + BitVec.ofNat 64 offUs
  let u := if lost then ulPowerOn s.ul else s.ul
  let s1 := { s with
    time := { s.time with supUs := sup },
    ul := { u with bus := 190, reserve := true, pressed := rstPressed, shelf := u.shelf.map (· + offUs / 60000000) },
    eaves := {},
    lanes := if lost then s.lanes.map fun x => { x with excl := [], bist := { x.bist with retries := [], ecc := [] } } else s.lanes }
  enterBoot (moduleReset true s1)

/-- SUPPLY_START (R372): from OFF alone. -/
def execSupplyStart (offUs : Nat) (rstPressed : Bool) (s : State) : Host.Outcome State Fault Refusal :=
  .next (if s.mod.st == .off then supplyStartAt offUs rstPressed s else s)

/-- SUPPLY_LOW (R372): SUPPLY_WARN and the SUPPLY_LOW event; the dip's cycle is kept (R374). -/
def execSupplyLow (bus : Nat) (s : State) : Host.Outcome State Fault Refusal :=
  .next (if s.mod.st != .off && bus < 180 && 145 ≤ bus then
    let s1 := { s with ul := { s.ul with bus := bus } }
    if s.ul.warn then refreshUl s1
    else refreshUl (raiseUl { s1 with ul := { s1.ul with warn := true, dipCycle := some s.cyc.k } } 0x0A81 [])
  else s)

/-- SUPPLY_RECOVERY (R374): the dip is ridden through and is journaled in the next completed cycle. -/
def execSupplyRecovery (durUs minBus : Nat) (s : State) : Host.Outcome State Fault Refusal :=
  .next (match s.ul.dipCycle with
    | some k =>
      if s.mod.st != .off && s.ul.warn then
        refreshUl { s with ul := { s.ul with bus := 185, warn := false, dipCycle := none, dips := s.ul.dips ++ [(k, durUs, minBus)] } }
      else s
    | none => s)

/-- The bus falls below 14.5 V: every die but the Underlay is held in reset. -/
def supplyResetAt (s : State) : State :=
  let s1 := moduleReset true s
  { s1 with mod := { s1.mod with st := .off }, ul := { s1.ul with bus := 144, diesHeld := true } }

/-- SUPPLY_RESET (R375, R378). -/
def execSupplyReset (s : State) : Host.Outcome State Fault Refusal :=
  .next (if s.mod.st != .off then supplyResetAt s else s)

/-- RESERVE_STORE_EXHAUSTED (R172, R366): supervisor time restarts from 0, the outage is of unknown length. -/
def execReserveStoreExhausted (s : State) : Host.Outcome State Fault Refusal :=
  .next (if s.mod.st == .off then
    { s with time := { s.time with supUs := 0, supLost := true }, ul := { s.ul with reserve := false, lastCk := none } } else s)

/-- PRIMARY_CELL_EXHAUSTED (R409): the shelf counter reads unknown. -/
def execPrimaryCellExhausted (s : State) : Host.Outcome State Fault Refusal :=
  .next { s with ul := { s.ul with cellOk := false, shelf := none } }

/-! ## The reset button (R376, R377) -/

/-- RST_PRESS: an armed button's press is measured. -/
def execRstPress (s : State) : Host.Outcome State Fault Refusal :=
  .next (if s.mod.st != .off && !s.ul.pressed then
    refreshUl { s with ul := { s.ul with pressed := true, button := if s.ul.button == .armed then .pressed else s.ul.button } } else s)

/-- Power-off preparation: 2 s to 5 s with the key in MAINT, in any state but OFF and BOOT (R376, R391). -/
def powerOffPrep (s : State) (heldUs : Nat) : Bool :=
  2000000 ≤ heldUs && heldUs ≤ 5000000 && s.ctl.pos == some .maint && s.mod.st != .off && s.mod.st != .boot

/-- A measured press is released: an orderly shutdown, with a snapshot at the commit of its cycle (R392), or an orderly reset. -/
def released (heldUs : Nat) (s : State) : State :=
  if s.ul.orderly.isSome then s
  else if powerOffPrep s heldUs then
    { s with ul := { s.ul with orderly := some .shutdown },
             mod := { s.mod with snapDue := s.mod.snapDue || s.mod.st.runs || s.mod.st == .standby } }
  else if 100000 ≤ heldUs && heldUs ≤ 5000000 then { s with ul := { s.ul with orderly := some .reset } }
  else s

/-- RST_RELEASE. -/
def execRstRelease (heldUs : Nat) (s : State) : Host.Outcome State Fault Refusal :=
  .next (if s.mod.st != .off && s.ul.pressed then
    let s1 := { s with ul := { s.ul with pressed := false, button := if s.ul.button == .pressed then .armed else s.ul.button } }
    refreshUl (if s.ul.button == .pressed then released heldUs s1 else s1)
  else s)

/-- RESET_STUCK: held beyond 5 s the press is ignored. -/
def execResetStuck (s : State) : Host.Outcome State Fault Refusal :=
  .next (if s.mod.st != .off && s.ul.button == .pressed then
    refreshUl (raiseUl { s with ul := { s.ul with button := .stuck } } 0x0A01 []) else s)

/-- RST_REARM: released for 1 s the button is armed again. -/
def execRstRearm (s : State) : Host.Outcome State Fault Refusal :=
  .next (if s.mod.st != .off && !s.ul.pressed && (s.ul.button == .stuck || s.ul.button == .atPowerOn) then
    refreshUl { s with ul := { s.ul with button := .armed } } else s)

/-- In these states an orderly reset has no cycle to complete (R377). -/
def noCycleToEnd (m : ModState) : Bool := m == .boot || m == .safeStop || m == .standby || m == .split

/-- ORDERLY_RESET: 1 ms after C(j + 1) the Underlay resets the dies, and the module boots. -/
def execOrderlyReset (s : State) : Host.Outcome State Fault Refusal :=
  .next (if s.mod.st != .off && s.ul.orderly == some .reset && (s.ul.stopAt || noCycleToEnd s.mod.st) then
    enterBoot (moduleReset false s) else s)

/-! ## The key (R379 to R381) -/

/-- A position is taken: KEY_CHANGE or KEY_INVALID. It takes effect at the next common instant; the first one at once in
BOOT and INDICATE. -/
def takeKey (s : State) (p : KeyPos) : State :=
  let now := match s.ctl.next with | some q => some q | none => s.ctl.pos
  if now = some p then s
  else
    let s1 := if p = .invalid then raiseShared s 0x0A02 [] else raiseShared s 0x0A83 []
    if s.ctl.pos.isNone && (s.mod.st == .boot || s.mod.st == .indicate) then
      let s2 := { s1 with ctl := { s1.ctl with pos := some p, next := none,
                                               lastValid := if p = .invalid then s1.ctl.lastValid else some p } }
      reportState s2
    else { s1 with ctl := { s1.ctl with next := some p } }

/-- KEY_PATTERN_STABLE: a pattern, or a mix of invalid ones, has stood in every sample for at least 50 ms. -/
def execKeyPatternStable (s : State) : Host.Outcome State Fault Refusal :=
  .next (if hubUp s && 50 ≤ keyHeldMs s then
    match keyPattern s.ctl.agreed s.ctl.contacts with
    | some p => takeKey s p
    | none => s
  else s)

/-- KEY_ALL_OPEN_TIMEOUT: all six open for more than 2 s. -/
def execKeyAllOpenTimeout (s : State) : Host.Outcome State Fault Refusal :=
  .next (if hubUp s && s.ctl.agreed && s.ctl.contacts == 0 && 2000 < keyHeldMs s then takeKey s .invalid else s)

/-! ## Sealed switches (R385, R386) -/

/-- One of SW21 to SW24 is on. -/
def reservedOn (sw : BitVec 25) : Bool := bitsAt sw.toNat 23 20 != 0

/-- Switches whose change in service raises SEAL_CHANGE: SW1 to SW16, SW19 and SW20. -/
def sealMask : BitVec 25 := 0x0CFFFF

/-- The agreed reading has changed in service. -/
def sealChanged (s : State) : State :=
  let now := s.ctl.sw
  let old := s.ctl.swSeen
  let s1 := if (now &&& sealMask) != (old &&& sealMask) then raiseShared s 0x0A03 [] else s
  let s2 := if reservedOn now && bitsAt now.toNat 23 20 != bitsAt old.toNat 23 20 then raiseShared s1 0x0A04 [] else s1
  { s2 with ctl := { s2.ctl with swSeen := now } }

/-- At boot SW21 to SW24 hold the module in BOOT with SWITCH_RESERVED. -/
def sealBoot (s : State) : State :=
  let bad := reservedOn s.ctl.sw
  let s1 := if bad && !s.mod.boot.swBad then raiseShared s 0x0A04 [] else s
  { s1 with mod := { s1.mod with boot := { s1.mod.boot with swBad := bad } } }

/-- SEAL_CHANGE. -/
def execSealChange (s : State) : Host.Outcome State Fault Refusal :=
  .next (if hubUp s && s.ctl.swValid then (if s.mod.st == .boot then sealBoot s else sealChanged s) else s)

/-- Number of the lowest switch in which two readings differ, SW1 = 1; 25 is PAIR_POS. -/
def firstSwitch (a b : BitVec 25) : Nat :=
  ((List.range 25).find? fun i => a.toNat.testBit i != b.toNat.testBit i).getD 0 + 1

/-- SWITCH_SENSE: the lane's reading has differed in 100 consecutive cycles. -/
def execSwitchSense (l : Lane) (s : State) : Host.Outcome State Fault Refusal :=
  .next (if hubUp s && 100 ≤ (s.lanes.get l).swDiff && !(s.lanes.get l).sense then
    onLane (raiseLane s l 0x0A05 (argInst (arg1 l.num ++ arg1 (firstSwitch (s.lanes.get l).sw s.ctl.sw)))) l fun x => { x with sense := true }
  else s)

end Sys2Proof.Machine
end

