-- ==== Sys2Proof/Machine/Boot.lean ====
section
/-! DEFINITION. Bring-up from the dies' reset to INDICATE, and the orderly shutdown (R116, R119, R163, R322, R387 to R392,
R401, R402, R409 to R411, R457). -/

namespace Sys2Proof.Machine

/-- Change where bring-up stands. -/
def bootMod (s : State) (f : BootSt → BootSt) : State := { s with mod := { s.mod with boot := f s.mod.boot } }

/-- Set a bit of BOOTSTAT [4:0] (R456). -/
def bootstatSet (s : State) (i : Nat) : State :=
  { s with host := { s.host with bootstat := s.host.bootstat ||| BitVec.ofNat 5 (2 ^ i) } }

/-! ## DIES_OUT_OF_RESET (R401, R402) -/

/-- An entry after the test of its original element. -/
def retest (fails : Bool) (e : RepEnt) : RepEnt :=
  if e.fused then e
  else
    let n := if fails then min 3 (e.count + 1) else 0
    { e with count := n, fused := n = 3 }

/-- A lane's map after the test. -/
def retestMap (failing : List Nat) (ents : List RepEnt) : List RepEnt :=
  (enumFrom0 ents).map fun x => retest (failing.contains x.1) x.2

/-- One lane tests the elements that its map names; each entry made permanent is a BIST_FUSE event. -/
def retestLane (failing : Quad (List Nat)) (s : State) (l : Lane) : State :=
  let old := (mapCur (s.lanes.get l).mram).ents
  let new := retestMap (failing.get l) old
  if new = old then s
  else
    let s1 := onLane s l fun x => { x with mram := mapWrite x.mram new }
    ((old.zip new).filter fun e => !e.1.fused && e.2.fused).foldl (fun s _ => raiseLane s l 0x0B83 (argLane l)) s1

/-- The hub's entries as at least two lanes hold them alike. -/
def hubMap (s : State) : List RepEnt :=
  (agree2 ((aliveLanes s).map fun l => (mapCur (s.lanes.get l).mram).ents.filter fun e => 160 ≤ e.bank)).getD []

/-- The dies leave reset: the boot counts (R456), the elements are tested, the maps loaded. -/
def diesOutAt (failing : Quad (List Nat)) (s : State) : State :=
  let s1 := (aliveLanes s).foldl (retestLane failing) s
  let s2 := { s1 with ul := { s1.ul with diesHeld := false, nboot := min 255 (s1.ul.nboot + 1) },
                      hub := { s1.hub with ents := hubMap s1 } }
  bootMod s2 fun b => { b with diesOut := true }

/-- DIES_OUT_OF_RESET. -/
def execDiesOutOfReset (failing : Quad (List Nat)) (s : State) : Host.Outcome State Fault Refusal :=
  .next (if hubUp s && s.mod.st == .boot && !s.mod.boot.diesOut then diesOutAt failing s else s)

/-! ## BOOT_RECORD_CHECK (R410, R411) -/

/-- A lane's start-up record is valid. -/
def recordValid (s : State) (l : Lane) : Bool :=
  let x := s.lanes.get l
  match (bootCur x.mram).start, s.ul.shelf with
  | some r, some c =>
    (startSeal r).crc == r.crc && r.result.toNat % 32 == 15 && 102 * (c - r.shelf.toNat) ≤ 1008000 &&
      r.mapCrc == mapCrc (mapCur x.mram).ents && r.fuseCrc == fuseCrc l x
  | _, _ => false

/-- The lanes whose record is valid and whose circuits pass the check beside it. -/
def recordLanes (circuitsOk : Quad Bool) (s : State) : List Lane :=
  (aliveLanes s).filter fun l => recordValid s l && circuitsOk.get l

/-- A lane that is not permanently retired runs a boot pass. -/
def bootPass (x : LaneSt) : LaneSt := { x with bist := startPass x.bist .boot }

/-- The record path with at least three valid records, else full BIST on every lane and the hub; SHELF_CELL_LOW when the shelf
counter is unknown (R409). -/
def recordCheckAt (circuitsOk : Quad Bool) (s : State) : State :=
  let ok := recordLanes circuitsOk s
  let s1 := onLanes s (aliveLanes s) fun l x => { x with record := recordValid s l }
  let s2 := if s.ul.shelf.isNone then raiseUl s1 0x0B04 [] else s1
  let s3 := if 3 ≤ ok.length then
      let t := onLanes s2 ok fun _ x => { x with checked := true }
      let u := onLanes t ((aliveLanes s).filter fun l => !ok.contains l) fun _ x => bootPass x
      bootstatSet (bootMod { u with hub := { u.hub with passOk := true } } fun b => { b with recPath := true }) 0
    else
      let t := onLanes s2 (aliveLanes s) fun _ x => bootPass x
      { t with hub := { t.hub with pass := some .boot, slice := 0, running := false, passOk := false } }
  bootFew (refreshLanes (bootMod s3 fun b => { b with checked := true }))

/-- BOOT_RECORD_CHECK. -/
def execBootRecordCheck (circuitsOk : Quad Bool) (s : State) : Host.Outcome State Fault Refusal :=
  .next (if hubUp s && s.mod.st == .boot && s.mod.boot.diesOut && !s.mod.boot.checked then recordCheckAt circuitsOk s else s)

/-! ## The lease in BOOT (R322, R332) -/

/-- The epoch after one: it is never 0, so the count goes from all ones to 1 (R332). -/
def epochAfter (e : Nat) : Word := if (e + 1) % 2 ^ 32 = 0 then 1 else BitVec.ofNat 32 (e + 1)

/-- The highest epoch known plus 1, written to the boot records of the lanes before its first frame. -/
def newEpoch (s : State) : State :=
  let e := epochAfter (epochKnown s)
  { s with lanes := s.lanes.map fun x => if x.role == .retired then x else { x with mram := bootWrite x.mram fun b => { b with epoch := e } },
           peer := { s.peer with epoch := e } }

/-- The module takes the lease: a new epoch, the holder's timer runs. -/
def takeLease (s : State) : State :=
  let s1 := newEpoch s
  refreshLanes { s1 with peer := { s1.peer with held := true }, ul := { s1.ul with leaseRun := true, leaseInh := false } }

/-! ## BOOT_YEALM_AGREED (R163, R389, R457) -/

/-- The split conditions of R116: every lane reads SW19 on, and BOOTOPT.SPLIT. -/
def splitAsked (s : State) : Bool :=
  s.ul.optSplit && (aliveLanes s).all fun l => (s.lanes.get l).sw.getLsbD 18

/-- CRC-64 of a lane's VERIFIED shadow bank. -/
def shadowCrc (x : LaneSt) : Option DWord :=
  let b := shadowBank x.mram
  if b.state == .verified then b.img.map (·.crc64) else none

/-- The shadow bank becomes ACTIVE, the bank that was is VERIFIED (R163). -/
def swapBanks (m : Mram) : Mram :=
  let down (b : Bank) : Bank := if b.state == .active then { b with state := .verified } else b
  if shadowIsOne m then { m with bank0 := down m.bank0, bank1 := { m.bank1 with state := .active } }
  else { m with bank1 := down m.bank1, bank0 := { m.bank0 with state := .active } }

/-- Activation in BOOT: with the key in MAINT or TEST, when at least two lanes hold VERIFIED shadow banks of equal CRC-64;
ACTIVATE is cleared either way. In RUN it is kept. -/
def activate (s : State) : State :=
  if s.ul.optActivate && keyMaintOrTest s then
    let s1 := { s with ul := { s.ul with optActivate := false } }
    match agree2 ((aliveLanes s).filterMap fun l => shadowCrc (s.lanes.get l)) with
    | none => s1
    | some c =>
      let ls := (aliveLanes s).filter fun l => shadowCrc (s.lanes.get l) == some c
      let s2 := onLanes s1 ls fun _ x => { x with mram := bootWrite (swapBanks x.mram) fun b => { b with activated := true } }
      bootstatSet (bootMod s2 fun b => { b with activated := true }) 2
  else s

/-- A lane verifies the yealm in its ACTIVE bank again (R161, R163). -/
def verifyActive (s : State) (l : Lane) : State :=
  let x := s.lanes.get l
  match activeBank x.mram with
  | none => s
  | some b =>
    match verify l x.sw s.mod.boot.split (bankBytes b) with
    | .ok y => onLane s l fun x => { x with yealm := some y, mram := setActive x.mram { b with img := some y } }
    | .refused step t => refuseImage (onLane s l fun x => { x with yealm := none, mram := setActive x.mram { b with img := none } }) l step t

/-- The module enters SPLIT: every record is VOID (R119). -/
def enterSplit (s : State) : State :=
  let s1 := { s with lanes := s.lanes.map fun x => if x.role == .retired then x else voidRecord x }
  bootstatSet (setState s1 .split) 3

/-- A module of a pair that has heard a RENEW and holds the holder's yealm ACTIVE becomes its standby (R324, R352); lanes that
owe the injection set run it first (log entry 11). -/
def tryStandby (s : State) : State :=
  match s.peer.renew with
  | some r =>
    if s.mod.st == .boot && isPair s && s.mod.boot.agreed && !s.peer.held && r.ycrc == s.mod.ycrc && !s.mod.boot.swBad then
      let s1 := onLanes s (readyLanes s) fun _ x =>
        if x.injectOk || x.bist.pass.isSome then x else { x with bist := startPass x.bist .inject }
      setState { s1 with peer := mirrorFresh s1.peer } .standby
    else s
  | none => s

/-- The agreed CRC-64 is found: SPLIT, standby, or alone the lease (R322). -/
def yealmAgreed (c : DWord) (s : State) : State :=
  let s1 := bootMod { s with mod := { s.mod with ycrc := c },
                             host := { s.host with bootstat := s.host.bootstat &&& 0b01111 } }
    fun b => { b with agreed := true, noImage := false }
  let s2 := { s1 with lanes := s1.lanes.map fun x =>
    { x with yealm := match x.yealm with | some y => if y.crc64 = c then some y else none | none => none } }
  if s2.mod.boot.split then enterSplit s2
  else if isPair s2 then tryStandby s2
  else takeLease s2

/-- No two lanes hold ACTIVE yealms of equal CRC-64: NO_IMAGE, once. -/
def noImageAt (s : State) : State :=
  if s.mod.boot.noImage then s
  else bootstatSet (bootMod (raiseShared s 0x0403 []) fun b => { b with noImage := true }) 4

/-- The lanes that have passed the start-up check agree the active yealm. -/
def yealmAgreedAt (s : State) : State :=
  let s0 := if s.mod.boot.noImage then s else activate (bootMod s fun b => { b with split := splitAsked s })
  let s1 := (aliveLanes s0).foldl verifyActive s0
  let held := ((aliveLanes s1).filter fun l => (s1.lanes.get l).checked).filterMap fun l => (s1.lanes.get l).yealm.map (·.crc64)
  match agree2 held with
  | some c => yealmAgreed c s1
  | none => noImageAt s1

/-- BOOT_YEALM_AGREED: after the start-up check; a wanted activation waits until the key has a position (R379). -/
def execBootYealmAgreed (s : State) : Host.Outcome State Fault Refusal :=
  .next (if hubUp s && s.mod.st == .boot && s.mod.boot.checked && !s.mod.boot.agreed &&
      !(s.ul.optActivate && s.ctl.pos.isNone) &&
      2 ≤ ((aliveLanes s).filter fun l => (s.lanes.get l).checked).length then yealmAgreedAt s else s)

/-! ## RING_START_COMPLETE (R387, R388) -/

/-- Every listed ring has a started plane (R223). -/
def ringsStarted (s : State) : Bool :=
  match theYealm s with
  | none => false
  | some y => RingId.all.all fun r =>
      (y.rings.get r.slot).nodes.isEmpty || (s.rings.planes.get r.slot).a.started || (s.rings.planes.get r.slot).b.started

/-- What BOOT still lacks for INDICATE is there: lease, agreed yealm, two ready lanes, no reserved switch, a sound hub. -/
def indicateReady (s : State) : Bool :=
  s.mod.st == .boot && s.peer.held && s.mod.boot.agreed && !s.mod.boot.split && !reservedOn s.ctl.sw && !s.mod.boot.swBad &&
    !s.mod.boot.hubBad && s.hub.pass.isNone && 2 ≤ (readyLanes s).length

/-- INDICATE; lanes that took the record path run the injection set there. -/
def ringStartAt (s : State) : State :=
  let s1 := onLanes s (readyLanes s) fun _ x =>
    if x.injectOk || x.bist.pass.isSome then x else { x with bist := startPass x.bist .inject }
  setState (bootMod s1 fun b => { b with ringsUp := true }) .indicate

/-- RING_START_COMPLETE. -/
def execRingStartComplete (s : State) : Host.Outcome State Fault Refusal :=
  .next (if hubUp s && indicateReady s && ringsStarted s then ringStartAt s else s)

/-! ## The orderly shutdown (R391, R392) -/

/-- In these states an orderly shutdown goes on from its step 3 at once. -/
def shutAtOnce (m : ModState) : Bool := m == .indicate || m == .safeStop || m == .split

/-- A lane starts its shutdown pass; a running slice is abandoned (R397). -/
def shutdownPass (x : LaneSt) : LaneSt :=
  if x.role == .retired then x
  else { x with bist := { startPass x.bist .shutdown with reinit := x.bist.running || x.bist.reinit } }

/-- C(j + 1): SHUTDOWN_BEGIN, SAFE STOP, and the passes. Once a pass has been run from SPLIT every later one of this start
writes VOID too (R119). -/
def shutdownAt (s : State) : State :=
  let fromSplit := s.mod.shutSplit || s.mod.st == .split
  let s1 := raiseShared s 0x0A84 []
  let s2 := enterSafeStop (bootMod s1 fun b => { b with b := none })
  { s2 with
    lanes := s2.lanes.map shutdownPass,
    hub := { s2.hub with pass := some .shutdown, slice := 0, running := false, passOk := false },
    cyc := { s2.cyc with rejoiner := none, joinNext := false },
    mod := { s2.mod with shutPass := true, shutSplit := fromSplit, shutDone := false },
    ul := { s2.ul with orderly := none, stopAt := false } }

/-- SHUTDOWN_BEGIN. -/
def execShutdownBegin (s : State) : Host.Outcome State Fault Refusal :=
  .next (if hubUp s && s.ul.orderly == some .shutdown && (s.ul.stopAt || shutAtOnce s.mod.st) && s.mod.st != .boot then
    shutdownAt s else s)

/-- The start-up record a lane writes at the end of its shutdown pass (R409); UNDERLAY_PASS stands (DESIGN CHOICE, log entry 115). -/
def newStart (s : State) (l : Lane) (x : LaneSt) : StartRec :=
  let flags := ofFlag x.bist.lastPass + 2 * ofFlag x.injectOk + 4 * ofFlag s.hub.passOk + 8 + 16 * ofFlag s.mod.shutSplit
  startSeal {
    result := BitVec.ofNat 8 flags,
    shelf := match s.ul.shelf with | some m => BitVec.ofNat 64 m | none => Config.shelfUnknown,
    cycle := match s.ul.lastCk with | some c => c.2 | none => 0,
    mapCrc := mapCrc (mapCur x.mram).ents, fuseCrc := fuseCrc l x,
    rowsFree := BitVec.ofNat 16 (rowsFree x.mram), colsFree := BitVec.ofNat 16 (colsFree x.mram),
    sectFree := BitVec.ofNat 16 (sectFree x.mram), repairs := BitVec.ofNat 16 x.bist.repairs, crc := 0 }

/-- Every pass has ended: each lane writes its record, SHUTDOWN_DONE. -/
def shutdownDoneAt (s : State) : State :=
  let s1 := onLanes s (aliveLanes s) fun l x =>
    let r := newStart s l x
    { x with mram := bootWrite x.mram fun b => { b with start := some r }, record := r.result.toNat % 32 == 15 && s.ul.shelf.isSome }
  let s2 := { s1 with mod := { s1.mod with shutPass := false, shutDone := true } }
  refreshLanes (raiseShared s2 0x0A85 [])

/-- SHUTDOWN_DONE. -/
def execShutdownDone (s : State) : Host.Outcome State Fault Refusal :=
  .next (if hubUp s && s.mod.shutPass && s.hub.pass.isNone && (aliveLanes s).all (fun l => (s.lanes.get l).bist.pass.isNone) then
    shutdownDoneAt s else s)

end Sys2Proof.Machine
end

