-- ==== Sys2Proof/Machine/EavesLink.lean ====
section
/-! DEFINITION. The Batten frames as bytes (R270 to R273), the codes the chains report (R243, R244), and the drive state of
the output networks (R252 to R257). -/

namespace Sys2Proof.Machine

/-! ## The L frame (R271) -/

/-- The bytes of an L frame before its CRC. -/
def lBody (f : LFrame) : List Byte :=
  [0xB1] ++ leBytes 1 f.lane ++ [f.seq] ++ leBytes 1 (ofFlag f.mark + 2 * ofFlag f.split) ++ beBytes 4 f.cycle.toNat ++
    beBytes 4 f.dcycle.toNat ++ beBytes 4 f.drive.toNat ++ leBytes 1 f.gm.toNat ++ zeros 3 ++ beBytes 4 f.cfgCycle.toNat ++
    beBytes 4 f.cfgCrc.toNat ++ beBytes 2 f.cfgPage ++ zeros 2 ++ f.cfgData ++ zeros 6

/-- The 72 bytes of an L frame. -/
def lBytes (f : LFrame) : List Byte := lBody f ++ beBytes 2 (crc16 (lBody f)).toNat

/-- The fields of 72 bytes taken as an L frame. -/
def lFields (b : List Byte) : LFrame :=
  { lane := fldBE b 1 1 % 4, seq := b.getD 2 0, mark := bitAt (fldBE b 3 1) 0, split := bitAt (fldBE b 3 1) 1,
    cycle := BitVec.ofNat 32 (fldBE b 4 4), dcycle := BitVec.ofNat 32 (fldBE b 8 4), drive := BitVec.ofNat 32 (fldBE b 12 4),
    gm := BitVec.ofNat 2 (fldBE b 16 1), cfgCycle := BitVec.ofNat 32 (fldBE b 20 4), cfgCrc := BitVec.ofNat 32 (fldBE b 24 4),
    cfgPage := fldBE b 28 2, cfgData := slice b 32 32 }

/-- SEQ is 1 to 4 later than the last valid one; after a timeout any is taken (R273). -/
def seqNext (last : Option Byte) (s : Byte) : Bool :=
  match last with
  | none => true
  | some q => 1 ≤ (s - q).toNat && (s - q).toNat ≤ 4

/-- A valid L frame at the receiver of lane l: length, CRC, TYPE, lane field, SEQ (R273). -/
def lValid (l : Lane) (last : Option Byte) (b : List Byte) : Bool :=
  b.length == 72 && fldBE b 70 2 == (crc16 (b.take 70)).toNat && b.getD 0 0 == 0xB1 && fldBE b 1 1 % 4 == l.num &&
    seqNext last (b.getD 2 0)

/-! ## The E frame (R272) -/

/-- Codes two to a byte, the lower-numbered in bits [7:4]. -/
def packCodes (cs : List Nat) : List Byte :=
  (List.range (cs.length / 2)).map fun i => BitVec.ofNat 8 (16 * (cs.getD (2 * i) 0 % 16) + cs.getD (2 * i + 1) 0 % 16)

/-- The codes of packed bytes. -/
def unpackCodes (b : List Byte) : List Nat := b.flatMap fun x => [x.toNat / 16, x.toNat % 16]

/-- n big-endian fields of a size from an offset. -/
def beFields (b : List Byte) (off size n : Nat) : List Nat := (List.range n).map fun i => fldBE b (off + size * i) size

/-- The bytes of an E frame before its CRC. -/
def eBody (f : EFrame) : List Byte :=
  [0xE1] ++ leBytes 1 f.rcv ++ [f.seq] ++ leBytes 1 (ofFlag f.cfgActive) ++ beBytes 4 f.cycle.toNat ++ beBytes 4 f.estat.toNat ++
    beBytes 4 f.cfgCrc.toNat ++ packCodes f.xcode ++ packCodes f.ycode ++ packCodes f.ostat ++ f.volt.flatMap (beBytes 1) ++
    f.curr.flatMap (beBytes 1) ++ f.cntx.flatMap (fun w => beBytes 4 w.toNat) ++ f.cnty.flatMap (fun w => beBytes 4 w.toNat) ++
    beBytes 2 f.supply.a ++ beBytes 2 f.supply.b ++ beBytes 4 f.elem.toNat ++ [f.elemLane, f.elemGm] ++ zeros 2 ++
    f.edge.flatMap (fun h => beBytes 2 h.toNat) ++ zeros 2

/-- The 256 bytes of an E frame. -/
def eBytes (f : EFrame) : List Byte := eBody f ++ beBytes 2 (crc16 (eBody f)).toNat

/-- The fields of 256 bytes taken as an E frame. -/
def eFields (b : List Byte) : EFrame :=
  { rcv := fldBE b 1 1 % 4, seq := b.getD 2 0, cfgActive := bitAt (fldBE b 3 1) 0, cycle := BitVec.ofNat 32 (fldBE b 4 4),
    estat := BitVec.ofNat 32 (fldBE b 8 4), cfgCrc := BitVec.ofNat 32 (fldBE b 12 4), xcode := unpackCodes (slice b 16 32),
    ycode := unpackCodes (slice b 48 32), ostat := unpackCodes (slice b 80 16), volt := beFields b 96 1 32,
    curr := beFields b 128 1 32, cntx := (beFields b 160 4 8).map (BitVec.ofNat 32), cnty := (beFields b 192 4 8).map (BitVec.ofNat 32),
    supply := ⟨fldBE b 224 2, fldBE b 226 2⟩, elem := BitVec.ofNat 32 (fldBE b 228 4), elemLane := b.getD 232 0,
    elemGm := b.getD 233 0, edge := (beFields b 236 2 8).map (BitVec.ofNat 16) }

/-- A valid E frame at lane l (R273). -/
def eValid (l : Lane) (last : Option Byte) (b : List Byte) : Bool :=
  b.length == 256 && fldBE b 254 2 == (crc16 (b.take 254)).toNat && b.getD 0 0 == 0xE1 && fldBE b 1 1 % 4 == l.num &&
    seqNext last (b.getD 2 0)

/-- Bytes as they arrive: what the link has damaged stands in the damage. -/
def damaged (b : List Byte) (d : List RWrite) : List Byte :=
  d.foldl (fun b w => b.take w.off ++ (w.data.take (b.length - w.off)) ++ b.drop (w.off + w.data.length)) b

/-! ## Codes of the inputs (R243, R244) -/

/-- Rank of a code in the order of R243, 0 first; codes that are no fault come last. -/
def codeRank (c : Nat) : Nat :=
  if c = cSOURCE then 0 else if c = cCONST then 1 else if c = cCROSS then 2 else if c = cUNDEF then 3 else if c = cDISC then 4
  else if c = cSETTLING then 5 else 6

/-- The first code in the order of R243. -/
def firstCode (c d : Nat) : Nat := if codeRank d < codeRank c then d else c

/-- A pulsed input's own code in one chain. -/
def ownCode (e : EavesIn) (ch : ChainSt) (x : ChainIn) : Nat :=
  if ch.srcFault.getD e.src false then cSOURCE
  else if x.fConst then cCONST
  else if x.fCross then cCROSS
  else if x.fUndef then cUNDEF
  else if x.settle != 0 then cSETTLING
  else if x.filt then cON else cOFF

/-- The pair's combination that counts as ON; every other is OFF (R244). Mode 1 is equivalent, 2 antivalent. -/
def pairOn (mode : Nat) (lower upper : Bool) : Bool := lower && (if mode = 1 then upper else !upper)

/-- The combination in which the discrepancy timer runs (R244). -/
def pairDiffer (mode : Nat) (lower upper : Bool) : Bool := if mode = 1 then lower != upper else lower == upper

/-- Chain input of an input. -/
def chainIn (ch : ChainSt) (i : Nat) : ChainIn := ch.ins.getD i {}

/-- The code of input i in one chain (R243, R244). -/
def inCode (c : EavesCfg) (ch : ChainSt) (i : Nat) : Nat :=
  let e := inEnt c i
  if e.mode = 0 then cUNUSED
  else if e.mode != 1 then (if (ch.ctrs.getD (i - 56) {}).settle || (chainIn ch i).settle != 0 then cSETTLING else cCOUNT)
  else if e.pair = 0 || i % 2 = 1 then ownCode e ch (chainIn ch i)
  else
    let u := chainIn ch (i + 1)
    let base := if pairOn e.pair (chainIn ch i).filt u.filt then cON else cOFF
    let disc := if (ch.pairs.getD (i / 2) {}).disc then cDISC else base
    firstCode (firstCode disc (ownCode e ch (chainIn ch i)))
      (let o := ownCode (inEnt c (i + 1)) ch u; if codeRank o < 6 then o else base)

/-- All 64 codes of a chain. -/
def inCodes (cfg : Option EavesCfg) (ch : ChainSt) : List Nat :=
  match cfg with
  | none => List.replicate 64 cUNUSED
  | some c => (List.range 64).map (inCode c ch)

/-- Counter or frequency value of IN(57 + i) in one chain (R247, R248). -/
def ctrValue (cfg : Option EavesCfg) (ch : ChainSt) (i : Nat) : Word :=
  match cfg with
  | none => 0
  | some c =>
    let x := ch.ctrs.getD i {}
    if (inEnt c (56 + i)).mode = 2 then x.count else if (inEnt c (56 + i)).mode = 3 then x.freq else 0

/-! ## The output networks (R252 to R257) -/

/-- The six paths AB, AC, AD, BC, BD, CD, each with its two lanes. -/
def paths : List (Lane × Lane) := [(.A, .B), (.A, .C), (.A, .D), (.B, .C), (.B, .D), (.C, .D)]

/-- The lane of element i: side i mod 2 of path i / 2. -/
def elemLane (i : Nat) : Lane :=
  match paths[i / 2]? with
  | some p => if i % 2 = 0 then p.1 else p.2
  | none => .A

/-- The partner of an element in its path. -/
def partner (i : Nat) : Nat := if i % 2 = 0 then i + 1 else i - 1

/-- Elements whose waveform the lanes' drive calls for: the lane drives, the partner is not SHORTED (R253, R254). -/
def calledElems (drv : Quad Bool) (shorted : BitVec 12) : BitVec 12 :=
  BitVec.ofNat 12 (bitsOf ((List.range 12).map fun i => drv.get (elemLane i) && !shorted.getLsbD (partner i)))

/-- At least one path has both its elements in the set. -/
def anyPath (w : BitVec 12) : Bool := (List.range 6).any fun p => w.getLsbD (2 * p) && w.getLsbD (2 * p + 1)

/-- Members of a channel's parallel unit (R257). -/
def unitLen (o : EavesOut) : Nat := if o.par = 1 then 2 else if o.par = 2 then 4 else 1
/-- The channels of the unit that a channel belongs to. -/
def unitOf (cfg : EavesCfg) (c : Nat) : List Nat :=
  (List.range (unitLen (outEnt cfg c))).map (unitBase (outEnt cfg c) c + ·)

/-- The group of a channel (R237). -/
def outGroup (c : Nat) : Plane := if c < 16 then .A else .B
/-- Number of a group, OG1 = 1 (R255). -/
def groupNum (g : Plane) : Nat := g.num + 1
/-- The channels of a group. -/
def groupChans (g : Plane) : List Nat := (List.range 16).map (16 * g.num + ·)

/-- The receivers that produce waveforms: valid, started from an instant, not in SPLIT, a configuration in force (R253, R274,
R276). -/
def rcvLive (e : EavesSt) (l : Lane) : Bool := (e.rcv.get l).producing && !(e.rcv.get l).split && e.cfg.isSome

/-- Lanes that drive a channel: the drive bit of its unit's lowest member (R257). -/
def chanLanes (e : EavesSt) (cfg : EavesCfg) (c : Nat) : Quad Bool :=
  (Quad.fill ()).mapL fun l _ => rcvLive e l && (e.rcv.get l).drive.getLsbD (unitBase (outEnt cfg c) c)

/-- Lanes that drive a group master. -/
def masterLanes (e : EavesSt) (g : Plane) : Quad Bool :=
  (Quad.fill ()).mapL fun l _ => rcvLive e l && (e.rcv.get l).gm.getLsbD g.num

/-- The state of a channel. -/
def chanAt (e : EavesSt) (c : Nat) : ChanSt := e.outs.getD c {}

/-- Change a channel. -/
def chanMod (e : EavesSt) (c : Nat) (f : ChanSt → ChanSt) : EavesSt := { e with outs := listMod e.outs c f }

/-- Change a group. -/
def groupMod (e : EavesSt) (g : Plane) (f : GroupSt → GroupSt) : EavesSt := { e with groups := e.groups.modify g f }

/-- Elements of a channel that the drive calls for, withholding by latch or pulse apart. -/
def chanCalled (e : EavesSt) (c : Nat) : BitVec 12 :=
  match e.cfg with
  | none => 0
  | some cfg => if (outEnt cfg c).used then calledElems (chanLanes e cfg c) (chanAt e c).shorted else 0

/-- Elements of a channel whose waveform is present. -/
def chanWaves (e : EavesSt) (c : Nat) : BitVec 12 :=
  let x := chanAt e c
  if x.latch != .none || x.settle || x.pulsing then 0 else chanCalled e c

/-- Elements of a group master that the drive calls for; ENABLE = 0 keeps the master open (R255). -/
def masterCalled (e : EavesSt) (g : Plane) : BitVec 12 :=
  match e.cfg with
  | none => 0
  | some cfg => if cfg.enable.get g then calledElems (masterLanes e g) (e.groups.get g).shorted else 0

/-- Elements of a group master whose waveform is present; CUT and a readback failure keep it open (R264, R268). -/
def masterWaves (e : EavesSt) (g : Plane) : BitVec 12 :=
  let x := e.groups.get g
  if x.latched || x.cut || x.pulsing then 0 else masterCalled e g

/-- The group master is closed, a test pulse apart. -/
def masterOn (e : EavesSt) (g : Plane) : Bool :=
  let x := e.groups.get g
  !x.latched && !x.cut && anyPath (masterCalled e g)

/-- The lanes drive the channel's network. -/
def netDriven (e : EavesSt) (c : Nat) : Bool := anyPath (chanCalled e c)

/-- The channel is energised, a test pulse apart: its own network and its group master conduct (R255). -/
def energised (e : EavesSt) (c : Nat) : Bool :=
  let x := chanAt e c
  x.latch == .none && !x.settle && netDriven e c && masterOn e (outGroup c)

/-- After a change: what each network and master now does; a channel that is switched on or off waits before it is judged
(R263). -/
def refreshOuts (e : EavesSt) : EavesSt :=
  { e with
    outs := (enumFrom0 e.outs).map fun x =>
      let on := energised e x.1
      { x.2 with driven := netDriven e x.1, live := on, since := if on = x.2.live then x.2.since else 0 },
    groups := ⟨{ e.groups.a with driven := anyPath (masterCalled e .A), closed := masterOn e .A },
               { e.groups.b with driven := anyPath (masterCalled e .B), closed := masterOn e .B }⟩ }

/-! ## What the Eaves block sends to a lane (R272) -/

/-- ESTAT. -/
def estatWord (e : EavesSt) : Word :=
  let both (i : Nat) : Bool := e.chains.a.srcFault.getD i false || e.chains.b.srcFault.getD i false
  BitVec.ofNat 32 (bitsOf (
    (e.rcv.toList.map (·.valid)) ++ (Lane.all.map (rcvLive e)) ++ [e.groups.a.closed, e.groups.b.closed, e.groups.a.cut, e.groups.b.cut,
      e.groups.a.warn, e.groups.b.warn] ++ (List.range 4).map both))

/-- Lanes that hold an element of a set. -/
def elemLanes (m : BitVec 12) : List Lane := Lane.all.filter fun l => (List.range 12).any fun i => m.getLsbD i && elemLane i == l

/-- ELEMLANE. -/
def elemLaneByte (e : EavesSt) : Byte :=
  let all (f : ChanSt → BitVec 12) (g : GroupSt → BitVec 12) : List Lane :=
    (e.outs.map f ++ [g e.groups.a, g e.groups.b]).flatMap elemLanes
  let sh := all (·.shorted) (·.shorted)
  let op := all (·.opened) (·.opened)
  BitVec.ofNat 8 (bitsOf (Lane.all.map (fun l => sh.contains l) ++ Lane.all.map (fun l => op.contains l)))

/-- The E frame that the Eaves block now sends to lane l with sequence number q: the Ck sample, and output status, voltages,
currents, supplies and element faults as they stand. CFG_CRC is 0 while no configuration is in force, which R272 leaves open
(DESIGN CHOICE, log entry 103). -/
def eFrameNow (e : EavesSt) (l : Lane) (q : Byte) : EFrame :=
  let bad (x : ChanSt) : Bool := x.shorted != 0 || x.opened != 0
  let badG (x : GroupSt) : Bool := x.shorted != 0 || x.opened != 0
  { rcv := l.num, seq := q, cfgActive := e.cfg.isSome, cycle := e.ck, estat := estatWord e,
    cfgCrc := match e.cfg with | some c => c.crc | none => 0,
    xcode := e.codes.a, ycode := e.codes.b, ostat := e.outs.map (·.code), volt := e.outs.map fun x => min 255 (x.volt / 2),
    curr := e.outs.map fun x => min 255 (x.curr / 10), cntx := e.ctrLatch.a, cnty := e.ctrLatch.b,
    supply := ⟨e.groups.a.supply % 65536, e.groups.b.supply % 65536⟩, elem := BitVec.ofNat 32 (bitsOf (e.outs.map bad)),
    elemLane := elemLaneByte e, elemGm := BitVec.ofNat 8 (ofFlag (badG e.groups.a) + 2 * ofFlag (badG e.groups.b)),
    edge := (List.range 8).map fun i => e.edges.getD (8 * (q.toNat % 8) + i) 0xFFFF }

end Sys2Proof.Machine
end

