-- ==== Sys2Proof/Machine/EavesIn.lean ====
section
/-! DEFINITION. The Batten links (R96, R249, R270 to R276), the Eaves common instant (R243, R256), the configuration (R276,
R279) and the sensing of the inputs (R238 to R248). -/

namespace Sys2Proof.Machine

/-! ## Lane to Eaves block (R271, R275) -/

/-- The module is powered and its dies run. -/
def powered (s : State) : Bool := s.mod.st != .off && !s.ul.diesHeld

/-- A lane that drives: it votes in a state in which outputs follow the vote, and the key is not in TEST (R256). -/
def laneDrives (s : State) (x : LaneSt) : Bool := x.role == .voting && s.mod.st.runs && !inTest s && !s.ul.stopAt

/-- The yealm whose Eaves section a lane sends: from the moment the boundary's checks have passed the one that comes at C(X),
else the active one (R276, R279). -/
def cfgYealm (s : State) (x : LaneSt) : Option Yealm :=
  if s.mod.exch == .copying || s.mod.exch == .ready then (shadowBank x.mram).img else x.yealm

/-- CFG_CYCLE of the section a lane begins to send: X before an exchange, else the present instant (R276, R279). -/
def cfgFrom (s : State) (x : LaneSt) : DWord :=
  if s.mod.exch == .copying || s.mod.exch == .ready then BitVec.ofNat 64 (rgExchX x.work) else s.cyc.k

/-- The lane with the configuration that it sends settled: a section with another CRC starts a new CFG_CYCLE at page 0. -/
def settleCfg (s : State) (x : LaneSt) : LaneSt :=
  let crc := (cfgYealm s x).map (·.eaves.crc)
  if crc = x.cfgSent then x else { x with cfgSent := crc, cfgCycle := cfgFrom s x, cfgPage := 0 }

/-- L frames a lane starts in a cycle: one every 125 us (R270). -/
def framesPerCycle (s : State) : Nat := 8 * periodMs s

/-- The L frame a lane sends now; MARK in the one that starts 100 us before the next instant (R275). -/
def lFrameNow (s : State) (l : Lane) (x : LaneSt) : LFrame :=
  let on := laneDrives s x
  { lane := l.num, seq := x.txSeq + 1, mark := x.txCount + 1 == framesPerCycle s, split := s.mod.st == .split,
    cycle := (s.cyc.k + 1).setWidth 32, dcycle := (if on then x.dcycle else s.cyc.k + 1).setWidth 32,
    drive := if on then x.driveE else 0, gm := if on then x.driveG else 0,
    cfgCycle := x.cfgCycle.setWidth 32, cfgCrc := x.cfgSent.getD 0, cfgPage := x.cfgPage,
    cfgData := match cfgYealm s x with
      | some y => (slice y.eavesRaw (32 * x.cfgPage) 32 ++ zeros 32).take 32
      | none => zeros 32 }

/-- The lane after it has sent a frame: the frame stands in its transmit buffer, depth 2, where the newest replaces the
oldest (R18). -/
def lSent (b : List Byte) (x : LaneSt) : LaneSt :=
  { x with txSeq := x.txSeq + 1, txCount := x.txCount + 1, cfgPage := (x.cfgPage + 1) % 16,
           txBuf := (x.txBuf ++ [b]).drop (x.txBuf.length - 1) }

/-- L_FRAME_SEND: a stopped lane's transmitter is silent (R79), a retired lane sends nothing, nor does one whose Batten port is
under test (R100). -/
def execLFrameSend (l : Lane) (s : State) : Host.Outcome State Fault Refusal :=
  .next (if powered s && !(s.lanes.get l).stopped && !portTested (s.lanes.get l) && (s.lanes.get l).role != .retired then
    onLane s l fun x => let y := settleCfg s x; lSent (lBytes (lFrameNow s l y)) y else s)

/-- Change a receiver. -/
def rcvMod (e : EavesSt) (l : Lane) (f : Receiver → Receiver) : EavesSt := { e with rcv := e.rcv.modify l f }

/-- Put a page among those received, replacing an earlier copy of it. -/
def putPage (ps : List (Nat × List Byte)) (n : Nat) (d : List Byte) : List (Nat × List Byte) :=
  (ps.filter fun p => p.1 != n) ++ [(n, d)]

/-- The receiver takes a valid frame: the newest frame of each of the last two DCYCLE values is kept; pages of another
CFG_CRC are dropped (R256, R276). -/
def takeL (f : LFrame) (r : Receiver) : Receiver :=
  { r with
    seq := some f.seq, valid := true, nValid := r.nValid + 1, split := f.split,
    frames := (f :: r.frames.filter fun g => g.dcycle != f.dcycle).take 2,
    pages := putPage (if f.cfgCrc = r.cfgCrc then r.pages else []) f.cfgPage f.cfgData, cfgCrc := f.cfgCrc, cfgCycle := f.cfgCycle }

/-- The Eaves block with a valid frame of lane l. -/
def takeLAt (e : EavesSt) (l : Lane) (f : LFrame) : EavesSt :=
  let e1 := rcvMod e l (takeL f)
  refreshOuts { e1 with marks := if f.mark then e1.marks ++ [(l, f.cycle)] else e1.marks }

/-- L_FRAME_RECEIVE: the receiver takes the frame its lane sent last; one that is not valid (R273) ends the run of consecutive
valid frames (R274). -/
def execLFrameReceive (l : Lane) (damage : List RWrite) (s : State) : Host.Outcome State Fault Refusal :=
  .next (match (s.lanes.get l).txBuf.getLast? with
    | none => s
    | some b =>
      let s1 := onLane s l fun x => { x with txBuf := [] }
      let b1 := damaged b damage
      if s.mod.st = .off then s1
      else if lValid l (s.eaves.rcv.get l).seq b1 then { s1 with eaves := takeLAt s1.eaves l (lFields b1) }
      else { s1 with eaves := rcvMod s1.eaves l fun r => { r with nValid := 0 } })

/-- The receiver has had no valid frame for 500 us: every waveform of its lane is removed and its bit in ESTAT cleared; it
produces again only after 8 valid frames, from an instant named in DCYCLE (R274). -/
def silentRcv (r : Receiver) : Receiver :=
  { r with seq := none, valid := false, nValid := 0, producing := false, drive := 0, gm := 0, frames := [] }

/-- BATTEN_RECEIVER_TIMEOUT. -/
def execBattenReceiverTimeout (l : Lane) (s : State) : Host.Outcome State Fault Refusal :=
  .next (if s.mod.st != .off then
    { s with eaves := refreshOuts { (rcvMod s.eaves l silentRcv) with marks := s.eaves.marks.filter fun m => m.1 != l } } else s)

/-! ## Eaves block to lane (R249, R272, R274) -/

/-- A lane takes a valid E frame: the newest replaces the oldest in its buffer; the first that carries CYCLE k before input
close is its Ck sample; the edge offsets of inputs 8q + 1 to 8q + 8 are kept. -/
def takeE (k : Word) (closed : Bool) (f : EFrame) (raw : List Byte) (x : LaneSt) : LaneSt :=
  let q := f.seq.toNat % 8
  let sample := x.eFrame.isNone && !closed && f.cycle == k
  { x with
    rxSeq := some f.seq, rxBuf := (x.rxBuf ++ [f]).drop (x.rxBuf.length - 1),
    eFrame := if sample then some f else x.eFrame, eRaw := if sample then raw else x.eRaw,
    edgeBuf := if f.cycle == k then x.edgeBuf.take (8 * q) ++ f.edge ++ x.edgeBuf.drop (8 * q + 8) else x.edgeBuf }

/-- E_FRAME_RECEIVE: `lost` frames of the link did not arrive before this one; a port under test takes none (R396). -/
def execEFrameReceive (l : Lane) (lost : Nat) (damage : List RWrite) (s : State) : Host.Outcome State Fault Refusal :=
  .next (if powered s then
    let q := (s.eaves.rcv.get l).eSeq + BitVec.ofNat 8 (lost + 1)
    let s1 := { s with eaves := rcvMod s.eaves l fun r => { r with eSeq := q } }
    let b := damaged (eBytes (eFrameNow s.eaves l q)) damage
    if !portTested (s.lanes.get l) && eValid l (s.lanes.get l).rxSeq b then onLane s1 l (takeE (s.cyc.k.setWidth 32) s.cyc.closed (eFields b) b) else s1
  else s)

/-- BATTEN_DEADLINE: no valid Eaves frame for 500 us, or the Eaves block reports the lane silent; after it any SEQ is taken
(R96, R273). -/
def execBattenDeadline (l : Lane) (s : State) : Host.Outcome State Fault Refusal :=
  .next (if powered s then onLane s l fun x => { x with battenMiss := true, rxSeq := none } else s)

/-! ## The Eaves common instant (R238, R243, R256, R275) -/

/-- k of the instant: CYCLE of the second-earliest MARK among the receivers with valid frames, or of the only one when only
one is valid (R275). -/
def markedCycle (e : EavesSt) : Option Word :=
  let live := e.rcv.toList.filter (·.valid)
  let ms := e.marks.filter fun m => (e.rcv.get m.1).valid
  if live.length = 1 then ms.head?.map (·.2) else (ms[1]?).map (·.2)

/-- The receiver at the instant: DRIVE and GM of the newest frame whose DCYCLE names it, else what stands; it starts to produce
waveforms after 8 valid frames from such an instant (R256, R274). -/
def rcvInstant (ck : Word) (r : Receiver) : Receiver :=
  match r.frames.find? fun f => f.dcycle == ck with
  | none => r
  | some f => { r with drive := f.drive, gm := f.gm, producing := r.producing || 8 ≤ r.nValid }

/-- Test interval in cycles (R258). -/
def nti (ti periodMs : Nat) : Nat := ti * 100 / periodMs

/-- A chain counts the rising edges of the period that ends on every input in counter or frequency mode (R247). -/
def countEdges (cfg : Option EavesCfg) (edges : List Nat) (ch : ChainSt) : ChainSt :=
  { ch with ctrs := (enumFrom0 ch.ctrs).map fun x =>
      match cfg with
      | some c => if 2 ≤ (inEnt c (56 + x.1)).mode then { x.2 with count := x.2.count + BitVec.ofNat 32 (edges.getD x.1 0) } else x.2
      | none => x.2 }

/-- Codes and counters latched from the chains as the configuration in force has them (R243, R247). -/
def latchCodes (e : EavesSt) : EavesSt :=
  { e with
    codes := e.chains.map (inCodes e.cfg), ctrLatch := e.chains.map fun ch => (List.range 8).map (ctrValue e.cfg ch) }

/-- The codes, counters and edge offsets latched at the instant; the next period's first change is looked for anew (R243). -/
def latchSample (e : EavesSt) : EavesSt :=
  let clear (ch : ChainSt) : ChainSt := { ch with ins := ch.ins.map fun x => { x with edge := 0xFFFF } }
  let e1 := latchCodes e
  { e1 with edges := e.chains.a.ins.map (·.edge), chains := e.chains.map clear }

/-- A channel at the instant: whether its drive changed, and the end of its SETTLING (R260, R279). -/
def instantOuts (before : EavesSt) (e : EavesSt) : EavesSt :=
  { e with
    outs := (enumFrom0 e.outs).map fun x =>
      { x.2 with settle := false, changed := netDriven e x.1 != netDriven before x.1 },
    groups := ⟨{ e.groups.a with changed := anyPath (masterCalled e .A) != anyPath (masterCalled before .A) },
               { e.groups.b with changed := anyPath (masterCalled e .B) != anyPath (masterCalled before .B) }⟩ }

/-- The place in the test interval (R258). -/
def stepInterval (e : EavesSt) (p : Nat) : EavesSt :=
  match e.cfg with
  | none => e
  | some c =>
    let j := e.ck.toNat % nti c.ti p
    { e with j := j, interval := if j = 0 then e.interval + 1 else e.interval }

/-- The instant with cycle number ck. -/
def eavesInstantAt (ck : Word) (edgesX edgesY : List Nat) (p : Nat) (e : EavesSt) : EavesSt :=
  let e1 := { e with ck := ck, marks := [], window := 0,
                     chains := ⟨countEdges e.cfg edgesX e.chains.a, countEdges e.cfg edgesY e.chains.b⟩ }
  let e2 := latchSample e1
  let e3 := { e2 with rcv := e2.rcv.map (rcvInstant ck) }
  refreshOuts (instantOuts e2 (stepInterval e3 p))

/-- EAVES_COMMON_INSTANT: no instant is taken where no MARK gives it. -/
def execEavesCommonInstant (edgesX edgesY : List Nat) (s : State) : Host.Outcome State Fault Refusal :=
  .next (match s.mod.st != .off, markedCycle s.eaves with
    | true, some ck => { s with eaves := eavesInstantAt ck edgesX edgesY (periodMs s) s.eaves }
    | _, _ => s)

/-! ## The configuration (R276, R279) -/

/-- A receiver's pages in order, when it holds all 16. -/
def cfgBytes (r : Receiver) : Option (List Byte) :=
  let ps := (List.range 16).filterMap fun i => (r.pages.find? fun p => p.1 == i).map (·.2)
  if ps.length = 16 then some ps.flatten else none

/-- The section a receiver holds complete, with a correct CRC-32C that is its CFG_CRC. -/
def cfgHeld (r : Receiver) : Option (List Byte) :=
  match cfgBytes r with
  | some b => if fldLE b 0x1FC 4 = (crc32c (b.take 0x1FC)).toNat && fldLE b 0x1FC 4 = r.cfgCrc.toNat then some b else none
  | none => none

/-- A cycle number has been reached, in the low 32 bits. -/
def reached (ck at_ : Word) : Bool := (ck - at_).toNat < 2 ^ 31

/-- The configuration that comes into force: held by two receivers with an equal CFG_CRC, its CFG_CYCLE reached. -/
def cfgDue (e : EavesSt) : Option (List Byte) :=
  let holds := e.rcv.toList.filter fun r => (cfgHeld r).isSome && reached e.ck r.cfgCycle
  match holds.find? fun r => 2 ≤ (holds.filter fun q => q.cfgCrc == r.cfgCrc).length with
  | some r => cfgHeld r
  | none => none

/-- The assignment or the kind of measuring of an input changes (R279). -/
def inChanged (a b : EavesIn) : Bool := a.src != b.src || a.mode != b.mode || a.gate != b.gate

/-- Inputs of a chain after a change: SETTLING for the filter time, or in frequency mode until the first gate has passed. -/
def settleIns (old new : EavesCfg) (ch : ChainSt) : ChainSt :=
  { ch with
    ins := (enumFrom0 ch.ins).map fun x =>
      if inChanged (inEnt old x.1) (inEnt new x.1) then { x.2 with settle := (inEnt new x.1).filt, cnt := 0 } else x.2,
    ctrs := (enumFrom0 ch.ctrs).map fun x =>
      if inChanged (inEnt old (56 + x.1)) (inEnt new (56 + x.1)) then { x.2 with settle := (inEnt new (56 + x.1)).mode == 3 } else x.2 }

/-- PAR, USED or the group ENABLE of a channel changes (R279). -/
def outChanged (old new : EavesCfg) (c : Nat) : Bool :=
  (outEnt old c).par != (outEnt new c).par || (outEnt old c).used != (outEnt new c).used ||
    old.enable.get (outGroup c) != new.enable.get (outGroup c)

/-- The place in the test interval of the configuration that has come into force at this instant: its TI holds at once. -/
def newInterval (p : Nat) (e : EavesSt) (new : EavesCfg) : EavesSt :=
  let j := e.ck.toNat % nti new.ti p
  { e with j := j, interval := if j = 0 && (e.j != 0 || e.cfg.isNone) then e.interval + 1 else e.interval }

/-- The new configuration is in force: the sample of the instant and the test interval are already under it. -/
def cfgInForce (p : Nat) (e : EavesSt) (new : EavesCfg) : EavesSt :=
  let e1 := { (newInterval p e new) with cfg := some new }
  let e2 := match e.cfg with
    | none => { e1 with outs := e1.outs.map fun x => { x with since := 16 } }
    | some old =>
      { e1 with
        chains := e1.chains.map (settleIns old new),
        outs := (enumFrom0 e1.outs).map fun x => if outChanged old new x.1 then { x.2 with settle := true, code := 8 } else x.2 }
  refreshOuts (latchCodes e2)

/-- EAVES_CONFIG_IN_FORCE. -/
def execEavesConfigInForce (s : State) : Host.Outcome State Fault Refusal :=
  .next (match s.mod.st != .off, cfgDue s.eaves with
    | true, some b =>
      if (s.eaves.cfg.map (·.crc)) = some (eavesCfgOf b).crc then s else { s with eaves := cfgInForce (periodMs s) s.eaves (eavesCfgOf b) }
    | _, _ => s)

/-! ## Windows (R239 to R245) -/

/-- The pattern of a window: readings at TS1 to TS4 and the quiet point in 0.1 V, own slot 0 to 3 (R239). -/
def patternOf (own : Nat) (v : List Nat) : Pattern :=
  if 50 < v.getD 4 0 then .const
  else if (List.range 4).any fun i => i != own && 50 < v.getD i 0 then .cross
  else if 110 ≤ v.getD own 0 then .on
  else if v.getD own 0 ≤ 50 then .off
  else .mid

/-- The filter's count over a window (R240). -/
def filterCount (p : Pattern) (toward : Bool) (cnt : Nat) : Bool × Nat :=
  match p with
  | .on => if toward then (true, cnt + 1) else (true, 1)
  | .off => if toward then (false, 1) else (false, cnt + 1)
  | .mid => (toward, cnt)
  | .const | .cross => (toward, 0)

/-- An input over one window (R239 to R241). -/
def windowIn (own : Nat) (v : List Nat) (x : ChainIn) : ChainIn :=
  let p := patternOf own v
  let f := filterCount p x.toward x.cnt
  { x with
    pat := p, toward := f.1, cnt := f.2,
    nConst := if p = .const then x.nConst + 1 else 0, nCross := if p = .cross then x.nCross + 1 else 0,
    nMid := if p = .mid then x.nMid + 1 else 0, nGood := if p = .on || p = .off then x.nGood + 1 else 0,
    settle := x.settle - 1 }

/-- A sense source misreads in a window: below 15 V at its own point or above 5 V at another (R242). -/
def srcMisread (i : Nat) (v : List Nat) : Bool :=
  v.getD i 0 < 150 || (List.range 5).any fun j => j != i && 50 < v.getD j 0

/-- The window shows the pair's OFF combination (R245). -/
def pairOff (mode : Nat) (lower upper : Pattern) : Bool := lower == .off && (if mode = 1 then upper == .off else upper == .on)

/-- A pair over one window: the discrepancy timer, and the count towards the clearing of DISC (R245). -/
def windowPair (mode : Nat) (lo up : ChainIn) (x : PairSt) : PairSt :=
  if mode = 0 then { x with timer := none, disc := false, nOff := 0 }
  else
    { x with
      timer := if pairDiffer mode lo.filt up.filt then some (x.timer.getD 0 + 1) else none,
      nOff := if pairOff mode lo.pat up.pat then x.nOff + 1 else 0 }

/-- A chain's inputs and pairs over one window. -/
def windowIns (cfg : EavesCfg) (w : ChainWindow) (ch : ChainSt) : ChainSt :=
  let ins := (enumFrom0 ch.ins).map fun x =>
    if (inEnt cfg x.1).mode = 1 then windowIn (inEnt cfg x.1).src (w.ins.getD x.1 []) x.2 else { x.2 with settle := x.2.settle - 1 }
  { ch with
    ins := ins,
    pairs := (enumFrom0 ch.pairs).map fun x =>
      windowPair (inEnt cfg (2 * x.1)).pair (ins.getD (2 * x.1) {}) (ins.getD (2 * x.1 + 1) {}) x.2 }

/-- A chain's read-back of the sense sources over one window, whatever configuration is in force (R242). -/
def windowSrcs (w : ChainWindow) (ch : ChainSt) : ChainSt :=
  let mis (i : Nat) : Bool := srcMisread i (w.srcs.getD i [])
  { ch with
    srcBad := (enumFrom0 ch.srcBad).map fun x => if mis x.1 then x.2 + 1 else 0,
    srcGood := (enumFrom0 ch.srcGood).map fun x => if mis x.1 then 0 else x.2 + 1 }

/-- A chain over one window: no input is sensed until a configuration is in force (R276). -/
def windowChain (cfg : Option EavesCfg) (w : ChainWindow) (ch : ChainSt) : ChainSt :=
  windowSrcs w (match cfg with | some c => windowIns c w ch | none => ch)

/-- EAVES_WINDOW_END. -/
def execEavesWindowEnd (x y : ChainWindow) (s : State) : Host.Outcome State Fault Refusal :=
  .next (if s.mod.st != .off then
    let e := s.eaves
    { s with eaves := { e with chains := ⟨windowChain e.cfg x e.chains.a, windowChain e.cfg y e.chains.b⟩, window := e.window + 1 } }
    else s)

/-- Change one chain. -/
def chainMod (s : State) (c : Chain) (f : ChainSt → ChainSt) : State :=
  { s with eaves := { s.eaves with chains := s.eaves.chains.modify c.side f } }

/-- One chain. -/
def chainAt (s : State) (c : Chain) : ChainSt := s.eaves.chains.get c.side

/-- Change one input of one chain. -/
def inMod (s : State) (c : Chain) (i : Nat) (f : ChainIn → ChainIn) : State :=
  chainMod s c fun ch => { ch with ins := listMod ch.ins i f }

/-- FILT of an input, in windows. -/
def filtOf (s : State) (i : Nat) : Nat := match s.eaves.cfg with | some c => (inEnt c i).filt | none => 0

/-- An input is sensed in pulsed mode by the configuration in force. -/
def pulsed (s : State) (i : Nat) : Bool := match s.eaves.cfg with | some c => (inEnt c i).mode == 1 | none => false

/-- The filter's count has reached FILT towards the other state. -/
def filterDue (filt : Nat) (x : ChainIn) : Bool := filt ≤ x.cnt && x.toward != x.filt

/-- Sample point of a source in its window [us] (R238). -/
def samplePoint (src : Nat) : Nat := 40 + 125 * src

/-- Time of a change of the filtered state after the instant [us]: the sample point in the window that ended last (R243, R369). -/
def edgeOffset (s : State) (i : Nat) : Half :=
  let src := match s.eaves.cfg with | some c => (inEnt c i).src | none => 0
  BitVec.ofNat 16 (500 * (s.eaves.window - 1) + samplePoint src)

/-- FILTER_CHANGE: the filtered state changes; chain X's first change after the instant gives the edge offset (R240, R243). -/
def execFilterChange (c : Chain) (inp : Nat) (s : State) : Host.Outcome State Fault Refusal :=
  .next (if pulsed s inp && filterDue (filtOf s inp) (chainIn (chainAt s c) inp) then
    inMod s c inp fun x =>
      { x with filt := x.toward, cnt := 0, edge := if x.edge = 0xFFFF then edgeOffset s inp else x.edge }
    else s)

/-- INPUT_FAULT_SET: CONST and CROSS after 3 windows, UNDEFINED after 41 (R241). -/
def execInputFaultSet (c : Chain) (inp : Nat) (s : State) : Host.Outcome State Fault Refusal :=
  .next (if pulsed s inp then
    inMod s c inp fun x =>
      { x with fConst := x.fConst || 3 ≤ x.nConst, fCross := x.fCross || 3 ≤ x.nCross, fUndef := x.fUndef || 41 ≤ x.nMid }
    else s)

/-- Windows in 1 s. -/
def windowsPerS : Nat := 2000

/-- INPUT_FAULT_CLEAR: after 1 s of only ON or OFF windows (R241). -/
def execInputFaultClear (c : Chain) (inp : Nat) (s : State) : Host.Outcome State Fault Refusal :=
  .next (if pulsed s inp && windowsPerS ≤ (chainIn (chainAt s c) inp).nGood then
    inMod s c inp fun x => { x with fConst := false, fCross := false, fUndef := false } else s)

/-- SOURCE_FAULT_SET: after 3 misread windows (R242). -/
def execSourceFaultSet (c : Chain) (src : Nat) (s : State) : Host.Outcome State Fault Refusal :=
  .next (if s.mod.st != .off && 3 ≤ (chainAt s c).srcBad.getD src 0 then
    chainMod s c fun ch => { ch with srcFault := listMod ch.srcFault src fun _ => true } else s)

/-- SOURCE_FAULT_CLEAR: after 1 s of correct windows (R242). -/
def execSourceFaultClear (c : Chain) (src : Nat) (s : State) : Host.Outcome State Fault Refusal :=
  .next (if s.mod.st != .off && windowsPerS ≤ (chainAt s c).srcGood.getD src 0 then
    chainMod s c fun ch => { ch with srcFault := listMod ch.srcFault src fun _ => false } else s)

/-- Change one pair of one chain. -/
def pairMod (s : State) (c : Chain) (i : Nat) (f : PairSt → PairSt) : State :=
  chainMod s c fun ch => { ch with pairs := listMod ch.pairs i f }

/-- Discrepancy time of a pair in windows. -/
def discWindows (s : State) (i : Nat) : Nat := match s.eaves.cfg with | some c => 2 * (inEnt c (2 * i)).disc | none => 0

/-- DISC_TIMER_EXPIRY: the lower input shows DISC (R245). -/
def execDiscTimerExpiry (c : Chain) (pair : Nat) (s : State) : Host.Outcome State Fault Refusal :=
  .next (match ((chainAt s c).pairs.getD pair {}).timer with
    | some n => if s.eaves.cfg.isSome && discWindows s pair ≤ n then pairMod s c pair fun x => { x with disc := true } else s
    | none => s)

/-- The larger FILT of a pair's inputs. -/
def pairFilt (s : State) (i : Nat) : Nat := max (filtOf s (2 * i)) (filtOf s (2 * i + 1))

/-- DISC_CLEAR: FILT consecutive windows in the OFF combination (R245). -/
def execDiscClear (c : Chain) (pair : Nat) (s : State) : Host.Outcome State Fault Refusal :=
  .next (if s.eaves.cfg.isSome && pairFilt s pair ≤ ((chainAt s c).pairs.getD pair {}).nOff then
    pairMod s c pair fun x => { x with disc := false } else s)

/-! ## Frequency (R248) -/

/-- Measured frequency in 0.1 Hz from the rising edges of a gate and the time from the first to the last: 0 below 1 Hz,
all ones above 25 kHz, else rounded down to the gate's resolution. -/
def freqOf (gate edges spanNs : Nat) : Word :=
  if edges < 2 || spanNs = 0 then 0
  else
    let n := (edges - 1) * 10000000000
    if 250000 * spanNs < n then 0xFFFFFFFF
    else if n < 10 * spanNs then 0
    else BitVec.ofNat 32 (n / spanNs / gateStep gate * gateStep gate)

/-- COUNTER_GATE_END: the gate of an input in frequency mode ends; its value is that of the last completed gate. -/
def execCounterGateEnd (c : Chain) (inp : Nat) (edges spanNs : Nat) (s : State) : Host.Outcome State Fault Refusal :=
  .next (match s.eaves.cfg with
    | some cfg =>
      if s.mod.st != .off && 56 ≤ inp && (inEnt cfg inp).mode = 3 then
        chainMod s c fun ch =>
          { ch with ctrs := listMod ch.ctrs (inp - 56) fun x => { x with freq := freqOf (inEnt cfg inp).gate edges spanNs, settle := false } }
      else s
    | none => s)

end Sys2Proof.Machine
end

