-- ==== Sys2Proof/Machine/EavesOut.lean ====
section
/-! DEFINITION. The Eaves outputs: readings and judgement (R254, R262 to R266), test pulses (R258 to R261), overcurrent (R267)
and the field supplies (R268, R269). -/

namespace Sys2Proof.Machine

/-! ## Status codes (R262) -/

/-- ON. -/
def oON : Nat := 0x1
/-- OFF. -/
def oOFF : Nat := 0x0
/-- FAULT. -/
def oFAULT : Nat := 0x2
/-- FOREIGN. -/
def oFOREIGN : Nat := 0x3
/-- CROSS. -/
def oCROSS : Nat := 0x4
/-- TRIPPED. -/
def oTRIPPED : Nat := 0x5
/-- LATCHED. -/
def oLATCHED : Nat := 0x6
/-- GROUP_OFF. -/
def oGROUPOFF : Nat := 0x7
/-- SETTLING. -/
def oSETTLING : Nat := 0x8
/-- UNUSED. -/
def oUNUSED : Nat := 0xF

/-! ## Element faults (R254) -/

/-- A bit set of elements, from a test of each. -/
def elemSet (p : Nat → Bool) : BitVec 12 := BitVec.ofNat 12 (bitsOf ((List.range 12).map p))

/-- Elements found SHORTED by a reading: conducting without waveform now and at the last reading. -/
def shortNow (waves cond seen : BitVec 12) : BitVec 12 := cond &&& ~~~waves &&& seen

/-- Elements found OPEN by a reading, the group supply at or above 17.0 V. -/
def openNow (waves cond : BitVec 12) (supply : Nat) : BitVec 12 := if 170 ≤ supply then waves &&& ~~~cond else 0

/-- ELEMENT_SHORT or ELEMENT_OPEN for each element newly found: channel, lane, path; a group master is number 33 or 34. -/
def elemAlarms (s : State) (code num : Nat) (old new : BitVec 12) : State :=
  ((List.range 12).filter fun i => new.getLsbD i && !old.getLsbD i).foldl
    (fun s i => raiseEaves s code (argInst (arg1 num ++ arg1 (elemLane i).num ++ arg1 (i / 2)))) s

/-- Group supply at a group [0.1 V]. -/
def supplyAt (e : EavesSt) (g : Plane) : Nat := (e.groups.get g).supply

/-- The element senses of channel c. -/
def senseChan (m : EavesMeas) (s : State) (c : Nat) : State :=
  let x := chanAt s.eaves c
  let w := chanWaves s.eaves c
  let cond := m.elems.getD c 0
  let sh := x.shorted ||| shortNow w cond x.seen
  let op := x.opened ||| openNow w cond (supplyAt s.eaves (outGroup c))
  let s1 := elemAlarms (elemAlarms s 0x0601 (c + 1) x.shorted sh) 0x0602 (c + 1) x.opened op
  { s1 with eaves := chanMod s1.eaves c fun x => { x with shorted := sh, opened := op, seen := cond &&& ~~~w } }

/-- The element senses of a group master. -/
def senseMaster (m : EavesMeas) (s : State) (g : Plane) : State :=
  let x := s.eaves.groups.get g
  let w := masterWaves s.eaves g
  let cond := m.gmElems.get g
  let sh := x.shorted ||| shortNow w cond x.seen
  let op := x.opened ||| openNow w cond x.supply
  let s1 := elemAlarms (elemAlarms s 0x0601 (32 + groupNum g) x.shorted sh) 0x0602 (32 + groupNum g) x.opened op
  { s1 with eaves := groupMod s1.eaves g fun x => { x with shorted := sh, opened := op, seen := cond &&& ~~~w } }

/-! ## Judgement (R263 to R266) -/

/-- The channel's unit, itself alone while no configuration is in force. -/
def unitAt (e : EavesSt) (c : Nat) : List Nat := match e.cfg with | some cfg => unitOf cfg c | none => [c]

/-- Change every channel of a unit. -/
def unitMod (e : EavesSt) (c : Nat) (f : ChanSt → ChanSt) : EavesSt := (unitAt e c).foldl (fun e i => chanMod e i f) e

/-- FOREIGN: the drive is withheld from now on; the alarm names channel and group. The interval is kept while an off-case
failure may still be attributed. -/
def foreignChan (s : State) (c : Nat) (off : Bool) : State :=
  let s1 := raiseEaves s 0x0605 (argInst (arg1 (c + 1) ++ arg1 (groupNum (outGroup c))))
  let e := unitMod s1.eaves c fun x => { x with latch := .foreign, code := oFOREIGN }
  { s1 with eaves := chanMod e c fun x => { x with offCase := if off then some s1.eaves.interval else none } }

/-- The group master opens and stays open until reset (R264). -/
def openMaster (s : State) (g : Plane) : State := { s with eaves := groupMod s.eaves g fun x => { x with latched := true } }

/-- CROSS: both channels have their drive withheld until reset; the alarm names both (R265). -/
def crossChans (s : State) (c d : Nat) : State :=
  let s1 := raiseEaves s 0x0606 (argInst (arg1 (c + 1) ++ arg1 (d + 1)))
  let e1 := unitMod s1.eaves c fun x => { x with latch := .cross, code := oCROSS, crossWith := some d, offCase := none }
  { s1 with eaves := unitMod e1 d fun x => { x with latch := .cross, code := oCROSS, crossWith := some c, offCase := none } }

/-- What a reading says of a channel: its code, or a readback failure of the off case (R263). -/
inductive Judged where
  | code (n : Nat)
  | offCase
  deriving DecidableEq, Repr

/-- The judgement of a channel whose drive a latch withholds: a network that is not driven is a readback failure at or above 5 V
(R263), unless its failure is already latched (R264, R265); none for a trip, which the next clauses judge. -/
def judgeLatch (l : ChanLatch) (v : Nat) : Option Judged :=
  match l with
  | .cross => some (.code oCROSS)
  | .latched => some (if 50 ≤ v then .offCase else .code oLATCHED)
  | .foreign => some (.code (if 50 ≤ v then oFOREIGN else oLATCHED))
  | .none | .tripped => none

/-- R263, but for the end of a pulse. -/
def judge (driven masterOpen tripped openChk : Bool) (v curr supply : Nat) : Judged :=
  if !driven || masterOpen then
    if 50 ≤ v then .offCase else if masterOpen then .code oGROUPOFF else .code oOFF
  else if tripped then .code oTRIPPED
  else if v + 30 < supply || (openChk && curr < 10) then .code oFAULT
  else .code oON

/-- The judgement waits 1 ms after a switch-on and 2 ms after a switch-off (R263). -/
def judgeWaits (x : ChanSt) : Bool := if x.live then x.since < 8 else x.since < 16

/-- Judge channel c on the stored reading. A reading while the channel or its group master is pulsed is not judged, its network
being blanked: the end of the pulse judges it (DESIGN CHOICE, log entry 104). -/
def judgeChan (s : State) (c : Nat) : State :=
  match s.eaves.cfg with
  | none => s
  | some cfg =>
    let e := s.eaves
    let x := chanAt e c
    let put (n : Nat) : State := { s with eaves := chanMod e c fun x => { x with code := n } }
    let act (j : Judged) : State := match j with | .code n => put n | .offCase => foreignChan s c true
    if x.settle then put oSETTLING
    else if !(outEnt cfg c).used then put oUNUSED
    else if x.pulsing || (e.groups.get (outGroup c)).pulsing then s
    else
      match judgeLatch x.latch x.volt with
      | some (.code n) => put n
      | some .offCase => if judgeWaits x then s else act .offCase
      | none =>
        if judgeWaits x then s
        else act (judge (netDriven e c) (!masterOn e (outGroup c)) (x.latch == .tripped) (outEnt cfg c).openChk x.volt x.curr
          (supplyAt e (outGroup c)))

/-- Every member of a unit reports the same code (R257): the first of its members that is neither ON nor OFF, else the lowest's. -/
def shareCodes (s : State) : State :=
  match s.eaves.cfg with
  | none => s
  | some cfg =>
    { s with eaves := { s.eaves with
        outs := (enumFrom0 s.eaves.outs).map fun x =>
          let us := unitOf cfg x.1
          let codes := us.map fun i => (chanAt s.eaves i).code
          if us.length ≤ 1 then x.2
          else { x.2 with code := ((codes.find? fun n => n != oON && n != oOFF).getD (codes.headD x.2.code)) } } }

/-- A group's supply as a reading finds it, with the counts of readings below 17.0 V and at or above 20.4 V (R268, R269). -/
def storeSupply (v : Nat) (x : GroupSt) : GroupSt :=
  { x with supply := v, low := if v < 170 then x.low + 1 else 0, high := if 204 ≤ v then x.high + 1 else 0 }

/-- Store the voltages, currents and supplies of a reading, and count it. -/
def storeMeas (m : EavesMeas) (e : EavesSt) : EavesSt :=
  { e with
    outs := (enumFrom0 e.outs).map fun x =>
      { x.2 with volt := m.volt.getD x.1 0, curr := m.curr.getD x.1 0, since := x.2.since + 1 },
    groups := ⟨storeSupply m.supply.a e.groups.a, storeSupply m.supply.b e.groups.b⟩ }

/-- Channels being pulsed, themselves or with their group master. -/
def pulsingChans (e : EavesSt) : List Nat := (List.range 32).filter fun c => (chanAt e c).pulsing

/-- An off-case failure is attributed: the voltage of the failed channel has fallen below 5 V within the pulse of another
channel (R263). -/
def explainOff (before : EavesSt) (p : List Nat) (s : State) : State :=
  match p with
  | [] => s
  | d :: _ =>
    ((List.range 32).filter fun c => (chanAt s.eaves c).offCase.isSome && !p.contains c && 50 ≤ (chanAt before c).volt &&
      (chanAt s.eaves c).volt < 50).foldl (fun s c => crossChans s c d) s

/-- A reading: element senses, then each channel's judgement. -/
def readingAt (m : EavesMeas) (s : State) : State :=
  let s0 := { s with eaves := storeMeas m s.eaves }
  let s1 := (List.range 32).foldl (senseChan m) s0
  let s2 := [Plane.A, Plane.B].foldl (senseMaster m) s1
  let s3 := explainOff s.eaves (pulsingChans s.eaves) s2
  let s4 := shareCodes ((List.range 32).foldl judgeChan s3)
  { s4 with eaves := refreshOuts s4.eaves }

/-- READBACK_READING. -/
def execReadbackReading (m : EavesMeas) (s : State) : Host.Outcome State Fault Refusal :=
  .next (if s.mod.st != .off then readingAt m s else s)

/-! ## Test pulses (R258 to R261) -/

/-- The cycle j of a network's slot (R258). -/
def slotJ : NetId → Nat
  | .chan c => c / 8
  | .master _ => 4

/-- A network's slot: it is pulsed, its pulse abandoned (an abandoned pulse of a group that is cut does not count, R269), or no
pulse is due, which ends a run of intervals with an abandoned pulse. -/
inductive Slot where
  | pulse | abandon (counts : Bool) | noPulse
  deriving DecidableEq, Repr

/-- The change of drive at the instant that opened the cycle abandons the pulse, switch-off included, but not after three
intervals with an abandoned pulse, whose fourth runs (R260). -/
def demandWins (changed : Bool) (abandoned : Nat) : Bool := changed && abandoned < 3

/-- What happens at a channel's slot (R259, R260). -/
def chanSlot (e : EavesSt) (c : Nat) : Slot :=
  let x := chanAt e c
  if demandWins x.changed x.abandoned || (netDriven e c && !energised e c) then .abandon (!(e.groups.get (outGroup c)).cut)
  else if netDriven e c then .pulse
  else .noPulse

/-- What happens at a group master's slot (R261): it is pulsed only when closed with a channel of its group energised. -/
def masterSlot (e : EavesSt) (g : Plane) : Slot :=
  let x := e.groups.get g
  if demandWins x.changed x.abandoned || (anyPath (masterCalled e g) && !masterOn e g) then .abandon (!x.cut)
  else if masterOn e g && (groupChans g).any (energised e) then .pulse
  else .noPulse

/-- A channel's slot takes its course; the members of a unit are pulsed together in the slot of the lowest (R257). -/
def pulseChan (e : EavesSt) (cfg : EavesCfg) (c : Nat) : EavesSt :=
  if !(outEnt cfg c).used || unitBase (outEnt cfg c) c != c then e
  else
    match chanSlot e c with
    | .pulse => unitMod e c fun x => { x with pulsing := true, abandoned := 0 }
    | .abandon true => unitMod e c fun x => { x with abandoned := x.abandoned + 1 }
    | .noPulse => unitMod e c fun x => { x with abandoned := 0 }
    | .abandon false => e

/-- A group master's slot takes its course. -/
def pulseMaster (e : EavesSt) (g : Plane) : EavesSt :=
  match masterSlot e g with
  | .pulse => groupMod e g fun x => { x with pulsing := true, abandoned := 0 }
  | .abandon true => groupMod e g fun x => { x with abandoned := x.abandoned + 1 }
  | .noPulse => groupMod e g fun x => { x with abandoned := 0 }
  | .abandon false => e

/-- TEST_PULSE_START: in the cycle j of the network's slot. -/
def execTestPulseStart (net : NetId) (s : State) : Host.Outcome State Fault Refusal :=
  .next (match s.mod.st != .off, s.eaves.cfg with
    | true, some cfg =>
      if s.eaves.j = slotJ net then
        match net with
        | .chan c => { s with eaves := pulseChan s.eaves cfg c }
        | .master g => { s with eaves := pulseMaster s.eaves g }
      else s
    | _, _ => s)

/-- Another energised channel whose current rose by 50 mA or more during the pulse. -/
def risen (e : EavesSt) (p : List Nat) (rose : List Nat) : Option Nat :=
  (List.range 32).find? fun d => !p.contains d && energised e d && 50 ≤ rose.getD d 0

/-- A readback failure of the on case (R263): CROSS with the channel whose current rose, else FOREIGN and the group master opens
at once. -/
def onCase (p : List Nat) (rose : List Nat) (s : State) (c : Nat) : State :=
  match risen s.eaves p rose with
  | some d => crossChans s c d
  | none => openMaster (foreignChan s c false) (outGroup c)

/-- Elements that still conduct at the end of their network's pulse are SHORTED (R259). -/
def pulseElems (m : EavesMeas) (s : State) (c : Nat) : State :=
  let x := chanAt s.eaves c
  let sh := x.shorted ||| m.elems.getD c 0
  let s1 := elemAlarms s 0x0601 (c + 1) x.shorted sh
  { s1 with eaves := chanMod s1.eaves c fun x => { x with shorted := sh } }

/-- The same for a group master. -/
def pulseElemsG (m : EavesMeas) (s : State) (g : Plane) : State :=
  let x := s.eaves.groups.get g
  let sh := x.shorted ||| m.gmElems.get g
  let s1 := elemAlarms s 0x0601 (32 + groupNum g) x.shorted sh
  { s1 with eaves := groupMod s1.eaves g fun x => { x with shorted := sh } }

/-- Voltages and currents at the end of a pulse; a pulse's end is no reading of the 125 us raster. -/
def pulseMeas (m : EavesMeas) (e : EavesSt) : EavesSt :=
  { e with outs := (enumFrom0 e.outs).map fun x => { x.2 with volt := m.volt.getD x.1 0, curr := m.curr.getD x.1 0 } }

/-- The end of a channel's pulse. -/
def endChan (c : Nat) (m : EavesMeas) (rose : List Nat) (s : State) : State :=
  let us := unitAt s.eaves c
  let s1 := us.foldl (pulseElems m) { s with eaves := pulseMeas m s.eaves }
  let s2 := explainOff s.eaves us s1
  let s3 := (us.filter fun i => 50 ≤ (chanAt s2.eaves i).volt).foldl (onCase us rose) s2
  let s4 := shareCodes s3
  { s4 with eaves := refreshOuts (unitMod s4.eaves c fun x => { x with pulsing := false }) }

/-- The end of a group master's pulse: every energised channel of the group must have fallen below 5 V. -/
def endMaster (g : Plane) (m : EavesMeas) (rose : List Nat) (s : State) : State :=
  let cs := (groupChans g).filter (energised s.eaves)
  let s1 := pulseElemsG m { s with eaves := pulseMeas m s.eaves } g
  let s2 := (cs.filter fun i => 50 ≤ (chanAt s1.eaves i).volt).foldl (onCase cs rose) s1
  let s3 := shareCodes s2
  { s3 with eaves := refreshOuts (groupMod s3.eaves g fun x => { x with pulsing := false }) }

/-- TEST_PULSE_END. -/
def execTestPulseEnd (net : NetId) (m : EavesMeas) (roseMa : List Nat) (s : State) : Host.Outcome State Fault Refusal :=
  .next (match net with
    | .chan c => if (chanAt s.eaves c).pulsing then endChan c m roseMa s else s
    | .master g => if (s.eaves.groups.get g).pulsing then endMaster g m roseMa s else s)

/-- CROSS_WINDOW_END: at the end of cycle j = 3 of the interval after the one of the failure, a failure no channel's pulse has
explained opens the group master (R263). -/
def execCrossWindowEnd (s : State) : Host.Outcome State Fault Refusal :=
  .next (if s.mod.st != .off && s.eaves.j == 3 then
    let due := (List.range 32).filter fun c =>
      match (chanAt s.eaves c).offCase with | some n => n < s.eaves.interval | none => false
    let s1 := due.foldl (fun s c => openMaster { s with eaves := chanMod s.eaves c fun x => { x with offCase := none } } (outGroup c)) s
    { s1 with eaves := refreshOuts s1.eaves }
  else s)

/-! ## Overcurrent (R267) -/

/-- Readings of 125 us in 1 s. -/
def readingsPerS : Nat := 8000

/-- Current limit of a channel [mA]: with INRUSH set, 4.0 A for the first 2 ms after a switch-on or retry. -/
def tripLimit (inrush : Bool) (since : Nat) : Nat := if inrush && since ≤ 16 then 4000 else 1500

/-- The current of an energised channel, as last read, exceeds its limit (log entry 105). -/
def overCurrent (e : EavesSt) (c : Nat) : Bool :=
  match e.cfg with
  | some cfg => energised e c && tripLimit (outEnt cfg c).inrush (chanAt e c).since < (chanAt e c).curr
  | none => false

/-- OUTPUT_TRIP: the waveforms of the unit are removed; a trip after the third retry latches. -/
def execOutputTrip (ch : Nat) (s : State) : Host.Outcome State Fault Refusal :=
  .next (if s.mod.st != .off && overCurrent s.eaves ch then
    let n := (chanAt s.eaves ch).retries
    let spent := decide (3 ≤ n)
    let s1 := raiseEaves s 0x0607 (argInst (arg1 (ch + 1)) ++ arg1 n)
    { s1 with eaves := refreshOuts (unitMod s1.eaves ch fun x =>
        { x with latch := if spent then .latched else .tripped, code := if spent then oLATCHED else oTRIPPED, pulsing := false }) }
  else s)

/-- TRIP_RETRY: at the first common instant 1 s after the trip, which switched the channel off, it is energised again if its drive
is on. -/
def execTripRetry (ch : Nat) (s : State) : Host.Outcome State Fault Refusal :=
  .next (if s.mod.st != .off && (chanAt s.eaves ch).latch == .tripped && netDriven s.eaves ch &&
      readingsPerS ≤ (chanAt s.eaves ch).since then
    { s with eaves := refreshOuts (unitMod s.eaves ch fun x => { x with latch := .none, retries := x.retries + 1 }) } else s)

/-- RETRY_COUNT_RESET: 60 s energised without a trip. -/
def execRetryCountReset (ch : Nat) (s : State) : Host.Outcome State Fault Refusal :=
  .next (if s.mod.st != .off && energised s.eaves ch && 60 * readingsPerS ≤ (chanAt s.eaves ch).since then
    { s with eaves := unitMod s.eaves ch fun x => { x with retries := 0 } } else s)

/-! ## Field supplies (R268, R269) -/

/-- FIELD_SUPPLY_LOW: the supply, as last read, is below 19.2 V. -/
def execFieldSupplyLow (g : Plane) (s : State) : Host.Outcome State Fault Refusal :=
  .next (if s.mod.st != .off && !(s.eaves.groups.get g).warn && supplyAt s.eaves g < 192 then
    raiseEaves { s with eaves := groupMod s.eaves g fun x => { x with warn := true } } 0x0681 (argInst (arg1 (groupNum g))) else s)

/-- FIELD_SUPPLY_RECOVER: the supply is back at 19.7 V. -/
def execFieldSupplyRecover (g : Plane) (s : State) : Host.Outcome State Fault Refusal :=
  .next (if s.mod.st != .off && 197 ≤ supplyAt s.eaves g then { s with eaves := groupMod s.eaves g fun x => { x with warn := false } } else s)

/-- FIELD_SUPPLY_CUT: after 5 ms below 17.0 V, which are 40 readings, the group master is opened by hardware and latched open. -/
def execFieldSupplyCut (g : Plane) (s : State) : Host.Outcome State Fault Refusal :=
  .next (if s.mod.st != .off && !(s.eaves.groups.get g).cut && 40 ≤ (s.eaves.groups.get g).low then
    let s1 := raiseEaves s 0x0608 (argInst (arg1 (groupNum g)))
    { s1 with eaves := refreshOuts (groupMod s1.eaves g fun x => { x with cut := true, pulsing := false }) }
  else s)

/-- CUT_CLEAR: after 1 s at or above 20.4 V the master closes at this instant if the lanes command it. -/
def execCutClear (g : Plane) (s : State) : Host.Outcome State Fault Refusal :=
  .next (if s.mod.st != .off && readingsPerS ≤ (s.eaves.groups.get g).high then
    { s with eaves := refreshOuts (groupMod s.eaves g fun x => { x with cut := false }) } else s)

end Sys2Proof.Machine
end

