-- ==== Sys2Proof/Machine/HostRegs.lean ====
section
/-! DEFINITION. The host port's registers (R281 to R299, R446 to R461): opening and closing, doorbells, messages, errors, set-up
registers and what a read of BAR0 returns. -/

namespace Sys2Proof.Machine

/-! ## Opening and closing (R286, R289, R453) -/

/-- The copies the hub takes of a ring's block at the opening, and the indices of an enabled ring, all 0 (R289, R453). -/
def openQ (r : QReg) : QReg :=
  let c := { r with
    cBase := (r.baseHi ++ (r.baseLo &&& 0xFFFFF000) : BitVec 64), cSize := qEntries r.size,
    cWb := (r.wbHi ++ (r.wbLo &&& 0xFFFFFFF8) : BitVec 64) }
  if r.en then { c with idx := 0, db := 0 } else c

/-- The lanes' regions are known, so that a PORT_OPEN can tell the next ASN (R320). -/
def regionKnown (s : State) : Bool := s.mod.boot.started || s.mod.st.runs || s.mod.st == .standby

/-- The write-back word that a ring owes, once requests may be issued (R289, R453). -/
def flushQ (s : State) (q : Nat) : State :=
  if s.host.wbDue.getLsbD q && ringServed s q then
    let s1 := { s with host := { s.host with wbDue := s.host.wbDue &&& ~~~(BitVec.ofNat 8 (2 ^ q)) } }
    post s1 (.mem (qAt s q).cWb (wbWord s (qAt s q).idx))
  else s

/-- The same for every ring. -/
def flushWb (s : State) : State := (List.range 8).foldl flushQ s

/-- The port opens: indices 0, write-back words of all enabled rings, PORT_OPEN (R289). -/
def openPort (s : State) : State :=
  let h := { s.host with q := s.host.q.map openQ, en := true, quiesced := false, heldOpen := false, wbDue := BitVec.ofNat 8 (bitsOf (s.host.q.map (·.en))) }
  let s1 := flushWb { s with host := h }
  if regionKnown s1 then indicate s1 (mkInd s1 0x12 (portOpenPay (lead s1).work))
  else { s1 with host := { s1.host with portOpenDue := true } }

/-- HPCTL_OPEN: while requests are still outstanding the write is held. -/
def execHpctlOpen (s : State) : Host.Outcome State Fault Refusal :=
  .next (if hubUp s && !s.host.en then
    (if s.host.quiesced then openPort s else { s with host := { s.host with heldOpen := true } }) else s)

/-- HPCTL_CLOSE: nothing more is fetched or written; a held opening is given up. -/
def execHpctlClose (s : State) : Host.Outcome State Fault Refusal :=
  .next (if hubUp s then redrain { s with host := { s.host with en := false, heldOpen := false, portOpenDue := false, wbDue := 0 } } else s)

/-- QUIESCE_COMPLETE: QUIESCED is set, or a held opening takes place without QUIESCED reading 1. -/
def execQuiesceComplete (s : State) : Host.Outcome State Fault Refusal :=
  .next (if hubUp s && !s.host.en && !s.host.quiesced then
    (if s.host.heldOpen then openPort s else { s with host := { s.host with quiesced := true } }) else s)

/-! ## Doorbells (R291, R454) -/

/-- A doorbell value is news: neither a value already taken nor an older one. -/
def dbNews (r : QReg) (v : Word) : Bool := (v - r.db).toNat != 0 && (v - r.db).toNat < 2 ^ 31

/-- The range condition of R291. -/
def dbInRange (q : Nat) (r : QReg) (v : Word) : Bool :=
  if qToModule q then (v - r.idx).toNat ≤ r.cSize else (r.idx - v).toNat ≤ r.cSize

/-- DOORBELL: taken, ignored as old, or ignored and recorded. -/
def execDoorbell (q : Fin 8) (v : Word) (req : HostReq) (s : State) : Host.Outcome State Fault Refusal :=
  .next (if hubUp s && dbNews (qAt s q) v then
    (if dbInRange q (qAt s q) v then qMod s q fun r => { r with db := v } else errRaise s 8 (reqFlags req) req 2)
  else s)

/-- QCTL_WRITE: EN and VEC of a ring; setting EN again resumes at the indices where it stopped (R453). -/
def execQctlWrite (q : Fin 8) (v : Word) (s : State) : Host.Outcome State Fault Refusal :=
  .next (if hubUp s then
    redrain (flushWb (qMod s q fun r => { r with en := v.getLsbD 0, vec := bitsAt v.toNat 3 1 })) else s)

/-! ## Messages (R293, R455) -/

/-- MSI-X table entry of a vector. -/
def msixAt (s : State) (v : Nat) : MsixEnt := s.host.msix.getD v { addr := 0, data := 0, masked := true }

/-- Messages may leave: HPCTL.EN and MSI-X Enable are 1 and the function may issue requests. -/
def mayMessage (s : State) : Bool := hubUp s && s.host.en && s.host.msixEn && s.host.bme && !s.host.d3

/-- A bit of an 8-bit set, cleared. -/
def clearBit8 (b : BitVec 8) (v : Nat) : BitVec 8 := b &&& ~~~(BitVec.ofNat 8 (2 ^ v))

/-- The message of a vector goes out with the entry as it now stands. -/
def sendMsix (s : State) (v : Nat) : State := post s (.msix v (msixAt s v).addr (msixAt s v).data)

/-- MSIX_SEND: a message due on a masked vector sets its Pending Bit. -/
def execMsixSend (vec : Fin 8) (s : State) : Host.Outcome State Fault Refusal :=
  .next (if mayMessage s && s.host.vecDue.getLsbD vec then
    let s1 := { s with host := { s.host with vecDue := clearBit8 s.host.vecDue vec } }
    if (msixAt s vec).masked || s.host.funcMask then
      { s1 with host := { s1.host with pba := s1.host.pba ||| BitVec.ofNat 8 (2 ^ vec.val) } }
    else sendMsix s1 vec
  else s)

/-- A vector whose Pending Bit is set is sent once nothing masks it. -/
def flushVec (s : State) (v : Nat) : State :=
  if mayMessage s && s.host.pba.getLsbD v && !(msixAt s v).masked && !s.host.funcMask then
    sendMsix { s with host := { s.host with pba := clearBit8 s.host.pba v } } v
  else s

/-- MSIX_UNMASK: the Mask bit of the vector's entry is cleared. -/
def execMsixUnmask (vec : Fin 8) (s : State) : Host.Outcome State Fault Refusal :=
  .next (if hubUp s then
    flushVec { s with host := { s.host with msix := listMod s.host.msix vec fun e => { e with masked := false } } } vec else s)

/-! ## Errors (R282, R297 to R299, R452) -/

/-- ERRQ code of an unsupported request (R282, R299, R454). -/
def urCode : UrKind → Nat
  | .misaligned | .bar2Read => 1
  | .requestType => 2
  | .bar2Write => 8

/-- A request that is answered with an error: a posted one has no completion. -/
def refuseReq (s : State) (st : CplStatus) (req : HostReq) : State := if req.posted then s else complete s st 0 req.hdr

/-- UNSUPPORTED_REQUEST: answered and recorded. -/
def execUnsupportedRequest (kind : UrKind) (req : HostReq) (s : State) : Host.Outcome State Fault Refusal :=
  .next (if hubUp s then errRaise (refuseReq s .unsupported req) (urCode kind) (reqFlags req) req req.bar.toNat else s)

/-- POISONED_REQUEST. -/
def execPoisonedRequest (req : HostReq) (s : State) : Host.Outcome State Fault Refusal :=
  .next (if hubUp s then errRaise s 9 (reqFlags req) req req.bar.toNat else s)

/-- BAR0_READ_TIMEOUT: Completer Abort is returned. -/
def execBar0ReadTimeout (req : HostReq) (s : State) : Host.Outcome State Fault Refusal :=
  .next (if hubUp s then errRaise (complete s .abort 0 req.hdr) 3 2 req 0 else s)

/-- POSTED_WRITE_FAIL. -/
def execPostedWriteFail (req : HostReq) (s : State) : Host.Outcome State Fault Refusal :=
  .next (if hubUp s then errRaise s 4 1 req req.bar.toNat else s)

/-- ERRQ code of a failed module request. -/
def reqFailCode : ReqFail → Nat
  | .refused => 5 | .timeout => 6 | .notDelivered => 7

/-- The failed request was a fetch from CMDQ. -/
def fromCmdq (s : State) (a : DWord) : Bool :=
  let r := qAt s qCMDQ
  r.cBase.toNat ≤ a.toNat && a.toNat < r.cBase.toNat + r.cSize * 64

/-- MODULE_REQUEST_FAIL: recorded with MODULE set and BAR 0xFF; entries whose fetch failed stay where they were and are
fetched again from the next cycle. -/
def execModuleRequestFail (how : ReqFail) (req : HostReq) (s : State) : Host.Outcome State Fault Refusal :=
  .next (if hubUp s then
    let s1 := errRaise s (reqFailCode how) (4 + reqFlags req) req 0xFF
    if how != .notDelivered && fromCmdq s req.addr then { s1 with host := { s1.host with fetchLim := s1.host.fetched } } else s1
  else s)

/-- ERRSTAT_CLEAR: `setNow` are the bits that errors set in the same clock; they stay 1. -/
def execErrstatClear (v setNow : Word) (s : State) : Host.Outcome State Fault Refusal :=
  .next (if hubUp s then
    { s with host := { s.host with
        seen := (s.host.seen &&& ~~~(v.setWidth 9)) ||| setNow.setWidth 9,
        lostBit := (s.host.lostBit && !v.getLsbD 16) || setNow.getLsbD 16 } }
  else s)

/-! ## Set-up registers (R285, R446, R456, R458, R460) -/

/-- BOOTOPT_SPLIT. -/
def execBootoptSplit (on : Bool) (s : State) : Host.Outcome State Fault Refusal :=
  .next (if hubUp s then { s with ul := { s.ul with optSplit := on } } else s)

/-- BOOTOPT_LOAD. -/
def execBootoptLoad (on : Bool) (s : State) : Host.Outcome State Fault Refusal :=
  .next (if hubUp s then { s with ul := { s.ul with optLoad := on } } else s)

/-- BOOTOPT_ACTIVATE. -/
def execBootoptActivate (on : Bool) (s : State) : Host.Outcome State Fault Refusal :=
  .next (if hubUp s then { s with ul := { s.ul with optActivate := on } } else s)

/-- Bits of a word replaced under a mask. -/
def maskedWrite (old mask new : Word) : Word := (old &&& ~~~mask) ||| (new &&& mask)

/-- TIMECFG with some of its bits written; it takes effect at the next common instant (R459). -/
def writeTimecfg (s : State) (mask v : Word) : State := { s with ul := { s.ul with timecfg := maskedWrite s.ul.timecfg mask v } }

/-- TIMECFG_SRC. -/
def execTimecfgSrc (ptp : Bool) (s : State) : Host.Outcome State Fault Refusal :=
  .next (if hubUp s then writeTimecfg s 0x00000001 (BitVec.ofNat 32 (ofFlag ptp)) else s)

/-- TIMECFG_DOMAIN: a value outside 0 to 127 acts as 0. -/
def execTimecfgDomain (dom : Nat) (s : State) : Host.Outcome State Fault Refusal :=
  .next (if hubUp s then writeTimecfg s 0x00007F00 (BitVec.ofNat 32 (256 * if dom < 128 then dom else 0)) else s)

/-- TIMECFG_UTC_OFS. -/
def execTimecfgUtcOfs (ofs : Half) (s : State) : Host.Outcome State Fault Refusal :=
  .next (if hubUp s then writeTimecfg s 0xFFFF0000 (ofs ++ (0 : Half)) else s)

/-- A write to a maintenance port register (R460). -/
def writeMaint (u : Underlay) (off : Nat) (v : Word) : Underlay :=
  if off = 0x600 then { u with mpip := v }
  else if off = 0x604 then { u with mpmask := v }
  else if off = 0x608 then { u with mpgw := v }
  else if off = 0x60C then { u with logdst := v }
  else if off = 0x610 then { u with logcfg := v &&& 0xFFFF0001 }
  else u

/-- MAINT_PORT_WRITE. -/
def execMaintPortWrite (off : Nat) (v : Word) (s : State) : Host.Outcome State Fault Refusal :=
  .next (if hubUp s then redrain { s with ul := writeMaint s.ul off v } else s)

/-- A write at an offset of a ring's block: its address and size words; the index words are read only, the rest is reserved
(R285). -/
def writeQ (o : Nat) (v : Word) (r : QReg) : QReg :=
  if o = 0x00 then { r with baseLo := v &&& 0xFFFFF000 }
  else if o = 0x04 then { r with baseHi := v }
  else if o = 0x08 then { r with size := v &&& 0x0000000F }
  else if o = 0x0C then { r with wbLo := v &&& 0xFFFFFFF8 }
  else if o = 0x10 then { r with wbHi := v }
  else r

/-- A write to an MSI-X table entry: address, data, or the Mask bit set; clearing the Mask bit is MSIX_UNMASK. -/
def writeMsix (o : Nat) (v : Word) (e : MsixEnt) : MsixEnt :=
  if o = 0x0 then { e with addr := ((e.addr >>> 32).setWidth 32 : Word) ++ v }
  else if o = 0x4 then { e with addr := v ++ (e.addr.setWidth 32 : Word) }
  else if o = 0x8 then { e with data := v }
  else { e with masked := e.masked || v.getLsbD 0 }

/-- MSI-X Enable and the Function Mask are written; vectors that nothing masks any more are sent. -/
def writeMsixControl (s : State) (on mask : Bool) : State :=
  (List.range 8).foldl flushVec { s with host := { s.host with msixEn := on, funcMask := mask } }

/-- Device Control: maximum payload size in [7:5], maximum read request size in [14:12]. -/
def writeDevCtl (v : Word) (h : HostPort) : HostPort := { h with mps := bitsAt v.toNat 7 5, mrrs := bitsAt v.toNat 14 12 }

/-- Link training: speed in [3:0] and width in [9:4]; the module trains at no others than those of R281. -/
def trainLink (v : Word) (h : HostPort) : HostPort :=
  let sp := bitsAt v.toNat 3 0
  let w := bitsAt v.toNat 9 4
  if 1 ≤ sp && sp ≤ 3 && (w = 1 || w = 2 || w = 4) then { h with linkSpeed := sp, linkWidth := w } else h

/-- REGISTER_WRITE: a set-up register without behaviour of its own stores the value; read-only registers, reserved bits and
reserved offsets ignore it. -/
def execRegisterWrite (sp : RegSpace) (off : Nat) (v : Word) (s : State) : Host.Outcome State Fault Refusal :=
  .next (if hubUp s then
    match sp with
    | .bar0 => if 0x200 ≤ off && off < 0x400 then qMod s ((off - 0x200) / 64) (writeQ (off % 64) v) else s
    | .bar4 => if off < 0x80 then { s with host := { s.host with msix := listMod s.host.msix (off / 16) (writeMsix (off % 16) v) } } else s
    | .msixControl => writeMsixControl s (v.getLsbD 15) (v.getLsbD 14)
    | .deviceControl => { s with host := writeDevCtl v s.host }
    | .deviceControl2 => { s with host := { s.host with cto := bitsAt v.toNat 3 0 } }
    | .aerStatus => { s with host := { s.host with aer := s.host.aer &&& ~~~v } }
    | .linkTrained => { s with host := trainLink v s.host }
  else s)

/-- Completion timeout of the module's reads [us] from its value of Device Control 2: ranges A and B, 50 ms when left at default
(R281; the codes are PCI Express's, log entry 107). -/
def timeoutUs (h : HostPort) : Nat :=
  if h.cto = 1 then 100 else if h.cto = 2 then 10000 else if h.cto = 5 then 55000 else if h.cto = 6 then 210000 else 50000

/-! ## Reads of BAR0 (R446 to R461) -/

/-- A word of a ring's block. -/
def readQ (r : QReg) (o : Nat) : Word :=
  if o = 0x00 then r.baseLo else if o = 0x04 then r.baseHi else if o = 0x08 then r.size else if o = 0x0C then r.wbLo
  else if o = 0x10 then r.wbHi else if o = 0x14 then BitVec.ofNat 32 (ofFlag r.en + 2 * r.vec)
  else if o = 0x18 then r.idx else if o = 0x1C then r.db else 0

/-- HPSTAT (R286). -/
def hpstatWord (s : State) : Word :=
  BitVec.ofNat 32 (ofFlag s.host.quiesced + 2 * ofFlag (isActive s) + 16 * s.mod.st.code)

/-- BOOTSTAT (R456). -/
def bootstatWord (s : State) : Word := BitVec.ofNat 32 (s.host.bootstat.toNat + 256 * s.ul.nboot)

/-- Identity and host port registers. -/
def readIdent (s : State) (off : Nat) : Word :=
  if off = 0x000 then 0x49580412 else if off = 0x004 then Config.hwver &&& 0x0000FFFF else if off = 0x008 then Config.rtver &&& 0x00FFFFFF
  else if off = 0x00C then Config.serial.setWidth 32 else if off = 0x010 then (Config.serial >>> 32).setWidth 32
  else if off = 0x014 then 0x00008844
  else if off = 0x100 then BitVec.ofNat 32 (ofFlag s.host.en) else if off = 0x104 then hpstatWord s
  else if off = 0x108 then BitVec.ofNat 32 (s.host.seen.toNat + 2 ^ 16 * ofFlag s.host.lostBit)
  else if off = 0x10C then s.host.errcnt else if off = 0x110 then s.host.errlost else 0

/-- Boot, Time and Maintenance port registers; the upper half of a pair is the half latched last (R450). -/
def readTime (s : State) (off : Nat) : Word :=
  if off = 0x400 then BitVec.ofNat 32 (ofFlag s.ul.optSplit + 2 * ofFlag s.ul.optLoad + 4 * ofFlag s.ul.optActivate)
  else if off = 0x404 then bootstatWord s else if off = 0x500 then s.ul.timecfg else if off = 0x504 then s.host.rb.timestat
  else if off = 0x508 then s.host.rb.stime.setWidth 32 else if off = 0x510 then s.host.rb.cycle.setWidth 32
  else if off = 0x518 then s.time.supUs.setWidth 32
  else if off = 0x50C || off = 0x514 || off = 0x51C then s.host.hiLatch
  else if off = 0x600 then s.ul.mpip else if off = 0x604 then s.ul.mpmask else if off = 0x608 then s.ul.mpgw
  else if off = 0x60C then s.ul.logdst else if off = 0x610 then s.ul.logcfg else 0

/-- Status readback registers (R461). -/
def readStatus (b : Readback) (off : Nat) : Word :=
  if off = 0x700 then b.swstat else if off = 0x704 then b.swlane.a else if off = 0x708 then b.swlane.b
  else if off = 0x70C then b.swlane.c else if off = 0x710 then b.swlane.d else if off = 0x714 then b.keystat
  else if off = 0x718 then b.lanestat else if off = 0x71C then b.laneinfo else if off = 0x720 then b.supstat
  else if off = 0x724 then b.fldstat else if off = 0x728 then b.tempLane else if off = 0x72C then b.tempOther
  else if off = 0x730 then b.epoch else 0

/-- What an aligned 32-bit read of BAR0 returns; reserved offsets read 0 (R446). -/
def readBar0 (s : State) (off : Nat) : Word :=
  if off < 0x200 then readIdent s off
  else if off < 0x400 then readQ (qAt s ((off - 0x200) / 64)) (off % 64)
  else if off < 0x700 then readTime s off
  else readStatus s.host.rb off

/-- What an aligned 32-bit read of BAR4 returns: the MSI-X table, and the Pending Bit Array at 0x800 (R283). -/
def readBar4 (s : State) (off : Nat) : Word :=
  if off < 0x80 then
    let e := s.host.msix.getD (off / 16) { addr := 0, data := 0, masked := true }
    if off % 16 = 0 then e.addr.setWidth 32 else if off % 16 = 4 then (e.addr >>> 32).setWidth 32
    else if off % 16 = 8 then e.data else BitVec.ofNat 32 (ofFlag e.masked)
  else if off = 0x800 then s.host.pba.setWidth 32 else 0

/-- The 64-bit value behind a _LO register (R450, R458). -/
def pairValue (s : State) (off : Nat) : DWord :=
  if off = 0x508 then s.host.rb.stime else if off = 0x510 then s.host.rb.cycle else s.time.supUs

/-- PAIR_LO_READ: the read latches the whole value and returns its lower half. -/
def execPairLoRead (off : Nat) (s : State) : Host.Outcome State Fault Refusal :=
  .next (if hubUp s && (off == 0x508 || off == 0x510 || off == 0x518) then
    complete { s with host := { s.host with hiLatch := (pairValue s off >>> 32).setWidth 32 } } .success (readBar0 s off) [] else s)

/-! ## Resets and power of the function (R281, R447, R453, R468) -/

/-- PERST: class H and B registers and the bridge take their reset values; vital service, the rings and the peer links go on,
and so does what the lanes and the Gutter hold. -/
def perstAt (s : State) : State :=
  redrain { s with
    host := { posted := s.host.posted, reads := s.host.reads, cpls := s.host.cpls, bulkHand := s.host.bulkHand, sigActive := isActive s, sigState := s.mod.st.code, modPay := s.host.modPay,
              cplRep := s.host.cplRep, indRep := s.host.indRep, mismatch := s.host.mismatch },
    ul := { s.ul with optSplit := false, optLoad := false, optActivate := false } }

/-- PERST. -/
def execPerst (s : State) : Host.Outcome State Fault Refusal := .next (if hubUp s then perstAt s else s)

/-- BUS_MASTER_ENABLE: while it is 0 the module issues no request and records wait as on a full ring (R453). -/
def execBusMasterEnable (on : Bool) (s : State) : Host.Outcome State Fault Refusal :=
  .next (if hubUp s then flushWb { s with host := { s.host with bme := on } } else s)

/-- POWER_STATE_CHANGE: in D3hot nothing is fetched and nothing written to host memory (R281). -/
def execPowerStateChange (d3 : Bool) (s : State) : Host.Outcome State Fault Refusal :=
  .next (if hubUp s then flushWb { s with host := { s.host with d3 := d3 } } else s)

end Sys2Proof.Machine
end

