-- ==== Sys2Proof/Machine/Restart.lean ====
section
/-! DEFINITION. Warm and cold restart (R171 to R179, R353) and the boot shadow cycles (R390). -/

namespace Sys2Proof.Machine

/-! ## What a lane's MRAM gives back (R173) -/

/-- The newest complete snapshot whose yealm matches and whose content its CRC-32C covers (R169). -/
def snapFor (m : Mram) (crc : DWord) : Option Snapshot :=
  let ok (o : Option Snapshot) : Option Snapshot :=
    match o with
    | some x => if x.complete && x.ycrc == crc && x.crc == crc32c (memRead x.content 0 x.size) then some x else none
    | none => none
  match ok m.snaps.a, ok m.snaps.b with
  | some a, some b => if a.s.toNat < b.s.toNat then some b else some a
  | some a, none => some a
  | none, o => o

/-- The groups after a snapshot up to the last written CLOSE, in order. -/
def replayable (m : Mram) (sn : Snapshot) : List JGroup :=
  (m.journal.filter fun g => sn.s.toNat < g.cycle.toNat).takeWhile (·.closed)

/-- The highest cycle a lane reaches; none while a wrap is in force or no snapshot matches (R170). -/
def reach (m : Mram) (crc : DWord) : Option Nat :=
  if m.wrap then none
  else (snapFor m crc).map fun sn => match (replayable m sn).getLast? with | some g => g.cycle.toNat | none => sn.s.toNat

/-- The second highest of a list: what at least two lanes reach. -/
def secondOf (l : List Nat) : Option Nat := (sortBy id l).reverse[1]?

/-- The ready lanes whose boot record holds the last cold restart: what the others hold was written before it (R171, R176). -/
def freshLanes (s : State) : List Lane :=
  (readyLanes s).filter fun l => (bootCur (s.lanes.get l).mram).colds + 1 == nextCold s

/-- L: the highest cycle that at least two of these lanes reach. -/
def recoveryPoint (s : State) : Option Nat :=
  secondOf ((freshLanes s).filterMap fun l => reach (s.lanes.get l).mram s.mod.ycrc)

/-- Words of a group's DELTA records, applied in order. -/
def applyGroup (m : Mem) (g : JGroup) : Mem :=
  g.recs.foldl (fun m r => match r with
    | .delta ws => memApply m ws
    | .command _ _ => m | .accept _ => m | .terminal _ _ => m | .event _ _ _ => m | .close _ => m) m

/-- A lane's region at L with the start cycle of its snapshot; none where it cannot stand exactly there: its records end before L,
or the snapshot holds what a later cycle committed (R169, R173). -/
def regionAt (m : Mram) (crc : DWord) (L : Nat) : Option (Mem × Nat) :=
  match snapFor m crc, reach m crc with
  | some sn, some r =>
    if L ≤ r && sn.s.toNat ≤ L && rgCycle sn.content ≤ L then
      some (((replayable m sn).filter fun g => g.cycle.toNat ≤ L).foldl applyGroup sn.content, sn.s.toNat)
    else none
  | _, _ => none

/-- The lanes that recovered, with region, digest and snapshot start. -/
def recoveries (s : State) (L : Nat) : List (Lane × Mem × DWord × Nat) :=
  (freshLanes s).filterMap fun l =>
    let x := s.lanes.get l
    match regionAt x.mram s.mod.ycrc L, activeImage x.mram with
    | some (m, st), some y => some (l, m, digestWhole (regionWords y) m, st)
    | _, _ => none

/-- T so far in us: from C(L + 1) to now; none while unknown (R172). -/
def outageUs (s : State) (p L : Nat) : Option Nat :=
  if s.time.supLost then none
  else s.ul.lastCk.map fun c => ((s.time.supUs.toNat : Int) - (c.1.toNat : Int) - ((L + 1 : Nat) - (c.2.toNat : Int)) * (p * 1000 : Nat)).toNat

/-- The age test of R171: (L + 1 - s) P + 1.02 T within 30 s, s in cycles, times 100 in us. -/
def ageOk (s : State) (p L start : Nat) : Bool :=
  match outageUs s p L with
  | some t => 100 * (L + 1 - start) * p * 1000 + 102 * t ≤ 3000000000
  | none => false

/-- A lane's boot record holds an activation since the last cold restart (R163, R171). -/
def activatedSince (s : State) : Bool := s.lanes.toList.any fun x => x.role != .retired && (bootCur x.mram).activated

/-- A warm restart's recovery: L, the lanes that agree with their regions; none where any condition of R171 fails. -/
def warmOf (s : State) : Option (Nat × List (Lane × Mem)) :=
  if s.mod.boot.activated || activatedSince s || s.mod.boot.coldClaim then none
  else
    match recoveryPoint s with
    | none => none
    | some L =>
      let rs := recoveries s L
      match agree2 (rs.map fun r => r.2.2.1), rs.filterMap fun r => (activeImage (s.lanes.get r.1).mram).map (·.periodMs) with
      | some d, p :: _ =>
        let good := rs.filter fun r => r.2.2.1 == d
        let start := (good.map fun r => r.2.2.2).foldl min L
        if ageOk s p L start then some (L, good.map fun r => (r.1, r.2.1)) else none
      | _, _ => none

/-! ## Commands in the journals (R175, R177) -/

/-- COMMAND records of a lane's groups with a property: ASN, cycle, descriptor. -/
def commandsIn (m : Mram) (p : JGroup → Bool) : List (DWord × DWord × List Byte) :=
  (m.journal.filter p).flatMap fun g => g.recs.filterMap fun r => match r with
    | .command d a => some (a, g.cycle, d)
    | .delta _ => none | .accept _ => none | .terminal _ _ => none | .event _ _ _ => none | .close _ => none

/-- ASNs of a lane's ACCEPT records in groups with a property. -/
def acceptsIn (m : Mram) (p : JGroup → Bool) : List DWord :=
  (m.journal.filter p).flatMap fun g => g.recs.filterMap fun r => match r with
    | .accept a => some a
    | .delta _ => none | .command _ _ => none | .terminal _ _ => none | .event _ _ _ => none | .close _ => none

/-- ASNs of a lane's TERMINAL records. -/
def terminalsIn (m : Mram) : List DWord :=
  m.journal.flatMap fun g => g.recs.filterMap fun r => match r with
    | .terminal a _ => some a
    | .delta _ => none | .command _ _ => none | .accept _ => none | .event _ _ _ => none | .close _ => none

/-- Every ASN that a lane's journal names in groups with a property. -/
def asnsIn (m : Mram) (p : JGroup → Bool) : List Nat :=
  (m.journal.filter p).flatMap fun g => g.recs.filterMap fun r => match r with
    | .command _ a => some a.toNat | .accept a => some a.toNat | .terminal a _ => some a.toNat
    | .delta _ => none | .event _ _ _ => none | .close _ => none

/-- The journals that can be read: of every lane that is not retired. -/
def mrams (s : State) : List Mram := (aliveLanes s).map fun l => (s.lanes.get l).mram

/-- Groups after a cycle, or whose CLOSE is not in MRAM. -/
def laterThan (L : Nat) (g : JGroup) : Bool := L < g.cycle.toNat || !g.closed
/-- Groups written at or before a cycle. -/
def upTo (L : Nat) (g : JGroup) : Bool := g.cycle.toNat ≤ L && g.closed

/-- Commands with a COMMAND record at or before L on at least two lanes, each once, in ASN order. -/
def commandsUpTo (ms : List Mram) (L : Nat) : List (DWord × DWord × List Byte) :=
  let all := ms.flatMap fun m => commandsIn m (upTo L)
  let keep := all.filter fun c => 2 ≤ (ms.filter fun m => (commandsIn m (upTo L)).any fun d => d.1 == c.1).length
  (sortBy (fun c : DWord × DWord × List Byte => c.1.toNat) keep).foldl
    (fun acc c => if acc.any fun d => d.1 == c.1 then acc else acc ++ [c]) []

/-- Commands with an ACCEPT record in a later group of any lane, and a COMMAND record anywhere. -/
def acceptedLater (s : State) (L : Nat) : List (DWord × DWord × List Byte) :=
  let acc := (mrams s).flatMap fun m => acceptsIn m (laterThan L)
  let all := (mrams s).flatMap fun m => commandsIn m fun _ => true
  (sortBy (fun c : DWord × DWord × List Byte => c.1.toNat) (all.filter fun c => acc.contains c.1)).foldl
    (fun out c => if out.any fun d => d.1 == c.1 then out else out ++ [c]) []

/-! ## Warm restart (R173 to R175) -/

/-- Enter a command that the journals hold and the region does not (R168: a missed cycle has no DELTA). -/
def reEnter (p : Nat) (m : Mem) (c : DWord × DWord × List Byte) : Mem :=
  if c.1.toNat < rgNextAsn m then m
  else rgSetNextAsn (rgSetLastSeq (cmdNew m (cmdOf c.2.2 c.1.toNat c.2.1.toNat p)) (dSeq c.2.2)) (c.1.toNat + 1)

/-- End a command found only after L with ABORTED_RESTART. -/
def reAbort (p L : Nat) (m : Mem) (c : DWord × DWord × List Byte) : Mem :=
  match cmdFind m c.1.toNat with
  | some _ => m
  | none => if c.1.toNat < rgNextAsn m then m else
      rgSetNextAsn (cmdNew m (abortCmd L (cmdOf c.2.2 c.1.toNat c.2.1.toNat p))) (c.1.toNat + 1)

/-- The recovered region with its commands: all of it accepted, later ones aborted, the next ASN above every ASN seen; every
pair is unproven (R246). -/
def warmRegion (s : State) (p L : Nat) (voters : List Mram) (m : Mem) : Mem :=
  let m1 := (commandsUpTo voters L).foldl (reEnter p) m
  let m2 := (cmdList m1).foldl (fun m c => cmdPut m c.1 { c.2 with confirmed := true }) m1
  let m3 := (acceptedLater s L).foldl (reAbort p L) m2
  let seen := maxOf ((mrams s).flatMap fun x => asnsIn x (laterThan L))
  rgSetProof (rgSetNextAsn m3 (max (rgNextAsn m3) (seen + 1))) 0

/-- Groups after L are discarded. -/
def cutJournal (L : Nat) (m : Mram) : Mram := { m with journal := m.journal.filter (upTo L) }

/-- The lanes that recovered take the region; every lane's later groups are discarded. -/
def warmRestart (L : Nat) (rs : List (Lane × Mem)) (s : State) : State :=
  let voters := rs.map fun r => (s.lanes.get r.1).mram
  let ds := (commandsUpTo voters L ++ acceptedLater s L).map fun c => (c.1, c.2.2)
  let s1 := rs.foldl (fun t r => onLane t r.1 fun x =>
    match activeImage x.mram with
    | none => x
    | some y =>
      let m := warmRegion s y.periodMs L voters r.2
      keepDescs { x with yealm := some y, region := m, work := m, digest := digestWhole (regionWords y) m,
                         written := BitVec.ofNat 64 L, descs := ds }) s
  let s2 := { s1 with lanes := s1.lanes.map fun (x : LaneSt) => if x.role == Role.retired then x else { x with mram := cutJournal L x.mram } }
  let rost := match rs with | r :: _ => rgRoster r.2 | [] => 0
  bootstatSet (bootMod { s2 with agr := { s2.agr with incs := [] } } fun b =>
    { b with decided := some true, lrec := BitVec.ofNat 64 L, rost := rost,
             recov := Quad.mapL (fun l (_ : Bool) => rs.any fun r => r.1 == l) b.recov }) 1

/-! ## Cold restart (R176, R177, R353) -/

/-- The commands that a cold restart ends ABORTED_RESTART, in ASN order. -/
def coldCommands (s : State) : List CmdEnt :=
  let L := (secondOf ((mrams s).map fun m => maxOf ((m.journal.filter (·.closed)).map (·.cycle.toNat)))).getD 0
  let cs := commandsUpTo (mrams s) L ++ acceptedLater s L
  let done := (mrams s).flatMap terminalsIn
  let once := (sortBy (fun c : DWord × DWord × List Byte => c.1.toNat) (cs.filter fun c => !done.contains c.1)).foldl
    (fun out c => if out.any fun d => d.1 == c.1 then out else out ++ [c]) []
  once.map fun c => cmdOf c.2.2 c.1.toNat c.2.1.toNat (periodMs s)

/-- The highest ASN that the journals name. -/
def highestAsn (s : State) : Nat := maxOf ((mrams s).flatMap fun m => asnsIn m fun _ => true)

/-- The reserve mark before any ASN is assigned: after a claim without contact 2^40 above the own mark and the peer's. -/
def coldMark (s : State) : Nat :=
  let own := reserveMark s
  if s.mod.boot.coldClaim then
    max own (max (match s.peer.renew with | some r => r.asnMark.toNat | none => 0)
      (match s.peer.beat with | some b => b.asnMark.toNat | none => 0)) + 2 ^ 40
  else own

/-- Every ready lane initialises its region; COLD_RESTART carries the highest ASN found. -/
def coldRestart (s : State) : State :=
  let mark := coldMark s
  let cmds := coldCommands s
  let high := highestAsn s
  let ls := readyLanes s
  let n := nextCold s
  let s1 := onLanes s (aliveLanes s) fun l x =>
    if ls.contains l then coldLane n mark 0 cmds { x with yealm := activeImage x.mram } else voidLane n x
  let s2 := { s1 with mod := { s1.mod with snapDue := true }, cyc := { s1.cyc with done := 0, discRun := [] },
                      agr := { s1.agr with incs := [], pairOff := 0 } }
  raiseShared (bootMod s2 fun b => { b with decided := some false, recov := Quad.mapL (fun l (_ : Bool) => ls.contains l) b.recov })
    0x0482 (argOne ++ arg8 high)

/-! ## RESTART_DECISION (R171) -/

/-- Warm where every condition holds, else cold. -/
def restartDecisionAt (s : State) : State :=
  let s1 := match warmOf s with
    | some (L, rs) => warmRestart L rs s
    | none => coldRestart s
  refreshLanes { s1 with time := { s1.time with supLost := false } }

/-- RESTART_DECISION: once, in INDICATE. -/
def execRestartDecision (s : State) : Host.Outcome State Fault Refusal :=
  .next (if hubUp s && s.mod.st == .indicate && s.mod.boot.decided.isNone then restartDecisionAt s else s)

/-! ## RESTART_LOCK_EXPIRY (R179) -/

/-- RESTART_LOCK_EXPIRY: the area's timer has reached its expiry cycle. -/
def execRestartLockExpiry (area : Nat) (s : State) : Host.Outcome State Fault Refusal :=
  .next (if isActive s && area < 16 && areaLocked (lead s).work area && areaExpiry (lead s).work area ≤ s.cyc.k.toNat then
    onLanes s (working s) fun _ x => workWrite x fun m => areaSet m area false timerIdle
    else s)

/-! ## BOOT_SHADOW_START (R390) -/

/-- Lanes ready for a boot role: they have passed the injection set (R111). -/
def bootLanes (s : State) : List Lane := (readyLanes s).filter fun l => (s.lanes.get l).injectOk

/-- The lanes that are to vote: the first three; after a warm restart the recovered roster's voting lanes, completed to three. -/
def chosenLanes (s : State) : List Lane :=
  let ls := bootLanes s
  if s.mod.boot.decided == some true then
    let v := ls.filter fun l => rosterRole s.mod.boot.rost l == .voting
    (v ++ ls.filter fun l => !v.contains l).take 3
  else ls.take 3

/-- EXPIRY of every running expire-early-safe timer goes down by n cycles (R174). -/
def earlyTimers (y : Yealm) (n : Nat) (m : Mem) : Mem :=
  (y.dir.filter fun d => d.type == 7 && d.safe == 2).foldl (fun m d =>
    let e := memNat m (d.off + 8) 8
    if e = timerIdle then m else memSetNat m (d.off + 8) 8 (e - n)) m

/-- An exchange whose boundary the outage took away moves to the first boundary after the shadow cycles (R75). -/
def lateExchange (b : Nat) (m : Mem) : Mem :=
  if rgExchX m = 0 || b + 5 ≤ rgExchX m then m else rgSetExch m (b + 5) (rgExchAsn m)

/-- Station time of C(k0) after a warm restart: recovered value + P + T, HOLDOVER (R357). -/
def warmTime (p t : Nat) (m : Mem) : Mem :=
  let w := rgStime m
  if stimeState w == .unset then m else rgSetStime m (stimeWord .holdover (stimeUs w + p * 1000 + t))

/-- The recovered region of a lane at C(k0). -/
def warmStart (p t b : Nat) (x : LaneSt) : LaneSt :=
  match x.yealm with
  | none => x
  | some y => commitWrite x fun m => lateExchange b (warmTime p t (earlyTimers y ((4 * t + 100000 * p - 1) / (100000 * p)) m))

/-- The instant b and the regions of C(b), at the first start: 0 after a cold restart with the restart-locking timers set
(R31, R179), k0 = L + 1 + floor(0.98 T / P) after a warm one (R174). -/
def firstStart (s : State) : State :=
  let p := periodMs s
  let set (t : State) (k : Nat) (f : LaneSt → LaneSt) : State :=
    bootMod { t with cyc := { t.cyc with k := BitVec.ofNat 64 k, done := 0, misses := 0 },
                     lanes := t.lanes.mapL fun l x =>
                       let y := if t.mod.boot.recov.get l then f x else x
                       { y with k := BitVec.ofNat 64 k } } fun b => { b with started := true }
  if s.mod.boot.decided == some true then
    let L := s.mod.boot.lrec.toNat
    let t := (outageUs s p L).getD 0
    let k0 := L + 1 + 98 * t / (100000 * p)
    set { s with cyc := { s.cyc with nextRest := Lane.ofNum (s.mod.boot.rost.toNat / 2 ^ 18) } } k0 (warmStart p t k0)
  else set s 0 fun x => match x.yealm with | some y => commitWrite x (setRlock y 0) | none => x

/-- The roles of C(b): those chosen take COPY, verified where their digest is the one that two of them hold; the other ready
lanes rest. -/
def bootRoles (d : DWord) (s : State) : State :=
  let ch := chosenLanes s
  let rest := (readyLanes s).filter fun l => !ch.contains l
  let s1 := onLanes s ch fun l x =>
    { (endPass x) with role := .copy, copied := s.mod.boot.recov.get l && x.digest == d, shadowOk := 0, copyFails := 0,
                       yealm := activeImage x.mram }
  let s2 := onLanes s1 rest fun _ x => restLane x
  let s3 := { s2 with cyc := { s2.cyc with majDigest := d, copyNow := true, rejoiner := none, joinNext := false } }
  setMode (bootMod s3 fun b => { b with b := some s3.cyc.k, matched := Quad.fill true, insuff := false })

/-- The digest that at least two of the chosen lanes hold after recovery or initialisation. -/
def chosenDigest (s : State) : Option DWord :=
  agree2 (((chosenLanes s).filter fun l => s.mod.boot.recov.get l).map fun l => (s.lanes.get l).digest)

/-- From b on the completions of R320 come first: those of the commands that the regions hold. -/
def firstCpls (s : State) : State := { s with agr := { s.agr with oldAsn := rgNextAsn (lead s).work } }

/-- With fewer than three lanes ready, LANES_INSUFFICIENT, once for each lack. -/
def bootShadowAt (s : State) : State :=
  if (bootLanes s).length < 3 then
    if s.mod.boot.insuff then s else raiseShared (bootMod s fun b => { b with insuff := true }) 0x020A []
  else
    match chosenDigest s with
    | none => s
    | some _ =>
      let s1 := if s.mod.boot.started then s else restartNodes (firstStart s)
      match chosenDigest s1 with
      | some d => portOpenAtB (firstCpls (bootRoles d s1))
      | none => s1

/-- BOOT_SHADOW_START. -/
def execBootShadowStart (s : State) : Host.Outcome State Fault Refusal :=
  .next (if hubUp s && s.mod.st == .indicate && s.mod.boot.decided.isSome && s.mod.boot.b.isNone && s.ul.orderly.isNone then
    bootShadowAt s else s)

end Sys2Proof.Machine
end

