-- ==== Sys2Proof/Machine/Rings.lean ====
section
/-! DEFINITION. The ring frame engines (R184, R185, R197, R215 to R236): launches, returns, discovery, timing, planes, two
masters. -/

namespace Sys2Proof.Machine

/-! ## Who launches (R188, R219, R230, R331) -/

/-- The module may launch ring frames: it holds the lease, its epoch is the highest it knows, and nothing inhibits it (R219,
R331, R332); no frame from C(j + 1) of an orderly stop on (R377, R392). -/
def canLaunch (s : State) : Bool :=
  hubUp s && s.peer.held && !s.rings.inhibited && !s.ul.leaseInh && !s.ul.stopAt && !s.ul.wdog &&
    epochKnown s ≤ s.peer.epoch.toNat && (s.mod.st == .boot || s.mod.st == .indicate || s.mod.st.runs)

/-- G-frames and S-frames leave in this cycle: not between the gathers of INDICATE (R390). -/
def framesDue (s : State) : Bool := s.mod.st == .boot || s.mod.st.runs || s.mod.boot.b.isSome || s.cyc.gather

/-- A plane of a ring. -/
def planeAt (s : State) (r : RingId) (p : Plane) : PlaneHub := (s.rings.planes.get r.slot).get p

/-- Change a plane. -/
def planeMod (s : State) (r : RingId) (p : Plane) (f : PlaneHub → PlaneHub) : State :=
  { s with rings := { s.rings with planes := s.rings.planes.modify r.slot fun t => t.modify p f } }

/-- Rings and planes in order. -/
def allPlanes : List (RingId × Plane) := RingId.all.flatMap fun r => [(r, .A), (r, .B)]

/-- The nodes listed for a ring. -/
def listed (s : State) (r : RingId) : List NodeEnt := match theYealm s with | some y => ringNodes y r | none => []

/-- The module launches on the ring: it is listed and the module has not backed off (R218, R230). -/
def ringOpen (s : State) (r : RingId) : Bool := !(listed s r).isEmpty && !s.rings.backedOff.get r.slot

/-- Planes of a kind on rings that the module launches on. -/
def planesWith (s : State) (f : PlaneHub → Bool) : List (RingId × Plane) :=
  allPlanes.filter fun x => ringOpen s x.1 && f (planeAt s x.1 x.2)

/-! ## Frames (R188, R189, R233) -/

/-- Spans served on a plane: the whole list, or the half-rings. -/
def spans (n : Nat) (x : PlaneHub) : List (Nat × Nat) := if x.halves.isEmpty then [(0, n)] else x.halves

/-- A frame of a type from the present schedule: header, then what follows it. -/
def mkFrame (s : State) (ftype : Nat) (r : RingId) (p : Plane) (flags : Nat) (span : Nat × Nat) (atNs : Nat) (body : List Byte) :
    List Byte :=
  let t := s.time.ckNs.toNat + atNs + Config.launchNs ftype r.num p.num s.cyc.k % 1000
  frameHdr ftype r.num p.num flags (masterId s) span.2 span.1 (periodUs s) s.peer.epoch.toNat s.cyc.k.toNat t
    (s.time.ckNs.toNat + periodNs s) ++ body

/-- Frames of one type for each span. In single-module cabling they leave the one cage, each 64 idle octets after the one before it
(R233); in a pair each leaves its cage at the scheduled time. -/
def mkFrames (s : State) (ftype : Nat) (r : RingId) (p : Plane) (flags : Nat) (body : Nat × Nat → List Byte) :
    Nat → List (Nat × Nat) → List (List Byte)
  | _, [] => []
  | atNs, sp :: rest =>
    let f := mkFrame s ftype r p flags sp atNs (body sp)
    f :: mkFrames s ftype r p flags body (if isPair s then atNs else atNs + 8 * (f.length + 64)) rest

/-- The plane's port at this module has its link up. -/
def portOwn (x : PlaneHub) : Bool := x.sfpOk && x.upOwn

/-- The frame of span i leaves this module's own cage (R217, R233): a single module has no other; in a pair the half that is reached
from the port of module A is served from it, the second half from the port of module B, and a whole plane from the cage of module A
while that cage's link is up, else from the cage of module B. -/
def cageOwn (s : State) (x : PlaneHub) (i : Nat) : Bool :=
  !isPair s ||
    (let aUp := if pairPosB s then x.upPeer else portOwn x
     let fromA := if 2 ≤ x.halves.length then i == 0 else aUp
     fromA != pairPosB s)

/-- Those of a plane's frames that are to leave the other module's cage pass to it over the peer links (R217). -/
def relayFrames (s : State) (x : PlaneHub) (fs : List (List Byte)) : State :=
  ((enumFrom0 fs).filter fun f => !cageOwn s x f.1).foldl (fun s f => relaySend s f.2) s

/-- NONVITAL outside the states that run the vital cycle, WRAP on a wrapped plane (R188, R233, R390). -/
def frameFlags (s : State) (x : PlaneHub) (noNew : Bool) : Nat :=
  ofFlag (!s.mod.st.runs) + 2 * ofFlag noNew + 4 * ofFlag (!x.halves.isEmpty)

/-- The G-frames of a plane: every slot empty (R191). -/
def gFrames (s : State) (r : RingId) (p : Plane) : List (List Byte) :=
  let x := planeAt s r p
  mkFrames s ftG r p (frameFlags s x false) (fun sp => zeros (56 * sp.2)) 20000 (spans (listed s r).length x)

/-- The section that leaves at a position: what was forwarded under R24, else the empty section. -/
def outSection (fwd : List SetItem) (noNew : Bool) (pos : Nat) : List Byte :=
  if noNew then emptySection
  else match fwd.find? fun i => i.pos == pos with
    | some i => i.sec
    | none => emptySection

/-- The S-frames of a plane (R191, R197): NO_NEW_OUTPUTS in a missed cycle and outside the vital cycle. -/
def sFrames (s : State) (r : RingId) (p : Plane) : List (List Byte) :=
  let x := planeAt s r p
  let noNew := s.cyc.missed || !s.mod.st.runs
  mkFrames s ftS r p (frameFlags s x noNew)
    (fun sp => (List.range sp.2).flatMap fun i => outSection (s.rings.fwd.get r.slot) noNew (sp.1 + i))
    (sLaunchNs (periodMs s)) (spans (listed s r).length x)

/-! ## G_FRAME_LAUNCH, S_FRAME_LAUNCH (R197) -/

/-- A plane at its G-frame launch: cycles without a returned frame are counted (R235). -/
def planeTick (x : PlaneHub) (fs : List (List Byte)) : PlaneHub :=
  { x with txG := fs, silent := if x.returned then 0 else x.silent + 1, returned := false, got := [], off := false }

/-- The G-frames of the cycle leave at Ck + 20 us. -/
def gLaunchAt (s : State) : State :=
  (planesWith s (·.started)).foldl (fun t x =>
    let fs := gFrames s x.1 x.2
    relayFrames (planeMod t x.1 x.2 fun q => planeTick q fs) (planeAt s x.1 x.2) fs) (advanceTo s 20000)

/-- G_FRAME_LAUNCH. -/
def execGFrameLaunch (s : State) : Host.Outcome State Fault Refusal :=
  .next (if canLaunch s && framesDue s then gLaunchAt s else s)

/-- The S-frames of the cycle leave; the cycle and epoch stamped into them are kept for their status sections (R200). -/
def sLaunchAt (s : State) : State :=
  let s1 := advanceTo s (sLaunchNs (periodMs s))
  let s2 := (planesWith s (·.started)).foldl (fun t x =>
    let fs := sFrames s x.1 x.2
    relayFrames (planeMod t x.1 x.2 fun q => { q with txS := fs }) (planeAt s x.1 x.2) fs) s1
  { s2 with cyc := { s2.cyc with sent := true, sCyc := s.cyc.k, sEpoch := s.peer.epoch } }

/-- S_FRAME_LAUNCH. -/
def execSFrameLaunch (s : State) : Host.Outcome State Fault Refusal :=
  .next (if canLaunch s && framesDue s && !s.cyc.sent then sLaunchAt s else s)

/-! ## What a frame of the pair's other module, or of any other master, tells (R332, R339, R352) -/

/-- Every lane keeps the highest epoch known in its boot record (R332). -/
def raiseEpoch (s : State) (e : Nat) : State :=
  if e ≤ epochKnown s then s
  else { s with lanes := s.lanes.map fun x =>
    if x.role == .retired then x else { x with mram := bootWrite x.mram fun b => { b with epoch := BitVec.ofNat 32 e } } }

/-- The standby's mirrored state becomes incomplete, and the running round is broken: a slice received before does not count in the
next one; STANDBY_INCOMPLETE once for each loss (R335, R339). -/
def mirrorLost (s : State) : State :=
  let s1 := if s.peer.mirrorOk then standbyIncomplete s 1 else s
  { s1 with peer := { s1.peer with mirrorOk := false, slices := [], mirrorReady := false, fullWait := [] } }

/-- Something of a cycle later than the last complete group has reached the standby (R339). -/
def laterSeen (s : State) (cycle : Nat) : State :=
  if s.mod.st == .standby && s.peer.lastGroup.toNat + 1 < cycle then mirrorLost s else s

/-- A valid frame of another master at a cage (R332, R334 PLANES, R336, R339, R352); one below the highest epoch known is not the
holder's. The cycle last observed is one of the holder's epoch: a higher epoch starts the observation afresh. -/
def observeFrame (s : State) (r : RingId) (p : Plane) (hdr : List Byte) : State :=
  if hdrEpoch hdr < epochKnown s then { s with peer := { s.peer with heard := true } } else
  let s1 := raiseEpoch s (hdrEpoch hdr)
  let bit := BitVec.ofNat 8 (2 ^ (2 * (r.num - 1) + p.num))
  let first := s1.peer.frameEpoch.toNat != hdrEpoch hdr
  let new := first || s1.peer.frameCyc.toNat < hdrCycle hdr
  let s2 := { s1 with peer := { s1.peer with
    heard := true, frameEpoch := BitVec.ofNat 32 (hdrEpoch hdr),
    frameCyc := if new then BitVec.ofNat 64 (hdrCycle hdr) else s1.peer.frameCyc,
    planes := if new then bit else if s1.peer.frameCyc.toNat = hdrCycle hdr then s1.peer.planes ||| bit else s1.peer.planes } }
  laterSeen s2 (hdrCycle hdr)

/-! ## Two masters (R230, R346, R347) -/

/-- A ranks above B: higher EPOCH, then lower MASTER_ID. -/
def ranksAbove (ea ma eb mb : Nat) : Bool := eb < ea || (ea == eb && ma < mb)

/-- RING_BACKOFF: the module launches no frame on the ring from its next cycle on. A module of a pair leaves the active role at that
instant (R347), one in BOOT its restart (R352); a module that operates alone never gives the lease up (R322). -/
def backOff (s : State) (r : RingId) : State :=
  if s.rings.backedOff.get r.slot || s.rings.backNext.get r.slot then s
  else
    let s1 := raiseShared { s with rings := { s.rings with backNext := s.rings.backNext.set r.slot true } } 0x0506 (argInst (arg1 r.num))
    if isPair s1 then { s1 with mod := { s1.mod with leave := true } } else s1

/-- A frame of another master reaches a cage: ranked against this module while it launches. -/
def foreignAt (s : State) (r : RingId) (p : Plane) (frame : List Byte) : State :=
  let h := frame.take 64
  if !ringHdr h then s
  else
    let launching := s.peer.held
    let own := s.peer.epoch.toNat
    let s1 := observeFrame s r p h
    if !launching then s1
    else if ranksAbove (hdrEpoch h) (hdrMid h) own (masterId s) then backOff s1 r
    else raiseShared s1 0x0507 (argInst (arg1 r.num))

/-- FOREIGN_MASTER_FRAME. -/
def execForeignMasterFrame (r : RingId) (p : Plane) (frame : List Byte) (s : State) : Host.Outcome State Fault Refusal :=
  .next (if hubUp s then foreignAt s r p frame else s)

/-- RING_RELAY (R217): the cage of a module that is not the master turns the frame back and copies it to the master. -/
def execRingRelay (r : RingId) (p : Plane) (frame : List Byte) (s : State) : Host.Outcome State Fault Refusal :=
  .next (if hubUp s && isPair s && !s.peer.held && ringHdr (frame.take 64) then
    relaySend (planeMod (observeFrame s r p (frame.take 64)) r p fun x => { x with relayed := frame }) frame else s)

/-- RELAYED_LAUNCH (R217): a frame of the peer leaves this module's cage unchanged. -/
def execRelayedLaunch (r : RingId) (p : Plane) (frame : List Byte) (s : State) : Host.Outcome State Fault Refusal :=
  .next (if hubUp s && isPair s && !s.peer.held then
    planeMod s r p fun x => { x with relayed := frame } else s)

/-! ## RING_SECTION_ARRIVAL (R19, R36, R37, R217, R230, R235) -/

/-- The frame is this module's own: its epoch and MASTER_ID. -/
def ownFrame (s : State) (h : List Byte) : Bool :=
  ringHdr h && hdrMid h == masterId s && (hdrEpoch h == s.peer.epoch.toNat || hdrEpoch h == s.cyc.sEpoch.toNat)

/-- The frame's slots with their tags (R18, R189); `atNs` is when its first octet reached the cage, a slot's time that of its last
octet, at 8 ns each (R198). -/
def frameSlots (r : RingId) (p : Plane) (atNs : Nat) (frame : List Byte) : List RingSlot :=
  let h := frame.take 64
  (List.range (min (hdrNsect h) ((frame.length - 64) / 56))).map fun i =>
    { ring := r, plane := p, pos := hdrFirst h + i, atNs := atNs + 8 * (64 + 56 * (i + 1)), hdr := h, sec := slice frame (64 + 56 * i) 56 }

/-- Hand a section to a lane as its credits allow; else it waits in the hub's frame buffer (R19). -/
def handSlot (w : RingSlot) (s : State) (l : Lane) : State :=
  if (s.rings.hand.get l).all (fun x => x.ring != w.ring) && ((s.lanes.get l).ringIn.get w.ring.slot).credits != 0 then
    onLane s l fun x => { x with ringIn := x.ringIn.modify w.ring.slot fun q => q.send w }
  else { s with rings := { s.rings with hand := s.rings.hand.set l (s.rings.hand.get l ++ [w]) } }

/-- A section arrives in time, or late: counted against its node (R36). A G section that reaches the cage after Ck + 0.43 ms does not
come into the ring input queues by input close (R234). -/
def takeSlot (isG : Bool) (s : State) (w : RingSlot) : State :=
  if isG && (s.cyc.closed || 430000 < w.atNs) then lateSection s w
  else (Lane.all.filter (getsInput s)).foldl (handSlot w) s

/-- Status sections of a returned S-frame that are valid, as the hub reads them from the node list. -/
def statusSlots (s : State) (ws : List RingSlot) : List RingSlot :=
  ws.filter fun w => match (listed s w.ring)[w.pos]? with
    | some n => validCopy ftS 0x03 s.cyc.sCyc s.cyc.sEpoch n w
    | none => false

/-- A returned S-frame tells whether the nodes take this module for their master (R230, R346). -/
def judgeStatus (s : State) (r : RingId) (p : Plane) (ws : List RingSlot) : State :=
  let st := statusSlots s ws
  let s1 := if st.any fun w => !epochReject (secNflags w.sec) then planeMod s r p fun x => { x with mastered := true } else s
  if st.any fun w => epochReject (secNflags w.sec) then backOff s1 r else s1

/-- A returned frame is off its prediction by more than 1 us (R226): against the time from the T_LAUNCH in its header. -/
def offPrediction (s : State) (x : PlaneHub) (h : List Byte) (atNs : Nat) : Bool :=
  match x.preds.find? fun q => q.1 == hdrFirst h with
  | some q => 1000 < (((s.time.ckNs.toNat + atNs : Nat) : Int) - ((fldBE h 0x18 8 + q.2 : Nat) : Int)).natAbs
  | none => false

/-- LINK and SYNCST that the nodes wrote into a TIMING frame (R225). The manual gives the ring statistics that report them, and the SFP
diagnostics of R185, no form and no command: the hub holds what was read last (log entry 91). -/
def syncOf (frame : List Byte) : List (Nat × Nat × Nat) :=
  (List.range (min (hdrNsect frame) ((frame.length - 64) / 16))).map fun i =>
    (hdrFirst frame + i, fldBE frame (64 + 16 * i + 12) 1, fldBE frame (64 + 16 * i + 13) 1)

/-- What the return of an own frame leaves at its plane. -/
def returnedFrame (s : State) (h frame : List Byte) (atNs : Nat) (x : PlaneHub) : PlaneHub :=
  { x with
    returned := true, silent := 0, got := x.got ++ [(hdrType h, hdrFirst h, hdrCycle h)], returning := x.returning && hdrType h != ftG,
    off := x.off || offPrediction s x h atNs,
    sync := if hdrType h == ftTiming then (x.sync.filter fun y => (syncOf frame).all fun z => z.1 != y.1) ++ syncOf frame else x.sync }

/-- An own frame has returned: the first copy of it is used. -/
def returnAt (s : State) (r : RingId) (p : Plane) (frame : List Byte) (atNs : Nat) : State :=
  let h := frame.take 64
  let key := (hdrType h, hdrFirst h, hdrCycle h)
  if (planeAt s r p).got.contains key then s
  else
    let isG := hdrType h == ftG
    let back := (planeAt s r p).returning && isG
    let s1 := planeMod s r p (returnedFrame s h frame atNs)
    let s2 := if back then raiseShared s1 0x0584 (argPlane r p) else s1
    let ws := if isG || hdrType h == ftS then frameSlots r p atNs frame else []
    let s3 := if hdrType h == ftS then judgeStatus s2 r p ws else s2
    ws.foldl (takeSlot isG) s3

/-- RING_SECTION_ARRIVAL. -/
def execRingSectionArrival (r : RingId) (p : Plane) (frame : List Byte) (atNs : Nat) (s : State) : Host.Outcome State Fault Refusal :=
  .next (if hubUp s then
    if s.peer.held && ownFrame s (frame.take 64) then returnAt (advanceTo s atNs) r p frame atNs
    else foreignAt s r p frame
  else s)

/-! ## PLANE_STATS (R201) -/

/-- A lane's event of one plane at one position, where it has counted anything. -/
def statsOf (l : Lane) (c : PlaneCount) (s : State) (p : Plane) : State :=
  let f := match p with | .A => c.faultA | .B => c.faultB
  if f = 0 && c.conf = 0 then s else raiseLane s l 0x0581 (argInst (arg1 c.ring ++ arg1 p.num ++ arg1 c.pos) ++ arg2 f ++ arg2 c.conf)

/-- A lane reports its counts and starts them afresh. -/
def planeStatsOf (s : State) (l : Lane) : State :=
  let s1 := (s.lanes.get l).planeCnt.foldl (fun t c => statsOf l c (statsOf l c t .A) .B) s
  onLane s1 l fun x => { x with planeCnt := [] }

/-- The lanes that vote report, each by its own decisions (R201; log entry 95). -/
def planeStatsAt (s : State) : State :=
  let s1 := (voting s).foldl planeStatsOf s
  { s1 with agr := { s1.agr with nodes := s1.agr.nodes.map fun ns => ns.map fun n => { n with late := 0 } } }

/-- PLANE_STATS: once every 1 000 completed cycles. -/
def execPlaneStats (s : State) : Host.Outcome State Fault Refusal :=
  .next (if hubUp s && s.cyc.voted && s.cyc.done % 1000 == 0 then planeStatsAt s else s)

/-! ## SFP modules (R184, R185) -/

/-- Kinds a ring cage takes: SX, LX, LX10. -/
def ringSfpOk : SfpKind → Bool
  | .sx | .lx | .lx10 => true
  | .tenGSR | .other | .empty => false

/-- The number of a ring cage: J1 and J2 for ring 1, to J7 and J8 for ring 4. -/
def cageNum (r : RingId) (p : Plane) : Nat := 2 * r.num - 1 + p.num

/-- The plane on a disabled cage counts as lost; PLANE_LOST tells so of one that was in service (R185, R235). -/
def sfpLost (s : State) (r : RingId) (p : Plane) : State :=
  let s1 := if canLaunch s && ringOpen s r && (planeAt s r p).started then raiseShared s 0x0508 (argPlane r p) else s
  planeMod s1 r p fun x => { x with lost := true, started := false, timDue := false, accepted := [], halves := [] }

/-- RING_SFP_INSERTION: an unsuitable module keeps the cage disabled, RING_SFP names the cage and the plane counts as lost; an
empty cage has no link. -/
def execRingSfpInsertion (r : RingId) (p : Plane) (kind : SfpKind) (s : State) : Host.Outcome State Fault Refusal :=
  .next (if hubUp s then
    if ringSfpOk kind then planeMod s r p fun x => { x with sfpOk := true }
    else
      let s1 := planeMod s r p fun x => { x with sfpOk := false, upOwn := false }
      if kind == .empty then s1 else sfpLost (raiseHub s1 0x0501 (argInst (arg1 (cageNum r p)))) r p
  else s)

/-- SFP_DIAG_READ: the diagnostics are kept for ring statistics, which the manual gives no form and no command: the model holds the last
reading and reports it nowhere (DESIGN CHOICE, log entry 91). -/
def execSfpDiagRead (r : RingId) (p : Plane) (rxPower txPower temp : Half) (s : State) : Host.Outcome State Fault Refusal :=
  .next (if hubUp s then planeMod s r p fun x => { x with diag := (rxPower, txPower, temp) } else s)

/-! ## DISCOVER (R220 to R224, R236) -/

/-- The service slot [ns] from Ck (R220). -/
def serviceNs (s : State) : Nat := periodNs s - 1900000

/-- The plane has a port with its link up. -/
def portUp (x : PlaneHub) : Bool := portOwn x || x.upPeer

/-- The plane's service slot of the cycle is free: no DISCOVER or TIMING has left in it (R220). -/
def svcFree (s : State) (x : PlaneHub) : Bool := x.svc != some s.cyc.k

/-- DISCOVER is due on the plane: asked for, or the first step of its start. -/
def discoverDue (x : PlaneHub) : Bool := portUp x && (x.discDue || (!x.started && !x.tried && !x.timDue && !x.lost && !x.delayBad))

/-- A DISCOVER frame: tally and 256 entries of zeros, NSECT 256; WRAP on a wrapped plane (R221, R233). -/
def discoverFrame (s : State) (r : RingId) (p : Plane) : List Byte :=
  mkFrame s ftDiscover r p (frameFlags s (planeAt s r p) false) (0, 256) (serviceNs s) (zeros (8 + 16 * 256))

/-- The plane as DISCOVER leaves on it: one frame from every usable port; one in single-module cabling. -/
def discoverPlane (s : State) (f : List Byte) (q : PlaneHub) : PlaneHub :=
  { q with txD := List.replicate (if isPair s && portOwn q && q.upPeer then 2 else 1) f, discDue := false, tried := true,
           svc := some s.cyc.k }

/-- DISCOVER on every plane where it is due; the frame for the peer's port passes to the peer (R217, R220). -/
def discoverAt (s : State) : State :=
  (planesWith s fun x => discoverDue x && svcFree s x).foldl (fun t x =>
    let f := discoverFrame s x.1 x.2
    let t1 := planeMod t x.1 x.2 (discoverPlane s f)
    if isPair s && (planeAt s x.1 x.2).upPeer then relaySend t1 f else t1) (advanceTo s (serviceNs s))

/-- DISCOVER_LAUNCH. -/
def execDiscoverLaunch (s : State) : Host.Outcome State Fault Refusal :=
  .next (if canLaunch s then discoverAt s else s)

/-- Entry i of a DISCOVER frame (R221). -/
def dEntry (f : List Byte) (i : Nat) : List Byte := slice f (72 + 16 * i) 16
/-- NODE_ID. -/
def deNode (e : List Byte) : Nat := fldBE e 0 4
/-- CFG_POS. -/
def dePos (e : List Byte) : Nat := fldBE e 4 1
/-- FLAGS.WFIRST and FLAGS.PRESENT. -/
def deWfirst (e : List Byte) : Bool := bitAt (fldBE e 6 1) 0
/-- PRESENT. -/
def dePresent (e : List Byte) : Bool := bitAt (fldBE e 6 1) 7
/-- WIDX. -/
def deWidx (e : List Byte) : Nat := fldBE e 7 1
/-- HOP1_NS; a hop that was not measured adds nothing. -/
def deHop (e : List Byte) : Nat := if fldBE e 8 2 = 0xFFFF then 0 else fldBE e 8 2
/-- RES [ns]. -/
def deRes (e : List Byte) : Nat := 2 * fldBE e 10 1

/-- Why an entry is rejected (R222), in the rule's order. -/
inductive Reject where
  | extra | connection | identity | duplicate
  deriving DecidableEq, Repr

/-- Its number in NODE_REJECT. -/
def Reject.num : Reject → Nat
  | .extra => 0 | .connection => 1 | .identity => 2 | .duplicate => 3

/-- What a discovery of a plane has found so far. -/
structure Found where
  /-- Entries by position, of every entry that stands at a listed position: what the delays are taken from. -/
  raw   : List (Nat × List Byte) := []
  /-- Positions taken and the frame they were taken from, with their entries. -/
  taken : List (Nat × Nat × List Byte) := []
  /-- Frame and position of every entry that passed its tests. -/
  seen  : List (Nat × Nat) := []
  dup   : List Nat := []
  rejects : List (Nat × Reject) := []
  deriving DecidableEq, Repr

/-- The position an entry stands for, of n listed; none when it lies outside. -/
def entryPos (n i : Nat) (e : List Byte) : Option Nat :=
  if deWfirst e then (if deWidx e < n then some (n - 1 - deWidx e) else none) else if i < n then some i else none

/-- Judge entry i of frame f. A position found a second time in one frame is a duplicate and both are rejected; one that the second
frame of the same discovery finds too is the same node met from the other end (DESIGN CHOICE, log entry 12). An extra entry stands at
no listed position: NODE_REJECT names its index in its frame (DESIGN CHOICE, log entry 92). -/
def judgeEntry (ns : List NodeEnt) (f : Nat) (acc : Found) (ie : Nat × List Byte) : Found :=
  let e := ie.2
  if !dePresent e then acc
  else
    match entryPos ns.length ie.1 e with
    | none => { acc with rejects := acc.rejects ++ [(ie.1, .extra)] }
    | some pos =>
      match ns[pos]? with
      | none => { acc with rejects := acc.rejects ++ [(ie.1, .extra)] }
      | some n =>
        let a := { acc with raw := acc.raw ++ [(pos, e)] }
        if fldBE e 12 4 != (crc32c (e.take 12 ++ beBytes 4 n.connId.toNat)).toNat then
          { a with rejects := a.rejects ++ [(pos, .connection)] }
        else if deNode e != n.nodeId.toNat || dePos e != pos then { a with rejects := a.rejects ++ [(pos, .identity)] }
        else
          let b := { a with seen := a.seen ++ [(f, pos)] }
          if a.seen.contains (f, pos) then
            if a.dup.contains pos then { b with rejects := b.rejects ++ [(pos, .duplicate)] }
            else { b with dup := b.dup ++ [pos], rejects := b.rejects ++ [(pos, .duplicate), (pos, .duplicate)] }
          else if a.taken.any fun t => t.1 == pos then b
          else { b with taken := b.taken ++ [(pos, f, e)] }

/-- The entries of the returned frames in order. -/
def judgeFrames (ns : List NodeEnt) (frames : List (List Byte)) : Found :=
  (enumFrom0 frames).foldl (fun acc f => ((List.range 256).map fun i => (i, dEntry f.2 i)).foldl (judgeEntry ns f.1) acc) {}

/-- Positions accepted, rising, with whether they were found westbound first. -/
def acceptedOf (f : Found) : List (Nat × Bool) :=
  sortBy (fun x : Nat × Bool => x.1) ((f.taken.filter fun t => !f.dup.contains t.1).map fun t => (t.1, deWfirst t.2.2))

/-- HOP1 of a position. -/
def hopAt (f : Found) (pos : Nat) : Nat := match f.raw.find? fun x => x.1 == pos with | some x => deHop x.2 | none => 0
/-- RES of a position. -/
def resAt (f : Found) (pos : Nat) : Nat := match f.raw.find? fun x => x.1 == pos with | some x => deRes x.2 | none => 0

/-- The sum of a term over the positions lo to hi - 1. -/
def sumPos (lo hi : Nat) (g : Nat → Nat) : Nat := sumOf (((List.range hi).filter fun i => lo ≤ i).map g)

/-- Delay of the first link from the cage at position 0: HOP1 of node 0 in a pair, 5 ns/m of LEN_IN else (R224). -/
def firstLink (pair : Bool) (lenIn : Nat) (f : Found) : Nat := if pair then hopAt f 0 else 5 * lenIn

/-- DLY of a position served from the cage at position 0. -/
def dlyEast (pair : Bool) (lenIn : Nat) (f : Found) (x : Nat) : Nat :=
  firstLink pair lenIn f + sumPos 1 (x + 1) (hopAt f) + sumPos 0 x (resAt f)

/-- DLY of a position of the half that frames reach westbound first, turned back at its lowest position lo: `last` is what the
frame has taken to node N - 1. The node that wraps adds its RES, as every node on the path does, and the turn-back its 0.5 us beside it
(DEDUCED, log entry 93). -/
def dlyWest (n lo last : Nat) (f : Found) (x : Nat) : Nat :=
  let west := last + sumPos (lo + 1) n (hopAt f) + sumPos (lo + 1) n (resAt f)
  if x = lo then west else west + 500 + resAt f lo + sumPos (lo + 1) (x + 1) (hopAt f) + sumPos (lo + 1) x (resAt f)

/-- Time to node N - 1 for the half served westbound: in a pair the other cage's link; in single-module cabling out to the
break, back, and the closing fibre, which the measured loop gives (R224). -/
def lastLink (pair : Bool) (lenIn n hi lo loopNs probe : Nat) (f : Found) : Nat :=
  if pair then probe
  else
    let out := 5 * lenIn + 2 * sumPos 1 (hi + 1) (hopAt f) + 2 * sumPos 0 hi (resAt f) + resAt f hi + 500
    let back := 2 * sumPos (lo + 1) n (hopAt f) + 2 * sumPos (lo + 1) n (resAt f) + resAt f lo + 500 + probe
    out + (loopNs - (out + back))

/-- The half-rings of a broken plane (R233): the span of the positions found eastbound, and of those found westbound first. -/
def halvesOf (n : Nat) (unbroken : Bool) (acc : List (Nat × Bool)) : List (Nat × Nat) :=
  if unbroken then []
  else
    let east := (acc.filter fun x => !x.2).map (·.1)
    let west := (acc.filter (·.2)).map (·.1)
    let span (l : List Nat) : List (Nat × Nat) :=
      match l, l.getLast? with
      | a :: _, some b => [(a, b + 1 - a)]
      | _, _ => []
    if east.isEmpty || west.isEmpty then [(0, n)] else span east ++ span west

/-- Time from T_LAUNCH to the return at a cage of the frame of each span (R226): the measured loop on a whole plane and in
single-module cabling, whose one loop every frame runs; in a pair out to the wrapping node of the half and back. -/
def predsOf (pair : Bool) (lenIn n loopNs probe : Nat) (f : Found) (acc : List (Nat × Bool)) (spans : List (Nat × Nat)) :
    List (Nat × Nat) :=
  if !pair || spans.isEmpty then (if spans.isEmpty then [(0, loopNs)] else spans.map fun sp => (sp.1, loopNs))
  else
    let hi := maxOf ((acc.filter fun x => !x.2).map (·.1))
    let lo := match (acc.filter (·.2)).head? with | some x => x.1 | none => 0
    let east := 2 * (firstLink pair lenIn f + sumPos 1 (hi + 1) (hopAt f) + sumPos 0 hi (resAt f)) + resAt f hi + 500
    let west := 2 * (probe + sumPos (lo + 1) n (hopAt f) + sumPos (lo + 1) n (resAt f)) + resAt f lo + 500
    spans.map fun sp => (sp.1, if acc.any fun x => x.1 == sp.1 && x.2 then west else east)

/-- DLY of every accepted position. -/
def delaysOf (pair : Bool) (lenIn n loopNs probe : Nat) (f : Found) (acc : List (Nat × Bool)) (unbroken : Bool) : List (Nat × Nat) :=
  let hi := maxOf ((acc.filter fun x => !x.2).map (·.1))
  let lo := match (acc.filter (·.2)).head? with | some x => x.1 | none => 0
  acc.map fun x =>
    (x.1, if x.2 && !unbroken then dlyWest n lo (lastLink pair lenIn n hi lo loopNs probe f) f x.1 else dlyEast pair lenIn f x.1)

/-- Modelled loop of an unbroken plane of a pair, but for the other cage's link, which counts twice. -/
def loopModel (n : Nat) (f : Found) : Nat := 2 * sumPos 0 n (hopAt f) + 2 * sumPos 0 n (resAt f) + 500

/-- The modelled loop differs from the measured one by more than 1 us. -/
def loopBad (base probe loopNs : Nat) : Bool :=
  let m := base + 2 * probe
  1000 < (if m < loopNs then loopNs - m else m - loopNs)

/-- NODE_LOST for each position that was accepted and no started plane of the ring accepts any more (R236). -/
def nodesLost (s : State) (r : RingId) : State :=
  let t := s.rings.planes.get r.slot
  let now := ([t.a, t.b].filter fun x => x.started || x.timDue).flatMap (·.accepted)
  let lost := (s.rings.known.get r.slot).filter fun p => !now.contains p
  let s1 := lost.foldl (fun s p => raiseShared s 0x0509 (argInst (arg1 r.num ++ arg1 p))) s
  { s1 with rings := { s1.rings with known := s1.rings.known.set r.slot (sortBy id now.dedup) } }

/-- What a returned discovery says of its plane: the nodes found, who is accepted, the modelled loop, whether DLY may be taken. -/
structure RingFinding where
  found : Found
  acc : List (Nat × Bool)
  base : Option Nat
  bad : Bool
  probe : Nat
  unbroken : Bool
  loopNs : Nat

/-- The verdict over the frames of one discovery. -/
def ringFindingOf (pair : Bool) (lenIn : Nat) (ns : List NodeEnt) (probeNs : Nat) (frames : List (List Byte)) (loopNs : Nat)
    (unbroken : Bool) : RingFinding :=
  let n := ns.length
  let f := judgeFrames ns frames
  let base := if pair && unbroken then some (loopModel n f) else none
  let probe := if pair || !unbroken then probeNs else loopNs - (5 * lenIn + sumPos 1 n (hopAt f) + sumPos 0 n (resAt f))
  { found := f, acc := acceptedOf f, base := base, bad := match base with | some b => loopBad b probeNs loopNs | none => false,
    probe := probe, unbroken := unbroken, loopNs := loopNs }

/-- The plane once its discovery is read. -/
def discovered (pair : Bool) (lenIn n : Nat) (v : RingFinding) (x : PlaneHub) : PlaneHub :=
  let go := !v.acc.isEmpty && !v.bad
  let y := { x with txD := [], loopNs := v.loopNs, loopBase := v.base, delayBad := v.bad, probeNs := v.probe, found := v.found.raw,
                    unbroken := v.unbroken, preds := predsOf pair lenIn n v.loopNs v.probe v.found v.acc (halvesOf n v.unbroken v.acc) }
  let z := { y with
    accepted := v.acc.map Prod.fst, halves := halvesOf n v.unbroken v.acc,
    dly := if v.bad then x.dly else delaysOf pair lenIn n v.loopNs v.probe v.found v.acc v.unbroken }
  { z with
    timDue := go, returning := x.returning || (x.lost && go), lost := x.lost && !go }

/-- RING_START of a plane: its accepted and its missing positions, 64 positions to a record (DESIGN CHOICE, log entry 37): the first of
them, a bit for each that is accepted, a bit for each that is listed and not accepted. -/
def ringStart (s : State) (r : RingId) (p : Plane) (n : Nat) (acc : List Nat) : State :=
  (List.range ((n + 63) / 64)).foldl (fun s i =>
    let here (want : Bool) : Nat := bitsOf ((List.range 64).map fun j => 64 * i + j < n && acc.contains (64 * i + j) == want)
    raiseShared s 0x0582 (argInst (arg1 r.num ++ arg1 p.num ++ arg1 (64 * i)) ++ arg8 (here true) ++ arg8 (here false))) s

/-- NODE_REJECT for each rejected position, RING_START at the start of the plane, RING_DELAY where the loop is wrong. -/
def discoveryAlarms (s : State) (r : RingId) (p : Plane) (n : Nat) (started : Bool) (v : RingFinding) : State :=
  let s1 := v.found.rejects.foldl (fun s j => raiseShared s 0x0504 (argInst (arg1 r.num ++ arg1 p.num ++ arg1 j.1) ++ arg1 j.2.num)) s
  let s2 := if started then s1 else
    ringStart s1 r p n (v.acc.map Prod.fst)
  if v.bad then raiseShared s2 0x0505 (argPlane r p) else s2

/-- LEN_IN of a ring in the yealm in force. -/
def lenInOf (s : State) (r : RingId) : Nat := match theYealm s with | some y => (y.rings.get r.slot).lenIn | none => 0

/-- The discovery of a plane has returned: rejections, acceptance, delays; TIMING follows in the next cycle. -/
def discoverReturnAt (s : State) (r : RingId) (p : Plane) (frames : List (List Byte)) (loopNs : Nat) (unbroken : Bool) : State :=
  let ns := listed s r
  let x := planeAt s r p
  let v := ringFindingOf (isPair s) (lenInOf s r) ns x.probeNs frames loopNs unbroken
  let t := planeMod (discoveryAlarms s r p ns.length x.started v) r p (discovered (isPair s) (lenInOf s r) ns.length v)
  nodesLost { t with rings := { t.rings with changed := true } } r

/-- DISCOVER_RETURN. -/
def execDiscoverReturn (r : RingId) (p : Plane) (frames : List (List Byte)) (loopNs : Nat) (unbroken : Bool) (s : State) :
    Host.Outcome State Fault Refusal :=
  .next (if canLaunch s && !(planeAt s r p).txD.isEmpty then discoverReturnAt s r p frames loopNs unbroken else s)

/-! ## TIMING (R223, R225) -/

/-- The 16 B entry of a position. -/
def timingEntry (s : State) (ns : List NodeEnt) (x : PlaneHub) (pos : Nat) : List Byte :=
  let dly := match x.dly.find? fun d => d.1 == pos with | some d => d.2 | none => 0
  let body := beBytes 1 pos ++ beBytes 1 (ofFlag (x.accepted.contains pos)) ++ zeros 2 ++ beBytes 4 dly
  let conn := match ns[pos]? with | some n => n.connId | none => 0
  body ++ beBytes 4 (crc32c (body ++ beBytes 4 conn.toNat ++ beBytes 4 s.peer.epoch.toNat)).toNat ++ zeros 4

/-- The TIMING frames of a plane, one for each span. -/
def timingFrames (s : State) (r : RingId) (p : Plane) : List (List Byte) :=
  let x := planeAt s r p
  mkFrames s ftTiming r p (frameFlags s x false)
    (fun sp => (List.range sp.2).flatMap fun i => timingEntry s (listed s r) x (sp.1 + i)) (serviceNs s)
    (spans (listed s r).length x)

/-- TIMING is due on the plane: the cycle after its DISCOVER at the earliest, and behind a DISCOVER that is due (R220, R223, R226). -/
def timingDue (s : State) (x : PlaneHub) : Bool := x.timDue && portUp x && !discoverDue x && svcFree s x

/-- The plane as TIMING leaves on it. -/
def timingPlane (s : State) (fs : List (List Byte)) (q : PlaneHub) : PlaneHub :=
  { q with txT := fs, timDue := false, started := true, silent := 0, returned := true, svc := some s.cyc.k }

/-- TIMING leaves; a plane that starts has its first G-frame in the next cycle. -/
def timingAt (s : State) : State :=
  (planesWith s (timingDue s)).foldl (fun t x =>
    let fs := timingFrames s x.1 x.2
    relayFrames (planeMod t x.1 x.2 (timingPlane s fs)) (planeAt s x.1 x.2) fs) (advanceTo s (serviceNs s))

/-- TIMING_LAUNCH. -/
def execTimingLaunch (s : State) : Host.Outcome State Fault Refusal :=
  .next (if canLaunch s then timingAt s else s)

/-! ## Supervision of the planes (R226, R235) -/

/-- A frame of the cycle has not returned: a G-frame by input close, an S-frame by its limit, which the event itself tells (R226). -/
def notReturned (s : State) (x : PlaneHub) : Bool :=
  let missing (fs : List (List Byte)) : Bool :=
    fs.any fun f => hdrCycle f == s.cyc.k.toNat && !x.got.contains (hdrType f, hdrFirst f, hdrCycle f)
  (s.cyc.closed && missing x.txG) || (s.cyc.sent && missing x.txS)

/-- RING_TOPOLOGY: a frame off its prediction or missing; DISCOVER in this cycle's service slot, TIMING in the next. -/
def execRingTopology (r : RingId) (p : Plane) (s : State) : Host.Outcome State Fault Refusal :=
  .next (if canLaunch s && ringOpen s r && (planeAt s r p).started && ((planeAt s r p).off || notReturned s (planeAt s r p)) then
    planeMod (raiseShared s 0x0583 (argPlane r p)) r p fun x => { x with discDue := true, off := false } else s)

/-- PERIODIC_TIMING: every 1 000 cycles; a plane whose loop is wrong is not re-timed (R224). -/
def execPeriodicTiming (s : State) : Host.Outcome State Fault Refusal :=
  .next (if canLaunch s && s.cyc.k.toNat % 1000 == 0 then
    (planesWith s fun x => x.started && !x.delayBad).foldl (fun t x => planeMod t x.1 x.2 fun q => { q with timDue := true }) s else s)

/-- A plane that discovery runs on every 100 cycles: a listed node is not accepted by the discovery that was made, it is lost, or its
loop is wrong (R224, R226, R235). -/
def wantsDiscovery (n : Nat) (x : PlaneHub) : Bool :=
  x.lost || x.delayBad || ((x.started || (x.tried && x.txD.isEmpty)) && x.accepted.length < n)

/-- PERIODIC_DISCOVER. -/
def execPeriodicDiscover (s : State) : Host.Outcome State Fault Refusal :=
  .next (if canLaunch s && s.cyc.k.toNat % 100 == 0 then
    allPlanes.foldl (fun t x =>
      if ringOpen s x.1 && wantsDiscovery (listed s x.1).length (planeAt s x.1 x.2) then
        planeMod t x.1 x.2 fun q => { q with discDue := true } else t) s
    else s)

/-- PLANE_LOST: no usable link, or no returned frame in 3 cycles; where frames still returned, the event tells of the links. -/
def execPlaneLost (r : RingId) (p : Plane) (s : State) : Host.Outcome State Fault Refusal :=
  .next (if canLaunch s && ringOpen s r && !(planeAt s r p).lost then
    planeMod (raiseShared s 0x0508 (argPlane r p)) r p fun x =>
      { x with lost := true, started := false, timDue := false, accepted := [], halves := [],
               upOwn := x.upOwn && 3 ≤ x.silent, upPeer := x.upPeer && 3 ≤ x.silent }
    else s)

/-- PORT_LINK_UP: discovery in the next service slot. -/
def execPortLinkUp (r : RingId) (p : Plane) (own : Bool) (s : State) : Host.Outcome State Fault Refusal :=
  .next (if hubUp s then
    planeMod s r p fun x =>
      if own then (if x.sfpOk then { x with upOwn := true, discDue := true } else x) else { x with upPeer := true, discDue := true }
    else s)

/-- The cage answers a probe that arrives on its link (R224). -/
def probeAnswered (r : RingId) (p : Plane) (s : State) : State := planeMod s r p fun x => { x with probes := x.probes + 1 }

/-- Half the round trip is the delay of the link to node N - 1; the modelled loop is compared again (R224). -/
def probeTaken (r : RingId) (p : Plane) (rttNs : Nat) (s : State) : State :=
  let x := planeAt s r p
  let bad := match x.loopBase with | some b => loopBad b (rttNs / 2) x.loopNs | none => x.delayBad
  let s1 := if bad && !x.delayBad then raiseShared s 0x0505 (argPlane r p) else s
  let s2 := planeMod s1 r p fun x => { x with probeNs := rttNs / 2, delayBad := bad, timDue := x.timDue && !bad }
  { s2 with rings := { s2.rings with changed := s2.rings.changed || x.probeNs != rttNs / 2 } }

/-- LINK_PROBE: the arriving probe is answered. In a pair the round trip to node N - 1 is that of the cage of module B, measured here
or told by the other module (DESIGN CHOICE, log entry 94). -/
def execLinkProbe (r : RingId) (p : Plane) (rttNs : Nat) (s : State) : Host.Outcome State Fault Refusal :=
  .next (if hubUp s then
    if isPair s then probeTaken r p rttNs (probeAnswered r p s) else probeAnswered r p s
  else s)

/-! ## INDICATE_GATHER (R390) -/

/-- The gathering cycle: G-frames now, S-frames at their time, and the image of this cycle is agreed. -/
def execIndicateGather (s : State) : Host.Outcome State Fault Refusal :=
  .next (if hubUp s && s.mod.st == .indicate && s.mod.boot.b.isNone && s.cyc.k.toNat % cyclesPer100 s == 0 then
    let s1 := { s with cyc := { s.cyc with gather := true } }
    if canLaunch s1 then gLaunchAt s1 else s1
  else s)

end Sys2Proof.Machine
end

