-- ==== Sys2Proof/Machine/Peer.lean ====
section
/-! DEFINITION. The peer links and the Spar lease (R322 to R336, R344 to R347, R350 to R353): lease messages, health of the
standby, the claims. -/

namespace Sys2Proof.Machine

/-! ## Messages of the lease class (R326, R327) -/

/-- A peer link. -/
def linkAt (s : State) (l : Plane) : PeerLink := s.peer.links.get l

/-- Change a peer link. -/
def linkMod (s : State) (l : Plane) (f : PeerLink → PeerLink) : State :=
  { s with peer := { s.peer with links := s.peer.links.modify l f } }

/-- A lease queue keeps the newest four messages (R18, R327). -/
def leaseKeep (q : List (List Byte)) (m : List Byte) : List (List Byte) :=
  let q' := q ++ [m]
  q'.drop (q'.length - 4)

/-- A message of the lease class leaves on a link, where its port sends at all; the Underlay may inhibit the class (R331). -/
def leaseSend (s : State) (link : Plane) (m : List Byte) : State :=
  if linkLive s link && !s.ul.leaseInh then { s with peer := { s.peer with leaseOut := leaseKeep s.peer.leaseOut m } } else s

/-- Both copies of a message with the next SEQ of the class. -/
def leaseBoth (s : State) (ptype cycle : Nat) (pay : List Byte) : State :=
  let q := s.peer.seqLease + 1
  let s1 := leaseSend s .A (peerMsg s ptype .A q cycle pay)
  let s2 := leaseSend s1 .B (peerMsg s ptype .B q cycle pay)
  let s3 := creditsBack ((linkLive s .A || linkLive s .B) && !s.ul.leaseInh) s2
  { s3 with peer := { s3.peer with seqLease := q } }

/-- PAIR_CONFLICT: a peer message carries this module's own ID (R323). -/
def pairConflict (s : State) : State :=
  if s.peer.conflict then s else raiseHub { s with peer := { s.peer with conflict := true } } 0x0801 []

/-- A valid message arrives: its epoch is known from now on (R332), one with this module's own ID is a conflict and nothing else (R323);
of any other the credits it returns are taken (R326), and then what it says. -/
def peerArrive (s : State) (m : List Byte) (take : State → State) : State :=
  let s1 := raiseEpoch s (pmEpoch m)
  if pmSender m = masterId s then pairConflict s1
  else take { s1 with peer := { s1.peer with crMirror := min 256 (s1.peer.crMirror + pmCrMirror m),
                                             crReq := min 64 (s1.peer.crReq + pmCrReq m) } }

/-- A lease message arrives in its queue. -/
def leaseArrive (s : State) (m : List Byte) (take : State → State) : State :=
  peerArrive { s with peer := { s.peer with leaseIn := leaseKeep s.peer.leaseIn m } } m take

/-! ## RENEW (R330, R333) -/

/-- The payload that a lane forms of the RENEW of the next cycle, or of the cycle under way where that is the last (`late`): YCRC and
EXCH_X are those that the lane itself holds. -/
def renewPay (s : State) (release late : Bool) (x : LaneSt) : List Byte :=
  beBytes 8 (s.time.ckNs.toNat + if late then 0 else periodNs s) ++ beBytes 2 (periodUs s) ++
    beBytes 1 (ofFlag s.peer.markInc + 2 * ofFlag release) ++ beBytes 1 s.mod.st.code ++ beBytes 4 (roster s).toNat ++
    beBytes 8 (match x.yealm with | some y => y.crc64.toNat | none => s.mod.ycrc.toNat) ++ beBytes 8 (reserveMark s) ++
    beBytes 8 (rgExchX x.region) ++ beBytes 1 (keyCode s) ++ zeros 23

/-- A RENEW as its receiver reads it. -/
def renewOf (m : List Byte) : Renew :=
  let p := pmPay m
  { epoch := BitVec.ofNat 32 (pmEpoch m), cycle := pmCycle m, rtime := BitVec.ofNat 64 (fldBE p 0 8), periodUs := fldBE p 8 2,
    incomplete := bitAt (fldBE p 10 1) 0, release := bitAt (fldBE p 10 1) 1, state := p.getD 11 0,
    roster := BitVec.ofNat 32 (fldBE p 12 4), ycrc := BitVec.ofNat 64 (fldBE p 16 8), asnMark := BitVec.ofNat 64 (fldBE p 24 8),
    exchX := BitVec.ofNat 64 (fldBE p 32 8), key := p.getD 40 0 }

/-- The message of this cycle is the last, and is formed late: the button was released in it while the standby is complete (R377,
R392; log entry 77). -/
def renewLate (s : State) : Bool := s.ul.orderly.isSome && isActive s && standbyComplete s

/-- RELEASE, where the standby is complete: a SHUTDOWN has ended DONE, so that cycle k + 1 is the last (R350), or cycle k is. -/
def renewRelease (s : State) : Bool := (s.mod.shutReq && isActive s && standbyComplete s) || renewLate s

/-- The RENEW as a lane forms it: its CYCLE by the lane's own count, and its payload. -/
def laneRenew (s : State) (x : LaneSt) : Nat × List Byte :=
  (x.k.toNat + (if renewLate s then 0 else 1), renewPay s (renewRelease s) (renewLate s) x)

/-- The RENEW that at least two counted lanes form alike, bit for bit (R25, R330). -/
def agreedRenew (s : State) : Option (Nat × List Byte) := agree2 ((counted s).map fun l => laneRenew s (s.lanes.get l))

/-- The holder renews: not in SAFE STOP or SPLIT, never below the highest epoch known, not after a RELEASE (R330 to R332, R350). -/
def renews (s : State) : Bool :=
  hubUp s && s.peer.held && !s.ul.leaseInh && s.mod.st != .safeStop && s.mod.st != .split &&
    epochKnown s ≤ s.peer.epoch.toNat && !s.peer.release

/-- The agreed RENEW goes out on both links and reloads the lease timer; without agreement nothing does. -/
def renewOut (s : State) : State :=
  match agreedRenew s with
  | none => s
  | some (cycle, pay) =>
    let s1 := if isPair s then leaseBoth s ptRenew cycle pay else s
    { s1 with peer := { s1.peer with release := renewRelease s }, ul := { s1.ul with leaseRun := true } }

/-- It leaves at C(k+1) - 50 us. -/
def renewAt (s : State) : State := renewOut (advanceTo s (periodNs s - 50000))

/-- RENEW_RELEASE. -/
def execRenewRelease (s : State) : Host.Outcome State Fault Refusal := .next (if renews s then renewAt s else s)

/-- The standby's ring time follows the holder's, corrected for the link's delay; its next common instant is the holder's
(R333). A RELEASE that names the cycle under way comes at that cycle's end. -/
def discipline (s : State) (link : Plane) (r : Renew) : State :=
  let p := BitVec.ofNat 64 (periodNs s)
  let late := r.release && r.cycle == s.cyc.k
  let ck := if late then r.rtime else r.rtime - p
  { s with time := { s.time with ckNs := ck, ringNs := ck + p - 50000 + BitVec.ofNat 64 (linkAt s link).delayNs },
           cyc := { s.cyc with k := if late then r.cycle else r.cycle - 1 },
           lanes := s.lanes.map fun x => { x with k := if late then r.cycle else r.cycle - 1 } }

/-- A module that restarts gives its own restart up (R352): no lease, no boot shadow cycles, BOOT until it can stand by. Its lanes
keep their roles until a standby takes them up (R99). -/
def abandonRestart (s : State) : State :=
  let s1 := bootMod s fun b => { b with b := none, ringsUp := false }
  setState { s1 with peer := { s1.peer with held := false }, ul := { s1.ul with leaseRun := false } } .boot

/-- A fetch of the holder's yealm is open. -/
def fetchOpen (s : State) : Bool := s.peer.openReqs.any fun r => match r.body with
  | .fetch _ _ => true
  | .segment _ _ _ => false | .segmentAck => false | .fetchData _ _ _ => false

/-- A module that is to stand by and whose active yealm differs from YCRC fetches the holder's (R324, R343). -/
def fetchHolders (s : State) (r : Renew) : State :=
  if (s.mod.st == .standby || (s.mod.st == .boot && s.mod.boot.checked)) && !s.peer.held && !fetchOpen s &&
      (!s.mod.boot.agreed || s.mod.ycrc != r.ycrc) && r.ycrc != 0 then
    sendReq { s with peer := { s.peer with fetchBuf := [], fetchLen := 0 } } (.fetch 0 partBytes)
  else s

/-- A RENEW of the holder's epoch is taken by a module that does not hold the lease. -/
def renewStandby (link : Plane) (r : Renew) (s : State) : State :=
  let s1 := if s.mod.st == .standby then discipline s link r else s
  let s2 := if r.incomplete && s1.peer.mirrorOk then mirrorLost s1 else s1
  fetchHolders (tryStandby (laterSeen s2 r.cycle.toNat)) r

/-- A RENEW of the other module. While this module holds the lease it keeps it; only one that is still restarting gives way to
a holder that ranks above it (R230, R352). -/
def renewTake (link : Plane) (m : List Byte) (s : State) : State :=
  let r := renewOf m
  if r.epoch.toNat < epochKnown s || s.peer.seenLease.contains (pmSeq m) then s
  else
    let s1 := { s with peer := { s.peer with seenLease := noteSeq s.peer.seenLease (pmSeq m), renew := some r, heard := true } }
    if !s.peer.held then renewStandby link r s1
    else if (s.mod.st == .boot || s.mod.st == .indicate) &&
        ranksAbove r.epoch.toNat (pmSender m) s.peer.epoch.toNat (masterId s) then
      renewStandby link r (abandonRestart s1)
    else s

/-- RENEW_RECEIVE. -/
def execRenewReceive (link : Plane) (msg : List Byte) (s : State) : Host.Outcome State Fault Refusal :=
  .next (if linkLive s link && peerValid ptRenew link msg && msg.length == 100 then leaseArrive s msg (renewTake link msg) else s)

/-! ## BEAT (R334, R335) -/

/-- In the last observed cycle the holder's frames reached this module's cages on a plane of every listed ring. -/
def ringsSeen (s : State) : Bool :=
  RingId.all.all fun r => (listed s r).isEmpty || bitsAt s.peer.planes.toNat (2 * r.num - 1) (2 * r.num - 2) != 0

/-- The six conditions of R335 in their order. -/
def healthConds (s : State) : List Bool :=
  [s.peer.mirrorOk, s.peer.shadowOk,
   s.mod.boot.agreed && (match s.peer.renew with | some r => r.ycrc == s.mod.ycrc | none => false),
   3 ≤ healthyCount s, ringsSeen s,
   (s.ctl.pos == some .run || s.ctl.pos == some .maint) && swOn s 20 && !(swOn s 19 && s.ul.optSplit)]

/-- The standby's health is complete. -/
def healthComplete (s : State) : Bool := (healthConds s).all id

/-- HFLAGS. -/
def hflags (s : State) : Byte := BitVec.ofNat 8 (bitsOf (healthComplete s :: healthConds s))

/-- ACK: the newest cycle whose groups, up to it, are written on at least two lanes. -/
def beatAck (s : State) : Nat := (secondOf ((working s).map fun l => (s.lanes.get l).written.toNat)).getD 0

/-- SHADOW_YCRC and SHADOW_ST: VERIFIED once every voting lane holds the yealm. -/
def shadowHeld (s : State) : Nat × Nat :=
  let b := shadowBank (lead s).mram
  match b.state, b.img with
  | .verified, some y => if votersHold s y.crc64.toNat then (y.crc64.toNat, 2) else (0, 1)
  | st, _ => (0, st.code)

/-- ROT: completed cycles until the next rotation; all ones while rotation is off. -/
def rotLeft (s : State) : Nat :=
  match theYealm s with
  | some y => if swOn s 18 then rotationCycles y - s.cyc.sinceJoin else 0xFFFFFFFF
  | none => 0xFFFFFFFF

/-- The payload of a BEAT. -/
def beatPay (s : State) : List Byte :=
  let ls := s.lanes.toList
  let sh := shadowHeld s
  beBytes 8 (beatAck s) ++ beBytes 4 (roster s).toNat ++ [hflags s, s.peer.planes] ++
    beBytes 1 (bitsOf (ls.map fun x => x.bist.lastPass && x.injectOk) + 16 * bitsOf (ls.map (·.bist.failed))) ++ [0] ++
    (ls.map fun x => BitVec.ofNat 8 (100 * rowsFree x.mram / 640)) ++ (ls.map fun x => BitVec.ofNat 8 (sectFree x.mram)) ++
    ((List.range 6).map fun i => Config.junctionTemp i s.time.supUs) ++ zeros 2 ++ beBytes 4 (rotLeft s) ++ beBytes 8 sh.1 ++
    beBytes 1 sh.2 ++ zeros 3 ++ beBytes 8 (reserveMark s) ++ zeros 8

/-- A BEAT as its receiver reads it. -/
def beatOf (m : List Byte) : Beat :=
  let p := pmPay m
  { epoch := BitVec.ofNat 32 (pmEpoch m), cycle := pmCycle m, ack := BitVec.ofNat 64 (fldBE p 0 8),
    roster := BitVec.ofNat 32 (fldBE p 8 4), hflags := p.getD 12 0, planes := p.getD 13 0, bist := p.getD 14 0,
    spareSram := BitVec.ofNat 32 (fldLE p 16 4), spareMram := BitVec.ofNat 32 (fldLE p 20 4), temp := slice p 24 6,
    rot := BitVec.ofNat 32 (fldBE p 32 4), shadowYcrc := BitVec.ofNat 64 (fldBE p 36 8), shadowSt := p.getD 44 0,
    asnMark := BitVec.ofNat 64 (fldBE p 48 8) }

/-- The first condition that fails, 1 to 6 as its bit in HFLAGS. -/
def firstFailing (conds : List Bool) : Nat :=
  match findIdxVal (fun b => !b) 1 conds with
  | some x => x.1
  | none => 0

/-- STANDBY_INCOMPLETE when health is lost; the next loss is told again once health has been complete (R335). -/
def healthAlarm (s : State) (conds : List Bool) : State :=
  if conds.all id then { s with peer := { s.peer with incAlarm := false } } else standbyIncomplete s (firstFailing conds)

/-- The standby's BEAT of cycle k leaves on both links at Ck + 0.4 ms. -/
def beatAt (s : State) : State :=
  let s1 := advanceTo s 400000
  let s2 := leaseBoth s1 ptBeat s1.cyc.k.toNat (beatPay s1)
  healthAlarm { s2 with peer := { s2.peer with sentBeat := hflags s1 } } (healthConds s1)

/-- BEAT_SEND. -/
def execBeatSend (s : State) : Host.Outcome State Fault Refusal :=
  .next (if hubUp s && isPair s && s.mod.st == .standby then beatAt s else s)

/-- What a BEAT's MIRROR_OK does to INCOMPLETE: the standby that has learnt of it shows no MIRROR_OK; the first BEAT that shows it again
after that ends it (R339; log entry 99). -/
def beatMark (ok : Bool) (p : PeerSt) : PeerSt :=
  if !ok then { p with markSeen := p.markInc }
  else if p.markInc && p.markSeen then { p with markInc := false, markSeen := false } else p

/-- A BEAT of the standby: its health, the end of INCOMPLETE once it shows MIRROR_OK (R339), STANDBY_HEALTH once every 100
cycles and whenever HFLAGS changes, and the IMAGE_LOAD that waited for it (R301). -/
def beatTake (m : List Byte) (s : State) : State :=
  let b := beatOf m
  if !s.peer.held || s.peer.seenLease.contains (pmSeq m) then s
  else
    let told := match s.peer.beat with | some o => o.hflags != b.hflags | none => true
    let s1 := { s with peer := { (beatMark (b.hflags.getLsbD 1) s.peer) with
                                   seenLease := noteSeq s.peer.seenLease (pmSeq m), beat := some b } }
    let s2 := if told || s.cyc.k.toNat % 100 = 0 then raiseHub s1 0x0882 (Config.beatArgs (pmPay m)) else s1
    let conds := (flagsOf 7 b.hflags.toNat).drop 1
    loadDone (healthAlarm s2 conds)

/-- BEAT_RECEIVE. -/
def execBeatReceive (link : Plane) (msg : List Byte) (s : State) : Host.Outcome State Fault Refusal :=
  .next (if linkLive s link && peerValid ptBeat link msg && msg.length == 100 then leaseArrive s msg (beatTake msg) else s)

/-! ## LINK (R327, R333) -/

/-- LINK_SEND: SEQ counts per link; no payload is laid down. -/
def execLinkSend (link : Plane) (s : State) : Host.Outcome State Fault Refusal :=
  .next (if linkLive s link && !s.ul.leaseInh then
    let s1 := linkMod s link fun l => { l with txSeq := l.txSeq + 1 }
    creditsBack true (leaseSend s1 link (peerMsg s1 ptLink link (linkAt s1 link).txSeq s1.cyc.k.toNat []))
  else s)

/-- LINK_RECEIVE: half the round trip is the link's delay. -/
def execLinkReceive (link : Plane) (msg : List Byte) (rttNs : Nat) (s : State) : Host.Outcome State Fault Refusal :=
  .next (if linkLive s link && peerValid ptLink link msg then
    leaseArrive s msg fun t =>
      if (linkAt t link).rxSeq == pmSeq msg then t
      else linkMod t link fun l => { l with rxSeq := pmSeq msg, delayNs := rttNs / 2 }
  else s)

/-! ## LEASE_EXPIRED (R331) -/

/-- The Underlay acts in hardware: no ring frame, no lease message, SAFE STOP with LEASE_EXPIRED. -/
def leaseExpiredAt (s : State) : State :=
  let s1 := raiseUl s 0x0804 []
  enterSafeStop { s1 with rings := { s1.rings with inhibited := true }, ul := { s1.ul with leaseInh := true, leaseRun := false } }

/-- LEASE_EXPIRED: 40 ms without a RENEW. -/
def execLeaseExpired (s : State) : Host.Outcome State Fault Refusal :=
  .next (if s.mod.st != .off && s.ul.leaseRun then leaseExpiredAt s else s)

/-! ## Peer links (R325, R329) -/

/-- PEER_LINK_LOST. -/
def execPeerLinkLost (link : Plane) (s : State) : Host.Outcome State Fault Refusal :=
  .next (if linkLive s link && (linkAt s link).up then
    raiseHub (linkMod s link fun l => { l with up := false }) 0x0803 (argInst (arg1 link.num)) else s)

/-- Both links were down: what was under way on them is lost, so the buffers of both ends are free and all credits are there; the other
module may have restarted its SEQ counts (DESIGN CHOICE, log entry 97). -/
def linksFresh (s : State) : State :=
  if (linkAt s .A).up || (linkAt s .B).up then s
  else { s with peer := { s.peer with crMirror := 256, crReq := 64, backMirror := 0, backReq := 0, seenLease := [], seenMirror := [],
                                      seenReq := [], mirrorAsm := [] } }

/-- PEER_LINK_RETURN. -/
def execPeerLinkReturn (link : Plane) (s : State) : Host.Outcome State Fault Refusal :=
  .next (if linkLive s link && !(linkAt s link).up then
    raiseHub (linkMod (linksFresh s) link fun l => { l with up := true }) 0x0881 (argInst (arg1 link.num)) else s)

/-- PEER_SFP_INSERTION: a cage that holds anything but a 10GBASE-SR module is disabled and named; an empty one has nothing to
name. -/
def execPeerSfpInsertion (link : Plane) (kind : SfpKind) (s : State) : Host.Outcome State Fault Refusal :=
  .next (if hubUp s then
    if kind == .tenGSR then linkMod s link fun l => { l with sfpOk := true }
    else
      let s1 := linkMod s link fun l => { l with sfpOk := false, up := false }
      if kind == .empty then s1 else raiseHub s1 0x0802 (argInst (arg1 link.num))
  else s)

end Sys2Proof.Machine
end

