-- ==== Sys2Proof/Machine/Mirror.lean ====
section
/-! DEFINITION. What the standby does with the mirror (R20, R329, R337 to R342): blocks, inputs, journal groups, FULL slices, its own
computation of each mirrored cycle and the comparison with the holder's. -/

namespace Sys2Proof.Machine

/-! ## Inputs of a mirrored cycle (R337 INPUTS) -/

/-- The decision a code of the INPUTS item stands for. -/
def decisionOf : Nat → Decision
  | 0 => .usedBoth | 1 => .usedA | 2 => .usedB | 3 => .discarded | _ => .absent

/-- The agreed section of a node as the item lists it; what it does not list was not used. -/
def mirroredSec (secs : List (Nat × Nat × Nat × Nat × List Byte)) (ring kind pos : Nat) : SecAgreed :=
  match secs.find? fun e => e.1 == ring && e.2.1 == kind && e.2.2.1 == pos with
  | some e => ⟨some (decisionOf e.2.2.2.1), some e.2.2.2.2⟩
  | none => ⟨none, none⟩

/-- One node image one cycle on, from the agreed sections that a function gives. -/
def stepNode (y : Yealm) (prevT nowT : DWord) (f : RingId → Nat → Nat → SecAgreed) (r : RingId) (ns : List NodeImg)
    (pe : Nat × NodeEnt) : List NodeImg :=
  listMod ns pe.1 (nodeStep y r.num pe.1 pe.2 prevT nowT (f r 0x01 pe.1) (f r 0x03 pe.1))

/-- Every node image one cycle on. -/
def stepNodes (s : State) (y : Yealm) (prevT nowT : DWord) (f : RingId → Nat → Nat → SecAgreed) : State :=
  let s1 := fitNodes s y
  let go (q : Quad (List NodeImg)) (r : RingId) : Quad (List NodeImg) :=
    q.modify r.slot fun ns => (enumFrom0 (ringNodes y r)).foldl (stepNode y prevT nowT f r) ns
  { s1 with agr := { s1.agr with nodes := RingId.all.foldl go s1.agr.nodes } }

/-- The Eaves inputs from the mirrored frame, on which all lanes agree; the edge offsets of a cycle are not mirrored. -/
def mirrorEaves (y : Yealm) (raw : List Byte) (nowT : DWord) (s : State) : State :=
  if raw.length != 256 then s
  else
    let f := eFields raw
    let old := if s.agr.eIn.length = 64 then s.agr.eIn else List.replicate 64 blankInput
    let ins := (enumFrom0 old).map fun x => agreeInput y [f, f] [] 0 nowT x.1 x.2
    { s with agr := { s.agr with eIn := ins, estat := f.estat, supply := f.supply, eavesOk := true },
             lanes := s.lanes.map fun x => { x with oStat := f.ostat } }

/-- A mirrored section as a slot of a ring input queue: its tag names ring and position, and of its frame's header the cycle. -/
def mirrorSlot (c : DWord) (e : Nat × Nat × Nat × Nat × List Byte) : Option RingSlot :=
  match RingId.ofNum e.1 with
  | some r => some { ring := r, plane := .A, pos := e.2.2.1, atNs := 0, hdr := zeros 16 ++ beBytes 8 c.toNat ++ zeros 40, sec := e.2.2.2.2 }
  | none => none

/-- The hub hands the sections of a mirrored cycle to the lanes through their ring input queues, as credits allow (R20, R329). -/
def mirrorHand (c : DWord) (secs : List (Nat × Nat × Nat × Nat × List Byte)) (s : State) : State :=
  (secs.filterMap (mirrorSlot c)).foldl (fun t w => (Lane.all.filter (getsInput t)).foldl (handSlot w) t) s

/-- The lanes have taken every section of the mirrored cycle, those too that had to wait in the hub for a credit. -/
def mirrorDrain (s : State) : State :=
  { s with
    lanes := s.lanes.mapL fun l x =>
      { x with ringBuf := x.ringBuf ++ (x.ringIn.toList.flatMap (·.items)) ++ s.rings.hand.get l, ringIn := x.ringIn.map CQ.drain },
    rings := { s.rings with hand := ⟨[], [], [], []⟩ } }

/-- The lanes agree a mirrored section over the Purlin fabric as they agree a ring section (R329): two of those that have the
inputs hold it alike. -/
def mirrorAgreed (s : State) (ring kind pos : Nat) (e : SecAgreed) : SecAgreed :=
  let held (l : Lane) : Option (List Byte) :=
    ((s.lanes.get l).ringBuf.find? fun w => w.ring.num == ring && w.pos == pos && secType w.sec == kind).map (·.sec)
  match agree2 ((Lane.all.filter (getsInput s)).map held) with
  | some (some b) => if e.sec = some b then e else ⟨none, none⟩
  | some none => ⟨none, none⟩
  | none => ⟨none, none⟩

/-- The agreed inputs of the mirrored cycle enter the image of the standby's lanes. -/
def mirrorInputs (secs : List (Nat × Nat × Nat × Nat × List Byte)) (raw : List Byte) (stime : DWord) (s : State) : State :=
  let s1 := mirrorDrain { s with agr := { s.agr with used := secs } }
  let s2 := match theYealm s1 with
    | none => s1
    | some y =>
      mirrorEaves y raw stime (stepNodes s1 y (rgStime (lead s1).region) stime fun r kind pos =>
        mirrorAgreed s1 r.num kind pos (mirroredSec secs r.num kind pos))
  { s2 with lanes := s2.lanes.map fun x => { x with ringBuf := [] } }

/-! ## Groups and slices (R338, R339, R342) -/

/-- The group holds a DELTA record: its cycle was completed (R168). -/
def hasDelta (g : JGroup) : Bool := g.recs.any fun r => match r with
  | .delta _ => true
  | .command _ _ => false | .accept _ => false | .terminal _ _ => false | .event _ _ _ => false | .close _ => false

/-- The digest of the group's CLOSE record, which stands last. -/
def closeDigest (recs : List JRec) : Option DWord :=
  match recs.getLast? with
  | some (.close d) => some d
  | some (.delta _) => none | some (.command _ _) => none | some (.accept _) => none | some (.terminal _ _) => none
  | some (.event _ _ _) => none | none => none

/-- The group ends the exchange of the region DONE: the holder has switched at this cycle (R342). -/
def exchangedIn (s : State) (g : JGroup) : Bool :=
  let m := (lead s).region
  rgExchX m == g.cycle.toNat && rgExchX m != 0 && g.recs.any fun r => match r with
    | .terminal a st => a.toNat == rgExchAsn m && st == 0x02#8
    | .delta _ => false | .command _ _ => false | .accept _ => false | .event _ _ _ => false | .close _ => false

/-- At the mirrored cycle X the lanes switch to the new yealm with the region of X - 1 mapped (R183, R342). -/
def mirrorSwitch (s : State) : State :=
  let s1 := onLanes s (working s) fun _ x => swapLane (mapLane x)
  { s1 with mod := { s1.mod with ycrc := match theYealm s1 with | some y => y.crc64 | none => s.mod.ycrc } }

/-- A lane applies a group to its region and puts it into its journal, as one not written by the holder (R338, R353). -/
def mirrorLane (g : JGroup) (x : LaneSt) : LaneSt :=
  let r := applyGroup x.region g
  queueGroup { g with closed := false, held := false } (keepDescs
    { x with region := r, work := r, digest := x.digest ^^^ digestChange x.region r, descs := x.descs ++ descsIn [g] })

/-- Snapshots of the standby's regions, with R169's spacing. -/
def mirrorSnap (c : DWord) (s : State) (l : Lane) : State :=
  if (s.lanes.get l).snapRun.isSome then raiseLane s l 0x0481 (argLane l) else onLane s l (snapBegin c)

/-- The bytes of slice i over the region. -/
def sliceInto (i : Nat) (cells : List (Nat × Byte)) (m : Mem) : Mem :=
  (cells.filter fun c => 65536 * i ≤ c.1 && c.1 < 65536 * (i + 1)).foldl (fun m c => memPut m c.1 c.2) (memClear m (65536 * i) 65536)

/-- Slices of the running round after slice i: one that does not follow breaks the round. -/
def roundAfter (done : List Nat) (i : Nat) : List Nat :=
  if i = 0 then [0] else if i = done.length && i < 16 then done ++ [i] else []

/-- A FULL slice is applied; the last of an unbroken round completes the region, whose digest is taken over the whole. -/
def applySlice (s : State) (i : Nat) (cells : List (Nat × Byte)) : State :=
  let done := roundAfter s.peer.slices i
  let s1 := onLanes s (working s) fun _ x =>
    let r := sliceInto i cells x.region
    let dg := if done.length = 16 then digestWhole (laneWords x) r else x.digest ^^^ digestChange x.region r
    { x with region := r, work := r, digest := dg }
  { s1 with peer := { s1.peer with slices := if done.length = 16 then [] else done,
                                   mirrorReady := s1.peer.mirrorReady || done.length = 16 } }

/-- Slices whose cycle's group has been applied. -/
def applyWaiting (c : DWord) (s : State) : State :=
  let ready := s.peer.fullWait.filter fun w => w.1 == c
  ready.foldl (fun t w => applySlice t w.2.1 w.2.2) { s with peer := { s.peer with fullWait := s.peer.fullWait.filter fun w => c.toNat < w.1.toNat } }

/-- The group of a mirrored cycle is applied under R338; snapshots keep R169's spacing, the one of an exchange cycle included. -/
def applyMirror (g : JGroup) (exch : Bool) (s : State) : State :=
  let s0 := { s with peer := { s.peer with groupWait := none, lastApplied := g.cycle } }
  let s2 := onLanes s0 (working s0) fun _ x => mirrorLane g x
  let s3 := if exch || g.cycle.toNat % cyclesPerS s2 = 0 then (working s2).foldl (mirrorSnap g.cycle) s2 else s2
  applyWaiting g.cycle s3

/-- SHADOW_MISMATCH names the cycle and the field: 1 output CRC, 2 digest, 3 summary, 0 no result at all. -/
def shadowMismatch (s : State) (c : DWord) (field : Nat) : State :=
  raiseShared { s with peer := { s.peer with shadowOk := false } } 0x0807 (argOne ++ arg8 c.toNat ++ arg1 field)

/-! ## The computation of a mirrored cycle (R340) -/

/-- The computation of a cycle begins in the standby's lanes: from the region as applied through the cycle before, the INPUTS and the
PRESENT list, with their own Truss engines and tasks. -/
def openShadow (c : DWord) (asns : List DWord) (tasks : List Nat) (stime : DWord) (s : State) : State :=
  let cmd (n : Nat) : Bool := match theYealm s with
    | some y => (match taskEnt y n with | some e => e.command | none => false)
    | none => false
  let snap (x : LaneSt) (n : Nat) : TaskSnap :=
    { (taskSnap s x n) with cycle := c, stime := stime, cmds := if cmd n then asns else [], ctl := s.peer.mirrorCtl }
  let s1 := onLanes s (working s) fun _ x =>
    { x with todo := tasks, snaps := tasks.map (snap x), truss := {}, log := [], pubNew := [], gmNew := none, ballot := none }
  { s1 with peer := { s1.peer with shadowC := some c }, agr := { s1.agr with shown := asns }, cyc := { s1.cyc with released := tasks } }

/-- The computation has ended: what it has not handed over is discarded. -/
def closeShadow (s : State) : State :=
  let s1 := onLanes s (working s) fun _ x => { x with todo := [], snaps := [], log := [], pubNew := [], gmNew := none, ballot := none }
  { s1 with peer := { s1.peer with shadowC := none } }

/-- Every block of the mirrored cycle that its computation starts from is there: INPUTS, PRESENT and the group. At a mirrored exchange
cycle the lanes switch first (R342). Nothing is computed of a missed cycle: its group is applied, its tasks are to be released
again (R50, R70). -/
def mirrorStart (s : State) : State :=
  match s.peer.groupWait, s.peer.mirrorIn, s.peer.mirrorPres with
  | some g, some (c1, .inputs secs raw key sw sup st), some (c2, .present asns tasks) =>
    if c1 = g.cycle && c2 = g.cycle then
      let s0 := { s with peer := { s.peer with mirrorIn := none, mirrorPres := none, mirrorCtl := (key, sw, sup) } }
      let s1 := mirrorInputs secs raw st (if exchangedIn s0 g then mirrorSwitch s0 else s0)
      if hasDelta g then openShadow g.cycle asns tasks st { s1 with cyc := { s1.cyc with abandoned := [] } }
      else applyMirror g false { s1 with cyc := { s1.cyc with abandoned := tasks } }
    else s
  | _, _, _ => s

/-- A group whose own computation has not ended is applied all the same; with the mirrored state complete that is a mismatch, where the
cycle was completed and the computation has had its time (`late`). -/
def applyLate (late : Bool) (s : State) : State :=
  match s.peer.groupWait with
  | none => s
  | some g =>
    let s1 := closeShadow s
    let sw := s.peer.shadowC.isNone && exchangedIn s1 g
    applyMirror g (exchangedIn s1 g)
      (if late && s.peer.mirrorOk && hasDelta g then shadowMismatch (if sw then mirrorSwitch s1 else s1) g.cycle 0
       else if sw then mirrorSwitch s1 else s1)

/-! ## Arrival of the items (R329, R337 to R339) -/

/-- A group has arrived, CLOSE last: one that does not follow the last leaves the mirrored state incomplete (R339). -/
def groupSeen (c : DWord) (recs : List JRec) (s : State) : State :=
  if (closeDigest recs).isNone then s
  else
    let s1 := if s.peer.lastGroup + 1 = c then s else mirrorLost s
    { s1 with peer := { s1.peer with lastGroup := c } }

/-- The group waits for the other blocks of its cycle. -/
def groupTake (c : DWord) (recs : List JRec) (s : State) : State :=
  if (closeDigest recs).isNone then s
  else mirrorStart { s with peer := { s.peer with groupWait := some { cycle := c, recs := recs, closed := true, held := false } } }

/-- A FULL slice: applied once the group of its cycle has been, and lost when a later one has been. -/
def fullArrive (c : DWord) (i : Nat) (cells : List (Nat × Byte)) (s : State) : State :=
  if s.peer.lastApplied = c then applySlice s i cells
  else if s.peer.lastApplied.toNat < c.toNat then { s with peer := { s.peer with fullWait := s.peer.fullWait ++ [(c, i, cells)] } }
  else { s with peer := { s.peer with slices := [] } }

/-- What a RING item says of a plane. -/
def planeMirrored (a : RingMir) (x : PlaneHub) : PlaneHub :=
  { x with found := a.found, accepted := a.accepted, dly := a.dly, halves := a.halves, loopNs := a.loopNs, probeNs := a.probeNs,
           unbroken := a.unbroken }

/-- A RING item (R337). -/
def ringArrive (planes : List RingMir) (s : State) : State :=
  planes.foldl (fun t a => match RingId.ofNum a.ring with
    | none => t
    | some r => planeMod t r (if a.plane = 1 then .B else .A) (planeMirrored a)) s

/-- An item is taken. -/
def mirrorTake (c : DWord) (p : MirrorPay) (s : State) : State :=
  match p with
  | .inputs secs _ _ _ _ _ => mirrorStart (mirrorHand c secs { s with peer := { s.peer with mirrorIn := some (c, p) } })
  | .present _ _ => mirrorStart { s with peer := { s.peer with mirrorPres := some (c, p) } }
  | .group recs => groupTake c recs s
  | .result crc sum => { s with peer := { s.peer with result := some (c, crc, sum) } }
  | .ring planes => ringArrive planes s
  | .full i cells => fullArrive c i cells s

/-- An item of a later cycle waits while the computation of a cycle is not over. -/
def mirrorBlocked (s : State) (c : DWord) : Bool :=
  match s.peer.groupWait with
  | some g => g.cycle.toNat < c.toNat
  | none => false

/-- Items are taken in their order until those left have to wait. -/
def mirrorRun : Nat → State → State
  | 0, s => s
  | n + 1, s =>
    match s.peer.mirrorHold.find? fun x => !mirrorBlocked s x.1 with
    | none => s
    | some x => mirrorRun n (mirrorTake x.1 x.2 { s with peer := { s.peer with mirrorHold := s.peer.mirrorHold.erase x } })

/-- Take what may be taken. -/
def mirrorPump (s : State) : State := mirrorRun s.peer.mirrorHold.length s

/-- The computation of cycle c has until C(c + 1) + P - 2.5 ms: from then on it is late. -/
def mirrorLate (now : DWord) (s : State) : State :=
  match s.peer.groupWait with
  | some g => if g.cycle.toNat + 2 ≤ now.toNat then mirrorPump (applyLate true s) else s
  | none => s

/-- Before a claim every group that is there is applied. -/
def mirrorFlush : Nat → State → State
  | 0, s => s
  | n + 1, s =>
    match s.peer.groupWait with
    | some _ => mirrorFlush n (mirrorPump (applyLate false s))
    | none => s

/-- An item has arrived whole. -/
def mirrorArrive (c : DWord) (p : MirrorPay) (s : State) : State :=
  let s1 := mirrorLate c s
  let s2 := match p with
    | .group recs => groupSeen c recs s1
    | .inputs _ _ _ _ _ _ => s1 | .present _ _ => s1 | .result _ _ => s1 | .ring _ => s1 | .full _ _ => s1
  mirrorPump { s2 with peer := { s2.peer with mirrorHold := s2.peer.mirrorHold ++ [(c, p)] } }

/-! ## MIRROR_BLOCK_RECEIVE -/

/-- A block joins those of its item; blocks more than a cycle older are given up. -/
def keepBlock (b : MirrorBlk) (asm : List MirrorBlk) : List MirrorBlk :=
  (asm.filter fun x => !(x.kind == b.kind && x.cycle == b.cycle && x.index == b.index) && b.cycle.toNat ≤ x.cycle.toNat + 1) ++ [b]

/-- The standby puts a block to its item and takes the item once it is whole. -/
def blockJoin (b : MirrorBlk) (s : State) : State :=
  let asm := keepBlock b s.peer.mirrorAsm
  match joined asm b.kind b.cycle with
  | none => { s with peer := { s.peer with mirrorAsm := asm } }
  | some content =>
    let s1 := { s with peer := { s.peer with mirrorAsm := asm.filter fun x => !(x.kind == b.kind && x.cycle == b.cycle) } }
    match itemOf b.kind content with
    | some p => mirrorArrive b.cycle p s1
    | none => s1

/-- A message of the mirror class: its buffer is free again; another copy of a SEQ already taken is discarded (R329). -/
def blockTake (msg : List Byte) (s : State) : State :=
  if s.peer.seenMirror.contains (pmSeq msg) then s
  else
    let s1 := { s with peer := { s.peer with seenMirror := noteSeq s.peer.seenMirror (pmSeq msg),
                                             backMirror := s.peer.backMirror + blocksOf (pmPay msg).length } }
    if s.mod.st == .standby && fldBE msg 0 2 == ptMirror then blockJoin (blockOf (pmPay msg)) s1 else s1

/-- MIRROR_BLOCK_RECEIVE: a mirror block, or a ring relay, whose frame is RELAYED_LAUNCH's or RING_SECTION_ARRIVAL's to deal with. -/
def execMirrorBlockReceive (link : Plane) (msg : List Byte) (s : State) : Host.Outcome State Fault Refusal :=
  .next (if linkLive s link && (peerValid ptMirror link msg || peerValid ptRelay link msg) then peerArrive s msg (blockTake msg) else s)

/-! ## SHADOW_COMPUTATION_COMPLETE (R340, R341) -/

/-- The region of a lane after the commit of the mirrored cycle: the runtime part, which the holder's runtime alone writes, from the
group, and the lane's own commit log and carry-over block (R89, R129). -/
def shadowPost (s : State) (y : Yealm) (g : JGroup) (x : LaneSt) : Mem :=
  let rt := (applyGroup x.region g).filter fun c => c.1 < 0x10000
  let m := rt ++ x.region.filter fun c => 0x10000 ≤ c.1
  memWrite (applyWrites m x.log) y.truss.tcbOff (carryAfter (trussIn s y x) x.truss (laneDisc s y x))

/-- The ballot of a lane of the standby. -/
def shadowBallot (s : State) (g : JGroup) (x : LaneSt) (y : Yealm) : Ballot :=
  { (ballotOf (atCycle s) y x) with digest := x.digest ^^^ digestChange x.region (shadowPost (atCycle s) y g x) }

/-- The lanes whose computation has ended and whose ballot the fabric has not lost, with their ballots. -/
def shadowBallots (s : State) (g : JGroup) (lost : Quad Bool) : List (Lane × Ballot) :=
  (working s).filterMap fun l =>
    let x := s.lanes.get l
    if !lost.get l && x.todo.isEmpty && x.truss.done && !x.stopped && !x.haltReq then x.yealm.map fun y => (l, shadowBallot s g x y) else none

/-- The vote among the standby's lanes under R93: of those that vote, while none does of those that shadow. -/
def shadowVote (s : State) (bs : List (Lane × Ballot)) : Option Majority :=
  let vs := bs.filter fun b => (s.lanes.get b.1).role == .voting
  majority ((if (voting s).isEmpty then bs else vs).map (·.2))

/-- The first field in which the standby's own result differs from RESULT and the CLOSE digest. -/
def shadowField (maj : Majority) (res : Word × DWord) (dg : DWord) : Nat :=
  if crc32c (imageBytes maj) != res.1 then 1 else if maj.digest != dg then 2 else if maj.summary != res.2 then 3 else 0

/-- Lanes whose ballot differs from the module's own majority, and voters whose ballot the fabric has lost, are excluded (R96), once the
mirrored state is complete: before that the lanes' regions need not be alike (log entry 100). -/
def shadowExclude (maj : Majority) (bs : List (Lane × Ballot)) (lost : Quad Bool) (s : State) : State :=
  let s1 := (if s.peer.mirrorOk then bs else []).foldl (fun t b =>
    match ballotFault maj b.2 with | some c => decideExcl t b.1 c.1 c.2 | none => t) s
  (if s.peer.mirrorOk then (voting s).filter lost.get else []).foldl (fun t l => decideExcl t l .fabric []) s1

/-- Rotation and rejoin go on in the standby with its own completed computations (R341). -/
def standbyLanes (maj : Majority) (bs : List (Lane × Ballot)) (s : State) : State :=
  let s1 := { s with cyc := { s.cyc with done := s.cyc.done + 1, sinceJoin := s.cyc.sinceJoin + 1, majDigest := (lead s).digest } }
  let sh := (lanesIn s1.lanes .shadow).filter fun l => bs.any fun b => b.1 == l && (ballotFault maj b.2).isNone
  let s2 := sh.foldl (fun t l =>
    let n := (t.lanes.get l).shadowOk + 1
    let t1 := onLane t l fun x => { x with shadowOk := n }
    if n = 3 then { t1 with cyc := { t1.cyc with joinNext := true } } else t1) s1
  startCopy (pickRejoin s2)

/-- What a lane has published stands in the standby as it does in the holder (R58), where the results agree. -/
def keepPub (ok : Bool) (x : LaneSt) : LaneSt :=
  if ok then { x with pub := pubAfter x, gmPub := x.gmNew.getD x.gmPub } else x

/-- The standby's voted result is compared with RESULT and the CLOSE digest; the group is applied either way. -/
def shadowDone (g : JGroup) (res : Word × DWord) (lost : Quad Bool) (s : State) : State :=
  let bs := shadowBallots s g lost
  let ex := exchangedIn s g
  match shadowVote s bs with
  | none => applyMirror g ex (closeShadow (shadowMismatch s g.cycle 0))
  | some maj =>
    let f := shadowField maj res ((closeDigest g.recs).getD 0)
    let s1 := if f = 0 then s else shadowMismatch s g.cycle f
    let s2 := onLanes s1 (working s1) fun _ x => keepPub (f = 0) x
    standbyLanes maj bs (applyMirror g ex (closeShadow (shadowExclude maj bs lost s2)))

/-- SHADOW_COMPUTATION_COMPLETE: of the cycle under computation, whose RESULT is there; then what waited for its end is taken. The
operands tell of each lane whether the fabric has lost its ballot. -/
def execShadowComputationComplete (lostA lostB lostC lostD : Bool) (s : State) : Host.Outcome State Fault Refusal :=
  .next (match s.peer.groupWait, s.peer.result with
    | some g, some r =>
      if hubUp s && s.mod.st == .standby && s.peer.shadowC == some g.cycle && r.1 == g.cycle then
        if g.cycle.toNat + 2 ≤ s.cyc.k.toNat then mirrorLate s.cyc.k s else mirrorPump (shadowDone g r.2 ⟨lostA, lostB, lostC, lostD⟩ s)
      else s
    | _, _ => s)

end Sys2Proof.Machine
end

