-- ==== Sys2Proof/Machine/Claim.lean ====
section
/-! DEFINITION. The claims of the lease (R336, R344, R345, R351 to R353), the mastery test (R346), and the request/response
class of the peer links (R318, R327, R342, R343). -/

namespace Sys2Proof.Machine

/-! ## LEASE_CLAIM (R336, R344, R345) -/

/-- The standby may claim: complete health, no conflict, a RENEW of the holder's epoch and no frame of a later cycle. -/
def mayClaim (s : State) (r : Renew) : Bool :=
  hubUp s && s.mod.st == .standby && !s.peer.held && !s.mod.leave && !s.peer.conflict && healthComplete s &&
    r.epoch.toNat == epochKnown s && s.peer.frameCyc.toNat ≤ r.cycle.toNat

/-- The first cycle k1: 60 ms after cycle j, or the next one with RELEASE. -/
def firstCycle (p : Nat) (r : Renew) : Nat := r.cycle.toNat + (if r.release then 1 else 60 / p)

/-- Groups that a lane of the standby holds: in its journal, its write queue or waiting for it. -/
def heldGroups (x : LaneSt) : List JGroup :=
  x.mram.journal ++ (x.mramq.items ++ x.jWait).filterMap (·.ends)

/-- COMMAND records of the groups up to L, in ASN order. -/
def heldCommands (x : LaneSt) (L : Nat) : List (DWord × DWord × List Byte) :=
  sortBy (fun c : DWord × DWord × List Byte => c.1.toNat)
    ((heldGroups x).flatMap fun g => if g.cycle.toNat ≤ L then g.recs.filterMap fun r => match r with
      | .command d a => some (a, g.cycle, d)
      | .delta _ => none | .accept _ => none | .terminal _ _ => none | .event _ _ _ => none | .close _ => none else [])

/-- The claimant's pending region: every command up to L accepted (R175, R345), station time continued in HOLDOVER (R357),
an exchange before k1 + 8 moved there (R351). -/
def claimRegion (p L k1 : Nat) (cmds : List (DWord × DWord × List Byte)) (m : Mem) : Mem :=
  let m1 := cmds.foldl (reEnter p) m
  let m2 := (cmdList m1).foldl (fun m c => cmdPut m c.1 { c.2 with confirmed := true }) m1
  let w := rgStime m2
  let m3 := if stimeState w == .unset then m2
    else rgSetStime m2 (stimeWord .holdover (stimeUs w + p * 1000 * (k1 - 1 - L)))
  if rgExchX m3 != 0 && rgExchX m3 < k1 + 8 then rgSetExch m3 (k1 + 8) (rgExchAsn m3) else m3

/-- Tasks due in the cycles that no module ran: they are released again in cycle k1 (R50, R345). -/
def tasksMissed (y : Yealm) (L k1 : Nat) : List Nat :=
  ((enumFrom0 y.tasks).filter fun t => (List.range (k1 - 1 - L)).any fun i => taskDue t.2 (L + 1 + i)).map (·.1 + 1)

/-- n cycles without a used section (R203, R206). -/
def ageNodes (y : Yealm) (t : DWord) : Nat → State → State
  | 0, s => s
  | n + 1, s => ageNodes y t n (stepNodes s y t t fun _ _ _ => ⟨none, none⟩)

/-- A relay to the other module's cages is possible (R217, R344). -/
def relayOk (s : State) : Bool := linkUp s .A || linkUp s .B

/-- Delays and half-rings of a plane as the claimant serves it, from the discovery results and end-link measurements that the RING items
brought (R229): both cages while a relay is possible; without the other module the plane ends at its node next to that module, which
wraps, and what lies behind a break before that node is out of reach. -/
def claimDelays (s : State) (r : RingId) (x : PlaneHub) : PlaneHub :=
  let n := (listed s r).length
  let f : Found := { raw := x.found }
  let acc := x.accepted.map fun p => (p, match x.found.find? fun e => e.1 == p with | some e => deWfirst e.2 | none => false)
  if relayOk s then
    { x with dly := delaysOf true 0 n x.loopNs x.probeNs f acc x.unbroken,
             preds := predsOf true 0 n x.loopNs x.probeNs f acc x.halves }
  else
    let own : Nat × Nat := if 2 ≤ x.halves.length then x.halves.getD (if pairPosB s then 1 else 0) (0, n) else (0, n)
    let here := acc.filter fun p => own.1 ≤ p.1 && p.1 < own.1 + own.2
    let b := pairPosB s
    { x with
      accepted := here.map Prod.fst, halves := if n = 0 then [] else [own], unbroken := false,
      dly := here.map fun p => (p.1, if b then dlyWest n own.1 x.probeNs f p.1 else dlyEast true 0 f p.1),
      preds := predsOf true 0 n x.loopNs x.probeNs f (here.map fun p => (p.1, b)) [own] }

/-- The planes as the RING items describe them: G-frames from cycle k1 on, TIMING in its service slot; a plane with no accepted node is
discovered (R229, R344). -/
def claimPlane (s : State) (r : RingId) (x : PlaneHub) : PlaneHub :=
  let y := claimDelays s r x
  { y with mastered := false, started := !y.accepted.isEmpty, timDue := !y.accepted.isEmpty, silent := 0,
           returned := !y.accepted.isEmpty, tried := false }

/-- The rings of the claimant: the positions that the RING items show accepted are those accepted before (R236). -/
def claimRings (s : State) : RingHub :=
  let pl := RingId.all.foldl (fun q r => q.modify r.slot fun t => t.map (claimPlane s r)) s.rings.planes
  { s.rings with
    planes := pl, backedOff := Quad.fill false, backNext := Quad.fill false,
    known := s.rings.planes.map fun t => sortBy id ([t.a, t.b].flatMap (·.accepted)).dedup }

/-- EXCHANGE_DEFERRED of a claim (R351). -/
def claimDeferral (before s : State) : State :=
  let m := (lead s).work
  if rgExchX m = rgExchX (lead before).work then s
  else indicate s (mkInd s 0x11 (leBytes 8 (exchNamed s m) ++ leBytes 8 (rgExchX m) ++ leBytes 8 (rgExchAsn m)))

/-- The claim at C(k1) - 50 us: the new epoch is in the boot records, LEASE_CLAIM names the old and the new one, the cycles
after L count as missed ones without escalation, the module runs from C(k1) on. The memory that a pair has been OFF in a completed
cycle is no part of the region or the mirror: a claimant starts with none (R246 leaves it open: DESIGN CHOICE, log entry 106). -/
def claimAt (r : Renew) (s : State) : State :=
  let s1 := newEpoch (mirrorFlush (s.peer.mirrorHold.length + 1) s)
  let s2 := raiseShared s1 0x0806 (argOne ++ arg4 r.epoch.toNat ++ arg4 s1.peer.epoch.toNat)
  let p := periodMs s2
  let k1 := firstCycle p r
  let L := s2.peer.lastApplied.toNat
  let cmds := heldCommands (lead s2) L
  let s3 := onLanes s2 (working s2) fun _ x => workWrite x (claimRegion p L k1 cmds)
  let s4 := match theYealm s3 with
    | some y => ageNodes y (rgStime (lead s3).work) (k1 - 1 - L) s3
    | none => s3
  let ck := r.rtime + BitVec.ofNat 64 ((k1 - 1 - r.cycle.toNat) * periodNs s4)
  claimDeferral s2 { s4 with
    time := { s4.time with ckNs := ck, ringNs := ck + BitVec.ofNat 64 (periodNs s4 - 50000) },
    cyc := { s4.cyc with k := BitVec.ofNat 64 (k1 - 1), misses := 0, opened := false,
                         abandoned := unionSorted s4.cyc.abandoned (match theYealm s4 with | some y => tasksMissed y L k1 | none => []) },
    lanes := s4.lanes.map fun x => { x with k := BitVec.ofNat 64 (k1 - 1) },
    mod := { s4.mod with claim := true, exch := .idle },
    rings := claimRings s4, agr := { s4.agr with pairOff := 0, pairOffNow := 0, oldAsn := rgNextAsn (lead s4).work },
    peer := { s4.peer with held := true, release := false, claimPlanes := some s4.peer.planes, claimK := some (BitVec.ofNat 64 k1) },
    ul := { s4.ul with leaseRun := true, leaseInh := false } }

/-- LEASE_CLAIM: 60 ms after the last RENEW, or at once after one with RELEASE. -/
def execLeaseClaim (s : State) : Host.Outcome State Fault Refusal :=
  .next (match s.peer.renew with
    | some r => if mayClaim s r then claimAt r s else s
    | none => s)

/-! ## PAIR_START_CLAIM (R352, R353) -/

/-- The newest CLOSE in this module's journals was written while it held the lease. -/
def closedAsHolder (s : State) : Bool :=
  let gs := (mrams s).flatMap fun m => m.journal.filter (·.closed)
  match (sortBy (fun g : JGroup => g.cycle.toNat) gs).getLast? with
  | some g => g.held
  | none => false

/-- PAIR_START_CLAIM: a module of a pair that is ready for ring start and has heard nothing takes the lease; it restarts cold
unless its own records are a holder's. -/
def execPairStartClaim (s : State) : Host.Outcome State Fault Refusal :=
  .next (if hubUp s && isPair s && s.mod.st == .boot && s.mod.boot.agreed && !s.mod.boot.split && !s.mod.boot.swBad &&
      !s.peer.held && !s.peer.heard && !s.peer.conflict then
    takeLease (bootMod s fun b => { b with coldClaim := !closedAsHolder s })
  else s)

/-! ## MASTERY_TEST (R346) -/

/-- Master of every ring that the last BEAT showed in PLANES. -/
def mastersAll (s : State) (planes : Byte) : Bool :=
  RingId.all.all fun r => bitsAt planes.toNat (2 * r.num - 1) (2 * r.num - 2) == 0 || (planeAt s r .A).mastered || (planeAt s r .B).mastered

/-- MASTERY_TEST: at the return of the claimant's first S-frame; where it fails the module withdraws at the next instant. -/
def execMasteryTest (s : State) : Host.Outcome State Fault Refusal :=
  .next (match s.peer.claimPlanes with
    | some pl =>
      if hubUp s && s.mod.st.runs && s.cyc.sent then
        let s1 := { s with peer := { s.peer with claimPlanes := none } }
        if mastersAll s pl then s1 else { s1 with mod := { s1.mod with leave := true } }
      else s
    | none => s)

/-! ## PEER_REQUEST_RECEIVE, PEER_REQUEST_TIMEOUT (R318, R327, R342, R343) -/

/-- The request of a response, while it is open. -/
def openFor (s : State) (q : Word) : Option PeerBody := (s.peer.openReqs.find? fun r => r.seq == q).map (·.body)

/-- The request is answered. -/
def reqAnswered (s : State) (q : Word) : State :=
  { s with peer := { s.peer with openReqs := s.peer.openReqs.filter fun r => r.seq != q } }

/-- Bytes of the holder's active yealm. -/
def activeBytes (s : State) : List Byte := match activeBank (lead s).mram with | some b => bankBytes b | none => []

/-- The holder answers a fetch, with as much as one message takes. -/
def answerFetch (s : State) (q : Word) (off len : Nat) : State :=
  let all := activeBytes s
  let data := slice all off (min len partBytes)
  if data.isEmpty then s else sendResp s q (.fetchData off (all.length ≤ off + data.length) data)

/-- A lane puts the fetched yealm into its shadow bank and verifies it (R161). -/
def takeFetched (crc : DWord) (s : State) (l : Lane) : State :=
  let b : Bank := { state := .loading, mem := s.peer.fetchBuf, size := s.peer.fetchLen, img := none }
  let s1 := onLane s l fun x => { x with mram := setShadow x.mram b }
  match verify l (s.lanes.get l).sw s.mod.boot.split (bankBytes b) with
  | .refused step t => refuseImage (onLane s1 l unloadBank) l step t
  | .ok y =>
    if y.crc64 = crc then onLane s1 l fun x => { x with mram := setShadow x.mram { b with state := .verified, img := some y } }
    else onLane s1 l unloadBank

/-- The whole yealm is here: where at least two lanes verify it they activate it, and the standby waits for a full state. -/
def fetchedAll (r : Renew) (s : State) : State :=
  let s1 := (aliveLanes s).foldl (takeFetched r.ycrc) s
  let ls := (aliveLanes s1).filter fun l => shadowCrc (s1.lanes.get l) == some r.ycrc
  if ls.length < 2 then s1
  else
    let s2 := onLanes s1 ls fun _ x => { x with yealm := (shadowBank x.mram).img, mram := swapBanks x.mram }
    let s3 := { s2 with mod := { s2.mod with ycrc := r.ycrc },
                        host := { s2.host with bootstat := s2.host.bootstat &&& 0b01111 } }
    tryStandby (mirrorLost (bootMod s3 fun b => { b with agreed := true, noImage := false }))

/-- A part of the holder's yealm: the next one is asked for, or the yealm is complete. -/
def fetchPart (off : Nat) (data : List Byte) (last : Bool) (s : State) : State :=
  if off != s.peer.fetchLen then s
  else
    let s1 := { s with peer := { s.peer with fetchBuf := memWrite s.peer.fetchBuf off data, fetchLen := off + data.length } }
    if !last then sendReq s1 (.fetch (off + data.length) partBytes)
    else
      let s2 := match s1.peer.renew with | some r => fetchedAll r s1 | none => s1
      { s2 with peer := { s2.peer with fetchBuf := [], fetchLen := 0 } }

/-- A lane takes the part of a loaded yealm that follows what it holds; the first one starts a bank (R318, R342). -/
def partTake (off : Nat) (last : Bool) (data : List Byte) (x : LaneSt) : LaneSt :=
  let y := if off = 0 then { x with mram := setShadow x.mram { state := .loading, mem := [], size := 0, img := none } } else x
  if (shadowBank y.mram).size = off then bankTake data last y else y

/-- The standby holds everything of the loaded yealm before a place. -/
def partFollows (s : State) (off : Nat) : Bool :=
  off = 0 || (let b := shadowBank (lead s).mram
              b.state != .empty && off ≤ b.size)

/-- A part of an IMAGE_LOAD goes into the standby's shadow banks, as it does in the active's, and is answered; one that comes before
its time is not, so that it is repeated. -/
def standbySegment (seq : Word) (new : Bool) (off : Nat) (last : Bool) (data : List Byte) (s : State) : State :=
  if s.mod.st == .standby && new then
    if partFollows s off then
      sendResp (onLanes s (lanesWith s.lanes fun x => x.role.healthy) fun _ x => partTake off last data x) seq .segmentAck
    else s
  else sendResp s seq .segmentAck

/-- A message is taken: a request once per SEQ and answered each time, a response for its open request. -/
def requestTake (q : Word) (b : PeerBody) (s : State) : State :=
  let new := !s.peer.seenReq.contains q
  let seen : State := { s with peer := { s.peer with seenReq := noteSeq s.peer.seenReq q } }
  match b with
  | .segment off last data =>
    let ok := !new || s.mod.st != .standby || partFollows s off
    standbySegment q new off last data (if ok then seen else s)
  | .fetch off len => if s.peer.held then answerFetch seen q off len else s
  | .segmentAck => reqAnswered s q
  | .fetchData off last data =>
    match openFor s q with
    | some _ => fetchPart off data last (reqAnswered s q)
    | none => s

/-- A valid message of the class stands in the queue of its direction until its slot is freed (R18). -/
def requestArrive (msg : List Byte) (s : State) : State :=
  let s1 := { s with peer := { s.peer with reqIn := s.peer.reqIn.send msg } }
  match bodyOf (pmPay msg) with
  | some b => if b.isResponse == (fldBE msg 0 2 == ptResponse) then requestTake (pmSeq msg) b s1 else s1
  | none => s1

/-- PEER_REQUEST_RECEIVE. -/
def execPeerRequestReceive (link : Plane) (msg : List Byte) (s : State) : Host.Outcome State Fault Refusal :=
  .next (if linkLive s link && (peerValid ptRequest link msg || peerValid ptResponse link msg) then
    peerArrive s msg (requestArrive msg) else s)

/-- A request without a response goes out again on the other link; after three times in all it is given up. -/
def requestAgain (r : OpenReq) (s : State) : State :=
  if 3 ≤ r.sent then pumpReqs (reqAnswered s r.seq)
  else
    { s with peer := { s.peer with
      reqOut := s.peer.reqOut.send { seq := r.seq, link := otherLink r.link, body := r.body },
      openReqs := s.peer.openReqs.map fun x => if x.seq = r.seq then { x with sent := x.sent + 1, link := otherLink x.link } else x } }

/-- PEER_REQUEST_TIMEOUT: the oldest request that was sent has had no response for 1 ms. -/
def execPeerRequestTimeout (s : State) : Host.Outcome State Fault Refusal :=
  .next (if hubUp s && isPair s then
    match s.peer.openReqs.find? fun r => r.sent != 0 with
    | some r => if s.peer.reqOut.credits ≤ respReserve && r.sent < 3 then s else requestAgain r s
    | none => s
  else s)

end Sys2Proof.Machine
end

