-- ==== Sys2Proof/Machine/Credits.lean ====
section
/-! DEFINITION. The return of a credit (R17, R19): a consumer frees the front slot of its queue, and what waited for the credit
follows. -/

namespace Sys2Proof.Machine

/-! ## CREDIT_RETURN (R17, R19) -/

/-- The hub hands a lane the next waiting section on a ring as its credit comes back (R19). -/
def handNext (s : State) (r : Lane) (l : Lane) : State :=
  let ws := s.rings.hand.get l
  match ws.find? fun w => w.ring.slot == r with
  | none => s
  | some w =>
    if ((s.lanes.get l).ringIn.get r).credits = 0 then s
    else
      let s1 := onLane s l fun x => { x with ringIn := x.ringIn.modify r fun q => q.send w }
      { s1 with rings := { s1.rings with hand := s1.rings.hand.set l (ws.erase w) } }

/-- The lane takes the front slot of a ring input queue into its image buffers (R38); a section of another cycle is discarded
(R32). -/
def takeRing (k : DWord) (r : Lane) (x : LaneSt) : LaneSt :=
  { x with ringBuf := x.ringBuf ++ ((x.ringIn.get r).items.take 1).filter (ofCycle k), ringIn := x.ringIn.modify r CQ.free }

/-- The hub writes the next waiting descriptor into a lane's intake queue (R19). -/
def handCmd (s : State) (l : Lane) : State :=
  match s.host.cmdHand.get l with
  | [] => s
  | d :: r =>
    if (s.lanes.get l).cmdIn.credits = 0 then s
    else
      { (onLane s l fun x => { x with cmdIn := x.cmdIn.send ⟨s.cyc.k, d⟩ }) with host := { s.host with cmdHand := s.host.cmdHand.set l r } }

/-- The lane takes the front descriptor (R38); one of another cycle is discarded (R32). -/
def takeCmdIn (k : DWord) (x : LaneSt) : LaneSt :=
  { x with cmdBuf := x.cmdBuf ++ cmdsOf k (x.cmdIn.items.take 1), cmdIn := x.cmdIn.free }

/-- What the return of a credit on a queue does: its consumer frees the front slot, and what waited for the credit follows. -/
def creditReturnAt (q : QueueId) (s : State) : State :=
  match q with
  | .ringInput r l =>
    let n := (((s.lanes.get l).ringIn.get r.slot).items.take 1).countP fun w => !ofCycle s.cyc.k w
    handNext (onLane (spillCount s 0 (4 * (r.num - 1) + l.num) n) l (takeRing s.cyc.k r.slot)) r.slot l
  | .commandIntake l =>
    let n := ((s.lanes.get l).cmdIn.items.take 1).countP fun c => c.cycle != s.cyc.k
    handCmd (onLane (spillCount s 1 l.num n) l (takeCmdIn s.cyc.k)) l
  | .purlin src dst => onLane s dst fun x => { x with purlin := x.purlin.modify src CQ.free }
  | .setQueue r l => onLane s l (fillSetq r.slot)
  | .completion _ => s
  | .indication l => if s.cyc.agreedIn then onLane s l sendInds else s
  | .mirror => mirrorLeave s
  | .peerRequest true => reqLeave s
  | .peerRequest false =>
    { s with peer := { s.peer with reqIn := s.peer.reqIn.free, backReq := s.peer.backReq + (s.peer.reqIn.items.take 1).length } }
  | .lease true => { s with peer := { s.peer with leaseOut := s.peer.leaseOut.drop 1 } }
  | .lease false => { s with peer := { s.peer with leaseIn := s.peer.leaseIn.drop 1 } }
  | .mramWrite l => onLane s l fun x => sendWaiting (burstFree x)
  | .gutterAlarm => gutDrain s .alarm
  | .gutterEvent => gutDrain s .event
  | .gutterTrace => gutDrain s .trace
  | .bulkIn l => bulkReturn l s
  | .bulkOut => bulkLeave s
  | .errorQueue => errWrite s

/-- CREDIT_RETURN (R17). -/
def execCreditReturn (q : QueueId) (s : State) : Host.Outcome State Fault Refusal :=
  .next (if hubUp s then creditReturnAt q s else s)

end Sys2Proof.Machine
end

