-- ==== Sys2Proof/Machine/Time.lean ====
section
/-! DEFINITION. The time bases' own rows (R356 to R367): the PTP slave on J11, the host as a source, the comparison of the
crystals. -/

namespace Sys2Proof.Machine

/-! ## The PTP slave (R358, R359) -/

/-- The slave loses its source: TIME_SOURCE_LOST. -/
def ptpLost (s : State) : State :=
  raiseHub { s with time := { s.time with ptpLock := false, goodSync := 0, badSync := 0 } } 0x0981 []

/-- A filtered offset: 16 in a row within 100 us lock the slave, 16 in a row beyond 1 ms lose the source. -/
def ptpSyncAt (ofs : Int) (s : State) : State :=
  let good := if ofs.natAbs ≤ 100 then s.time.goodSync + 1 else 0
  let bad := if 1000 < ofs.natAbs then s.time.badSync + 1 else 0
  let s1 := { s with time := { s.time with ptpOfs := ofs, goodSync := good, badSync := bad } }
  if !s.time.ptpLock && 16 ≤ good then raiseHub { s1 with time := { s1.time with ptpLock := true } } 0x0982 []
  else if s.time.ptpLock && 16 ≤ bad then ptpLost s1
  else s1

/-- PTP_SYNC. -/
def execPtpSync (ofsUs : Int) (s : State) : Host.Outcome State Fault Refusal := .next (if hubUp s then ptpSyncAt ofsUs s else s)

/-- TIME_SOURCE_LOST: 5 s without Sync, or the Announce timeout with no other grandmaster, whose UTC offset goes with it. -/
def execTimeSourceLost (noMaster : Bool) (s : State) : Host.Outcome State Fault Refusal :=
  .next (if hubUp s then
    let s1 := if noMaster then { s with time := { s.time with gm := none, gmUtc := none } } else s
    if s.time.ptpLock then ptpLost s1 else s1
  else s)

/-- PTP_ANNOUNCE: a better grandmaster is taken; the one in use tells its UTC offset while that is valid (R356). -/
def execPtpAnnounce (m : Announce) (s : State) : Host.Outcome State Fault Refusal :=
  .next (if hubUp s && (m.better || s.time.gm == none || s.time.gm == some m.gm) then
    { s with time := { s.time with gm := some m.gm, gmUtc := if m.utcValid then some m.utcOfs else none } } else s)

/-! ## The host as the source (R360) -/

/-- TIME_SET_HOLDOVER: 24 h after the last TIME_SET with SRC = 0. -/
def execTimeSetHoldover (s : State) : Host.Outcome State Fault Refusal :=
  .next (if hubUp s && !s.time.src && s.time.ref.isSome then
    toHoldover { s with time := { s.time with ref := none } } else s)

/-! ## CLOCK_WINDOW_CHECK (R364, R367) -/

/-- a deviates from b by more than 200 ppm of b. -/
def offBy200 (a b : Nat) : Bool := 200 * b < 1000000 * (if a < b then b - a else a - b)

/-- Twice the median. -/
def median2 (l : List Nat) : Nat :=
  let v := sortBy id l
  v.getD ((v.length - 1) / 2) 0 + v.getD (v.length / 2) 0

/-- Ticks of 100 cycles at 25 MHz. -/
def windowTicks (s : State) : Nat := 100 * periodMs s * 25000

/-- Voting lanes whose own count deviates from the median: each withholds its next ballot (R364). -/
def oddClocks (s : State) (counts : Quad Nat) : List Lane :=
  let m := median2 ((voting s).map counts.get)
  (voting s).filter fun l => offBy200 (2 * counts.get l) m

/-- At least two voting lanes find the strobe off while their own counts agree: the hub is at fault (R364). -/
def strobeOff (s : State) (counts : Quad Nat) : Bool :=
  let off := (voting s).filter fun l => offBy200 (counts.get l) (windowTicks s)
  off.any fun a => off.any fun b => a != b && !offBy200 (counts.get a) (counts.get b)

/-- Two voting lanes that have read supervisor time find that it has run off the agreed lane time, which is the median count at 25
ticks a microsecond (R367). -/
def superOff (s : State) (counts : Quad Nat) (unread : Quad Bool) (supUs : Nat) : Bool :=
  2 ≤ ((voting s).filter fun l => !unread.get l).length && offBy200 (50 * supUs) (median2 ((voting s).map counts.get))

/-- The end of a window: RING_TIME_FAULT and SUPERVISOR_CLOCK lead to SAFE STOP at the next common instant. -/
def windowCheck (counts : Quad Nat) (unread : Quad Bool) (supUs : Nat) (s : State) : State :=
  let s1 := onLanes s (oddClocks s counts) fun _ x => { x with withhold := true }
  let s2 := if strobeOff s counts then
      raiseShared { s1 with cyc := { s1.cyc with stopNext := true } } 0x0902 [] else s1
  let s3 := if superOff s counts unread supUs then
      raiseShared { s2 with cyc := { s2.cyc with stopNext := true } } 0x0903 [] else s2
  { s3 with cyc := { s3.cyc with window := 0 }, lanes := s3.lanes.map fun x => { x with badStrobe := 0, ticks := 0 } }

/-- CLOCK_WINDOW_CHECK: once in 100 cycles, on the counts that the lanes exchange; `supUs` is the increase of supervisor time that
the lanes have read over the window, `unread` those whose reading failed. -/
def execClockWindowCheck (unread : Quad Bool) (supUs : Nat) (s : State) : Host.Outcome State Fault Refusal :=
  .next (if hubUp s && 100 ≤ s.cyc.window then windowCheck (s.lanes.map (·.ticks)) unread supUs s else s)

end Sys2Proof.Machine
end

