-- ==== Sys2Proof/Machine/GutterPaths.lean ====
section
/-! DEFINITION. The Gutter's own rows (R412 to R423): a record handed over, a path that takes one, syslog, the black box. -/

namespace Sys2Proof.Machine

/-- The record that a producer hands over: a code of the catalogue has its class and severity there (R421); one of the station
program has the class and severity that the program gives it, and UNIT 0 (R422). -/
def handedRec (s : State) (r : GRecIn) : GRec :=
  let c := r.code.toNat
  if codeOfProgram c then mkRec s c r.cls r.sev 0 r.lanes r.args else mkRec s c (codeCls c) (codeSev c) r.unit r.lanes r.args

/-- GUTTER_RECORD: the record is formed at its first occurrence and enters the queue of its class (R412 to R415). -/
def execGutterRecord (rec : GRecIn) (s : State) : Host.Outcome State Fault Refusal :=
  .next (if hubUp s && rec.cls < 3 && rec.unit < 4 && rec.sev < 8 then gutPut s (handedRec s rec) else s)

/-! ## GUTTER_PATH_TAKE (R417, R419, R420) -/

/-- The oldest record of a class queue that the path has still to take, with its place. -/
def nextFor (s : State) (p : GPath) (c : GClass) : Option (Nat × GItem) :=
  findIdxVal (fun i => onPath i.rec_ p && !takenBy i p) 0 (gq s.gut c).items

/-- The path has taken the record at a place; records that every attached path has taken leave. -/
def markAt (s : State) (p : GPath) (c : GClass) (i : Nat) : State :=
  let q := gq s.gut c
  gutDrain { s with gut := setGq s.gut c { q with items := listMod q.items i fun x => markTaken x p } } c

/-- What a path takes next: EVTQ every waiting alarm before any waiting event (R420); syslog too (DESIGN CHOICE, log entry 114);
TRCQ takes traces. -/
def pathNext (s : State) (p : GPath) : Option (GClass × Nat × GRec) :=
  match p with
  | .trcq => (nextFor s p .trace).map fun x => (.trace, x.1, x.2.rec_)
  | .evtq => match nextFor s p .alarm with
    | some x => some (.alarm, x.1, x.2.rec_)
    | none => (nextFor s p .event).map fun x => (.event, x.1, x.2.rec_)
  | .syslog => match nextFor s p .alarm with
    | some x => some (.alarm, x.1, x.2.rec_)
    | none => (nextFor s p .event).map fun x => (.event, x.1, x.2.rec_)
  | .blackbox _ => (nextFor s p .alarm).map fun x => (.alarm, x.1, x.2.rec_)

/-- The TRACE_LOSS record (R419). -/
def traceLossRec (s : State) (t : Word × DWord × DWord × Nat × DWord) : GRec :=
  { mkRec s 0x0185 2 4 1 0 [] with seq := t.1, cycle := t.2.1, stime := t.2.2.1, count := t.2.2.2.1, ltime := t.2.2.2.2 }

/-- A record to EVTQ. -/
def takeEvtq (s : State) (x : GClass × Nat × GRec) : State :=
  if ringCan s qEVTQ then markAt (ringPut s qEVTQ (recBytes x.2.2)) .evtq x.1 x.2.1 else s

/-- A trace to TRCQ, a TRACE_LOSS record for those discarded ahead of it. -/
def takeTrcq (s : State) (x : GClass × Nat × GRec) : State :=
  match s.gut.lostTr with
  | none => if ringCan s qTRCQ then markAt (ringPut s qTRCQ (recBytes x.2.2)) .trcq x.1 x.2.1 else s
  | some t =>
    if ringCan s qTRCQ && 2 ≤ ringFree (qAt s qTRCQ) then
      let s1 := ringPut s qTRCQ (recBytes (traceLossRec s t))
      let s2 := ringPut s1 qTRCQ (recBytes x.2.2)
      markAt { s2 with gut := { s2.gut with lostTr := none } } .trcq x.1 x.2.1
    else s

/-- A record to syslog, within its budget. -/
def takeSyslog (s : State) (x : GClass × Nat × GRec) : State :=
  if s.gut.budget = 0 then s
  else markAt { s with gut := { s.gut with budget := s.gut.budget - 1, sysq := s.gut.sysq ++ [x.2.2] } } .syslog x.1 x.2.1

/-- Alarms that wait for a lane's black box; beyond 64 they are coalesced (R416, R417). -/
def boxWait (ws : List GRec) (r : GRec) : List GRec :=
  if ws.length < 64 then ws ++ [r]
  else match updLast (fun w => foldsWith w r) (fun w => foldRec w r) ws with
    | some ws' => ws'
    | none => ws ++ [r]

/-- An alarm to a lane's black box. -/
def takeBox (s : State) (l : Lane) (x : GClass × Nat × GRec) : State :=
  markAt (onLane s l fun y => { y with bbWait := boxWait y.bbWait x.2.2 }) (.blackbox l) x.1 x.2.1

/-- GUTTER_PATH_TAKE: a detached path takes nothing. -/
def execGutterPathTake (path : GPath) (s : State) : Host.Outcome State Fault Refusal :=
  .next (if hubUp s && attached s path then
    match pathNext s path with
    | none => s
    | some x => match path with
      | .evtq => takeEvtq s x
      | .trcq => takeTrcq s x
      | .syslog => takeSyslog s x
      | .blackbox l => takeBox s l x
  else s)

/-! ## SYSLOG_SEND (R356, R423) -/

/-- The parameters code, class, lanes, unit, seq, cycle, count, first and roster of a record; first is STIME. -/
def sysParams (r : GRec) : List (String × Nat) :=
  [("code", r.code.toNat), ("class", r.cls), ("lanes", r.lanes.toNat), ("unit", r.unit), ("seq", r.seq.toNat),
   ("cycle", r.cycle.toNat), ("count", r.count), ("first", r.stime.toNat), ("roster", r.roster.toNat)]

/-- The parameters a0 to a5: the six 32-bit words of ARGS. -/
def sysWords (r : GRec) : List (String × Word) :=
  (enumFrom0 ["a0", "a1", "a2", "a3", "a4", "a5"]).map fun x => (x.2, BitVec.ofNat 32 (fldLE r.args (4 * x.1) 4))

/-- The message of a record, to the collector that LOGDST and LOGCFG name: LTIME converted to UTC, the NILVALUE while station time
was UNSET. -/
def sysMsg (s : State) (r : GRec) : SysMsg :=
  { dst := s.ul.logdst, port := bitsAt s.ul.logcfg.toNat 31 16, pri := 128 + r.sev,
    stamp := if stimeState r.ltime == .unset then none
      else some ((stimeUs r.ltime : Int) - (utcOffset s).toInt * 1000000),
    host := Config.serial, app := "ixn412", procid := "-", msgid := (codeName r.code.toNat).getD (Config.progName r.code.toNat),
    sdid := "ixn@32473", params := sysParams r, words := sysWords r }

/-- SYSLOG_SEND: the oldest record that the syslog path has taken leaves on J11. -/
def execSyslogSend (s : State) : Host.Outcome State Fault Refusal :=
  .next (if hubUp s then
    match s.gut.sysq with
    | [] => s
    | r :: rest => { s with gut := { s.gut with sysq := rest, sent := some (sysMsg s r) } }
  else s)

/-! ## BLACKBOX_WRITE (R416) -/

/-- The lane puts waiting alarms into its MRAM write queue, at most 64 in a cycle and one credit each. -/
def boxWrite (x : LaneSt) : LaneSt :=
  let n := min (64 - x.bbCount) x.mramq.credits
  let go := x.bbWait.take n
  { x with bbWait := x.bbWait.drop n, bbCount := x.bbCount + go.length,
           mramq := { items := x.mramq.items ++ go.map MWrite.blackbox, credits := x.mramq.credits - go.length } }

/-- BLACKBOX_WRITE; a stopped lane's write queue is blocked (R79). -/
def execBlackboxWrite (l : Lane) (s : State) : Host.Outcome State Fault Refusal :=
  .next (if hubUp s && !(s.lanes.get l).stopped && (s.lanes.get l).role != .retired then onLane s l boxWrite else s)

end Sys2Proof.Machine
end

