-- ==== Sys2Proof/Machine/Dispatch.lean ====
section
/-! DEFINITION. One arm per command: the meaning that the row of spec/opcode_table.json has. -/

namespace Sys2Proof.Machine

def exec (i : Instr) (s : State) : Host.Outcome State Fault Refusal :=
  match i with
  | .commonInstant smp strobe => Sys2Proof.Machine.execCommonInstant smp strobe s
  | .gFrameLaunch => Sys2Proof.Machine.execGFrameLaunch s
  | .ringSectionArrival r p frame atNs => Sys2Proof.Machine.execRingSectionArrival r p frame atNs s
  | .inputClose => Sys2Proof.Machine.execInputClose s
  | .inputAgreement noReport fetchBad offer => Sys2Proof.Machine.execInputAgreement noReport fetchBad offer s
  | .inputDiverge => Sys2Proof.Machine.execInputDiverge s
  | .taskEnd lanes task runUs res => Sys2Proof.Machine.execTaskEnd lanes task runUs res s
  | .trussEvaluationComplete lanes evalUs => Sys2Proof.Machine.execTrussEvaluationComplete lanes evalUs s
  | .voteDeadline => Sys2Proof.Machine.execVoteDeadline s
  | .ridgeVote => Sys2Proof.Machine.execRidgeVote s
  | .ballotArrival src k => Sys2Proof.Machine.execBallotArrival src k s
  | .voteCompleteLimit => Sys2Proof.Machine.execVoteCompleteLimit s
  | .setQueuePush => Sys2Proof.Machine.execSetQueuePush s
  | .hubForwardItem item => Sys2Proof.Machine.execHubForwardItem item s
  | .sFrameLaunch => Sys2Proof.Machine.execSFrameLaunch s
  | .mramWriteComplete l => Sys2Proof.Machine.execMramWriteComplete l s
  | .snapshotComplete l => Sys2Proof.Machine.execSnapshotComplete l s
  | .diagnosticRelease => Sys2Proof.Machine.execDiagnosticRelease s
  | .diagnosticEnd lanes inds traces => Sys2Proof.Machine.execDiagnosticEnd lanes inds traces s
  | .diagnosticLimit => Sys2Proof.Machine.execDiagnosticLimit s
  | .laneSleep l => Sys2Proof.Machine.execLaneSleep l s
  | .laneWake l => Sys2Proof.Machine.execLaneWake l s
  | .completionDelivered => Sys2Proof.Machine.execCompletionDelivered s
  | .creditReturn q => Sys2Proof.Machine.execCreditReturn q s
  | .lockstepMismatch l clk => Sys2Proof.Machine.execLockstepMismatch l clk s
  | .stopFlit src => Sys2Proof.Machine.execStopFlit src s
  | .bistSliceStart u => Sys2Proof.Machine.execBistSliceStart u s
  | .bistSliceEnd u res => Sys2Proof.Machine.execBistSliceEnd u res s
  | .blockReinitComplete l => Sys2Proof.Machine.execBlockReinitComplete l s
  | .rotationDue => Sys2Proof.Machine.execRotationDue s
  | .retainedStateCopyReceived l damage1 damage2 => Sys2Proof.Machine.execRetainedStateCopyReceived l damage1 damage2 s
  | .yealmFetchComplete l damage => Sys2Proof.Machine.execYealmFetchComplete l damage s
  | .debugHalt l => Sys2Proof.Machine.execDebugHalt l s
  | .debugRelease l => Sys2Proof.Machine.execDebugRelease l s
  | .digestRecompute l => Sys2Proof.Machine.execDigestRecompute l s
  | .sramScrub l corrected uncorrectable => Sys2Proof.Machine.execSramScrub l corrected uncorrectable s
  | .eccCorrected l row => Sys2Proof.Machine.execEccCorrected l row s
  | .eccUncorrectable l => Sys2Proof.Machine.execEccUncorrectable l s
  | .trussStats => Sys2Proof.Machine.execTrussStats s
  | .planeStats => Sys2Proof.Machine.execPlaneStats s
  | .routeSet asn => Sys2Proof.Machine.execRouteSet asn s
  | .routeCancel asn => Sys2Proof.Machine.execRouteCancel asn s
  | .pointMove asn => Sys2Proof.Machine.execPointMove asn s
  | .signalRestore asn => Sys2Proof.Machine.execSignalRestore asn s
  | .block asn => Sys2Proof.Machine.execBlock asn s
  | .unblock asn => Sys2Proof.Machine.execUnblock asn s
  | .auxReleaseRequest asn => Sys2Proof.Machine.execAuxReleaseRequest asn s
  | .auxReleaseConfirm asn => Sys2Proof.Machine.execAuxReleaseConfirm asn s
  | .restartReleaseRequest asn => Sys2Proof.Machine.execRestartReleaseRequest asn s
  | .restartReleaseConfirm asn => Sys2Proof.Machine.execRestartReleaseConfirm asn s
  | .timeSet asn => Sys2Proof.Machine.execTimeSet asn s
  | .imageLoad asn => Sys2Proof.Machine.execImageLoad asn s
  | .imageExchange asn => Sys2Proof.Machine.execImageExchange asn s
  | .rotateNow asn => Sys2Proof.Machine.execRotateNow asn s
  | .shutdown asn => Sys2Proof.Machine.execShutdown asn s
  | .journalRead asn => Sys2Proof.Machine.execJournalRead asn s
  | .commandExpiry asn => Sys2Proof.Machine.execCommandExpiry asn s
  | .requestLapse => Sys2Proof.Machine.execRequestLapse s
  | .journalStall => Sys2Proof.Machine.execJournalStall s
  | .hostFetch => Sys2Proof.Machine.execHostFetch s
  | .xfrqInSegment entry data => Sys2Proof.Machine.execXfrqInSegment entry data s
  | .transferTimeout => Sys2Proof.Machine.execTransferTimeout s
  | .yealmVerified l => Sys2Proof.Machine.execYealmVerified l s
  | .journalReadSegment l => Sys2Proof.Machine.execJournalReadSegment l s
  | .inputInjectionSegment entry data => Sys2Proof.Machine.execInputInjectionSegment entry data s
  | .exchangeBoundary => Sys2Proof.Machine.execExchangeBoundary s
  | .exchangeCopyComplete copyBad => Sys2Proof.Machine.execExchangeCopyComplete copyBad s
  | .exchangeReloadComplete => Sys2Proof.Machine.execExchangeReloadComplete s
  | .restartDecision => Sys2Proof.Machine.execRestartDecision s
  | .restartLockExpiry area => Sys2Proof.Machine.execRestartLockExpiry area s
  | .ringSfpInsertion r p kind => Sys2Proof.Machine.execRingSfpInsertion r p kind s
  | .sfpDiagRead r p rxPower txPower temp => Sys2Proof.Machine.execSfpDiagRead r p rxPower txPower temp s
  | .discoverLaunch => Sys2Proof.Machine.execDiscoverLaunch s
  | .discoverReturn r p frames loopNs unbroken => Sys2Proof.Machine.execDiscoverReturn r p frames loopNs unbroken s
  | .timingLaunch => Sys2Proof.Machine.execTimingLaunch s
  | .ringTopology r p => Sys2Proof.Machine.execRingTopology r p s
  | .periodicTiming => Sys2Proof.Machine.execPeriodicTiming s
  | .periodicDiscover => Sys2Proof.Machine.execPeriodicDiscover s
  | .planeLost r p => Sys2Proof.Machine.execPlaneLost r p s
  | .portLinkUp r p own => Sys2Proof.Machine.execPortLinkUp r p own s
  | .foreignMasterFrame r p frame => Sys2Proof.Machine.execForeignMasterFrame r p frame s
  | .ringRelay r p frame => Sys2Proof.Machine.execRingRelay r p frame s
  | .relayedLaunch r p frame => Sys2Proof.Machine.execRelayedLaunch r p frame s
  | .lFrameSend l => Sys2Proof.Machine.execLFrameSend l s
  | .lFrameReceive l damage => Sys2Proof.Machine.execLFrameReceive l damage s
  | .eFrameReceive l lost damage => Sys2Proof.Machine.execEFrameReceive l lost damage s
  | .battenReceiverTimeout l => Sys2Proof.Machine.execBattenReceiverTimeout l s
  | .battenDeadline l => Sys2Proof.Machine.execBattenDeadline l s
  | .eavesCommonInstant edgesX edgesY => Sys2Proof.Machine.execEavesCommonInstant edgesX edgesY s
  | .eavesConfigInForce => Sys2Proof.Machine.execEavesConfigInForce s
  | .eavesWindowEnd x y => Sys2Proof.Machine.execEavesWindowEnd x y s
  | .filterChange c inp => Sys2Proof.Machine.execFilterChange c inp s
  | .inputFaultSet c inp => Sys2Proof.Machine.execInputFaultSet c inp s
  | .inputFaultClear c inp => Sys2Proof.Machine.execInputFaultClear c inp s
  | .sourceFaultSet c src => Sys2Proof.Machine.execSourceFaultSet c src s
  | .sourceFaultClear c src => Sys2Proof.Machine.execSourceFaultClear c src s
  | .discTimerExpiry c pair => Sys2Proof.Machine.execDiscTimerExpiry c pair s
  | .discClear c pair => Sys2Proof.Machine.execDiscClear c pair s
  | .counterGateEnd c inp edges spanNs => Sys2Proof.Machine.execCounterGateEnd c inp edges spanNs s
  | .readbackReading m => Sys2Proof.Machine.execReadbackReading m s
  | .testPulseStart net => Sys2Proof.Machine.execTestPulseStart net s
  | .testPulseEnd net m roseMa => Sys2Proof.Machine.execTestPulseEnd net m roseMa s
  | .crossWindowEnd => Sys2Proof.Machine.execCrossWindowEnd s
  | .outputTrip ch => Sys2Proof.Machine.execOutputTrip ch s
  | .tripRetry ch => Sys2Proof.Machine.execTripRetry ch s
  | .retryCountReset ch => Sys2Proof.Machine.execRetryCountReset ch s
  | .fieldSupplyLow g => Sys2Proof.Machine.execFieldSupplyLow g s
  | .fieldSupplyRecover g => Sys2Proof.Machine.execFieldSupplyRecover g s
  | .fieldSupplyCut g => Sys2Proof.Machine.execFieldSupplyCut g s
  | .cutClear g => Sys2Proof.Machine.execCutClear g s
  | .hpctlOpen => Sys2Proof.Machine.execHpctlOpen s
  | .hpctlClose => Sys2Proof.Machine.execHpctlClose s
  | .quiesceComplete => Sys2Proof.Machine.execQuiesceComplete s
  | .doorbell q v req => Sys2Proof.Machine.execDoorbell q v req s
  | .qctlWrite q v => Sys2Proof.Machine.execQctlWrite q v s
  | .msixSend vec => Sys2Proof.Machine.execMsixSend vec s
  | .msixUnmask vec => Sys2Proof.Machine.execMsixUnmask vec s
  | .unsupportedRequest kind req => Sys2Proof.Machine.execUnsupportedRequest kind req s
  | .poisonedRequest req => Sys2Proof.Machine.execPoisonedRequest req s
  | .bar0ReadTimeout req => Sys2Proof.Machine.execBar0ReadTimeout req s
  | .postedWriteFail req => Sys2Proof.Machine.execPostedWriteFail req s
  | .moduleRequestFail how req => Sys2Proof.Machine.execModuleRequestFail how req s
  | .errstatClear v setNow => Sys2Proof.Machine.execErrstatClear v setNow s
  | .pairLoRead off => Sys2Proof.Machine.execPairLoRead off s
  | .bootoptSplit on => Sys2Proof.Machine.execBootoptSplit on s
  | .bootoptLoad on => Sys2Proof.Machine.execBootoptLoad on s
  | .bootoptActivate on => Sys2Proof.Machine.execBootoptActivate on s
  | .timecfgSrc ptp => Sys2Proof.Machine.execTimecfgSrc ptp s
  | .timecfgDomain dom => Sys2Proof.Machine.execTimecfgDomain dom s
  | .timecfgUtcOfs ofs => Sys2Proof.Machine.execTimecfgUtcOfs ofs s
  | .maintPortWrite off v => Sys2Proof.Machine.execMaintPortWrite off v s
  | .registerWrite sp off v => Sys2Proof.Machine.execRegisterWrite sp off v s
  | .perst => Sys2Proof.Machine.execPerst s
  | .renewRelease => Sys2Proof.Machine.execRenewRelease s
  | .renewReceive link msg => Sys2Proof.Machine.execRenewReceive link msg s
  | .beatSend => Sys2Proof.Machine.execBeatSend s
  | .beatReceive link msg => Sys2Proof.Machine.execBeatReceive link msg s
  | .linkSend link => Sys2Proof.Machine.execLinkSend link s
  | .linkReceive link msg rttNs => Sys2Proof.Machine.execLinkReceive link msg rttNs s
  | .leaseExpired => Sys2Proof.Machine.execLeaseExpired s
  | .leaseClaim => Sys2Proof.Machine.execLeaseClaim s
  | .pairStartClaim => Sys2Proof.Machine.execPairStartClaim s
  | .masteryTest => Sys2Proof.Machine.execMasteryTest s
  | .peerLinkLost link => Sys2Proof.Machine.execPeerLinkLost link s
  | .peerLinkReturn link => Sys2Proof.Machine.execPeerLinkReturn link s
  | .peerSfpInsertion link kind => Sys2Proof.Machine.execPeerSfpInsertion link kind s
  | .mirrorBlockReceive link msg => Sys2Proof.Machine.execMirrorBlockReceive link msg s
  | .shadowComputationComplete lostA lostB lostC lostD => Sys2Proof.Machine.execShadowComputationComplete lostA lostB lostC lostD s
  | .peerRequestReceive link msg => Sys2Proof.Machine.execPeerRequestReceive link msg s
  | .peerRequestTimeout => Sys2Proof.Machine.execPeerRequestTimeout s
  | .ptpSync ofsUs => Sys2Proof.Machine.execPtpSync ofsUs s
  | .timeSourceLost noMaster => Sys2Proof.Machine.execTimeSourceLost noMaster s
  | .timeSetHoldover => Sys2Proof.Machine.execTimeSetHoldover s
  | .clockWindowCheck unread supUs => Sys2Proof.Machine.execClockWindowCheck unread supUs s
  | .supplyStart offUs rstPressed => Sys2Proof.Machine.execSupplyStart offUs rstPressed s
  | .supplyLow bus => Sys2Proof.Machine.execSupplyLow bus s
  | .supplyRecovery durUs minBus => Sys2Proof.Machine.execSupplyRecovery durUs minBus s
  | .supplyReset => Sys2Proof.Machine.execSupplyReset s
  | .rstRelease heldUs => Sys2Proof.Machine.execRstRelease heldUs s
  | .resetStuck => Sys2Proof.Machine.execResetStuck s
  | .rstRearm => Sys2Proof.Machine.execRstRearm s
  | .orderlyReset => Sys2Proof.Machine.execOrderlyReset s
  | .keyPatternStable => Sys2Proof.Machine.execKeyPatternStable s
  | .keyAllOpenTimeout => Sys2Proof.Machine.execKeyAllOpenTimeout s
  | .sealChange => Sys2Proof.Machine.execSealChange s
  | .switchSense l => Sys2Proof.Machine.execSwitchSense l s
  | .hubWatchdog => Sys2Proof.Machine.execHubWatchdog s
  | .junctionOvertemp u => Sys2Proof.Machine.execJunctionOvertemp u s
  | .diesOutOfReset failing => Sys2Proof.Machine.execDiesOutOfReset failing s
  | .bootRecordCheck circuitsOk => Sys2Proof.Machine.execBootRecordCheck circuitsOk s
  | .bootYealmAgreed => Sys2Proof.Machine.execBootYealmAgreed s
  | .ringStartComplete => Sys2Proof.Machine.execRingStartComplete s
  | .indicateGather => Sys2Proof.Machine.execIndicateGather s
  | .bootShadowStart => Sys2Proof.Machine.execBootShadowStart s
  | .shutdownBegin => Sys2Proof.Machine.execShutdownBegin s
  | .shutdownDone => Sys2Proof.Machine.execShutdownDone s
  | .mramWriteFault l sector => Sys2Proof.Machine.execMramWriteFault l sector s
  | .mramUncorrectableRead l sector => Sys2Proof.Machine.execMramUncorrectableRead l sector s
  | .gutterRecord rec => Sys2Proof.Machine.execGutterRecord rec s
  | .gutterPathTake path => Sys2Proof.Machine.execGutterPathTake path s
  | .syslogSend => Sys2Proof.Machine.execSyslogSend s
  | .blackboxWrite l => Sys2Proof.Machine.execBlackboxWrite l s
  | .cmdqFetch descs => Sys2Proof.Machine.execCmdqFetch descs s
  | .linkProbe r p rttNs => Sys2Proof.Machine.execLinkProbe r p rttNs s
  | .rstPress => Sys2Proof.Machine.execRstPress s
  | .reserveStoreExhausted => Sys2Proof.Machine.execReserveStoreExhausted s
  | .primaryCellExhausted => Sys2Proof.Machine.execPrimaryCellExhausted s
  | .hubSramScrub uncorrectable => Sys2Proof.Machine.execHubSramScrub uncorrectable s
  | .mramCorrectedRead l sector => Sys2Proof.Machine.execMramCorrectedRead l sector s
  | .busMasterEnable on => Sys2Proof.Machine.execBusMasterEnable on s
  | .powerStateChange d3 => Sys2Proof.Machine.execPowerStateChange d3 s
  | .ptpAnnounce m => Sys2Proof.Machine.execPtpAnnounce m s

end Sys2Proof.Machine
end

