-- ==== Sys2Proof/Safety.lean ====
section
/-! DEFINITION. What a safe run of the module is, in the terms the statements use: which parts of the state a command may
change, which states the rules of R8, R9 and R387 allow. -/

namespace Sys2Proof.Machine

/-- The parts that a frame tells apart. HEALTHY stands apart from the rest of the Underlay, and the module state of R8
apart from the rest of `ModSt`. -/
inductive Part where
  | time | supply | healthy | mode | module | ctl | cyc | lanes | agr | rings | eaves | host | peer | gut | hub
  deriving DecidableEq, Repr

/-- The part stands as it stood. -/
def Part.same (s t : State) : Part → Prop
  | .time => t.time = s.time
  | .supply => { t.ul with healthy := false } = { s.ul with healthy := false }
  | .healthy => t.ul.healthy = s.ul.healthy
  | .mode => t.mod.st = s.mod.st
  | .module => { t.mod with st := .off } = { s.mod with st := .off }
  | .ctl => t.ctl = s.ctl
  | .cyc => t.cyc = s.cyc
  | .lanes => t.lanes = s.lanes
  | .agr => t.agr = s.agr
  | .rings => t.rings = s.rings
  | .eaves => t.eaves = s.eaves
  | .host => t.host = s.host
  | .peer => t.peer = s.peer
  | .gut => t.gut = s.gut
  | .hub => t.hub = s.hub

/-- Nothing but the listed parts has changed, and the queue of waiting commands stands as it stood. -/
structure Frame (ps : List Part) (s t : State) : Prop where
  queue : t.pending = s.pending
  rest  : ∀ p, p ∉ ps → p.same s t

/-- HEALTHY is closed exactly in VITAL and VITAL-RESTRICTED (R9). -/
def HealthyAgrees (s : State) : Prop := s.ul.healthy = healthyState s.mod.st

/-- The states that SAFE STOP can be followed by: itself, and OFF or BOOT by power-off or reset (R387). -/
def StopKept (s t : State) : Prop :=
  s.mod.st = .safeStop → t.mod.st = .safeStop ∨ t.mod.st = .off ∨ t.mod.st = .boot

end Sys2Proof.Machine

namespace Sys2Proof

open Machine in
/-- The parts of the state that a command may change (R9, R10 to R28: what belongs to whom): all that its rules write, and nothing else.
The three that reset the module may change every part. -/
def Instr.parts : Instr → List Part
  | .commonInstant _ _ => [.time, .supply, .healthy, .mode, .module, .ctl, .cyc, .lanes, .agr, .rings, .host, .peer, .gut]
  | .gFrameLaunch => [.time, .supply, .rings, .peer]
  | .ringSectionArrival _ _ _ _ => [.time, .supply, .module, .lanes, .agr, .rings, .peer, .gut]
  | .inputClose => [.time, .supply, .cyc, .lanes, .agr, .rings, .gut]
  | .inputAgreement _ _ _ => [.time, .supply, .ctl, .cyc, .lanes, .agr, .host, .peer, .gut]
  | .inputDiverge => [.lanes, .gut]
  | .taskEnd _ _ _ _ => [.cyc, .lanes, .gut]
  | .trussEvaluationComplete _ _ => [.cyc, .lanes]
  | .voteDeadline => [.time, .supply, .cyc, .lanes]
  | .ridgeVote => [.time, .supply, .healthy, .mode, .module, .cyc, .lanes, .agr, .rings, .host, .peer, .gut]
  | .ballotArrival _ _ => [.cyc, .lanes, .gut]
  | .voteCompleteLimit => [.time, .supply, .healthy, .mode, .module, .cyc, .lanes, .agr, .rings, .host, .peer, .gut]
  | .setQueuePush => [.time, .supply, .cyc, .lanes]
  | .hubForwardItem _ => [.lanes, .rings, .host, .gut]
  | .sFrameLaunch => [.time, .supply, .cyc, .rings, .peer]
  | .mramWriteComplete _ => [.lanes, .gut]
  | .snapshotComplete _ => [.lanes]
  | .diagnosticRelease => [.cyc, .lanes, .gut]
  | .diagnosticEnd _ _ _ => [.cyc, .lanes, .gut]
  | .diagnosticLimit => [.time, .supply, .cyc]
  | .laneSleep _ => [.lanes]
  | .laneWake _ => [.time, .supply, .lanes]
  | .completionDelivered => [.lanes, .host]
  | .creditReturn _ => [.lanes, .agr, .rings, .host, .peer, .gut]
  | .lockstepMismatch _ _ => [.lanes]
  | .stopFlit _ => [.cyc, .lanes, .gut]
  | .bistSliceStart _ => [.cyc, .lanes, .hub]
  | .bistSliceEnd _ _ => [.supply, .healthy, .mode, .module, .cyc, .lanes, .host, .peer, .gut, .hub]
  | .blockReinitComplete _ => [.lanes]
  | .rotationDue => [.cyc]
  | .retainedStateCopyReceived _ _ _ => [.cyc, .lanes, .gut]
  | .yealmFetchComplete _ _ => [.cyc, .lanes, .gut]
  | .debugHalt _ => [.lanes]
  | .debugRelease _ => [.lanes]
  | .digestRecompute _ => [.lanes]
  | .sramScrub _ _ _ => [.lanes]
  | .eccCorrected _ _ => [.lanes]
  | .eccUncorrectable _ => [.lanes]
  | .trussStats => [.lanes, .gut]
  | .planeStats => [.lanes, .agr, .gut]
  | .routeSet _ => [.lanes, .agr]
  | .routeCancel _ => [.lanes, .agr]
  | .pointMove _ => [.lanes, .agr]
  | .signalRestore _ => [.lanes, .agr]
  | .block _ => [.lanes, .agr]
  | .unblock _ => [.lanes, .agr]
  | .auxReleaseRequest _ => [.lanes, .agr]
  | .auxReleaseConfirm _ => [.lanes, .agr]
  | .restartReleaseRequest _ => [.lanes, .agr]
  | .restartReleaseConfirm _ => [.lanes, .agr]
  | .timeSet _ => [.lanes, .agr]
  | .imageLoad _ => [.lanes, .agr]
  | .imageExchange _ => [.lanes, .agr]
  | .rotateNow _ => [.lanes, .agr]
  | .shutdown _ => [.lanes, .agr]
  | .journalRead _ => [.lanes, .agr]
  | .commandExpiry _ => [.lanes]
  | .requestLapse => [.lanes]
  | .journalStall => [.agr, .gut]
  | .hostFetch => [.gut]
  | .xfrqInSegment _ _ => [.lanes, .agr, .host, .peer, .gut]
  | .transferTimeout => [.lanes]
  | .yealmVerified _ => [.lanes, .gut]
  | .journalReadSegment _ => [.lanes, .host]
  | .inputInjectionSegment _ _ => [.lanes, .agr, .host, .peer, .gut]
  | .exchangeBoundary => [.module, .cyc, .lanes]
  | .exchangeCopyComplete _ => [.module, .lanes]
  | .exchangeReloadComplete => [.module]
  | .restartDecision => [.time, .module, .cyc, .lanes, .agr, .host, .gut]
  | .restartLockExpiry _ => [.lanes]
  | .ringSfpInsertion _ _ _ => [.rings, .gut]
  | .sfpDiagRead _ _ _ _ _ => [.rings]
  | .discoverLaunch => [.time, .supply, .rings, .peer]
  | .discoverReturn _ _ _ _ _ => [.rings, .gut]
  | .timingLaunch => [.time, .supply, .rings, .peer]
  | .ringTopology _ _ => [.rings, .gut]
  | .periodicTiming => [.rings]
  | .periodicDiscover => [.rings]
  | .planeLost _ _ => [.rings, .gut]
  | .portLinkUp _ _ _ => [.rings]
  | .foreignMasterFrame _ _ _ => [.module, .lanes, .rings, .peer, .gut]
  | .ringRelay _ _ _ => [.lanes, .rings, .peer, .gut]
  | .relayedLaunch _ _ _ => [.rings]
  | .lFrameSend _ => [.lanes]
  | .lFrameReceive _ _ => [.lanes, .eaves]
  | .eFrameReceive _ _ _ => [.lanes, .eaves]
  | .battenReceiverTimeout _ => [.eaves]
  | .battenDeadline _ => [.lanes]
  | .eavesCommonInstant _ _ => [.eaves]
  | .eavesConfigInForce => [.eaves]
  | .eavesWindowEnd _ _ => [.eaves]
  | .filterChange _ _ => [.eaves]
  | .inputFaultSet _ _ => [.eaves]
  | .inputFaultClear _ _ => [.eaves]
  | .sourceFaultSet _ _ => [.eaves]
  | .sourceFaultClear _ _ => [.eaves]
  | .discTimerExpiry _ _ => [.eaves]
  | .discClear _ _ => [.eaves]
  | .counterGateEnd _ _ _ _ => [.eaves]
  | .readbackReading _ => [.eaves, .gut]
  | .testPulseStart _ => [.eaves]
  | .testPulseEnd _ _ _ => [.eaves, .gut]
  | .crossWindowEnd => [.eaves]
  | .outputTrip _ => [.eaves, .gut]
  | .tripRetry _ => [.eaves]
  | .retryCountReset _ => [.eaves]
  | .fieldSupplyLow _ => [.eaves, .gut]
  | .fieldSupplyRecover _ => [.eaves]
  | .fieldSupplyCut _ => [.eaves, .gut]
  | .cutClear _ => [.eaves]
  | .hpctlOpen => [.lanes, .host]
  | .hpctlClose => [.host, .gut]
  | .quiesceComplete => [.lanes, .host]
  | .doorbell _ _ _ => [.host]
  | .qctlWrite _ _ => [.host, .gut]
  | .msixSend _ => [.host]
  | .msixUnmask _ => [.host]
  | .unsupportedRequest _ _ => [.host]
  | .poisonedRequest _ => [.host]
  | .bar0ReadTimeout _ => [.host]
  | .postedWriteFail _ => [.host]
  | .moduleRequestFail _ _ => [.host]
  | .errstatClear _ _ => [.host]
  | .pairLoRead _ => [.host]
  | .bootoptSplit _ => [.supply]
  | .bootoptLoad _ => [.supply]
  | .bootoptActivate _ => [.supply]
  | .timecfgSrc _ => [.supply]
  | .timecfgDomain _ => [.supply]
  | .timecfgUtcOfs _ => [.supply]
  | .maintPortWrite _ _ => [.supply, .gut]
  | .registerWrite _ _ _ => [.host]
  | .perst => [.supply, .host, .gut]
  | .renewRelease => [.time, .supply, .peer]
  | .renewReceive _ _ => [.time, .supply, .healthy, .mode, .module, .cyc, .lanes, .host, .peer, .gut]
  | .beatSend => [.time, .supply, .peer, .gut]
  | .beatReceive _ _ => [.lanes, .peer, .gut]
  | .linkSend _ => [.peer]
  | .linkReceive _ _ _ => [.lanes, .peer, .gut]
  | .leaseExpired => [.supply, .healthy, .mode, .module, .cyc, .lanes, .rings, .host, .peer, .gut]
  | .leaseClaim => [.time, .supply, .module, .cyc, .lanes, .agr, .rings, .peer, .gut]
  | .pairStartClaim => [.supply, .module, .lanes, .host, .peer]
  | .masteryTest => [.module, .peer]
  | .peerLinkLost _ => [.peer, .gut]
  | .peerLinkReturn _ => [.peer, .gut]
  | .peerSfpInsertion _ _ => [.peer, .gut]
  | .mirrorBlockReceive _ _ => [.module, .cyc, .lanes, .agr, .rings, .peer, .gut]
  | .shadowComputationComplete _ _ _ _ => [.module, .cyc, .lanes, .agr, .rings, .peer, .gut]
  | .peerRequestReceive _ _ => [.healthy, .mode, .module, .lanes, .host, .peer, .gut]
  | .peerRequestTimeout => [.peer]
  | .ptpSync _ => [.time, .gut]
  | .timeSourceLost _ => [.time, .gut]
  | .timeSetHoldover => [.time, .lanes]
  | .clockWindowCheck _ _ => [.cyc, .lanes, .gut]
  | .supplyStart _ _ => [.time, .supply, .healthy, .mode, .module, .ctl, .cyc, .lanes, .agr, .rings, .eaves, .host, .peer, .gut, .hub]
  | .supplyLow _ => [.supply, .host, .gut]
  | .supplyRecovery _ _ => [.supply, .host]
  | .supplyReset => [.time, .supply, .healthy, .mode, .module, .ctl, .cyc, .lanes, .agr, .rings, .eaves, .host, .peer, .gut, .hub]
  | .rstRelease _ => [.supply, .module, .host]
  | .resetStuck => [.supply, .host, .gut]
  | .rstRearm => [.supply, .host]
  | .orderlyReset => [.time, .supply, .healthy, .mode, .module, .ctl, .cyc, .lanes, .agr, .rings, .eaves, .host, .peer, .gut, .hub]
  | .keyPatternStable => [.ctl, .lanes, .host, .gut]
  | .keyAllOpenTimeout => [.ctl, .lanes, .host, .gut]
  | .sealChange => [.module, .ctl, .gut]
  | .switchSense _ => [.lanes, .gut]
  | .hubWatchdog => [.supply, .healthy, .mode, .module, .cyc, .lanes, .host, .peer]
  | .junctionOvertemp _ => [.supply, .healthy, .mode, .module, .cyc, .lanes, .host, .peer]
  | .diesOutOfReset _ => [.supply, .module, .lanes, .gut, .hub]
  | .bootRecordCheck _ => [.supply, .healthy, .mode, .module, .cyc, .lanes, .host, .peer, .gut, .hub]
  | .bootYealmAgreed => [.supply, .healthy, .mode, .module, .lanes, .host, .peer, .gut]
  | .ringStartComplete => [.healthy, .mode, .module, .lanes, .host]
  | .indicateGather => [.time, .supply, .cyc, .rings, .peer]
  | .bootShadowStart => [.module, .cyc, .lanes, .agr, .host, .gut]
  | .shutdownBegin => [.supply, .healthy, .mode, .module, .cyc, .lanes, .host, .peer, .gut, .hub]
  | .shutdownDone => [.module, .lanes, .host, .gut]
  | .mramWriteFault _ _ => [.supply, .healthy, .mode, .module, .cyc, .lanes, .host, .peer, .gut]
  | .mramUncorrectableRead _ _ => [.supply, .healthy, .mode, .module, .cyc, .lanes, .host, .peer, .gut]
  | .gutterRecord _ => [.gut]
  | .gutterPathTake _ => [.lanes, .host, .gut]
  | .syslogSend => [.gut]
  | .blackboxWrite _ => [.lanes]
  | .cmdqFetch _ => [.lanes, .host]
  | .linkProbe _ _ _ => [.rings, .gut]
  | .rstPress => [.supply, .host]
  | .reserveStoreExhausted => [.time, .supply]
  | .primaryCellExhausted => [.supply]
  | .hubSramScrub _ => [.hub]
  | .mramCorrectedRead _ _ => [.supply, .healthy, .mode, .module, .cyc, .lanes, .host, .peer, .gut]
  | .busMasterEnable _ => [.host]
  | .powerStateChange _ => [.host]
  | .ptpAnnounce _ => [.time]

end Sys2Proof
end

