-- ==== Sys2Proof/Certificates/Slice0/Obligations.lean ====
section
/-! DEFINITION. The statements about the module for the provers: Obligations.<Name>, each a Prop. They speak of exec and step,
of `Frame` (Safety.lean) for what a command leaves as it was, and of the operations of Sys2Proof/Machine for the values it gives.
Where a statement says a value with an operation of the model, the operation is the spec's rule that its docstring names. -/

set_option linter.all false

section
open Sys2Proof Sys2Proof.Machine

/-! ### The block as a whole: its queue, its states, what a command may touch, its memories -/

/-- Log entry 3, and the block's queue: step takes the command at the front of the queue and runs exec on it with the queue's
rest; on an empty queue the block idles (the model's choice, log entry 3). -/
def Obligations.StepRunsFront : Prop := ∀ s : State,
  (∀ c, step { s with pending := c :: s.pending } = exec c s) ∧ (∀ c rest, s.pending = c :: rest → step s = exec c { s with pending := rest }) ∧
  (s.pending = [] → step s = .next s)

/-- The queue is first in, first out, and no command stops the block: each step answers a next state whose queue is the rest. -/
def Obligations.QueueFirstInFirstOut : Prop := ∀ (c : Instr) (rest : List Instr) (s : State), s.pending = c :: rest →
  ∃ t, step s = .next t ∧ t.pending = rest

/-- What a command leaves as it was: every part of the state but those that its rules write (R10 to R28, R447; the parts of each
command stand in `Instr.parts`). -/
def Obligations.CommandFrames : Prop := ∀ (c : Instr) (s t : State), exec c s = .next t → Frame c.parts s t

/-- R9: the HEALTHY contact is closed only while the module is in VITAL or VITAL-RESTRICTED, and is open in every other state;
every step keeps it so. -/
def Obligations.HealthyOnlyInVital : Prop := ∀ s t : State, HealthyAgrees s → step s = .next t →
  (t.ul.healthy = true ↔ t.mod.st = .vital ∨ t.mod.st = .vitalRestricted)

/-- R9, R18, R23, R285, R372, R387, R447: the module right after power-on reset: in BOOT, HEALTHY open, nothing driven, the lease not
held, the host port closed with its indices at 0, no command waiting, every memory in its canonical form. -/
def Obligations.ResetLeavesBoot : Prop := State.reset.pending = [] ∧ State.reset.mod.st = .boot ∧ HealthyAgrees State.reset ∧ State.reset.peer.held = false ∧
  (∀ l, (State.reset.lanes.get l).drive = [] ∧ (State.reset.lanes.get l).driveE = 0 ∧ (State.reset.lanes.get l).driveG = 0 ∧
    (State.reset.lanes.get l).role = .off ∧ memWf (State.reset.lanes.get l).region = true ∧ memWf (State.reset.lanes.get l).work = true ∧
    memWf (State.reset.lanes.get l).mram.bank0.mem = true ∧ memWf (State.reset.lanes.get l).mram.bank1.mem = true) ∧
  State.reset.host.en = false ∧ (∀ q : Fin 8, (qAt State.reset q).en = false ∧ (qAt State.reset q).idx = 0 ∧ (qAt State.reset q).db = 0) ∧ State.reset.host.errcnt = 0 ∧ State.reset.host.seen = 0

/-- R387: SAFE STOP is left only by power-off or a reset: the next state is SAFE STOP, OFF or BOOT. -/
def Obligations.SafeStopKept : Prop := ∀ s t : State, step s = .next t → StopKept s t

/-- R230: masters rank by EPOCH, higher first, then by MASTER_ID, lower first. -/
def Obligations.MastersRankByEpoch : Prop := ∀ ea ma eb mb : Nat,
  ranksAbove ea ma eb mb = true ↔ (eb < ea ∨ (ea = eb ∧ ma < mb))

/-- R88, R168, R174, and the model's memories: two memories in canonical form that read alike are equal; bytes stored are read back
and no other byte changes; the DELTA of two regions, replayed over the first, gives the second. -/
def Obligations.MemoryStoresAndReplays : Prop := (∀ m n : Mem, memWf m = true → memWf n = true → (∀ a, memByte m a = memByte n a) → m = n) ∧
  (∀ (m : Mem) (a : Nat) (bs : List Byte), memWf m = true → memWf (memWrite m a bs) = true ∧
    (∀ x, memByte (memWrite m a bs) x = if a ≤ x ∧ x < a + bs.length then bs.getD (x - a) 0 else memByte m x) ∧
    memRead (memWrite m a bs) a bs.length = bs) ∧
  (∀ old new : Mem, memWf old = true → memWf new = true → memApply old (memDelta old new) = new)

/-! ### The host port (R281 to R299, R446 to R461) -/

/-- A lane apart from its indications (R27). -/
def Sys2Proof.Machine.noInds (x : LaneSt) : LaneSt := { x with inds := [], indq := ⟨[], 0⟩, sentInds := [], indSent := 0 }

/-- R289: HPCTL_OPEN opens a quiesced port with the indices of every enabled ring at 0 and is held on another; HPCTL_CLOSE
closes it; QUIESCE_COMPLETE sets QUIESCED, or opens the port that a held write asked for. The lanes keep all but their indications.
R289: after HPCTL_CLOSE no ring is fetched or written; nothing but HPCTL and what it held back changes in the host port. -/
def Obligations.HostPortOpensAndCloses : Prop :=
  (∀ s : State, hubUp s = true → s.host.en = false →
  (s.host.quiesced = true → ∃ t, exec .hpctlOpen s = .next t ∧ t.host.en = true ∧ t.host.quiesced = false ∧
    t.host.heldOpen = false ∧ t.host.q = s.host.q.map openQ ∧
    (∀ l, noInds (t.lanes.get l) = noInds (s.lanes.get l)) ∧ Frame [.host, .lanes] s t) ∧
  (s.host.quiesced = false → exec .hpctlOpen s = .next { s with host := { s.host with heldOpen := true } }) ∧
  (s.host.quiesced = false → s.host.heldOpen = false →
    exec .quiesceComplete s = .next { s with host := { s.host with quiesced := true } }) ∧
  (s.host.quiesced = false → s.host.heldOpen = true → ∃ t, exec .quiesceComplete s = .next t ∧ t.host.en = true ∧
    t.host.quiesced = false ∧ t.host.heldOpen = false ∧ t.host.q = s.host.q.map openQ ∧ Frame [.host, .lanes] s t)) ∧
  (∀ s : State, hubUp s = true →
  ∃ t, exec .hpctlClose s = .next t ∧ t.host = { s.host with en := false, heldOpen := false, portOpenDue := false, wbDue := 0 } ∧
    (∀ q, ringOn t q = false) ∧ Frame [.host, .gut] s t)

/-- R291: a doorbell value that is not news is ignored; one within the range of the ring is taken as its new index; any other is
ignored and recorded in ERRQ with code 0x0008. -/
def Obligations.DoorbellJudged : Prop := ∀ (q : Fin 8) (v : Word) (req : HostReq) (s : State), hubUp s = true →
  (((v - (qAt s q).db).toNat = 0 ∨ 2 ^ 31 ≤ (v - (qAt s q).db).toNat) → exec (.doorbell q v req) s = .next s) ∧
  (0 < (v - (qAt s q).db).toNat → (v - (qAt s q).db).toNat < 2 ^ 31 →
    ((if q.val < 2 then (v - (qAt s q).idx).toNat else ((qAt s q).idx - v).toNat) ≤ (qAt s q).cSize →
      ∃ t, exec (.doorbell q v req) s = .next t ∧ t.host.q = listMod s.host.q q (fun r => { r with db := v }) ∧
        t = { s with host := { s.host with q := t.host.q } }) ∧
    ((qAt s q).cSize < (if q.val < 2 then (v - (qAt s q).idx).toNat else ((qAt s q).idx - v).toNat) →
      ∃ t, exec (.doorbell q v req) s = .next t ∧ t.host.q = s.host.q ∧ t.host.errcnt = s.host.errcnt + 1 ∧
        t.host.seen = s.host.seen ||| 0x080 ∧ Frame [.host] s t))

/-- R455: a message that is due leaves with its entry as it stands, or sets its Pending Bit while its vector or the function is
masked; unmasking a vector whose Pending Bit is set sends it. -/
def Obligations.MessagesMasked : Prop := ∀ (v : Fin 8) (s : State), hubUp s = true → s.host.en = true → s.host.msixEn = true →
    s.host.bme = true → s.host.d3 = false → s.host.msix.length = 8 →
  (s.host.vecDue.getLsbD v = true → ((msixAt s v).masked || s.host.funcMask) = false →
    exec (.msixSend v) s = .next { s with host := { s.host with
      vecDue := clearBit8 s.host.vecDue v, posted := s.host.posted ++ [.msix v (msixAt s v).addr (msixAt s v).data] } }) ∧
  (s.host.vecDue.getLsbD v = true → ((msixAt s v).masked || s.host.funcMask) = true →
    exec (.msixSend v) s = .next { s with host := { s.host with
      vecDue := clearBit8 s.host.vecDue v, pba := s.host.pba ||| BitVec.ofNat 8 (2 ^ v.val) } }) ∧
  (s.host.pba.getLsbD v = true → s.host.funcMask = false → ∃ t, exec (.msixUnmask v) s = .next t ∧
    t.host.posted = s.host.posted ++ [.msix v (msixAt s v).addr (msixAt s v).data] ∧ t.host.pba.getLsbD v = false ∧
    (msixAt t v).masked = false ∧ Frame [.host] s t) ∧
  (s.host.pba.getLsbD v = false → ∃ t, exec (.msixUnmask v) s = .next t ∧ t.host.posted = s.host.posted ∧
    (msixAt t v).masked = false ∧ Frame [.host] s t)

/-- R282, R297 to R299, R452: each error sets its bit of ERRSTAT, counts in ERRCNT and leaves a record in the error queue, or,
without a credit there, counts as lost. The bit is the one of the error's ERRQ code. An unsupported request that is not posted and an
open read are completed with Unsupported Request and Completer Abort.
R452: writing ERRSTAT clears the bits written as 1 and no other, but a bit that an error sets at that moment stays 1. -/
def Obligations.ErrorsRecordedAndCleared : Prop :=
  (∀ (req : HostReq) (s : State), hubUp s = true →
  ∀ (c : Instr) (code : Nat), (c, code) ∈ [(Instr.unsupportedRequest .misaligned req, 1), (.unsupportedRequest .bar2Read req, 1),
      (.unsupportedRequest .requestType req, 2), (.bar0ReadTimeout req, 3), (.postedWriteFail req, 4),
      (.moduleRequestFail .refused req, 5), (.moduleRequestFail .timeout req, 6), (.moduleRequestFail .notDelivered req, 7),
      (.unsupportedRequest .bar2Write req, 8), (.poisonedRequest req, 9)] →
    ∃ t, exec c s = .next t ∧ t.host.seen = s.host.seen ||| BitVec.ofNat 9 (2 ^ (code - 1)) ∧ t.host.errcnt = s.host.errcnt + 1 ∧
      (s.host.errq.credits ≠ 0 → t.host.errq.credits + 1 = s.host.errq.credits ∧
        t.host.errq.items.length = s.host.errq.items.length + 1 ∧ t.host.errlost = s.host.errlost) ∧
      (s.host.errq.credits = 0 → t.host.errq = s.host.errq ∧ t.host.errlost = s.host.errlost + 1 ∧ t.host.lostBit = true) ∧
      t.host.q = s.host.q ∧ t.host.posted = s.host.posted ∧
      (∀ kind, c = .unsupportedRequest kind req → t.host.cpls = s.host.cpls ++ if req.posted then [] else [⟨.unsupported, 0, req.hdr⟩]) ∧
      (c = .bar0ReadTimeout req → t.host.cpls = s.host.cpls ++ [⟨.abort, 0, req.hdr⟩]) ∧ Frame [.host] s t) ∧
  (∀ (v setNow : Word) (s : State), hubUp s = true →
  ∃ t, exec (.errstatClear v setNow) s = .next t ∧
    (∀ i : Nat, i < 9 → t.host.seen.getLsbD i = ((s.host.seen.getLsbD i && !v.getLsbD i) || setNow.getLsbD i)) ∧
    t.host.lostBit = ((s.host.lostBit && !v.getLsbD 16) || setNow.getLsbD 16) ∧
    t = { s with host := { s.host with seen := t.host.seen, lostBit := t.host.lostBit } })

/-- The enabled rings whose write-back word is due have it written, in the order of the rings, and owe none any more; the other rings
owe what they owed. -/
def Sys2Proof.Machine.wbPaid (s t : State) : Prop :=
  t.host.posted = s.host.posted ++ ((List.range 8).filter fun q => s.host.wbDue.getLsbD q && (qAt s q).en).map
    (fun q => HostWrite.mem (qAt s q).cWb (wbWord s (qAt s q).idx)) ∧
  ∀ q, q < 8 → t.host.wbDue.getLsbD q = (s.host.wbDue.getLsbD q && !(qAt s q).en)

/-- R446, R450, R456 to R460, R281, R453: what the set-up writes and the latching read change, and that they change nothing else. The write-back
words of an opening that wait because no request may be issued follow when one may (the model's reading, log entry 60). -/
def Obligations.SetupWritesStore : Prop := ∀ s : State, hubUp s = true →
  (∀ b, exec (.bootoptSplit b) s = .next { s with ul := { s.ul with optSplit := b } }) ∧
  (∀ b, exec (.bootoptLoad b) s = .next { s with ul := { s.ul with optLoad := b } }) ∧
  (∀ b, exec (.bootoptActivate b) s = .next { s with ul := { s.ul with optActivate := b } }) ∧
  (∀ b, ∃ t, exec (.timecfgSrc b) s = .next t ∧ readBar0 t 0x500 = maskedWrite (readBar0 s 0x500) 1 (if b then 1 else 0) ∧
    t = { s with ul := { s.ul with timecfg := t.ul.timecfg } }) ∧
  (∀ d, d < 128 → ∃ t, exec (.timecfgDomain d) s = .next t ∧
    readBar0 t 0x500 = maskedWrite (readBar0 s 0x500) 0x7F00 (BitVec.ofNat 32 (256 * d)) ∧
    t = { s with ul := { s.ul with timecfg := t.ul.timecfg } }) ∧
  (∀ u : Half, ∃ t, exec (.timecfgUtcOfs u) s = .next t ∧ readBar0 t 0x500 = maskedWrite (readBar0 s 0x500) 0xFFFF0000 (u ++ (0 : Half)) ∧
    t = { s with ul := { s.ul with timecfg := t.ul.timecfg } }) ∧
  (∀ b, ∃ t, exec (.busMasterEnable b) s = .next t ∧
    t.host = { s.host with bme := b, wbDue := t.host.wbDue, posted := t.host.posted } ∧ Frame [.host] s t ∧
    (s.host.wbDue = 0 → t.host.wbDue = 0 ∧ t.host.posted = s.host.posted) ∧
    (s.host.en = true → b = true → s.host.d3 = false → wbPaid s t)) ∧
  (∀ b, ∃ t, exec (.powerStateChange b) s = .next t ∧
    t.host = { s.host with d3 := b, wbDue := t.host.wbDue, posted := t.host.posted } ∧ Frame [.host] s t ∧
    (s.host.wbDue = 0 → t.host.wbDue = 0 ∧ t.host.posted = s.host.posted) ∧
    (s.host.en = true → b = false → s.host.bme = true → wbPaid s t)) ∧
  (∀ off, (off = 0x508 ∨ off = 0x510 ∨ off = 0x518) → ∃ t, exec (.pairLoRead off) s = .next t ∧
    readBar0 t off = readBar0 s off ∧ readBar0 t (off + 4) ++ readBar0 s off = pairValue s off ∧
    t = { s with host := { s.host with hiLatch := t.host.hiLatch, cpls := s.host.cpls ++ [⟨.success, readBar0 s off, []⟩] } })

/-- R285, R446, R453, R455, R460: a register write is what a read of the register returns, reserved bits apart; a ring's registers
are its own. -/
def Obligations.RegisterWritesRead : Prop := ∀ (v : Word) (s : State), hubUp s = true → s.host.q.length = 8 →
  (∀ q : Fin 8,
    (∃ t, exec (.registerWrite .bar0 (0x200 + 64 * q.val) v) s = .next t ∧
      readBar0 t (0x200 + 64 * q.val) = v &&& 0xFFFFF000 ∧ t = { s with host := { s.host with q := t.host.q } } ∧
      ∀ r : Fin 8, r ≠ q → qAt t r = qAt s r) ∧
    (∃ t, exec (.registerWrite .bar0 (0x208 + 64 * q.val) v) s = .next t ∧
      readBar0 t (0x208 + 64 * q.val) = v &&& 0xF ∧ t = { s with host := { s.host with q := t.host.q } } ∧
      ∀ r : Fin 8, r ≠ q → qAt t r = qAt s r) ∧
    (∃ t, exec (.qctlWrite q v) s = .next t ∧ readBar0 t (0x214 + 64 * q.val) = v &&& 0xF ∧
      (∀ r : Fin 8, r ≠ q → qAt t r = qAt s r) ∧
      t.host = { s.host with q := t.host.q, wbDue := t.host.wbDue, posted := t.host.posted } ∧
      (s.host.wbDue = 0 → t.host.wbDue = 0 ∧ t.host.posted = s.host.posted) ∧ Frame [.host, .gut] s t)) ∧
  (∃ t, exec (.maintPortWrite 0x600 v) s = .next t ∧ readBar0 t 0x600 = v ∧ t.ul = { s.ul with mpip := v } ∧ Frame [.supply, .gut] s t) ∧
  (∃ t, exec (.maintPortWrite 0x604 v) s = .next t ∧ readBar0 t 0x604 = v ∧ t.ul = { s.ul with mpmask := v } ∧ Frame [.supply, .gut] s t) ∧
  (∃ t, exec (.maintPortWrite 0x608 v) s = .next t ∧ readBar0 t 0x608 = v ∧ t.ul = { s.ul with mpgw := v } ∧ Frame [.supply, .gut] s t) ∧
  (∃ t, exec (.maintPortWrite 0x60C v) s = .next t ∧ readBar0 t 0x60C = v ∧ t.ul = { s.ul with logdst := v } ∧ Frame [.supply, .gut] s t)

/-- R447, R468: PERST gives the host port's registers and BOOTOPT their reset values and leaves the vital cycle, the rings, the
peer and the Eaves block as they are. -/
def Obligations.PerstResetsPort : Prop := ∀ s : State, hubUp s = true →
  ∃ t, exec .perst s = .next t ∧ t.host.q = ({} : HostPort).q ∧ t.host.en = false ∧ t.host.msix = ({} : HostPort).msix ∧
    t.host.funcMask = false ∧ t.host.pba = 0 ∧ t.host.seen = 0 ∧ t.host.errcnt = 0 ∧ t.host.errlost = 0 ∧
    t.ul = { s.ul with optSplit := false, optLoad := false, optActivate := false } ∧ Frame [.host, .supply, .gut] s t

/-! ### Supply, reset button, key and sealed switches (R366, R372 to R386, R409) -/

/-- The Status readback copies that the Underlay refreshes (R449): all of the host port that a supply or button command changes. -/
def Sys2Proof.Machine.noReadback (h : HostPort) : HostPort := { h with rb := {} }

/-- R372, R374, R375: the supply. A module that is OFF boots once the bus has stood at the start threshold, supervisor time having
run on through the outage; a bus below 18.0 V sets SUPPLY_WARN and keeps the cycle of the dip; its return ends the dip, which
is noted for the journal; below 14.5 V the dies are held in reset and the module is OFF.
R366, R172, R409: without the reserve store supervisor time restarts from 0 and the restart is flagged; without its primary
cell the shelf counter reads unknown. -/
def Obligations.SupplyAndStores : Prop :=
  (∀ s : State,
  (s.mod.st = .off → s.time.supLost = false → ∀ us, ∃ t, exec (.supplyStart us false) s = .next t ∧ t.mod.st = .boot ∧
    t.ul.diesHeld = false ∧ t.ul.healthy = false ∧ t.time.supUs = s.time.supUs + BitVec.ofNat 64 us ∧
    t.cyc = {} ∧ t.peer.held = false ∧ t.ul.nboot = s.ul.nboot ∧ t.ul.timecfg = s.ul.timecfg ∧ t.host.en = false) ∧
  (s.mod.st ≠ .off → s.ul.warn = false → ∀ b, 145 ≤ b → b < 180 → ∃ t, exec (.supplyLow b) s = .next t ∧
    t.ul = { s.ul with bus := b, warn := true, dipCycle := some s.cyc.k } ∧
    noReadback t.host = noReadback s.host ∧ Frame [.supply, .host, .gut] s t) ∧
  (∀ k, s.mod.st ≠ .off → s.ul.warn = true → s.ul.dipCycle = some k → ∀ d m, ∃ t, exec (.supplyRecovery d m) s = .next t ∧
    t.ul = { s.ul with bus := 185, warn := false, dipCycle := none, dips := s.ul.dips ++ [(k, d, m)] } ∧
    noReadback t.host = noReadback s.host ∧ Frame [.supply, .host] s t) ∧
  (s.mod.st ≠ .off → ∃ t, exec .supplyReset s = .next t ∧ t.mod.st = .off ∧ t.ul.diesHeld = true ∧ t.ul.healthy = false ∧
    t.ul.leaseRun = false ∧ (∀ l, (t.lanes.get l).drive = [] ∧ (t.lanes.get l).driveE = 0 ∧ (t.lanes.get l).driveG = 0) ∧
    t.time.supUs = s.time.supUs)) ∧
  (∀ s : State,
  (s.mod.st = .off → exec .reserveStoreExhausted s = .next { s with
    time := { s.time with supUs := 0, supLost := true }, ul := { s.ul with reserve := false, lastCk := none } }) ∧
  exec .primaryCellExhausted s = .next { s with ul := { s.ul with cellOk := false, shelf := none } })

/-- R376: the button RST_N. A press of an armed button is measured; one held beyond 5 s is ignored with RESET_STUCK until the
button has been seen released for 1 s; a release asks for an orderly reset after 0.1 s to 5 s, or, after 2 s to 5 s with the key in
MAINT outside BOOT, for an orderly shutdown, and for nothing when shorter.
R377, R447: the orderly reset, once its cycle has ended or where there is none to complete, boots the module: every lane that
is not retired is OFF with nothing driven, the lease is not held, supervisor time and the class U registers stay, and nothing is
posted to the host. -/
def Obligations.ButtonAndOrderlyReset : Prop :=
  (∀ s : State, s.mod.st ≠ .off → s.ul.orderly = none →
  (s.ul.pressed = false → s.ul.button = .armed → ∃ t, exec .rstPress s = .next t ∧
    t.ul = { s.ul with pressed := true, button := .pressed } ∧ noReadback t.host = noReadback s.host ∧ Frame [.supply, .host] s t) ∧
  (s.ul.button = .pressed → ∃ t, exec .resetStuck s = .next t ∧ t.ul = { s.ul with button := .stuck } ∧
    noReadback t.host = noReadback s.host ∧ Frame [.supply, .host, .gut] s t) ∧
  (s.ul.pressed = false → s.ul.button = .stuck → ∃ t, exec .rstRearm s = .next t ∧ t.ul = { s.ul with button := .armed } ∧
    noReadback t.host = noReadback s.host ∧ Frame [.supply, .host] s t) ∧
  (s.ul.pressed = true → s.ul.button = .pressed → ∀ us,
    (us < 100000 → ∃ t, exec (.rstRelease us) s = .next t ∧ t.ul = { s.ul with pressed := false, button := .armed }) ∧
    (100000 ≤ us → us ≤ 5000000 → powerOffPrep s us = false → ∃ t, exec (.rstRelease us) s = .next t ∧
      t.ul = { s.ul with pressed := false, button := .armed, orderly := some .reset } ∧ t.mod = s.mod ∧
      Frame [.supply, .host] s t) ∧
    (powerOffPrep s us = true → ∃ t, exec (.rstRelease us) s = .next t ∧
      t.ul = { s.ul with pressed := false, button := .armed, orderly := some .shutdown } ∧ t.mod.st = s.mod.st ∧
      Frame [.supply, .module, .host] s t))) ∧
  (∀ s : State, s.mod.st ≠ .off → s.ul.orderly = some .reset →
    (s.ul.stopAt = true ∨ s.mod.st = .boot ∨ s.mod.st = .safeStop ∨ s.mod.st = .standby ∨ s.mod.st = .split) →
  ∃ t, exec .orderlyReset s = .next t ∧ t.mod.st = .boot ∧ t.ul.orderly = none ∧ t.ul.stopAt = false ∧ t.peer.held = false ∧
    (∀ l, ((t.lanes.get l).role = .off ∨ (t.lanes.get l).role = .retired) ∧ (t.lanes.get l).drive = [] ∧
      (t.lanes.get l).driveE = 0 ∧ (t.lanes.get l).driveG = 0 ∧ (t.lanes.get l).retFuse = (s.lanes.get l).retFuse ∧
      (t.lanes.get l).excl = (s.lanes.get l).excl) ∧
    t.time.supUs = s.time.supUs ∧ t.ul.timecfg = s.ul.timecfg ∧ t.ul.mpip = s.ul.mpip ∧ t.ul.nboot = s.ul.nboot ∧
    t.host.posted = s.host.posted)

/-- R379: the key position that the agreed pattern of the six contacts shows; a pattern of more or other contacts, or one without
agreement, is INVALID; all open shows none.
R379: a pattern that every sample of at least 50 ms has shown, or contacts all open for more than 2 s, is taken, and no other: outside BOOT and INDICATE it takes effect at the next
common instant; the position in force stays. A position already taken is taken again without effect.
R385, R386: a changed agreed reading is noted, and in BOOT one of SW21 to SW24 holds the module there; a lane whose reading has
differed for 100 cycles raises SWITCH_SENSE, once, and stays in service. -/
def Obligations.KeyAndSwitches : Prop :=
  ((∀ c, keyPattern false c = some .invalid) ∧ keyPattern true 0b000011 = some .run ∧ keyPattern true 0b001100 = some .maint ∧
  keyPattern true 0b110000 = some .test ∧ keyPattern true 0 = none ∧
  (∀ c, c ≠ 0b000011 → c ≠ 0b001100 → c ≠ 0b110000 → c ≠ 0 → keyPattern true c = some .invalid)) ∧
  (∀ (s : State) (p : KeyPos), hubUp s = true →
    s.mod.st ≠ .boot → s.mod.st ≠ .indicate →
  (50 ≤ keyHeldMs s → s.ctl.next ≠ some p → (s.ctl.next = none → s.ctl.pos ≠ some p) → keyPattern s.ctl.agreed s.ctl.contacts = some p → ∃ t, exec .keyPatternStable s = .next t ∧
    t.ctl = { s.ctl with next := some p } ∧ Frame [.ctl, .gut] s t) ∧
  (2000 < keyHeldMs s → s.ctl.next ≠ some .invalid → (s.ctl.next = none → s.ctl.pos ≠ some .invalid) → s.ctl.agreed = true → s.ctl.contacts = 0 → ∃ t, exec .keyAllOpenTimeout s = .next t ∧
    t.ctl = { s.ctl with next := some .invalid } ∧ Frame [.ctl, .gut] s t) ∧
  (s.ctl.pos = some p → s.ctl.next = none → keyPattern s.ctl.agreed s.ctl.contacts = some p → exec .keyPatternStable s = .next s) ∧
  (keyHeldMs s < 50 → exec .keyPatternStable s = .next s) ∧ (keyHeldMs s ≤ 2000 → exec .keyAllOpenTimeout s = .next s)) ∧
  (∀ s : State, hubUp s = true →
  (s.ctl.swValid = true → s.mod.st ≠ .boot → ∃ t, exec .sealChange s = .next t ∧ t.ctl = { s.ctl with swSeen := s.ctl.sw } ∧
    Frame [.ctl, .gut] s t) ∧
  (s.ctl.swValid = true → s.mod.st = .boot → ∃ t, exec .sealChange s = .next t ∧
    (t.mod.boot.swBad = true ↔ ∃ n, 20 ≤ n ∧ n < 24 ∧ s.ctl.sw.getLsbD n = true) ∧
    t.mod = { s.mod with boot := { s.mod.boot with swBad := t.mod.boot.swBad } } ∧
    Frame [.module, .gut] s t) ∧
  (∀ l, 100 ≤ (s.lanes.get l).swDiff → (s.lanes.get l).sense = false → ∃ t, exec (.switchSense l) s = .next t ∧
    t.lanes.get l = { s.lanes.get l with sense := true } ∧ (∀ m, m ≠ l → t.lanes.get m = s.lanes.get m) ∧
    Frame [.lanes, .gut] s t))

/-! ### Bring-up, restart, shutdown, hub failure (R15, R171 to R179, R387 to R392, R401 to R411, R479) -/

/-- R401, R402, R410, R411, R456: when the dies leave reset the boot counts and the lanes' repair maps alone are tested; with
three valid start-up records the record path is taken, else every lane and the hub run a boot pass. -/
def Obligations.BootPathChosen : Prop := ∀ s : State, hubUp s = true → s.mod.st = .boot →
  (s.mod.boot.diesOut = false → ∀ f, ∃ t, exec (.diesOutOfReset f) s = .next t ∧
    t.mod = { s.mod with boot := { s.mod.boot with diesOut := true } } ∧
    t.ul = { s.ul with diesHeld := false, nboot := min 255 (s.ul.nboot + 1) } ∧
    (∀ l, { t.lanes.get l with mram := Mram.blank } = { s.lanes.get l with mram := Mram.blank }) ∧
    Frame [.supply, .module, .lanes, .gut, .hub] s t) ∧
  (s.mod.boot.diesOut = true → s.mod.boot.checked = false → ∀ ok, 3 ≤ (recordLanes ok s).length →
    ∃ t, exec (.bootRecordCheck ok) s = .next t ∧ t.mod.boot = { s.mod.boot with checked := true, recPath := true } ∧
      t.mod.st = .boot ∧ t.host.bootstat = s.host.bootstat ||| 1 ∧ t.hub = { s.hub with passOk := true } ∧
      (∀ l ∈ recordLanes ok s, (t.lanes.get l).checked = true ∧ (t.lanes.get l).bist = (s.lanes.get l).bist) ∧
      (∀ l ∈ aliveLanes s, l ∉ recordLanes ok s → (t.lanes.get l).bist.pass = some .boot)) ∧
  (s.mod.boot.diesOut = true → s.mod.boot.checked = false → ∀ ok, (recordLanes ok s).length < 3 → 2 ≤ (aliveLanes s).length →
    ∃ t, exec (.bootRecordCheck ok) s = .next t ∧ t.mod.boot = { s.mod.boot with checked := true } ∧ t.mod.st = .boot ∧
      t.host.bootstat = s.host.bootstat ∧ t.hub.pass = some .boot ∧ (∀ l ∈ aliveLanes s, (t.lanes.get l).bist.pass = some .boot))

/-- R389: when no lane holds an ACTIVE yealm, BOOT_YEALM_AGREED leaves the module in BOOT with NO_IMAGE.
R161, R163, R389, R322: where every lane that is not retired verifies its ACTIVE yealm and all have the same CRC-64, a module
alone agrees it, holds it in every lane, and takes the lease with a new epoch.
R387: with the lease held, the yealm agreed, two ready lanes and every listed ring started, BOOT ends in INDICATE.
R390: in INDICATE, inputs are gathered once every 100 ms. -/
def Obligations.BootEndsInIndicate : Prop :=
  (∀ s : State, hubUp s = true → s.mod.st = .boot → s.mod.boot.checked = true →
    s.mod.boot.agreed = false → s.ul.optActivate = false → s.mod.boot.noImage = false →
    2 ≤ ((aliveLanes s).filter fun l => (s.lanes.get l).checked).length →
    (∀ l, activeBank (s.lanes.get l).mram = none ∧ (s.lanes.get l).yealm = none) →
  ∃ t, exec .bootYealmAgreed s = .next t ∧ t.mod.st = .boot ∧ t.mod.boot.noImage = true ∧ t.mod.boot.agreed = false ∧
    t.host = { s.host with bootstat := s.host.bootstat ||| 0b10000 } ∧ t.lanes = s.lanes ∧ t.peer = s.peer ∧
    Frame [.module, .host, .gut] s t) ∧
  (∀ (s : State) (c : DWord), hubUp s = true → s.mod.st = .boot → s.mod.boot.checked = true →
    s.mod.boot.agreed = false → s.ul.optActivate = false → s.mod.boot.noImage = false → splitAsked s = false → isPair s = false →
    2 ≤ ((aliveLanes s).filter fun l => (s.lanes.get l).checked).length →
    (∀ l ∈ aliveLanes s, ∃ b y, activeBank (s.lanes.get l).mram = some b ∧
      verify l (s.lanes.get l).sw false (bankBytes b) = .ok y ∧ y.crc64 = c) →
  ∃ t, exec .bootYealmAgreed s = .next t ∧ t.mod.st = .boot ∧ t.mod.boot.agreed = true ∧ t.mod.boot.noImage = false ∧
    t.mod.ycrc = c ∧ t.peer.held = true ∧ t.peer.epoch = epochAfter (epochKnown s) ∧ t.ul.leaseRun = true ∧
    (∀ l ∈ aliveLanes s, (t.lanes.get l).yealm.map Yealm.crc64 = some c ∧ (t.lanes.get l).role = (s.lanes.get l).role ∧
      (t.lanes.get l).region = (s.lanes.get l).region)) ∧
  (∀ s : State, hubUp s = true → indicateReady s = true → ringsStarted s = true →
  ∃ t, exec .ringStartComplete s = .next t ∧ t.mod.st = .indicate ∧ t.mod.boot = { s.mod.boot with ringsUp := true } ∧
    t.ul.healthy = false ∧ Frame [.healthy, .mode, .module, .lanes, .host] s t) ∧
  (∀ s : State, hubUp s = true → s.mod.st = .indicate → s.mod.boot.b = none →
    s.cyc.k.toNat % cyclesPer100 s = 0 → ∃ t, exec .indicateGather s = .next t ∧ t.cyc = { s.cyc with gather := true } ∧
      Frame [.time, .supply, .cyc, .rings, .peer] s t)

/-- R171, R176: where a condition of the warm restart fails, the lanes restart cold: every ready lane's region is initialised, no
snapshot stands, the first one is due, and the age of the outage is known again.
R179: once the timer of a locked area has run down, the area is no longer locked; the working lanes' pending region says so. -/
def Obligations.RestartColdAndLocked : Prop :=
  (∀ s : State, hubUp s = true → s.mod.st = .indicate → s.mod.boot.agreed = true → s.mod.boot.decided = none →
    warmOf s = none → ∃ t, exec .restartDecision s = .next t ∧ t.mod.boot.decided = some false ∧ t.mod.st = .indicate ∧
      t.mod.snapDue = true ∧ t.cyc.done = 0 ∧ t.time.supLost = false ∧
      (∀ l ∈ readyLanes s, t.mod.boot.recov.get l = true) ∧
      (∀ l ∈ aliveLanes s, ∀ sn, ((t.lanes.get l).mram.snaps.a = some sn ∨ (t.lanes.get l).mram.snaps.b = some sn) → sn.complete = false) ∧
      Frame [.time, .module, .cyc, .lanes, .agr, .host, .gut] s t) ∧
  (∀ (s : State) (a : Nat), isActive s = true → a < 16 → areaLocked (lead s).work a = true →
    areaExpiry (lead s).work a ≤ s.cyc.k.toNat → ∃ t, exec (.restartLockExpiry a) s = .next t ∧
      (∀ l ∈ working s, (t.lanes.get l).work = areaSet (s.lanes.get l).work a false timerIdle) ∧
      (∀ l, { t.lanes.get l with work := [] } = { s.lanes.get l with work := [] }) ∧ Frame [.lanes] s t)

/-- R390: with three lanes ready that hold alike regions, three of them take COPY and the other ready lanes rest; the present
cycle is b. With fewer, LANES_INSUFFICIENT is raised once. -/
def Obligations.BootShadowRoles : Prop := ∀ s : State, hubUp s = true → s.mod.st = .indicate → s.mod.boot.decided.isSome = true →
    s.mod.boot.b = none → s.ul.orderly = none →
  (3 ≤ (bootLanes s).length → (chosenDigest s).isSome = true → s.mod.boot.started = true → ∃ t, exec .bootShadowStart s = .next t ∧
    t.mod.boot.b = some s.cyc.k ∧ (∀ l ∈ chosenLanes s, (t.lanes.get l).role = .copy) ∧
    (∀ l ∈ readyLanes s, l ∉ chosenLanes s → (t.lanes.get l).role = .resting) ∧
    (∀ l, l ∉ chosenLanes s → l ∉ readyLanes s → noInds (t.lanes.get l) = noInds (s.lanes.get l)) ∧ t.cyc.k = s.cyc.k ∧
    Frame [.module, .cyc, .lanes, .agr, .host] s t) ∧
  ((bootLanes s).length < 3 → s.mod.boot.insuff = false → ∃ t, exec .bootShadowStart s = .next t ∧
    t.mod = { s.mod with boot := { s.mod.boot with insuff := true } } ∧ Frame [.module, .gut] s t)

/-- R391, R392: the shutdown enters SAFE STOP with nothing driven and starts the shutdown pass of every lane that is not retired
and of the hub; once every pass has ended each of them writes its start-up record.
R15, R479: when the hub's watchdog expires, or its junction overheats, every lane that is not retired writes HUB_WATCHDOG into
its black box and a module in service enters SAFE STOP with nothing driven and the lease not held; an overheated hub is held in
reset besides. An overheated lane that votes withholds its next ballot. -/
def Obligations.ShutdownAndHubFailure : Prop :=
  (∀ s : State, hubUp s = true →
  (s.ul.orderly = some .shutdown → (s.ul.stopAt = true ∨ s.mod.st = .indicate ∨ s.mod.st = .safeStop ∨ s.mod.st = .split) →
    s.mod.st ≠ .boot → ∃ t, exec .shutdownBegin s = .next t ∧ t.mod.st = .safeStop ∧ t.mod.shutPass = true ∧
      (t.mod.shutSplit = true ↔ (s.mod.shutSplit = true ∨ s.mod.st = .split)) ∧ t.ul.orderly = none ∧ t.ul.stopAt = false ∧ t.peer.held = false ∧
      t.hub.pass = some .shutdown ∧ t.cyc.opened = false ∧
      (∀ l, ((s.lanes.get l).role ≠ .retired → (t.lanes.get l).bist.pass = some .shutdown) ∧ (t.lanes.get l).drive = [] ∧
        (t.lanes.get l).driveE = 0 ∧ (t.lanes.get l).driveG = 0) ∧
      Frame [.supply, .healthy, .mode, .module, .cyc, .lanes, .host, .peer, .gut, .hub] s t) ∧
  (s.mod.shutPass = true → s.hub.pass = none → (∀ l ∈ aliveLanes s, (s.lanes.get l).bist.pass = none) →
    ∃ t, exec .shutdownDone s = .next t ∧ t.mod = { s.mod with shutPass := false, shutDone := true } ∧
      (∀ l ∈ aliveLanes s, (bootCur (t.lanes.get l).mram).start = some (newStart s l (s.lanes.get l))) ∧
      (∀ l, { t.lanes.get l with mram := Mram.blank, record := false } = { s.lanes.get l with mram := Mram.blank, record := false }) ∧
      Frame [.module, .lanes, .host, .gut] s t)) ∧
  (∀ s : State,
    (s.mod.st.runs = true ∨ s.mod.st = .standby ∨ s.mod.st = .indicate) →
  (s.ul.wdog = false → ∃ t, exec .hubWatchdog s = .next t ∧ t.mod.st = .safeStop ∧ t.ul.wdog = true ∧ t.ul.healthy = false ∧
    t.peer.held = false ∧ t.cyc.opened = false ∧
    (∀ l, (t.lanes.get l).drive = [] ∧ (t.lanes.get l).driveE = 0 ∧ (t.lanes.get l).driveG = 0) ∧
    (∀ l, (s.lanes.get l).role ≠ .retired → ∃ r, (t.lanes.get l).mram.blackbox.getLast? = some r ∧ r.code = 0x0105) ∧
    Frame [.supply, .healthy, .mode, .module, .cyc, .lanes, .host, .peer] s t) ∧
  (hubUp s = true → ∃ t, exec (.junctionOvertemp .hub) s = .next t ∧ t.mod.st = .safeStop ∧ t.ul.wdog = true ∧ t.ul.hubHeld = true ∧
    t.peer.held = false ∧ Frame [.supply, .healthy, .mode, .module, .cyc, .lanes, .host, .peer] s t) ∧
  (hubUp s = true → ∀ l, (s.lanes.get l).role = .voting → ∃ t, exec (.junctionOvertemp (.lane l)) s = .next t ∧
    t.lanes.get l = { s.lanes.get l with withhold := true } ∧ (∀ m, m ≠ l → t.lanes.get m = s.lanes.get m) ∧ Frame [.lanes] s t))

/-! ### The vital cycle (R29 to R76, R82 to R109) -/

/-- The key patterns that the reporting counted lanes sampled (R84, R386). -/
def Sys2Proof.Machine.keyReads (noReport : Quad Bool) (s : State) : List (BitVec 6) :=
  (((counted s).filter fun l => !noReport.get l).filter fun l => (s.lanes.get l).live).map fun l => (s.lanes.get l).key

/-- R29, R31: the common instant opens the cycle with the next number one period after the last, nothing of it done yet.
R95, R74: a SAFE STOP decided in a cycle takes effect at the next common instant: nothing is driven, no cycle opens, HEALTHY
opens, the lease is not held. -/
def Obligations.CycleOpensOrStops : Prop :=
  (∀ smp strobe (s : State), hubUp s = true →
  ∃ t, exec (.commonInstant smp strobe) s = .next t ∧ t.cyc.k = s.cyc.k + 1 ∧
    t.time.ckNs = s.time.ckNs + BitVec.ofNat 64 (periodMs s * 1000000) ∧
    t.cyc.closed = false ∧ t.cyc.agreedIn = false ∧ t.cyc.voting = false ∧ t.cyc.voted = false ∧ t.cyc.missed = false ∧
    t.cyc.sent = false ∧ t.cyc.pushed = false ∧ (∀ l, t.cyc.ballots.get l = none ∧ t.cyc.toExcl.get l = none) ∧
    (∀ l, (t.lanes.get l).taken = []) ∧ t.agr.accepted = [] ∧ (t.mod.st ≠ .standby → t.agr.shown = []) ∧
    (t.mod.st = .standby → t.agr.shown = s.agr.shown)) ∧
  (∀ smp strobe (s : State), hubUp s = true → s.cyc.stopNext = true →
    (s.mod.st.runs = true ∨ s.mod.st = .indicate ∨ s.mod.st = .standby ∨ s.mod.st = .boot) →
  ∃ t, exec (.commonInstant smp strobe) s = .next t ∧ t.mod.st = .safeStop ∧ t.ul.healthy = false ∧ t.cyc.opened = false ∧
    t.peer.held = false ∧ (∀ l, (t.lanes.get l).drive = [] ∧ (t.lanes.get l).driveE = 0 ∧ (t.lanes.get l).driveG = 0))

/-- R31, R36, R38, R84, R87, R379: at input close every section of the cycle that a lane's ring queues hold is in its image buffers; at
input agreement the cycle number is the one that two lanes keep, the key pattern is the one that two lanes read alike, or counts as not
agreed, and its run goes on or begins anew; neither happens twice in a cycle.
R32, R67, R93: the ballot of the running cycle that arrives first from a lane is taken as the lane formed it; one of another
cycle is discarded. -/
def Obligations.InputsAndBallotsTaken : Prop :=
  (∀ s : State, hubUp s = true →
  (s.cyc.closed = false → ∃ t, exec .inputClose s = .next t ∧ t.cyc = { s.cyc with closed := true } ∧
    (∀ l r, ((t.lanes.get l).ringIn.get r).items = [] ∧
      ∀ w ∈ ((s.lanes.get l).ringIn.get r).items, ofCycle s.cyc.k w = true → w ∈ (t.lanes.get l).ringBuf) ∧
    (∀ l, { t.lanes.get l with ringBuf := [], ringIn := Quad.fill ⟨[], 0⟩ } =
      { s.lanes.get l with ringBuf := [], ringIn := Quad.fill ⟨[], 0⟩ }) ∧
    (∀ l, t.rings.hand.get l = []) ∧ t.agr = { s.agr with nodes := t.agr.nodes } ∧
    Frame [.time, .supply, .cyc, .lanes, .agr, .rings, .gut] s t) ∧
  (s.cyc.closed = true → exec .inputClose s = .next s) ∧
  (s.cyc.agreedIn = false → ∀ noReport fetchBad offer, ∃ t, exec (.inputAgreement noReport fetchBad offer) s = .next t ∧
    t.cyc.agreedIn = true ∧ t.cyc.closed = true ∧ t.mod = s.mod ∧
    t.cyc.k = (agree2 (((counted s).filter fun l => !noReport.get l).map fun l => (s.lanes.get l).k)).getD s.cyc.k ∧
    t.ctl.agreed = (agree2 (keyReads noReport s)).isSome ∧
    (∀ v, agree2 (keyReads noReport s) = some v → t.ctl.contacts = v) ∧
    (agree2 (keyReads noReport s) = none → t.ctl.contacts = s.ctl.contacts) ∧
    t.ctl.keyRun = (if keyPattern t.ctl.agreed t.ctl.contacts = keyPattern s.ctl.agreed s.ctl.contacts then s.ctl.keyRun + 1 else 1) ∧
    Frame [.time, .supply, .ctl, .cyc, .lanes, .agr, .host, .peer, .gut] s t) ∧
  (s.cyc.agreedIn = true → ∀ noReport fetchBad offer, exec (.inputAgreement noReport fetchBad offer) s = .next s)) ∧
  (∀ (s : State) (src : Lane), hubUp s = true → s.cyc.opened = true →
  (∀ b, (s.lanes.get src).ballot = some b → s.cyc.voted = false → s.cyc.missed = false → s.cyc.ballots.get src = none →
    ∃ t, exec (.ballotArrival src s.cyc.k) s = .next t ∧ t.cyc.ballots.get src = some b ∧
      (∀ l, l ≠ src → t.cyc.ballots.get l = s.cyc.ballots.get l) ∧ t.lanes.get src = s.lanes.get src ∧
      (∀ l, { t.lanes.get l with purlin := Quad.fill ⟨[], 0⟩ } = { s.lanes.get l with purlin := Quad.fill ⟨[], 0⟩ }) ∧
      t.cyc = { s.cyc with ballots := t.cyc.ballots } ∧ Frame [.cyc, .lanes] s t) ∧
  (∀ k, k ≠ s.cyc.k → ∃ t, exec (.ballotArrival src k) s = .next t ∧ Frame [.gut] s t))

/-- R51, R57, R125, R43: the end of a task takes it from the lane's list and lays what it published over what stood; the end of an
evaluation gives the lane its permits; at the vote deadline an evaluation that has not ended counts as late. A standby's lanes end the
tasks and evaluations of a mirrored cycle in the same way (R340). -/
def Obligations.TasksAndEvaluationEnd : Prop := ∀ (s : State) (lanes : Quad Bool), inWindow s = true ∨ inShadow s = true →
  (∀ y task e us r, theYealm s = some y → taskEnt y task = some e → ∃ t, exec (.taskEnd lanes task us r) s = .next t ∧
    (∀ l ∈ taskLanes s lanes task, (t.lanes.get l).todo = (s.lanes.get l).todo.drop 1 ∧
      (t.lanes.get l).pubNew = mergePub (s.lanes.get l).pubNew (r.outs.filter fun o => isOutput y o.ref) ∧
      (t.lanes.get l).log = (s.lanes.get l).log ++
        (r.writes.filter (writeAllowed y task)).map (storedWrite y (atCycle s).cyc.k.toNat) ∧
      (t.lanes.get l).region = (s.lanes.get l).region ∧ (t.lanes.get l).drive = (s.lanes.get l).drive) ∧
    (∀ l, l ∉ taskLanes s lanes task → (t.lanes.get l).todo = (s.lanes.get l).todo ∧ (t.lanes.get l).pubNew = (s.lanes.get l).pubNew ∧
      (t.lanes.get l).log = (s.lanes.get l).log ∧ (t.lanes.get l).region = (s.lanes.get l).region) ∧ Frame [.lanes, .gut] s t) ∧
  (∀ us, ∃ t, exec (.trussEvaluationComplete lanes us) s = .next t ∧
    (∀ l y, l ∈ working s → lanes.get l = true → (s.lanes.get l).truss.done = false → (s.lanes.get l).stopped = false →
      (s.lanes.get l).yealm = some y → (t.lanes.get l).truss = trussEval (trussIn (atCycle s) y (s.lanes.get l))) ∧
    (∀ l, l ∉ working s → (t.lanes.get l).truss = (s.lanes.get l).truss) ∧ Frame [.lanes] s t) ∧
  (inWindow s = true → ∃ t, exec .voteDeadline s = .next t ∧ t.cyc = { s.cyc with voting := true } ∧
    (∀ l ∈ working s, (t.lanes.get l).truss.late = ((s.lanes.get l).truss.late || !(s.lanes.get l).truss.done) ∧
      (t.lanes.get l).truss.permits = (s.lanes.get l).truss.permits ∧
      ((s.lanes.get l).todo ≠ [] → (t.lanes.get l).ballot = (s.lanes.get l).ballot)) ∧
    Frame [.time, .supply, .cyc, .lanes] s t)

/-- R93: drive(bit) = own(bit) and maj(bit): no lane drives an Eaves bit or a group master that its own ballot or the majority
withholds, and in TEST it drives none; a lane that does not vote drives nothing.
R93: three publishers that differ pairwise in their digests, or two that differ, reach no majority: the cycle is missed with SAFE
STOP at the next instant, and a third voter whose ballot is not there is excluded for it. Two equal digests of three carry the vote, and
the third lane is to be excluded. -/
def Obligations.MajorityAndDrive : Prop :=
  (∀ (s : State) (y : Yealm) (maj : Majority) (b : Ballot) (x : LaneSt),
  ((setDrive s y maj b x).driveE &&& ~~~(b.eaves &&& maj.eaves) = 0) ∧
  ((setDrive s y maj b x).driveG &&& ~~~(b.gm &&& maj.gm) = 0) ∧
  (∀ o ∈ (setDrive s y maj b x).drive, o.cmd = true → ∃ (i : Nat) (p q : OutCmd), b.outs[i]? = some p ∧ maj.outs[i]? = some q ∧
    p.ref = o.ref ∧ p.cmd = true ∧ q.cmd = true) ∧
  ((inTest s = true ∨ s.mod.st.runs = false ∨ x.role ≠ .voting) →
    (setDrive s y maj b x).drive = [] ∧ (setDrive s y maj b x).driveE = 0 ∧ (setDrive s y maj b x).driveG = 0) ∧
  (setDrive s y maj b x).dcycle = s.cyc.k + 1) ∧
  (∀ (s : State),
  (∀ p q r, publishers s = [p, q, r] → (voters s).length = 3 → p.2.digest ≠ q.2.digest → q.2.digest ≠ r.2.digest →
    p.2.digest ≠ r.2.digest → takeVote s = .missed true []) ∧
  (∀ p q, publishers s = [p, q] → p.2.digest ≠ q.2.digest →
    takeVote s = .missed true ((silentVoters s).map fun l => (l, .fabric, []))) ∧
  (∀ p q r, publishers s = [p, q, r] → (voters s).length = 3 → q.2 = p.2 → r.2 ≠ p.2 → r.2.outs.map OutCmd.ref = p.2.outs.map OutCmd.ref →
    r.2.k = p.2.k → r.2.shadow = p.2.shadow →
    ∃ maj c m, takeVote s = .completed maj [(r.1, c, m)] ∧ maj.digest = p.2.digest ∧ maj.eaves = p.2.eaves ∧ maj.gm = p.2.gm))

/-- R67 to R72, R93: a vote that reaches a majority completes its cycle and ends the run of misses; one that does not is missed and
counted; the third miss in a row of a module that runs the vital cycle is SAFE STOP at once. The limit ends the vote with what
has arrived. -/
def Obligations.VoteEnds : Prop := ∀ s : State, voteOpen s = true → s.cyc.barred = false →
  (∀ c, (c = .ridgeVote ∧ allArrived s = true) ∨ c = .voteCompleteLimit →
    (∀ maj out, takeVote s = .completed maj out → ∃ t, exec c s = .next t ∧ t.cyc.voted = true ∧ t.cyc.missed = false ∧
      t.cyc.misses = 0 ∧ t.cyc.majDigest = maj.digest ∧ t.cyc.summary = maj.summary ∧ t.cyc.k = s.cyc.k ∧ t.mod.st = s.mod.st) ∧
    (∀ stop out, takeVote s = .missed stop out → ∃ t, exec c s = .next t ∧ t.cyc.voted = false ∧ t.cyc.missed = true ∧
      t.cyc.misses = s.cyc.misses + 1 ∧ t.cyc.majDigest = s.cyc.majDigest ∧ t.cyc.k = s.cyc.k ∧
      (∀ l ∈ working s, (t.lanes.get l).region = (s.lanes.get l).region ∧ (t.lanes.get l).digest = (s.lanes.get l).digest ∧
        (t.lanes.get l).log = []) ∧
      (s.mod.st.runs = true → s.cyc.misses < 2 → t.mod.st = s.mod.st ∧ t.cyc.stopNext = (s.cyc.stopNext || stop)) ∧
      (s.mod.st.runs = true → 2 ≤ s.cyc.misses → t.mod.st = .safeStop)))

/-- R24, R44, R27, R65: at the set-queue push the voting lanes' S sections enter the set queues as credits allow; of a section that
two counted lanes hold alike one copy goes on to the ring; what the hub reports as written is the oldest. -/
def Obligations.SectionsForwarded : Prop := ∀ s : State, hubUp s = true →
  (s.cyc.voted = true → s.cyc.pushed = false → ∃ t, exec .setQueuePush s = .next t ∧ t.cyc = { s.cyc with pushed := true } ∧
    (∀ l r, (s.lanes.get l).role = .voting →
      ((t.lanes.get l).setq.get r).items ++ (t.lanes.get l).sImage.get r =
        ((s.lanes.get l).setq.get r).items ++ (s.lanes.get l).sImage.get r) ∧
    (∀ l, (s.lanes.get l).role ≠ .voting → t.lanes.get l = s.lanes.get l) ∧ Frame [.time, .supply, .cyc, .lanes] s t) ∧
  (∀ r pos i, agree2 (fronts s ((counted s).filter fun l => match ((s.lanes.get l).setq.get r.slot).items.head? with
      | some i => i.pos == pos | none => false) fun x => (x.setq.get r.slot).items) = some i →
    ∃ t, exec (.hubForwardItem (.sect r pos)) s = .next t ∧ t.rings.fwd.get r.slot = s.rings.fwd.get r.slot ++ [i] ∧
      Frame [.lanes, .rings] s t) ∧
  (∀ i rest, s.host.cplRep = [] → s.host.indRep = i :: rest → ∃ t, exec .completionDelivered s = .next t ∧
    t.host = { s.host with indRep := rest } ∧ (∀ l, ((s.lanes.get l).role = .voting ∨ (s.lanes.get l).role = .shadow) →
      t.lanes.get l = { s.lanes.get l with sentInds := (s.lanes.get l).sentInds.erase i }) ∧ Frame [.lanes, .host] s t) ∧
  (∀ c rest, s.host.cplRep = c :: rest → c.asn ≠ 0 → c.status ≠ 1 → ∃ t, exec .completionDelivered s = .next t ∧
    t.host = { s.host with cplRep := rest } ∧ (∀ l, ((s.lanes.get l).role = .voting ∨ (s.lanes.get l).role = .shadow) →
      t.lanes.get l = { s.lanes.get l with work := deliverTerm (s.lanes.get l).work c.asn.toNat }) ∧ Frame [.lanes, .host] s t)

/-- R17: a credit that returns on a queue lets what waited for it follow; on the command intake the lane takes the front descriptor
and the oldest waiting one takes its slot (one of another cycle is discarded, R32); the mirror class sends its oldest message where
the other module has the room; the messages of the lease queue leave from the front. -/
def Obligations.CreditsReturn : Prop := ∀ (s : State), hubUp s = true →
  (∀ l d rest, (s.lanes.get l).cmdIn.items = d :: rest → s.host.cmdHand.get l = [] →
    ∃ t, exec (.creditReturn (.commandIntake l)) s = .next t ∧
      (t.lanes.get l).cmdBuf = (s.lanes.get l).cmdBuf ++ (if d.cycle = s.cyc.k then [d.desc] else []) ∧
      (t.lanes.get l).cmdIn = ⟨rest, (s.lanes.get l).cmdIn.credits + 1⟩ ∧ (∀ m, m ≠ l → t.lanes.get m = s.lanes.get m) ∧
      (d.cycle = s.cyc.k → t.gut = s.gut) ∧ Frame [.lanes, .gut] s t) ∧
  (∀ l d rest e w, (s.lanes.get l).cmdIn.items = d :: rest → s.host.cmdHand.get l = e :: w →
    ∃ t, exec (.creditReturn (.commandIntake l)) s = .next t ∧
      (t.lanes.get l).cmdBuf = (s.lanes.get l).cmdBuf ++ (if d.cycle = s.cyc.k then [d.desc] else []) ∧
      (t.lanes.get l).cmdIn = ⟨rest ++ [⟨s.cyc.k, e⟩], (s.lanes.get l).cmdIn.credits⟩ ∧ t.host.cmdHand.get l = w ∧
      (d.cycle = s.cyc.k → t.gut = s.gut) ∧ Frame [.lanes, .host, .gut] s t) ∧
  (∀ m rest link, s.peer.mirrorQ.items = m :: rest → mirrorLink s = some link → blocksOf m.pay.length ≤ s.peer.crMirror →
    ∃ t, exec (.creditReturn .mirror) s = .next t ∧
      (s.peer.mirrorWait = [] → t.peer.mirrorQ = ⟨rest, s.peer.mirrorQ.credits + blocksOf m.pay.length⟩) ∧
      t.peer.mirrorSent = peerMsg s (if m.relay then ptRelay else ptMirror) link (s.peer.seqMirror + 1) m.cycle.toNat m.pay ∧
      t.peer.seqMirror = s.peer.seqMirror + 1 ∧ t.peer.crMirror + blocksOf m.pay.length = s.peer.crMirror ∧
      t.peer.mirrorTurn = otherLink link ∧ Frame [.peer] s t) ∧
  (exec (.creditReturn (.lease true)) s = .next { s with peer := { s.peer with leaseOut := s.peer.leaseOut.drop 1 } })

/-! ### The lanes: MRAM, self-test, errors, copies, debug (R45, R48, R61 to R63, R79, R90, R96 to R115, R139, R168 to R170, R394 to R408) -/

/-- R45, R168, R169, R170, R416: the front of a lane's MRAM write queue is written: a group stands closed at the end of the journal,
a black box record in its slot; a snapshot that ends is complete with the live region; a lane's waiting alarms enter its write
queue within the cycle's 64 and its credits. -/
def Obligations.MramWritesLand : Prop := ∀ (s : State) (l : Lane), hubUp s = true → (s.lanes.get l).role ≠ .retired →
  (∀ g rest, (s.lanes.get l).mramq.items = .group g :: rest → (s.lanes.get l).jWait = [] →
    sumOf (((s.lanes.get l).mram.journal ++ [{ g with closed := true }]).map groupSize) ≤ journalBytes →
    ∃ t, exec (.mramWriteComplete l) s = .next t ∧
      t.lanes.get l = { s.lanes.get l with
        mramq := ⟨rest, (s.lanes.get l).mramq.credits + 1⟩, written := g.cycle, late := false,
        mram := { (s.lanes.get l).mram with journal := (s.lanes.get l).mram.journal ++ [{ g with closed := true }],
                                            jPos := (s.lanes.get l).mram.jPos % journalBytes } } ∧
      (∀ m, m ≠ l → t.lanes.get m = s.lanes.get m) ∧ Frame [.lanes] s t) ∧
  (∀ r rest, (s.lanes.get l).mramq.items = .blackbox r :: rest → (s.lanes.get l).jWait = [] →
    ∃ t, exec (.mramWriteComplete l) s = .next t ∧
      (t.lanes.get l).mram.blackbox.getLast? = some { r with seq := BitVec.ofNat 32 (bootCur (s.lanes.get l).mram).bbIndex } ∧
      (bootCur (t.lanes.get l).mram).bbIndex = (bootCur (s.lanes.get l).mram).bbIndex + 1 ∧
      (t.lanes.get l).mram.blackbox.length ≤ 4096 ∧ (t.lanes.get l).mramq = ⟨rest, (s.lanes.get l).mramq.credits + 1⟩ ∧
      (∀ m, m ≠ l → t.lanes.get m = s.lanes.get m) ∧ Frame [.lanes] s t) ∧
  (∀ c p sn, (s.lanes.get l).snapRun = some (c, p) → (s.lanes.get l).mram.snaps.get p = some sn →
    ∃ t, exec (.snapshotComplete l) s = .next t ∧ (t.lanes.get l).snapRun = none ∧ (t.lanes.get l).mram.wrap = false ∧
      (t.lanes.get l).mram.snaps.get p =
        some { sn with complete := true, s := c, lastCyc := s.cyc.k, content := (s.lanes.get l).region,
                       crc := crc32c (memRead (s.lanes.get l).region 0 sn.size) } ∧
      (∀ q, q ≠ p → (t.lanes.get l).mram.snaps.get q = (s.lanes.get l).mram.snaps.get q) ∧
      (∀ m, m ≠ l → t.lanes.get m = s.lanes.get m) ∧ Frame [.lanes] s t) ∧
  ((s.lanes.get l).stopped = false → (s.lanes.get l).bbCount ≤ 64 → ∃ t n, exec (.blackboxWrite l) s = .next t ∧
    n ≤ 64 - (s.lanes.get l).bbCount ∧ n ≤ (s.lanes.get l).mramq.credits ∧
    (t.lanes.get l).mramq.items = (s.lanes.get l).mramq.items ++ ((s.lanes.get l).bbWait.take n).map MWrite.blackbox ∧
    (t.lanes.get l).bbWait = (s.lanes.get l).bbWait.drop n ∧ (t.lanes.get l).bbCount ≤ 64 ∧
    (t.lanes.get l).mram = (s.lanes.get l).mram ∧ (∀ m, m ≠ l → t.lanes.get m = s.lanes.get m) ∧ Frame [.lanes] s t)

/-- R61 to R63, R46 to R48: the diagnostic task is released every 100 ms, with the shared image of that cycle in every counted lane (which
of each 100 ms' cycles it is, is the model's choice, log entry 81), and ends between the vote and its limit; it changes nothing of a
lane but its indications and that image. A lane without work sleeps; its timer wakes it. -/
def Obligations.DiagnosticChangesNothingVital : Prop := ∀ s : State, hubUp s = true →
  ((s.mod.st.runs = true ∨ s.mod.st = .indicate) → s.cyc.k.toNat % cyclesPer100 s = 0 →
    ∃ t, exec .diagnosticRelease s = .next t ∧ t.cyc = { s.cyc with diagRun := true } ∧
      (∀ l ∈ counted s, (t.lanes.get l).diagSnap = some (taskSnap s (s.lanes.get l) 0)) ∧
      (∀ l, { t.lanes.get l with diagSnap := none } = { s.lanes.get l with diagSnap := none }) ∧ Frame [.cyc, .lanes, .gut] s t) ∧
  (s.cyc.diagRun = true → diagTime s = true → ∀ lanes inds tr, ∃ t, exec (.diagnosticEnd lanes inds tr) s = .next t ∧
    t.cyc = { s.cyc with diagRun := false } ∧ (∀ l, noInds (t.lanes.get l) = noInds { s.lanes.get l with diagSnap := none }) ∧
    Frame [.cyc, .lanes, .gut] s t) ∧
  (∃ t, exec .diagnosticLimit s = .next t ∧ t.cyc = { s.cyc with diagLim := true } ∧ Frame [.time, .supply, .cyc] s t) ∧
  (∀ l, laneIdle s (s.lanes.get l) = true → ∃ t, exec (.laneSleep l) s = .next t ∧
    t.lanes.get l = { s.lanes.get l with clocksOn := false } ∧ (∀ m, m ≠ l → t.lanes.get m = s.lanes.get m) ∧ Frame [.lanes] s t) ∧
  (∀ l, (s.lanes.get l).stopped = false → ∃ t, exec (.laneWake l) s = .next t ∧
    t.lanes.get l = { s.lanes.get l with clocksOn := true } ∧ (∀ m, m ≠ l → t.lanes.get m = s.lanes.get m) ∧
    Frame [.time, .supply, .lanes] s t)

/-- R79, R96, R113 to R115: a lockstep mismatch stops its lane at once, gates its clocks, silences its Batten transmitter and writes
LOCKSTEP_MISMATCH into its own black box; the other lanes that see the STOP flit decide its exclusion; a stopped lane sends no L
frame. A debug halt is taken in TEST, or of a resting lane in MAINT, and in RUN it is not; a released lane goes through EXCLUDED,
where its blocks are re-initialised and the injection set follows. -/
def Obligations.LockstepAndDebugStop : Prop := ∀ (s : State) (l : Lane), hubUp s = true →
  (lockstepLive s (s.lanes.get l) = true → ∀ clk, ∃ t, exec (.lockstepMismatch l clk) s = .next t ∧ (t.lanes.get l).stopped = true ∧
    (t.lanes.get l).clocksOn = false ∧ (t.lanes.get l).txBuf = [] ∧ (t.lanes.get l).role = (s.lanes.get l).role ∧
    (∃ r, (t.lanes.get l).mram.blackbox.getLast? = some r ∧ r.code = 0x0201) ∧
    (∀ m, m ≠ l → (t.lanes.get m).purlin.get l = ((s.lanes.get m).purlin.get l).send ⟨s.cyc.k, .stop⟩ ∧
      { t.lanes.get m with purlin := Quad.fill ⟨[], 0⟩ } = { s.lanes.get m with purlin := Quad.fill ⟨[], 0⟩ }) ∧ Frame [.lanes] s t) ∧
  ((s.lanes.get l).stopped = true → exec (.lFrameSend l) s = .next s) ∧
  ((s.lanes.get l).stopped = true → s.cyc.stops.get l = false → s.cyc.toExcl.get l = none →
    ∃ t, exec (.stopFlit l) s = .next t ∧ t.cyc.toExcl.get l = some .lockstep ∧ t.cyc.stops.get l = true ∧
      (∀ m, m ≠ l → t.cyc.toExcl.get m = s.cyc.toExcl.get m) ∧ Frame [.cyc, .lanes, .gut] s t) ∧
  ((s.lanes.get l).role.healthy = true → (s.lanes.get l).haltReq = false →
      (keyForCommands s = some .test ∨ (keyForCommands s = some .maint ∧ (s.lanes.get l).role = .resting)) →
    ∃ t, exec (.debugHalt l) s = .next t ∧ (t.lanes.get l).haltReq = true ∧ (t.lanes.get l).clocksOn = false ∧
      (t.lanes.get l).bist.running = false ∧ (∀ m, m ≠ l → t.lanes.get m = s.lanes.get m) ∧ Frame [.lanes] s t) ∧
  (keyForCommands s = some .run → exec (.debugHalt l) s = .next s) ∧
  ((s.lanes.get l).role = .halted → ∃ t, exec (.debugRelease l) s = .next t ∧ (t.lanes.get l).role = .excluded ∧
    (t.lanes.get l).inReset = true ∧ (t.lanes.get l).bist.pass = some .inject ∧ (t.lanes.get l).bist.slice = 780 ∧
    (t.lanes.get l).bist.reinit = true ∧
    (t.lanes.get l).excl = (s.lanes.get l).excl ∧ (∀ m, m ≠ l → t.lanes.get m = s.lanes.get m) ∧ Frame [.lanes] s t)

/-- R394 to R399: a slice of a running pass starts; without a finding its block is then re-initialised and the next slice follows; a
slice over its time or with a wrong pattern in the injection set retires the lane. The hub's slices follow one another. -/
def Obligations.SlicesRunInOrder : Prop := ∀ (s : State), hubUp s = true →
  (∀ l p, (s.lanes.get l).bist.pass = some p → (s.lanes.get l).bist.running = false → (s.lanes.get l).bist.reinit = false →
    (s.lanes.get l).role ≠ .retired → s.cyc.rejoiner ≠ some l → needsPeers (s.lanes.get l).bist.slice = false →
    ∃ t, exec (.bistSliceStart (.lane l)) s = .next t ∧
      t.lanes.get l = { s.lanes.get l with bist := { (s.lanes.get l).bist with running := true } } ∧
      (∀ m, m ≠ l → t.lanes.get m = s.lanes.get m) ∧ Frame [.lanes] s t) ∧
  (∀ l r, (s.lanes.get l).bist.running = true → (s.lanes.get l).bist.slice < 799 → (s.lanes.get l).bist.suspect = [] →
    r.matched = true → r.elapsedUs ≤ sliceBudget (s.lanes.get l).bist.slice → r.rows = [] → r.cols = [] → r.sectors = [] →
    injectPassed s (s.lanes.get l).bist.slice = true → ∃ t, exec (.bistSliceEnd (.lane l) r) s = .next t ∧
      t.lanes.get l = { injectTaken (s.lanes.get l) with bist := { (s.lanes.get l).bist with
        running := false, reinit := true, slice := (s.lanes.get l).bist.slice + 1 } } ∧
      (∀ m, m ≠ l → t.lanes.get m = s.lanes.get m) ∧ Frame [.lanes] s t) ∧
  (∀ l r, (s.lanes.get l).bist.running = true → 780 ≤ (s.lanes.get l).bist.slice →
    (r.matched = false ∨ 50000 < r.elapsedUs) →
    ∃ t, exec (.bistSliceEnd (.lane l) r) s = .next t ∧ (t.lanes.get l).role = .retired ∧ (t.lanes.get l).drive = [] ∧
      (t.lanes.get l).driveE = 0 ∧ (t.lanes.get l).driveG = 0 ∧ (t.lanes.get l).retFuse = (s.lanes.get l).retFuse ∧
      t.cyc.toExcl.get l = none) ∧
  (∀ l, (s.lanes.get l).bist.reinit = true → ∃ t, exec (.blockReinitComplete l) s = .next t ∧ (t.lanes.get l).bist.reinit = false ∧
    (t.lanes.get l).bist = { (s.lanes.get l).bist with reinit := false } ∧ (∀ m, m ≠ l → t.lanes.get m = s.lanes.get m) ∧
    Frame [.lanes] s t) ∧
  (s.hub.pass.isSome = true → s.hub.running = false →
    exec (.bistSliceStart .hub) s = .next { s with hub := { s.hub with running := true } }) ∧
  (∀ r, s.hub.running = true → s.hub.slice < 47 → r.matched = true → r.elapsedUs ≤ 20000 → r.rows = [] → r.cols = [] →
    exec (.bistSliceEnd .hub r) s = .next { s with hub := { s.hub with running := false, slice := s.hub.slice + 1 } })

/-- R101, R103 to R107: rotation is due once its period of completed cycles has passed since the last join; the retained-state copy is
taken when both arrive alike with the majority digest and refused otherwise, so that a lane in COPY holds what the voting lanes
hold; a fetched yealm that fails its checks counts as a failed fetch. -/
def Obligations.CopiesAreChecked : Prop := ∀ (s : State) (l : Lane), hubUp s = true →
  (∀ y, theYealm s = some y → swOn s 18 = true → s.cyc.mode = .tooThree → rotationCycles y ≤ s.cyc.sinceJoin →
    exec .rotationDue s = .next { s with cyc := { s.cyc with rotDue := true } }) ∧
  (∀ a b y d1 d2, s.cyc.copyNow = true → (s.lanes.get l).role = .copy → (s.lanes.get l).copied = false → s.mod.boot.b = none →
      voting s = [a, b] → activeImage (s.lanes.get l).mram = some y →
    (applyWrites (s.lanes.get a).region d1 = applyWrites (s.lanes.get b).region d2 →
      digestWhole (regionWords y) (applyWrites (s.lanes.get a).region d1) = s.cyc.majDigest → y.crc64 = s.mod.ycrc →
      ∃ t, exec (.retainedStateCopyReceived l d1 d2) s = .next t ∧ (t.lanes.get l).copied = true ∧
        (t.lanes.get l).region = applyWrites (s.lanes.get a).region d1 ∧ (t.lanes.get l).digest = s.cyc.majDigest ∧
        (t.lanes.get l).yealm = some y ∧ (t.lanes.get l).role = .copy ∧
        (∀ m, m ≠ l → t.lanes.get m = s.lanes.get m) ∧ Frame [.cyc, .lanes] s t) ∧
    (applyWrites (s.lanes.get a).region d1 ≠ applyWrites (s.lanes.get b).region d2 →
      ∃ t, exec (.retainedStateCopyReceived l d1 d2) s = .next t ∧ (t.lanes.get l).copied = false ∧
        (t.lanes.get l).region = (s.lanes.get l).region ∧ (t.lanes.get l).copyFails = (s.lanes.get l).copyFails + 1 ∧
        Frame [.cyc, .lanes, .gut] s t)) ∧
  (∀ src b d, s.mod.boot.agreed = true → holdsActive s l = false → (s.lanes.get l).role ≠ .retired → fetchSource s l = some src →
      activeBank (s.lanes.get src).mram = some b →
      ((s.lanes.get l).mram.bank0.state ≠ .active ∨ (s.lanes.get l).mram.bank1.state ≠ .active) →
    (∀ y, verify l (s.lanes.get l).sw s.mod.boot.split
        (bankBytes { state := .active, mem := applyWrites b.mem d, size := b.size, img := none }) = .ok y → y.crc64 = s.mod.ycrc →
      ∃ t, exec (.yealmFetchComplete l d) s = .next t ∧ (t.lanes.get l).fetchFails = 0 ∧ holdsActive t l = true ∧
        (∀ m, m ≠ l → t.lanes.get m = s.lanes.get m) ∧ Frame [.lanes] s t) ∧
    (∀ n tt, verify l (s.lanes.get l).sw s.mod.boot.split
        (bankBytes { state := .active, mem := applyWrites b.mem d, size := b.size, img := none }) = .refused n tt →
      ∃ t, exec (.yealmFetchComplete l d) s = .next t ∧ (t.lanes.get l).fetchFails = (s.lanes.get l).fetchFails + 1 ∧
        Frame [.cyc, .lanes, .gut] s t))

/-- R90, R398, R404, R405, R406: a corrected SRAM error is counted against its row; an uncorrectable one makes a voting lane withhold
its next ballot; the digest is recomputed from the whole region; an MRAM sector that fails is remapped to the next spare, and a
corrected read only counts until the ninth of a day. -/
def Obligations.MemoryErrorsCounted : Prop := ∀ (s : State) (l : Lane), hubUp s = true →
  ((s.lanes.get l).role ≠ .retired → ∀ row, ∃ t, exec (.eccCorrected l row) s = .next t ∧
    (t.lanes.get l).bist.ecc = (s.lanes.get l).bist.ecc ++ [(row, s.time.supUs)] ∧
    (∀ r, r ≠ row → ((t.lanes.get l).bist.suspect.contains r = (s.lanes.get l).bist.suspect.contains r)) ∧
    (t.lanes.get l).mram = (s.lanes.get l).mram ∧ (∀ m, m ≠ l → t.lanes.get m = s.lanes.get m) ∧ Frame [.lanes] s t) ∧
  ((s.lanes.get l).role = .voting → ∃ t, exec (.eccUncorrectable l) s = .next t ∧
    t.lanes.get l = { s.lanes.get l with withhold := true } ∧ (∀ m, m ≠ l → t.lanes.get m = s.lanes.get m) ∧ Frame [.lanes] s t) ∧
  (s.cyc.done ≠ 0 → s.cyc.done % 100000 = 0 → (s.lanes.get l).role = .voting → ∀ bad, ∃ t, exec (.sramScrub l [] bad) s = .next t ∧
    t.lanes.get l = { s.lanes.get l with withhold := (s.lanes.get l).withhold || bad } ∧
    (∀ m, m ≠ l → t.lanes.get m = s.lanes.get m) ∧ Frame [.lanes] s t) ∧
  (s.cyc.done ≠ 0 → s.cyc.done % 1024 = 0 → (s.lanes.get l).role = .voting → ∃ t, exec (.digestRecompute l) s = .next t ∧
    t.lanes.get l = { s.lanes.get l with digest := digestWhole (laneWords (s.lanes.get l)) (s.lanes.get l).region } ∧
    (∀ m, m ≠ l → t.lanes.get m = s.lanes.get m) ∧ Frame [.lanes] s t) ∧
  (∀ bad, exec (.hubSramScrub bad) s = .next { s with hub := { s.hub with
    scrubs := s.hub.scrubs + 1, scrubBad := s.hub.scrubBad + ofFlag bad } }) ∧
  ((s.lanes.get l).role ≠ .retired → sectFree (s.lanes.get l).mram ≠ 0 → ∀ c sector,
      (c = .mramWriteFault l sector ∨ (c = .mramUncorrectableRead l sector ∧ 8 ≤ areaSector (s.lanes.get l).mram sector)) →
    ∃ t, exec c s = .next t ∧
      (bootCur (t.lanes.get l).mram).remaps = (bootCur (s.lanes.get l).mram).remaps ++
        [(sector, 3882 + (bootCur (s.lanes.get l).mram).remaps.length)] ∧
      (t.lanes.get l).record = false ∧ (t.lanes.get l).role = (s.lanes.get l).role ∧
      (∀ m, m ≠ l → t.lanes.get m = s.lanes.get m) ∧ Frame [.lanes, .gut] s t) ∧
  ((s.lanes.get l).role ≠ .retired → ∀ sector, corrCount s.time.supUs (s.lanes.get l).mram sector ≤ 7 →
    ∃ t, exec (.mramCorrectedRead l sector) s = .next t ∧
      (t.lanes.get l).mram = { (s.lanes.get l).mram with corr := (s.lanes.get l).mram.corr ++ [(sector, s.time.supUs)] } ∧
      (∀ m, m ≠ l → t.lanes.get m = s.lanes.get m) ∧ Frame [.lanes] s t)

/-- R85: once in 100 cycles the count of adopted decisions of every voting lane is reported and starts again at 0.
R139, R201: the Truss statistics of every voting lane, and the fault, conflict and late counts of every node, are reported and
start again at 0. -/
def Obligations.StatisticsRestart : Prop :=
  (∀ s : State, hubUp s = true → s.cyc.opened = true → s.cyc.k.toNat % 100 = 0 →
  ∃ t, exec .inputDiverge s = .next t ∧
    (∀ l, t.lanes.get l = if (s.lanes.get l).role = .voting then { s.lanes.get l with adopted := 0 } else s.lanes.get l) ∧
    Frame [.lanes, .gut] s t) ∧
  (∀ s : State, hubUp s = true →
  (s.cyc.done ≠ 0 → s.cyc.done % 100000 = 0 → ∃ t, exec .trussStats s = .next t ∧
    (∀ l, t.lanes.get l = if (s.lanes.get l).role = .voting then { s.lanes.get l with tstat := {} } else s.lanes.get l) ∧
    Frame [.lanes, .gut] s t) ∧
  (s.cyc.voted = true → s.cyc.done % 1000 = 0 → ∃ t, exec .planeStats s = .next t ∧
    (∀ l, t.lanes.get l = if (s.lanes.get l).role = .voting then { s.lanes.get l with planeCnt := [] } else s.lanes.get l) ∧
    (∀ r, t.agr.nodes.get r = (s.agr.nodes.get r).map fun n => { n with late := 0 }) ∧
    t.agr = { s.agr with nodes := t.agr.nodes } ∧ Frame [.lanes, .agr, .gut] s t))

/-! ### Host commands, transfers, exchange (R38 to R41, R161, R163, R180 to R183, R300 to R318, R360, R383, R485) -/

/-- The rows of R301: the presentation of a command, with its opcode and step. -/
def Sys2Proof.Machine.presentationRows : List ((DWord → Instr) × Nat × Nat) :=
  [(.routeSet, 0x01, 0), (.routeCancel, 0x02, 0), (.pointMove, 0x03, 0), (.signalRestore, 0x04, 0), (.block, 0x05, 0),
    (.unblock, 0x06, 0), (.auxReleaseRequest, 0x07, 1), (.auxReleaseConfirm, 0x07, 2), (.restartReleaseRequest, 0x08, 1),
    (.restartReleaseConfirm, 0x08, 2), (.timeSet, 0x10, 0), (.imageLoad, 0x11, 0), (.imageExchange, 0x12, 0),
    (.rotateNow, 0x13, 0), (.shutdown, 0x14, 0), (.journalRead, 0x15, 0)]

/-- The descriptor that a presentation tests. -/
def Sys2Proof.Machine.presentedDesc (s : State) (asn : DWord) : List Byte := (descOf (lead s) asn).getD (zeros 64)

/-- The verdict that a lane which has decided nothing yet takes on a command. -/
def Sys2Proof.Machine.newVerdict (asn : DWord) (r : Nat × Nat × Nat) : Verdict :=
  { asn := asn, status := BitVec.ofNat 8 r.1, reason := BitVec.ofNat 8 r.2.1, data := BitVec.ofNat 32 r.2.2, keep := false }

/-- R71, R301, R485: a command at the head of the cycle's presentations is presented: the first test of R485 that refuses it ends it
with that test's status, reason and DATA in every working lane; one that passes them all is shown to the command task, and so is one of
the runtime's own commands that is REFUSED. Either way nothing but what the lanes have decided and logged changes; a command that is not at the head waits.
R485, R315, R301, R381, R178: expiry is tested first; of the tests behind it the key position of SHUTDOWN, HOLD, and restart
locking refuse with reasons 0x10, 0x13 and 0x14 where no earlier test refuses. -/
def Obligations.CommandsPresented : Prop :=
  (∀ p ∈ presentationRows, ∀ (asn : DWord) (s : State),
  (presentable s asn = false → exec (p.1 asn) s = .next s) ∧
  (∀ y i e, presentable s asn = true → theYealm s = some y → cmdFind (lead s).work asn.toNat = some (i, e) →
    e.opcode = p.2.1 → e.step = p.2.2 →
    (∀ r, presentTests s y (viewMem (lead s)) e (presentedDesc s asn) = some r → ∃ t, exec (p.1 asn) s = .next t ∧
      t.agr = { s.agr with
        toShow := s.agr.toShow.drop 1, shown := s.agr.shown ++ if r.1 = stREFUSED ∧ 0x10 ≤ p.2.1 then [asn] else [] } ∧
      (∀ l ∈ working s, (∀ v ∈ (s.lanes.get l).verdicts, v.asn ≠ asn) → e.asn = asn.toNat →
        (t.lanes.get l).verdicts = (s.lanes.get l).verdicts ++ [newVerdict asn r]) ∧
      (∀ l, { t.lanes.get l with verdicts := [], log := [], snaps := [] } = { s.lanes.get l with verdicts := [], log := [], snaps := [] }) ∧
      (r.1 ≠ stREFUSED ∨ p.2.1 < 0x10 → ∀ l, (t.lanes.get l).snaps = (s.lanes.get l).snaps) ∧
      Frame [.lanes, .agr] s t) ∧
    (presentTests s y (viewMem (lead s)) e (presentedDesc s asn) = none → ∃ t, exec (p.1 asn) s = .next t ∧
      t.agr = { s.agr with toShow := s.agr.toShow.drop 1, shown := s.agr.shown ++ [asn] } ∧
      (∀ l, { t.lanes.get l with verdicts := [], log := [], snaps := [] } = { s.lanes.get l with verdicts := [], log := [], snaps := [] }) ∧
      (∀ l ∈ working s, (t.lanes.get l).snaps = (showLane y asn (s.lanes.get l)).snaps) ∧
      (p.2.1 ≤ 6 → ∀ l, { t.lanes.get l with snaps := [] } = { s.lanes.get l with snaps := [] }) ∧
      (p.2.1 = 0x13 ∨ p.2.1 = 0x14 → ∀ l ∈ working s, (∀ v ∈ (s.lanes.get l).verdicts, v.asn ≠ asn) → e.asn = asn.toNat →
        (t.lanes.get l).verdicts = (s.lanes.get l).verdicts ++ [newVerdict asn (stDONE, 0, 0)]) ∧
      (p.2.1 = 0x12 → ∀ l ∈ working s, (t.lanes.get l).verdicts = (s.lanes.get l).verdicts ∧
        (t.lanes.get l).log = (s.lanes.get l).log ++ logDelta (viewMem (s.lanes.get l))
          (rgSetExch (viewMem (s.lanes.get l)) (fldLE (dParam (presentedDesc s asn)) 0 8) e.asn)) ∧
      (p.2.1 = 0x10 → ∀ l ∈ working s, (t.lanes.get l).log = (s.lanes.get l).log ++ logDelta (viewMem (s.lanes.get l))
          (rgSetTset (viewMem (s.lanes.get l)) (fldLE (dParam (presentedDesc s asn)) 0 8)
            (fldLE (dParam (presentedDesc s asn)) 8 4) e.asn)) ∧
      (p.2.1 = 0x11 ∨ p.2.1 = 0x15 → ∀ l ∈ working s, (t.lanes.get l).log = (s.lanes.get l).log ++ logDelta
          (viewMem (s.lanes.get l)) (openXfer s.cyc.k.toNat e (dParam (presentedDesc s asn)) (viewMem (s.lanes.get l)))) ∧
      (p.2.2 = 1 → ∀ l ∈ working s, (t.lanes.get l).log = (s.lanes.get l).log ++ logDelta (viewMem (s.lanes.get l))
          (openReq s.cyc.k.toNat e (viewMem (s.lanes.get l)))) ∧
      Frame [.lanes, .agr] s t))) ∧
  (∀ (s : State) (y : Yealm) (m : Mem) (c : CmdEnt) (d : List Byte),
  (c.xcyc ≠ 0 → c.xcyc ≤ s.cyc.k.toNat → presentTests s y m c d = some (stEXPIRED, 0, 0)) ∧
  ((c.xcyc = 0 ∨ s.cyc.k.toNat < c.xcyc) →
    (c.opcode = 0x14 → keyForCommands s ≠ some .maint → presentTests s y m c d = some (stREFUSED, 0x10, 0)) ∧
    (s.mod.st = .hold → c.opcode = 0x01 ∨ c.opcode = 0x03 ∨ c.opcode = 0x07 → presentTests s y m c d = some (stREFUSED, 0x13, 0)) ∧
    (s.mod.st ≠ .hold → c.opcode = 0x01 ∨ c.opcode = 0x02 ∨ c.opcode = 0x03 ∨ c.opcode = 0x07 → tTarget y c = none →
      areaLocked m c.area = true → presentTests s y m c d = some (stREFUSED, 0x14, 0)) ∧
    (c.opcode = 0x13 → keyForCommands s = some .run ∨ keyForCommands s = some .maint → swOn s 18 = true → s.cyc.mode = .tooThree →
      c.target = 0xFFFF → c.area = 0xFF → presentTests s y m c d = none)))

/-- R39, R304, R308, R315, R317: an expired command is decided EXPIRED unless a decision stands; a REQUEST open for more than 60 s is
closed; a confirmation awaited for 50 cycles stops the intake; a position that failed to belong for 8 cycles raises HOST_FETCH;
descriptors are fetched up to the limit of the cycle. -/
def Obligations.CommandsRunOut : Prop := ∀ s : State,
  (∀ asn i c, inWindow s = true → isActive s = true → (lead s).ballot = none → cmdFind (lead s).work asn.toNat = some (i, c) →
    expired s c = true → ∃ t, exec (.commandExpiry asn) s = .next t ∧
      (∀ l ∈ working s, (∀ v ∈ (s.lanes.get l).verdicts, v.asn ≠ asn) →
        (t.lanes.get l).verdicts = (s.lanes.get l).verdicts ++ [newVerdict asn (stEXPIRED, 0, 0)]) ∧
      (∀ l ∈ working s, (∃ v ∈ (s.lanes.get l).verdicts, v.asn = asn) → t.lanes.get l = s.lanes.get l) ∧
      (∀ l, l ∉ working s → t.lanes.get l = s.lanes.get l) ∧ Frame [.lanes] s t) ∧
  (inWindow s = true → isActive s = true → (lead s).ballot = none → ∃ t, exec .requestLapse s = .next t ∧
    (∀ l ∈ working s, (t.lanes.get l).log = (s.lanes.get l).log ++ logDelta (viewMem (s.lanes.get l))
      ((lapsedReqs (viewMem (s.lanes.get l)) s.cyc.k.toNat (cyclesPerS s)).foldl reqClose (viewMem (s.lanes.get l)))) ∧
    (∀ l, { t.lanes.get l with log := [] } = { s.lanes.get l with log := [] }) ∧ Frame [.lanes] s t) ∧
  (hubUp s = true → isActive s = true → 50 ≤ s.agr.waited → s.agr.stalled = false → ∃ t, exec .journalStall s = .next t ∧
    t.agr = { s.agr with stalled := true } ∧ Frame [.agr, .gut] s t) ∧
  (hubUp s = true → ∃ t, exec .hostFetch s = .next t ∧ (s.agr.notBelong ≠ 8 → t = s) ∧
    (s.agr.notBelong = 8 → s.gut.store = [] → s.gut.alarm.credits ≠ 0 → t.gut.seqA = s.gut.seqA + 1) ∧ Frame [.gut] s t) ∧
  (∀ ds, ringServed s qCMDQ = true → s.cyc.agreedIn = false → s.mod.st ≠ .safeStop → ∃ t, exec (.cmdqFetch ds) s = .next t ∧
    t.host.fetched = s.host.fetched + min (min (s.host.fetchLim - s.host.fetched) (cmdqReady s)) ds.length ∧
    (∀ l, (t.lanes.get l).cmdIn.items.map CmdSlot.desc ++ t.host.cmdHand.get l =
      (s.lanes.get l).cmdIn.items.map CmdSlot.desc ++ s.host.cmdHand.get l ++
        ds.take (min (s.host.fetchLim - s.host.fetched) (cmdqReady s))) ∧
    (∀ l, (s.lanes.get l).cmdIn.items <+: (t.lanes.get l).cmdIn.items ∧
      { t.lanes.get l with cmdIn := ⟨[], 0⟩ } = { s.lanes.get l with cmdIn := ⟨[], 0⟩ } ∧
      ∀ c ∈ (t.lanes.get l).cmdIn.items, c ∈ (s.lanes.get l).cmdIn.items ∨ c.cycle = s.cyc.k) ∧
    t.host.q = s.host.q ∧ Frame [.lanes, .host] s t)

/-- A lane's bulk inbound queue and the hub's buffer before it are empty. -/
def Sys2Proof.Machine.bulkIdle (s : State) (l : Lane) : Prop :=
  (s.lanes.get l).bulkIn.items = [] ∧ (s.lanes.get l).bulkIn.credits ≠ 0 ∧ s.host.bulkHand.get l = [] ∧ (s.lanes.get l).bulkOff = 0 ∧
    (s.lanes.get l).bulkCyc = 0 ∧ (s.lanes.get l).injSegs = []

/-- R19, R290, R318, R161, R163, R301, R383: an entry of XFRQ-IN is fetched once and passed, while every lane's queue has not yet to wait.
A lane takes the segment of the running IMAGE_LOAD that leads its bulk inbound queue into its LOADING shadow bank, at most 8 KiB of it
in a cycle; one whose entry is damaged or that does not fit ends the IMAGE_LOAD with reason TRANSFER, and so does a transfer without a
segment for 10 s; a yealm that passes its checks stands VERIFIED in its lane, one that fails leaves the bank EMPTY; injected values are
taken whole in TEST and refused outside it. -/
def Obligations.TransfersMove : Prop := ∀ s : State,
  (∀ e data, bulkReady s = true → ∀ c, (c = .xfrqInSegment e data ∧ xfrId e ≠ injId) ∨ (c = .inputInjectionSegment e data ∧ xfrId e = injId) →
    ∃ t, exec c s = .next t ∧ (qAt t qXFRIN).idx = (qAt s qXFRIN).idx + 1 ∧
      (∀ l, (t.lanes.get l).region = (s.lanes.get l).region ∧
        activeBank (t.lanes.get l).mram = activeBank (s.lanes.get l).mram ∧ (t.lanes.get l).role = (s.lanes.get l).role) ∧
      Frame [.lanes, .agr, .host, .peer, .gut] s t) ∧
  (∀ e data, bulkReady s = false → exec (.xfrqInSegment e data) s = .next s ∧ exec (.inputInjectionSegment e data) s = .next s) ∧
  (∀ l b rest i x, hubUp s = true → isActive s = true → runningLoad (lead s).work = some (i, x) →
      (s.lanes.get l).bulkIn.items = b :: rest → xfrId b.entry ≠ injId → (∃ d ∈ counted s, (s.lanes.get d).injSegs = []) →
      s.host.bulkHand.get l = [] →
    ((s.lanes.get l).role = .voting → (xfrCrcOk b.entry = false ∨ (xfrId b.entry = x.xfrId ∧ (shadowBank (s.lanes.get l).mram).state = .loading ∧
        (shadowBank (s.lanes.get l).mram).full = false ∧ (s.lanes.get l).bulkOff = 0 ∧
        segFits b.entry b.data (shadowBank (s.lanes.get l).mram).size (loadSize x) = false)) →
      ∃ t, exec (.creditReturn (.bulkIn l)) s = .next t ∧ (t.lanes.get l).bulkIn = ⟨rest, (s.lanes.get l).bulkIn.credits + 1⟩ ∧
      (∀ d ∈ working s, (∀ v ∈ (s.lanes.get d).verdicts, v.asn.toNat ≠ x.asn) → (t.lanes.get d).verdicts = (s.lanes.get d).verdicts ++
        [{ newVerdict (BitVec.ofNat 64 x.asn) (stREFUSED, 0x1F, 0) with keep := true }]) ∧
      (∀ d, (t.lanes.get d).mram = (s.lanes.get d).mram ∧ (t.lanes.get d).region = (s.lanes.get d).region) ∧ Frame [.lanes] s t) ∧
    (xfrCrcOk b.entry = true → xfrId b.entry = x.xfrId → (shadowBank (s.lanes.get l).mram).state = .loading →
        (shadowBank (s.lanes.get l).mram).full = false → (s.lanes.get l).bulkOff = 0 →
        segFits b.entry b.data (shadowBank (s.lanes.get l).mram).size (loadSize x) = true →
      ∃ t, exec (.creditReturn (.bulkIn l)) s = .next t ∧
        (t.lanes.get l).mram = (bankTake (b.data.take (8192 - (s.lanes.get l).bulkCyc))
          (xfrLast b.entry && decide (b.data.length ≤ 8192 - (s.lanes.get l).bulkCyc)) (s.lanes.get l)).mram ∧
        (b.data.length ≤ 8192 - (s.lanes.get l).bulkCyc → (t.lanes.get l).bulkIn = ⟨rest, (s.lanes.get l).bulkIn.credits + 1⟩ ∧
          (t.lanes.get l).bulkOff = 0) ∧
        (8192 - (s.lanes.get l).bulkCyc < b.data.length → (t.lanes.get l).bulkIn = (s.lanes.get l).bulkIn ∧
          (t.lanes.get l).bulkOff = 8192 - (s.lanes.get l).bulkCyc) ∧
        (∀ d, (t.lanes.get d).verdicts = (s.lanes.get d).verdicts ∧ (t.lanes.get d).region = (s.lanes.get d).region ∧
          (d ≠ l → (t.lanes.get d).mram = (s.lanes.get d).mram)) ∧ Frame [.lanes, .peer] s t)) ∧
  (∀ i x, hubUp s = true → isActive s = true → runningLoad (lead s).work = some (i, x) →
    (x.doneB < loadSize x → x.lastc + cyclesPer10s s ≤ s.cyc.k.toNat → ∃ t, exec .transferTimeout s = .next t ∧
      (∀ l ∈ working s, (∀ v ∈ (s.lanes.get l).verdicts, v.asn.toNat ≠ x.asn) → (t.lanes.get l).verdicts = (s.lanes.get l).verdicts ++
        [{ newVerdict (BitVec.ofNat 64 x.asn) (stREFUSED, 0x1F, 0) with keep := true }]) ∧ Frame [.lanes] s t) ∧
    (s.cyc.k.toNat < x.lastc + cyclesPer10s s → exec .transferTimeout s = .next s)) ∧
  (∀ l, hubUp s = true → (shadowBank (s.lanes.get l).mram).state = .loading → (shadowBank (s.lanes.get l).mram).full = true →
    runningLoad (lead s).work = none →
    (∀ y, verify l (s.lanes.get l).sw s.mod.boot.split (bankBytes (shadowBank (s.lanes.get l).mram)) = .ok y →
      ∃ t, exec (.yealmVerified l) s = .next t ∧ (shadowBank (t.lanes.get l).mram).state = .verified ∧
        (shadowBank (t.lanes.get l).mram).img = some y ∧ activeBank (t.lanes.get l).mram = activeBank (s.lanes.get l).mram ∧
        Frame [.lanes, .gut] s t) ∧
    (∀ n tt, verify l (s.lanes.get l).sw s.mod.boot.split (bankBytes (shadowBank (s.lanes.get l).mram)) = .refused n tt →
      ∃ t, exec (.yealmVerified l) s = .next t ∧ (shadowBank (t.lanes.get l).mram).state = .empty ∧
        (shadowBank (t.lanes.get l).mram).img = none ∧ activeBank (t.lanes.get l).mram = activeBank (s.lanes.get l).mram ∧
        (∀ m, m ≠ l → t.lanes.get m = s.lanes.get m) ∧ Frame [.lanes, .gut] s t)) ∧
  (∀ l i x, isActive s = true → ringCan s qXFROUT = true → s.host.bulkOut.items = [] → s.host.bulkOut.credits ≠ 0 →
      (s.lanes.get l).role ≠ .retired → (s.lanes.get l).stopped = false → runningRead s l = some (i, x) →
    ∃ t, exec (.journalReadSegment l) s = .next t ∧ (∀ m, (t.lanes.get m).mram = (s.lanes.get m).mram ∧
      (t.lanes.get m).region = (s.lanes.get m).region) ∧
      (s.host.posted <+: t.host.posted) ∧ s.host.posted.length < t.host.posted.length ∧ Frame [.lanes, .host] s t) ∧
  (∀ e data y, bulkReady s = true → xfrId e = injId → xfrCrcOk e = true → theYealm s = some y → 2 ≤ (counted s).length →
      (∀ l, bulkIdle s l) → data.length ≤ 8192 →
    (injBad s y data = none → ∃ t, exec (.inputInjectionSegment e data) s = .next t ∧
      t.agr = { s.agr with inj := s.agr.inj ++ (records 8 data).map injItem } ∧ Frame [.lanes, .agr, .host] s t) ∧
    (inTest s = false → ∃ t, exec (.inputInjectionSegment e data) s = .next t ∧ t.agr = s.agr ∧ Frame [.lanes, .host, .gut] s t))

/-- R180 to R182: at the boundary the exchange is refused where key position, switch, a shadow bank or a check of R182 forbids it, else
its copy begins; a copy that is bad in one voting lane ends it with reason 0x1C and DATA 3 and reloads the old yealm; a good one
leaves every voting lane with its mapped region, the active one untouched. -/
def Obligations.ExchangeBoundary : Prop := ∀ s : State, hubUp s = true →
  (s.mod.st.runs = true → s.cyc.voted = true → s.mod.exch = .idle → rgExchX (lead s).work = s.cyc.k.toNat + 1 →
      (∀ v ∈ (lead s).verdicts, v.asn.toNat ≠ rgExchAsn (lead s).work) →
    (boundaryRefuse s = none → exec .exchangeBoundary s = .next { s with
      mod := { s.mod with exch := .copying }, cyc := { s.cyc with noDiag := true } }) ∧
    (∀ r, boundaryRefuse s = some r → ∃ t, exec .exchangeBoundary s = .next t ∧ t.mod.exch = .idle ∧
      (∀ l ∈ working s, (∀ v ∈ (s.lanes.get l).verdicts, v.asn.toNat ≠ rgExchAsn (lead s).work) →
        (t.lanes.get l).verdicts = (s.lanes.get l).verdicts ++
          [{ newVerdict (BitVec.ofNat 64 (rgExchAsn (lead s).work)) (stREFUSED, r.1, r.2) with keep := true }]) ∧
      (∀ l, { t.lanes.get l with verdicts := [] } = { s.lanes.get l with verdicts := [] }) ∧ Frame [.lanes] s t)) ∧
  (s.mod.exch = .copying → ∀ bad : Quad Bool,
    ((∃ l ∈ voting s, bad.get l = true) → ∃ t, exec (.exchangeCopyComplete bad) s = .next t ∧ t.mod = { s.mod with exch := .reloading } ∧
      (∀ l, { t.lanes.get l with verdicts := [] } = { s.lanes.get l with verdicts := [] }) ∧ Frame [.module, .lanes] s t) ∧
    ((∀ l ∈ voting s, bad.get l = false) → ∃ t, exec (.exchangeCopyComplete bad) s = .next t ∧ t.mod = { s.mod with exch := .ready } ∧
      (∀ l ∈ voting s, ∀ old new, (s.lanes.get l).yealm = some old → (shadowBank (s.lanes.get l).mram).img = some new →
        (t.lanes.get l).mapped = some (mapRegion old new (s.lanes.get l).region)) ∧
      (∀ l, { t.lanes.get l with mapped := none } = { s.lanes.get l with mapped := none }) ∧ Frame [.module, .lanes] s t)) ∧
  (s.mod.exch = .reloading → exec .exchangeReloadComplete s = .next { s with mod := { s.mod with exch := .idle } })

/-! ### The rings (R184 to R236, R346) -/

/-- Every other plane of every ring stands as it stood. -/
def Sys2Proof.Machine.otherPlanes (r : RingId) (p : Plane) (s t : State) : Prop :=
  ∀ q o, (q, o) ≠ (r, p) → planeAt t q o = planeAt s q o

/-- R188, R191, R197, R235: at their launches the G-frames and S-frames of the schedule stand on every started plane of a ring that the
module launches on, and on no other; a plane that no frame returned to is counted silent; the S-frames are stamped with the
present cycle. In a missed cycle and outside the vital cycle no S section leaves.
A module alone passes no frame to another.
R36, R37, R217, R234, R235: the first copy of a returned frame of this module's own marks its plane as alive; a second copy is not
used; of a G-frame that returns after input close, or after 0.43 ms of the cycle, no section reaches a lane. -/
def Obligations.FramesLaunchedAndTaken : Prop :=
  (∀ s : State, canLaunch s = true → framesDue s = true →
  (∃ t, exec .gFrameLaunch s = .next t ∧
    (∀ r p, (ringOpen s r && (planeAt s r p).started) = true → planeAt t r p = { planeAt s r p with
      txG := gFrames s r p, got := [], returned := false, off := false,
      silent := if (planeAt s r p).returned then 0 else (planeAt s r p).silent + 1 }) ∧
    (∀ r p, (ringOpen s r && (planeAt s r p).started) = false → planeAt t r p = planeAt s r p) ∧
    (isPair s = false → t.peer = s.peer) ∧ Frame [.time, .supply, .rings, .peer] s t) ∧
  (s.cyc.sent = false → ∃ t, exec .sFrameLaunch s = .next t ∧
    (∀ r p, (ringOpen s r && (planeAt s r p).started) = true → planeAt t r p = { planeAt s r p with txS := sFrames s r p }) ∧
    (∀ r p, (ringOpen s r && (planeAt s r p).started) = false → planeAt t r p = planeAt s r p) ∧
    t.cyc = { s.cyc with sent := true, sCyc := s.cyc.k, sEpoch := s.peer.epoch } ∧ (isPair s = false → t.peer = s.peer) ∧
    Frame [.time, .supply, .cyc, .rings, .peer] s t) ∧
  ((s.cyc.missed = true ∨ s.mod.st.runs = false) → ∀ fwd r p,
    sFrames { s with rings := { s.rings with fwd := fwd } } r p = sFrames s r p)) ∧
  (∀ (s : State) (r : RingId) (p : Plane) (frame : List Byte) (atNs : Nat), hubUp s = true →
    s.peer.held = true → ownFrame s (frame.take 64) = true →
  ((planeAt s r p).got.contains (hdrType (frame.take 64), hdrFirst (frame.take 64), hdrCycle (frame.take 64)) = true →
    exec (.ringSectionArrival r p frame atNs) s = .next (advanceTo s atNs)) ∧
  ((planeAt s r p).got.contains (hdrType (frame.take 64), hdrFirst (frame.take 64), hdrCycle (frame.take 64)) = false →
    ∃ t, exec (.ringSectionArrival r p frame atNs) s = .next t ∧ (planeAt t r p).returned = true ∧ (planeAt t r p).silent = 0 ∧
      (planeAt t r p).got = (planeAt s r p).got ++
        [(hdrType (frame.take 64), hdrFirst (frame.take 64), hdrCycle (frame.take 64))] ∧ otherPlanes r p s t ∧
      (hdrType (frame.take 64) = ftG → (s.cyc.closed = true ∨ 430000 ≤ atNs) → t.lanes = s.lanes ∧ t.rings.hand = s.rings.hand) ∧
      Frame [.time, .supply, .module, .lanes, .agr, .rings, .peer, .gut] s t))

/-- R217, R230, R322, R332, R346: a frame with a wrong header is nothing; one of another master that ranks above this module makes it
back off that ring from its next cycle on and, in a pair, leave the active role, or in BOOT its restart, at the next common instant;
one that ranks below does neither, and a module alone keeps the lease. The cage of a module that is not the master turns frames back and launches the peer's frames unchanged. -/
def Obligations.MastersRank : Prop := ∀ (s : State) (r : RingId) (p : Plane) (frame : List Byte), hubUp s = true →
  (ringHdr (frame.take 64) = false → exec (.foreignMasterFrame r p frame) s = .next s) ∧
  (ringHdr (frame.take 64) = true → s.peer.held = true → s.rings.backedOff.get r.slot = false → s.rings.backNext.get r.slot = false →
    (ranksAbove (hdrEpoch (frame.take 64)) (hdrMid (frame.take 64)) s.peer.epoch.toNat (masterId s) = true →
      ∃ t, exec (.foreignMasterFrame r p frame) s = .next t ∧ t.rings.backNext.get r.slot = true ∧
        (∀ q : RingId, q ≠ r → t.rings.backNext.get q.slot = s.rings.backNext.get q.slot) ∧
        t.rings = { s.rings with backNext := t.rings.backNext } ∧ t.mod = { s.mod with leave := s.mod.leave || isPair s } ∧
        t.peer.held = true ∧ Frame [.module, .lanes, .rings, .peer, .gut] s t) ∧
    (ranksAbove (hdrEpoch (frame.take 64)) (hdrMid (frame.take 64)) s.peer.epoch.toNat (masterId s) = false →
      ∃ t, exec (.foreignMasterFrame r p frame) s = .next t ∧ t.rings = s.rings ∧ t.mod = s.mod ∧ t.peer.held = true ∧
        Frame [.lanes, .peer, .gut] s t)) ∧
  (∀ smp strobe, ∃ t, exec (.commonInstant smp strobe) s = .next t ∧
    (∀ q, t.rings.backedOff.get q = (s.rings.backedOff.get q || s.rings.backNext.get q) ∧ t.rings.backNext.get q = false) ∧
    (s.mod.st = .boot → s.mod.leave = true → t.peer.held = false ∧ t.mod.leave = false)) ∧
  (isPair s = true → s.peer.held = false →
    (ringHdr (frame.take 64) = true → ∃ t, exec (.ringRelay r p frame) s = .next t ∧ (planeAt t r p).relayed = frame ∧
      t.peer.heard = true ∧ otherPlanes r p s t ∧ Frame [.lanes, .rings, .peer, .gut] s t) ∧
    (∃ t, exec (.relayedLaunch r p frame) s = .next t ∧ planeAt t r p = { planeAt s r p with relayed := frame } ∧
      otherPlanes r p s t ∧ Frame [.rings] s t)) ∧
  (∀ ea ma eb mb, ranksAbove ea ma eb mb = true → ranksAbove eb mb ea ma = false)

/-- R220, R223, R225, R226, R235: DISCOVER leaves in the service slot on every plane on which it is due, TIMING starts the planes whose
discovery was accepted, at most one of the two in a cycle's slot; both are asked for at their periods and by a frame off its
prediction or missing, and not by one that came as predicted. -/
def Obligations.PlanesStart : Prop := ∀ s : State, canLaunch s = true →
  (∃ t, exec .discoverLaunch s = .next t ∧
    (∀ r p, (ringOpen s r && (discoverDue (planeAt s r p) && svcFree s (planeAt s r p))) = true → (planeAt t r p).txD ≠ [] ∧
      (planeAt t r p).discDue = false ∧ (planeAt t r p).svc = some s.cyc.k ∧ (planeAt t r p).started = (planeAt s r p).started) ∧
    (∀ r p, (ringOpen s r && (discoverDue (planeAt s r p) && svcFree s (planeAt s r p))) = false → planeAt t r p = planeAt s r p) ∧
    (isPair s = false → t.peer = s.peer) ∧ Frame [.time, .supply, .rings, .peer] s t) ∧
  (∃ t, exec .timingLaunch s = .next t ∧
    (∀ r p, (ringOpen s r && timingDue s (planeAt s r p)) = true → (planeAt t r p).started = true ∧ (planeAt t r p).timDue = false ∧
      (planeAt t r p).svc = some s.cyc.k ∧ (planeAt t r p).txT = timingFrames s r p ∧
      (planeAt t r p).accepted = (planeAt s r p).accepted) ∧
    (∀ r p, (ringOpen s r && timingDue s (planeAt s r p)) = false → planeAt t r p = planeAt s r p) ∧
    (isPair s = false → t.peer = s.peer) ∧ Frame [.time, .supply, .rings, .peer] s t) ∧
  (∀ r p, ringOpen s r = true → (planeAt s r p).started = true →
    (((planeAt s r p).off || notReturned s (planeAt s r p)) = true → ∃ t, exec (.ringTopology r p) s = .next t ∧
      planeAt t r p = { planeAt s r p with discDue := true, off := false } ∧ otherPlanes r p s t ∧ Frame [.rings, .gut] s t) ∧
    (((planeAt s r p).off || notReturned s (planeAt s r p)) = false → exec (.ringTopology r p) s = .next s)) ∧
  (s.cyc.k.toNat % 1000 = 0 → ∃ t, exec .periodicTiming s = .next t ∧
    (∀ r p, planeAt t r p = { planeAt s r p with
      timDue := (planeAt s r p).timDue || (ringOpen s r && (planeAt s r p).started && !(planeAt s r p).delayBad) }) ∧ Frame [.rings] s t) ∧
  (s.cyc.k.toNat % 100 = 0 → ∃ t, exec .periodicDiscover s = .next t ∧
    (∀ r p, planeAt t r p = { planeAt s r p with
      discDue := (planeAt s r p).discDue || (ringOpen s r && wantsDiscovery (listed s r).length (planeAt s r p)) }) ∧
    Frame [.rings] s t)

/-- R222: an entry of a returned DISCOVER frame is judged against the node list: without PRESENT it says nothing; with a wrong
connection check, or another node or position, it is rejected; the first sound one of its position is taken, and where the same frame
shows the position twice both are rejected.
R184, R185, R224, R235: a cage takes an SFP module of its kinds and is disabled by any other; an empty one has no link; its diagnostics are kept; a lost plane is
no longer started and accepts nobody; a link that comes up asks for discovery; the probe of a pair's cage is half the round trip.
A discovery that returns ends, and the plane accepts the positions that were taken. -/
def Obligations.DiscoveryAndLinks : Prop :=
  (∀ (ns : List NodeEnt) (f i pos : Nat) (acc : Found) (e : List Byte) (n : NodeEnt),
  (dePresent e = false → judgeEntry ns f acc (i, e) = acc) ∧
  (dePresent e = true → entryPos ns.length i e = none →
    judgeEntry ns f acc (i, e) = { acc with rejects := acc.rejects ++ [(i, .extra)] }) ∧
  (dePresent e = true → entryPos ns.length i e = some pos → ns[pos]? = some n →
    (fldBE e 12 4 ≠ (crc32c (e.take 12 ++ beBytes 4 n.connId.toNat)).toNat →
      (judgeEntry ns f acc (i, e)).taken = acc.taken ∧
      (judgeEntry ns f acc (i, e)).rejects = acc.rejects ++ [(pos, .connection)]) ∧
    (fldBE e 12 4 = (crc32c (e.take 12 ++ beBytes 4 n.connId.toNat)).toNat →
      (deNode e ≠ n.nodeId.toNat ∨ dePos e ≠ pos → (judgeEntry ns f acc (i, e)).taken = acc.taken ∧
        (judgeEntry ns f acc (i, e)).rejects = acc.rejects ++ [(pos, .identity)]) ∧
      (deNode e = n.nodeId.toNat → dePos e = pos →
        (acc.seen.contains (f, pos) = false → (∀ x ∈ acc.taken, x.1 ≠ pos) →
          (judgeEntry ns f acc (i, e)).taken = acc.taken ++ [(pos, f, e)] ∧ (judgeEntry ns f acc (i, e)).rejects = acc.rejects) ∧
        (acc.seen.contains (f, pos) = true → acc.dup.contains pos = false →
          (judgeEntry ns f acc (i, e)).dup = acc.dup ++ [pos] ∧
          (judgeEntry ns f acc (i, e)).rejects = acc.rejects ++ [(pos, .duplicate), (pos, .duplicate)] ∧
          (∀ x ∈ acceptedOf (judgeEntry ns f acc (i, e)), x.1 ≠ pos)))))) ∧
  (∀ (s : State) (r : RingId) (p : Plane), hubUp s = true →
  (∀ k, k = .sx ∨ k = .lx ∨ k = .lx10 → ∃ t, exec (.ringSfpInsertion r p k) s = .next t ∧
    planeAt t r p = { planeAt s r p with sfpOk := true } ∧ otherPlanes r p s t ∧ Frame [.rings] s t) ∧
  (∀ k, k = .tenGSR ∨ k = .other → ∃ t, exec (.ringSfpInsertion r p k) s = .next t ∧
    planeAt t r p = { planeAt s r p with
      sfpOk := false, upOwn := false, started := false, lost := true, timDue := false, accepted := [], halves := [] } ∧
    otherPlanes r p s t ∧ Frame [.rings, .gut] s t) ∧
  (∃ t, exec (.ringSfpInsertion r p .empty) s = .next t ∧ planeAt t r p = { planeAt s r p with sfpOk := false, upOwn := false } ∧
    otherPlanes r p s t ∧ Frame [.rings] s t) ∧
  (∀ a b c, ∃ t, exec (.sfpDiagRead r p a b c) s = .next t ∧ planeAt t r p = { planeAt s r p with diag := (a, b, c) } ∧
    otherPlanes r p s t ∧ Frame [.rings] s t) ∧
  (canLaunch s = true → ringOpen s r = true → (planeAt s r p).lost = false → ∃ t, exec (.planeLost r p) s = .next t ∧
    (planeAt t r p).lost = true ∧ (planeAt t r p).started = false ∧ (planeAt t r p).accepted = [] ∧ otherPlanes r p s t ∧
    Frame [.rings, .gut] s t) ∧
  (∃ t, exec (.portLinkUp r p false) s = .next t ∧ planeAt t r p = { planeAt s r p with upPeer := true, discDue := true } ∧
    otherPlanes r p s t ∧ Frame [.rings] s t) ∧
  ((planeAt s r p).sfpOk = true → ∃ t, exec (.portLinkUp r p true) s = .next t ∧
    planeAt t r p = { planeAt s r p with upOwn := true, discDue := true } ∧ otherPlanes r p s t ∧ Frame [.rings] s t) ∧
  (∀ rtt, ∃ t, exec (.linkProbe r p rtt) s = .next t ∧ (planeAt t r p).probes = (planeAt s r p).probes + 1 ∧
    (isPair s = true → (planeAt t r p).probeNs = rtt / 2) ∧
    (isPair s = false → planeAt t r p = { planeAt s r p with probes := (planeAt s r p).probes + 1 } ∧ t.gut = s.gut) ∧
    (planeAt t r p).accepted = (planeAt s r p).accepted ∧ otherPlanes r p s t ∧ Frame [.rings, .gut] s t) ∧
  (canLaunch s = true → (planeAt s r p).txD ≠ [] → ∀ frames loopNs unbroken, ∃ t,
    exec (.discoverReturn r p frames loopNs unbroken) s = .next t ∧ (planeAt t r p).txD = [] ∧
    (planeAt t r p).accepted = (acceptedOf (judgeFrames (listed s r) frames)).map Prod.fst ∧ (planeAt t r p).loopNs = loopNs ∧
    otherPlanes r p s t ∧ Frame [.rings, .gut] s t))

/-! ### The Eaves block and the Batten links (R238 to R280) -/

/-- The input of one chain that a command names, and the chain's other inputs. -/
def Sys2Proof.Machine.onlyInput (c : Chain) (i : Nat) (s t : State) : Prop :=
  (∀ j, j ≠ i → chainIn (chainAt t c) j = chainIn (chainAt s c) j) ∧ (∀ d, d ≠ c → chainAt t d = chainAt s d) ∧
    t.eaves.outs = s.eaves.outs ∧ t.eaves.rcv = s.eaves.rcv ∧ Frame [.eaves] s t

/-- R79, R100, R256, R271, R273, R275: the L frame that a lane sends names the next instant, and carries its voted drive only while the lane
votes in a state whose outputs follow the vote, outside TEST; a lane whose Batten port is under test sends and takes none; the receiver takes a frame that is valid for its lane and
no other, and an invalid one breaks its run of valid frames (R274).
R249, R253, R273, R274, R96: a receiver without a valid frame for 500 us stops its lane's waveforms at once; a lane without a valid
Eaves frame misses its Batten deadline; a lane takes as its sample of the cycle the first valid E frame that carries its number. -/
def Obligations.BattenLinksCarryAndSupervise : Prop :=
  (∀ (s : State) (l : Lane),
  (powered s = true → (s.lanes.get l).stopped = false → (s.lanes.get l).role ≠ .retired → portTested (s.lanes.get l) = false →
    ∃ t f, exec (.lFrameSend l) s = .next t ∧
    (t.lanes.get l).txBuf.getLast? = some (lBytes f) ∧ (t.lanes.get l).txBuf.length ≤ 2 ∧
    f.lane = l.num ∧ f.seq = (s.lanes.get l).txSeq + 1 ∧ f.cycle = (s.cyc.k + 1).setWidth 32 ∧
    (t.lanes.get l).txSeq = (s.lanes.get l).txSeq + 1 ∧ (f.split = true ↔ s.mod.st = .split) ∧
    (laneDrives s (s.lanes.get l) = true → f.drive = (s.lanes.get l).driveE ∧ f.gm = (s.lanes.get l).driveG ∧
      f.dcycle = (s.lanes.get l).dcycle.setWidth 32) ∧
    (laneDrives s (s.lanes.get l) = false → f.drive = 0 ∧ f.gm = 0) ∧
    (∀ m, m ≠ l → t.lanes.get m = s.lanes.get m) ∧ Frame [.lanes] s t) ∧
  (portTested (s.lanes.get l) = true → exec (.lFrameSend l) s = .next s) ∧
  (∀ b d, s.mod.st ≠ .off → (s.lanes.get l).txBuf.getLast? = some b →
    (lValid l (s.eaves.rcv.get l).seq (damaged b d) = true → ∃ t, exec (.lFrameReceive l d) s = .next t ∧
      t.eaves.rcv.get l = takeL (lFields (damaged b d)) (s.eaves.rcv.get l) ∧
      (∀ m, m ≠ l → t.eaves.rcv.get m = s.eaves.rcv.get m) ∧ t.eaves.cfg = s.eaves.cfg ∧ Frame [.lanes, .eaves] s t) ∧
    (lValid l (s.eaves.rcv.get l).seq (damaged b d) = false → ∃ t, exec (.lFrameReceive l d) s = .next t ∧
      (t.lanes.get l) = { s.lanes.get l with txBuf := [] } ∧ (∀ m, m ≠ l → t.lanes.get m = s.lanes.get m) ∧
      t.eaves.rcv.get l = { s.eaves.rcv.get l with nValid := 0 } ∧ (∀ m, m ≠ l → t.eaves.rcv.get m = s.eaves.rcv.get m) ∧
      Frame [.lanes, .eaves] s t))) ∧
  (∀ (s : State) (l : Lane),
  (s.mod.st ≠ .off → ∃ t, exec (.battenReceiverTimeout l) s = .next t ∧ (t.eaves.rcv.get l).valid = false ∧
    (t.eaves.rcv.get l).producing = false ∧ (t.eaves.rcv.get l).drive = 0 ∧ (t.eaves.rcv.get l).gm = 0 ∧
    (t.eaves.rcv.get l).seq = none ∧ rcvLive t.eaves l = false ∧ (∀ m, m ≠ l → t.eaves.rcv.get m = s.eaves.rcv.get m) ∧
    (∀ x ∈ t.eaves.marks, x.1 ≠ l) ∧ Frame [.eaves] s t) ∧
  (powered s = true → ∃ t, exec (.battenDeadline l) s = .next t ∧
    t.lanes.get l = { s.lanes.get l with battenMiss := true, rxSeq := none } ∧
    (∀ m, m ≠ l → t.lanes.get m = s.lanes.get m) ∧ Frame [.lanes] s t) ∧
  (powered s = true → ∀ n d, ∃ t, exec (.eFrameReceive l n d) s = .next t ∧
    (t.eaves.rcv.get l).eSeq = (s.eaves.rcv.get l).eSeq + BitVec.ofNat 8 (n + 1) ∧
    (∀ m, m ≠ l → t.lanes.get m = s.lanes.get m ∧ t.eaves.rcv.get m = s.eaves.rcv.get m) ∧
    (∀ b, b = damaged (eBytes (eFrameNow s.eaves l ((s.eaves.rcv.get l).eSeq + BitVec.ofNat 8 (n + 1)))) d →
      (eValid l (s.lanes.get l).rxSeq b = false → t.lanes = s.lanes) ∧
      (portTested (s.lanes.get l) = true → t.lanes = s.lanes) ∧
      (portTested (s.lanes.get l) = false → eValid l (s.lanes.get l).rxSeq b = true → (t.lanes.get l).rxSeq = some (eFields b).seq ∧
        ((s.lanes.get l).eFrame = none → s.cyc.closed = false → (eFields b).cycle = s.cyc.k.setWidth 32 →
          (t.lanes.get l).eFrame = some (eFields b) ∧ (t.lanes.get l).eRaw = b) ∧
        ((s.lanes.get l).eFrame ≠ none → (t.lanes.get l).eFrame = (s.lanes.get l).eFrame))) ∧ Frame [.lanes, .eaves] s t))

/-- R270 to R273: the bytes of an L frame and of an E frame give back every field at every value that the formats hold, and a frame
as sent is valid for its lane exactly when its SEQ is. -/
def Obligations.BattenFramesRoundTrip : Prop := (∀ f : LFrame, f.lane < 4 → f.cfgPage < 65536 → f.cfgData.length = 32 →
    (lBytes f).length = 72 ∧ lFields (lBytes f) = f ∧
    ∀ l : Lane, l.num = f.lane → ∀ last, lValid l last (lBytes f) = seqNext last f.seq) ∧
  (∀ f : EFrame, f.rcv < 4 → f.xcode.length = 64 → f.ycode.length = 64 → f.ostat.length = 32 →
    (∀ x ∈ f.xcode ++ f.ycode ++ f.ostat, x < 16) → f.volt.length = 32 → f.curr.length = 32 → (∀ x ∈ f.volt ++ f.curr, x < 256) →
    f.cntx.length = 8 → f.cnty.length = 8 → f.supply.a < 65536 → f.supply.b < 65536 → f.edge.length = 8 →
    (eBytes f).length = 256 ∧ eFields (eBytes f) = f ∧
    ∀ l : Lane, l.num = f.rcv → ∀ last, eValid l last (eBytes f) = seqNext last f.seq)

/-- R238, R243, R256, R275, R276, R279: at its instant, named by the MARKs, the Eaves block latches what its chains show and every
receiver takes the drive of the frame that names the instant; without a MARK there is none. A configuration that two receivers hold
comes into force once; a window counts on. -/
def Obligations.EavesInstantAndWindow : Prop := ∀ s : State,
  (∀ ex ey, s.mod.st ≠ .off → (∀ ck, markedCycle s.eaves = some ck → ∃ t, exec (.eavesCommonInstant ex ey) s = .next t ∧
      t.eaves.ck = ck ∧ t.eaves.marks = [] ∧ t.eaves.window = 0 ∧ (∀ l, t.eaves.rcv.get l = rcvInstant ck (s.eaves.rcv.get l)) ∧
      (∀ l f, (s.eaves.rcv.get l).frames.find? (fun f => f.dcycle == ck) = some f →
        (t.eaves.rcv.get l).drive = f.drive ∧ (t.eaves.rcv.get l).gm = f.gm) ∧
      t.eaves.cfg = s.eaves.cfg ∧ Frame [.eaves] s t) ∧
    (markedCycle s.eaves = none → exec (.eavesCommonInstant ex ey) s = .next s)) ∧
  (∀ b, s.mod.st ≠ .off → cfgDue s.eaves = some b →
    (s.eaves.cfg.map (·.crc) ≠ some (eavesCfgOf b).crc → ∃ t, exec .eavesConfigInForce s = .next t ∧
      t.eaves.cfg = some (eavesCfgOf b) ∧ t.eaves.rcv = s.eaves.rcv ∧ (s.eaves.cfg = none → t.eaves.chains = s.eaves.chains) ∧
      Frame [.eaves] s t) ∧
    (s.eaves.cfg.map (·.crc) = some (eavesCfgOf b).crc → exec .eavesConfigInForce s = .next s)) ∧
  (∀ x y, s.mod.st ≠ .off → ∃ t, exec (.eavesWindowEnd x y) s = .next t ∧
    t.eaves = { s.eaves with window := s.eaves.window + 1, chains := t.eaves.chains } ∧
    t.eaves.chains.a = windowChain s.eaves.cfg x s.eaves.chains.a ∧ t.eaves.chains.b = windowChain s.eaves.cfg y s.eaves.chains.b ∧
    (∀ i, (chainIn t.eaves.chains.a i).filt = (chainIn s.eaves.chains.a i).filt) ∧ Frame [.eaves] s t)

/-- R240 to R248: a filtered state changes once its count has reached FILT; faults come after their windows and go after 1 s of good
ones; DISC comes when the discrepancy time has passed and goes with FILT windows of the OFF combination; a gate that ends gives
the frequency. Each changes its own input, source, pair or counter of its own chain. -/
def Obligations.InputsJudged : Prop := ∀ (s : State) (c : Chain) (i : Nat), s.mod.st ≠ .off → 
  (pulsed s i = true → i < (chainAt s c).ins.length →
    (filterDue (filtOf s i) (chainIn (chainAt s c) i) = true → ∃ t, exec (.filterChange c i) s = .next t ∧
      (chainIn (chainAt t c) i).filt = !(chainIn (chainAt s c) i).filt ∧ (chainIn (chainAt t c) i).cnt = 0 ∧ onlyInput c i s t) ∧
    (filterDue (filtOf s i) (chainIn (chainAt s c) i) = false → exec (.filterChange c i) s = .next s) ∧
    (∃ t, exec (.inputFaultSet c i) s = .next t ∧
      (chainIn (chainAt t c) i).fConst = ((chainIn (chainAt s c) i).fConst || decide (3 ≤ (chainIn (chainAt s c) i).nConst)) ∧
      (chainIn (chainAt t c) i).fCross = ((chainIn (chainAt s c) i).fCross || decide (3 ≤ (chainIn (chainAt s c) i).nCross)) ∧
      (chainIn (chainAt t c) i).fUndef = ((chainIn (chainAt s c) i).fUndef || decide (41 ≤ (chainIn (chainAt s c) i).nMid)) ∧
      (chainIn (chainAt t c) i).filt = (chainIn (chainAt s c) i).filt ∧ onlyInput c i s t) ∧
    (2000 ≤ (chainIn (chainAt s c) i).nGood → ∃ t, exec (.inputFaultClear c i) s = .next t ∧
      chainIn (chainAt t c) i = { chainIn (chainAt s c) i with fConst := false, fCross := false, fUndef := false } ∧
      onlyInput c i s t)) ∧
  (i < (chainAt s c).srcFault.length →
    (3 ≤ (chainAt s c).srcBad.getD i 0 → ∃ t, exec (.sourceFaultSet c i) s = .next t ∧ (chainAt t c).srcFault.getD i false = true ∧
      (chainAt t c).ins = (chainAt s c).ins ∧ (∀ d, d ≠ c → chainAt t d = chainAt s d) ∧ Frame [.eaves] s t) ∧
    (2000 ≤ (chainAt s c).srcGood.getD i 0 → ∃ t, exec (.sourceFaultClear c i) s = .next t ∧
      (chainAt t c).srcFault.getD i true = false ∧ (chainAt t c).ins = (chainAt s c).ins ∧
      (∀ d, d ≠ c → chainAt t d = chainAt s d) ∧ Frame [.eaves] s t)) ∧
  (i < (chainAt s c).pairs.length → s.eaves.cfg ≠ none →
    (∀ n, ((chainAt s c).pairs.getD i {}).timer = some n → discWindows s i ≤ n → ∃ t, exec (.discTimerExpiry c i) s = .next t ∧
      (chainAt t c).pairs.getD i {} = { (chainAt s c).pairs.getD i {} with disc := true } ∧ (chainAt t c).ins = (chainAt s c).ins ∧
      (∀ d, d ≠ c → chainAt t d = chainAt s d) ∧ Frame [.eaves] s t) ∧
    (pairFilt s i ≤ ((chainAt s c).pairs.getD i {}).nOff → ∃ t, exec (.discClear c i) s = .next t ∧
      (chainAt t c).pairs.getD i {} = { (chainAt s c).pairs.getD i {} with disc := false } ∧
      (chainAt t c).ins = (chainAt s c).ins ∧ (∀ d, d ≠ c → chainAt t d = chainAt s d) ∧ Frame [.eaves] s t)) ∧
  (∀ cfg edges ns, i < (chainAt s c).ctrs.length → s.eaves.cfg = some cfg → (inEnt cfg (56 + i)).mode = 3 →
    ∃ t, exec (.counterGateEnd c (56 + i) edges ns) s = .next t ∧
      (chainAt t c).ctrs.getD i {} = { (chainAt s c).ctrs.getD i {} with freq := freqOf (inEnt cfg (56 + i)).gate edges ns, settle := false } ∧
      (chainAt t c).ins = (chainAt s c).ins ∧ (∀ d, d ≠ c → chainAt t d = chainAt s d) ∧ Frame [.eaves] s t)

/-- R252 to R257, R274: no single lane energises a channel: a channel that is energised has two different lanes, each with a receiver
that produces waveforms, whose drive holds its unit's bit, and two such lanes whose drive holds the bit of its group master; no
latch withholds it and its master is neither cut nor latched. -/
def Obligations.TwoLanesEnergise : Prop := ∀ (e : EavesSt) (cfg : EavesCfg) (c : Nat), e.cfg = some cfg → energised e c = true →
  (∃ l m : Lane, l ≠ m ∧ (e.rcv.get l).producing = true ∧ (e.rcv.get m).producing = true ∧
    (e.rcv.get l).drive.getLsbD (unitBase (outEnt cfg c) c) = true ∧ (e.rcv.get m).drive.getLsbD (unitBase (outEnt cfg c) c) = true) ∧
  (∃ l m : Lane, l ≠ m ∧ (e.rcv.get l).producing = true ∧ (e.rcv.get m).producing = true ∧
    (e.rcv.get l).gm.getLsbD (outGroup c).num = true ∧ (e.rcv.get m).gm.getLsbD (outGroup c).num = true) ∧
  (chanAt e c).latch = .none ∧ (outEnt cfg c).used = true ∧ cfg.enable.get (outGroup c) = true ∧
  (e.groups.get (outGroup c)).cut = false ∧ (e.groups.get (outGroup c)).latched = false

/-- R254, R262, R263: a reading is stored for every channel and group; elements once found SHORTED or OPEN stay so, and a reading by
itself lets no latch go. A failure of the off case that no pulse has explained opens its group master.
R258 to R261: in its slot an energised channel that stands alone is pulsed unless its drive has just changed, and at the end of the
pulse none of its channels is pulsed any more; elements that still conduct then are SHORTED. -/
def Obligations.OutputsTestedAndJudged : Prop :=
  (∀ s : State, s.mod.st ≠ .off →
  (∀ m, ∃ t, exec (.readbackReading m) s = .next t ∧ t.eaves.outs.length = s.eaves.outs.length ∧
    (∀ g, (t.eaves.groups.get g).supply = m.supply.get g) ∧
    (∀ c, c < s.eaves.outs.length → (chanAt t.eaves c).volt = m.volt.getD c 0 ∧ (chanAt t.eaves c).curr = m.curr.getD c 0 ∧
      (chanAt s.eaves c).shorted &&& ~~~(chanAt t.eaves c).shorted = 0 ∧
      (chanAt s.eaves c).opened &&& ~~~(chanAt t.eaves c).opened = 0 ∧
      ((chanAt s.eaves c).latch ≠ .none → (chanAt t.eaves c).latch ≠ .none)) ∧
    t.eaves.cfg = s.eaves.cfg ∧ t.eaves.rcv = s.eaves.rcv ∧ t.eaves.chains = s.eaves.chains ∧ Frame [.eaves, .gut] s t) ∧
  (s.eaves.j = 3 → ∃ t, exec .crossWindowEnd s = .next t ∧
    (∀ c n, c < 32 → c < s.eaves.outs.length → (chanAt s.eaves c).offCase = some n → n < s.eaves.interval →
      (t.eaves.groups.get (outGroup c)).latched = true ∧ (chanAt t.eaves c).offCase = none) ∧
    t.eaves.rcv = s.eaves.rcv ∧ t.eaves.chains = s.eaves.chains ∧ Frame [.eaves] s t)) ∧
  (∀ (s : State) (cfg : EavesCfg) (c : Nat), s.mod.st ≠ .off → s.eaves.cfg = some cfg →
    c < s.eaves.outs.length → (outEnt cfg c).par = 0 → 
  ((outEnt cfg c).used = true → s.eaves.j = c / 8 → energised s.eaves c = true → netDriven s.eaves c = true →
    (chanAt s.eaves c).changed = false → ∃ t, exec (.testPulseStart (.chan c)) s = .next t ∧
      chanAt t.eaves c = { chanAt s.eaves c with pulsing := true, abandoned := 0 } ∧
      (∀ d, d ≠ c → chanAt t.eaves d = chanAt s.eaves d) ∧ chanWaves t.eaves c = 0 ∧ Frame [.eaves] s t) ∧
  (∀ m rose, (chanAt s.eaves c).pulsing = true → ∃ t, exec (.testPulseEnd (.chan c) m rose) s = .next t ∧
    (chanAt t.eaves c).pulsing = false ∧ (chanAt t.eaves c).shorted = (chanAt s.eaves c).shorted ||| m.elems.getD c 0 ∧
    (chanAt t.eaves c).volt = m.volt.getD c 0 ∧ t.eaves.rcv = s.eaves.rcv ∧ Frame [.eaves, .gut] s t) ∧
  (∀ g m rose, (s.eaves.groups.get g).pulsing = true → ∃ t, exec (.testPulseEnd (.master g) m rose) s = .next t ∧
    (t.eaves.groups.get g).pulsing = false ∧ t.eaves.rcv = s.eaves.rcv ∧ Frame [.eaves, .gut] s t))

/-- R267 to R269: an overcurrent removes the waveforms of the channel's unit, a retry is made after 1 s, three in all, and the next trip
latches; 60 s energised reset their count; a CUT, of a supply below 17.0 V for 5 ms, keeps its group master open until the supply has
stood at 20.4 V or more for 1 s; the supply warnings come below 19.2 V and go at 19.7 V. The times are counted in readings, which is
the model's choice (log entry 105). -/
def Obligations.OutputsProtected : Prop := ∀ (s : State) (c : Nat) (g : Plane), s.mod.st ≠ .off →
  (energised s.eaves c = true → overCurrent s.eaves c = true → ∃ t, exec (.outputTrip c) s = .next t ∧
    (∀ i ∈ unitAt s.eaves c, i < s.eaves.outs.length →
      (chanAt t.eaves i).latch = (if 3 ≤ (chanAt s.eaves c).retries then .latched else .tripped) ∧ chanWaves t.eaves i = 0 ∧
      (chanAt t.eaves i).live = false) ∧ Frame [.eaves, .gut] s t) ∧
  (overCurrent s.eaves c = false → exec (.outputTrip c) s = .next s) ∧
  ((chanAt s.eaves c).latch = .tripped → readingsPerS ≤ (chanAt s.eaves c).since → netDriven s.eaves c = true → ∃ t, exec (.tripRetry c) s = .next t ∧
    (∀ i ∈ unitAt s.eaves c, i < s.eaves.outs.length → (chanAt t.eaves i).latch = .none ∧
      (chanAt t.eaves i).retries = (chanAt s.eaves i).retries + 1) ∧ Frame [.eaves] s t) ∧
  ((chanAt s.eaves c).latch ≠ .tripped ∨ (chanAt s.eaves c).since < readingsPerS → exec (.tripRetry c) s = .next s) ∧
  ((chanAt s.eaves c).since < 60 * readingsPerS → exec (.retryCountReset c) s = .next s) ∧
  (energised s.eaves c = true → 60 * readingsPerS ≤ (chanAt s.eaves c).since → ∃ t, exec (.retryCountReset c) s = .next t ∧
    (∀ i ∈ unitAt s.eaves c, (chanAt t.eaves i).retries = 0) ∧
    (∀ i, i ∉ unitAt s.eaves c → chanAt t.eaves i = chanAt s.eaves i) ∧ Frame [.eaves] s t) ∧
  (supplyAt s.eaves g < 192 → (s.eaves.groups.get g).warn = false → ∃ t, exec (.fieldSupplyLow g) s = .next t ∧
    t.eaves = groupMod s.eaves g (fun x => { x with warn := true }) ∧ Frame [.eaves, .gut] s t) ∧
  (192 ≤ supplyAt s.eaves g → exec (.fieldSupplyLow g) s = .next s) ∧
  (supplyAt s.eaves g < 197 → exec (.fieldSupplyRecover g) s = .next s) ∧
  (197 ≤ supplyAt s.eaves g → ∃ t, exec (.fieldSupplyRecover g) s = .next t ∧ t.eaves = groupMod s.eaves g (fun x => { x with warn := false }) ∧
    Frame [.eaves] s t) ∧
  ((s.eaves.groups.get g).low < 40 → exec (.fieldSupplyCut g) s = .next s) ∧
  (40 ≤ (s.eaves.groups.get g).low → (s.eaves.groups.get g).cut = false → ∃ t, exec (.fieldSupplyCut g) s = .next t ∧ (t.eaves.groups.get g).cut = true ∧
    masterWaves t.eaves g = 0 ∧ (t.eaves.groups.get g).closed = false ∧ (∀ i, outGroup i = g → energised t.eaves i = false) ∧
    Frame [.eaves, .gut] s t) ∧
  ((s.eaves.groups.get g).high < readingsPerS → exec (.cutClear g) s = .next s) ∧
  (readingsPerS ≤ (s.eaves.groups.get g).high → ∃ t, exec (.cutClear g) s = .next t ∧ (t.eaves.groups.get g).cut = false ∧
    ((t.eaves.groups.get g).closed = true ↔ (s.eaves.groups.get g).latched = false ∧ anyPath (masterCalled s.eaves g) = true) ∧
    Frame [.eaves] s t)

/-! ### The pair, the time bases, the Gutter (R322 to R367, R412 to R423) -/

/-- The epoch that a valid lease message brings is news to no one, and it comes from the other module with a new SEQ. -/
def Sys2Proof.Machine.freshLease (s : State) (m : List Byte) : Prop :=
  epochKnown s ≤ pmEpoch m ∧ pmSender m ≠ masterId s ∧ s.peer.seenLease.contains (pmSeq m) = false

/-- R25, R330, R333, R334, R327: the holder's RENEW, where two counted lanes form it bit for bit alike, reloads the lease timer and, like the standby's BEAT, goes out with the next SEQ of the
lease class; without agreement nothing goes out; LINK counts its own. A module that may not renew, not being the holder or in SAFE STOP or SPLIT, sends none. -/
def Obligations.LeaseMessagesSent : Prop := ∀ s : State,
  (renews s = true → ∀ cycle pay, agreedRenew (advanceTo s (periodNs s - 50000)) = some (cycle, pay) →
    ∃ t, exec .renewRelease s = .next t ∧ t.ul.leaseRun = true ∧ t.peer.held = true ∧
    (isPair s = true → t.peer.seqLease = s.peer.seqLease + 1 ∧ ∀ l, linkLive s l = true →
      peerMsg s ptRenew l (s.peer.seqLease + 1) cycle pay ∈ t.peer.leaseOut) ∧
    (isPair s = false → t.peer.leaseOut = s.peer.leaseOut) ∧
    t.peer.release = renewRelease s ∧ Frame [.time, .supply, .peer] s t) ∧
  (renews s = true → agreedRenew (advanceTo s (periodNs s - 50000)) = none →
    exec .renewRelease s = .next (advanceTo s (periodNs s - 50000))) ∧
  ((s.peer.held = false ∨ s.mod.st = .safeStop ∨ s.mod.st = .split ∨ s.ul.leaseInh = true) → exec .renewRelease s = .next s) ∧
  (hubUp s = true → isPair s = true → s.mod.st = .standby → ∃ t, exec .beatSend s = .next t ∧
    t.peer.seqLease = s.peer.seqLease + 1 ∧ t.peer.held = s.peer.held ∧ Frame [.time, .supply, .peer, .gut] s t) ∧
  (∀ l, linkLive s l = true → s.ul.leaseInh = false → ∃ t, exec (.linkSend l) s = .next t ∧
    (linkAt t l).txSeq = (linkAt s l).txSeq + 1 ∧ t.peer.leaseOut.length ≤ 4 ∧
    (∃ m, t.peer.leaseOut.getLast? = some m ∧ fldBE m 0 2 = ptLink) ∧ (∀ k, k ≠ l → linkAt t k = linkAt s k) ∧ Frame [.peer] s t)

/-- R323, R332 to R336, R352: a valid RENEW of the other module, its epoch not below what is known, is what a module without the lease
follows; the standby's next common instant is the holder's (a RELEASE that names the cycle under way, the model's reading, log entry
77, comes at that cycle's end). A BEAT tells the holder of the standby's health, LINK gives the delay.
A message with this module's own ID is PAIR_CONFLICT and nothing else. Its epoch is known from then on. -/
def Obligations.LeaseMessagesTaken : Prop := ∀ (s : State) (l : Plane) (m : List Byte), linkLive s l = true →
  (peerValid ptRenew l m = true → m.length = 100 → s.peer.held = false → freshLease s m → s.mod.st = .standby →
    ∃ t, exec (.renewReceive l m) s = .next t ∧ t.peer.renew = some (renewOf m) ∧ t.peer.heard = true ∧ t.peer.held = false ∧
      t.mod.st = .standby ∧ (∀ d, (t.lanes.get d).k = t.cyc.k) ∧
      (¬ ((renewOf m).release = true ∧ (renewOf m).cycle = s.cyc.k) → t.cyc.k = (renewOf m).cycle - 1 ∧
        t.time.ckNs = (renewOf m).rtime - BitVec.ofNat 64 (periodNs s)) ∧
      ((renewOf m).release = true → (renewOf m).cycle = s.cyc.k → t.cyc.k = s.cyc.k ∧ t.time.ckNs = (renewOf m).rtime)) ∧
  (peerValid ptRenew l m = true → m.length = 100 → s.peer.held = true → s.mod.st.runs = true → pmSender m ≠ masterId s →
    ∃ t, exec (.renewReceive l m) s = .next t ∧ t.peer.held = true ∧ t.peer.epoch = s.peer.epoch ∧ t.mod = s.mod ∧ t.cyc = s.cyc) ∧
  (peerValid ptBeat l m = true → m.length = 100 → s.peer.held = true → freshLease s m →
    ∃ t, exec (.beatReceive l m) s = .next t ∧ t.peer.beat = some (beatOf m) ∧
      t.peer.markInc = (beatMark ((beatOf m).hflags.getLsbD 1) s.peer).markInc ∧ t.peer.held = true ∧ Frame [.lanes, .peer, .gut] s t) ∧
  (peerValid ptLink l m = true → pmSender m ≠ masterId s → ∀ rtt, ∃ t, exec (.linkReceive l m rtt) s = .next t ∧
    ((linkAt s l).rxSeq ≠ pmSeq m → (linkAt t l).delayNs = rtt / 2 ∧ (linkAt t l).rxSeq = pmSeq m) ∧
    ((linkAt s l).rxSeq = pmSeq m → linkAt t l = linkAt s l) ∧ (∀ k, k ≠ l → linkAt t k = linkAt s k) ∧
    ((∃ d, (s.lanes.get d).role ≠ .retired) → pmEpoch m ≤ epochKnown t) ∧ Frame [.lanes, .peer] s t) ∧
  (peerValid ptLink l m = true → pmSender m = masterId s → ∀ rtt, ∃ t, exec (.linkReceive l m rtt) s = .next t ∧
    t.peer.conflict = true ∧ t.peer.links = s.peer.links ∧ t.peer.renew = s.peer.renew ∧ t.peer.beat = s.peer.beat ∧
    Frame [.lanes, .peer, .gut] s t)

/-- R331, R336, R344 to R346, R352, R353: 40 ms without a RENEW stop the holder: SAFE STOP, no ring frame, no lease message. A standby
in complete health claims, with a new epoch, and runs from the first cycle on; a module of a pair that has heard nothing takes the
lease, and one that has heard does not; a claimant that does not master every ring withdraws. -/
def Obligations.LeaseChangesHands : Prop := ∀ s : State,
  (s.mod.st ≠ .off → s.ul.leaseRun = true → ∃ t, exec .leaseExpired s = .next t ∧ t.mod.st = .safeStop ∧ t.ul.leaseInh = true ∧
    t.ul.leaseRun = false ∧ t.rings.inhibited = true ∧ t.peer.held = false ∧ canLaunch t = false ∧ renews t = false) ∧
  (∀ r, s.peer.renew = some r → mayClaim s r = true → s.peer.groupWait = none → ∃ t, exec .leaseClaim s = .next t ∧
    t.peer.held = true ∧ t.mod.claim = true ∧ t.mod.st = .standby ∧ t.peer.epoch = epochAfter (epochKnown s) ∧
    t.cyc.k = BitVec.ofNat 64 (firstCycle (periodMs s) r - 1) ∧ t.cyc.misses = 0 ∧ t.ul.leaseRun = true ∧ t.ul.leaseInh = false ∧
    t.peer.claimPlanes = some s.peer.planes) ∧
  (∀ r, s.peer.renew = some r → mayClaim s r = false → exec .leaseClaim s = .next s) ∧
  (hubUp s = true → isPair s = true → s.mod.st = .boot → s.mod.boot.agreed = true → s.mod.boot.split = false →
      s.mod.boot.swBad = false → s.peer.held = false → s.peer.conflict = false →
    (s.peer.heard = false → ∃ t, exec .pairStartClaim s = .next t ∧ t.peer.held = true ∧ t.mod.st = .boot ∧
      t.mod.boot.coldClaim = !closedAsHolder s ∧ t.peer.epoch = epochAfter (epochKnown s) ∧ t.ul.leaseRun = true ∧
      Frame [.supply, .module, .lanes, .host, .peer] s t) ∧
    (s.peer.heard = true → exec .pairStartClaim s = .next s)) ∧
  (∀ pl, hubUp s = true → s.mod.st.runs = true → s.cyc.sent = true → s.peer.claimPlanes = some pl →
    (mastersAll s pl = true → exec .masteryTest s = .next { s with peer := { s.peer with claimPlanes := none } }) ∧
    (mastersAll s pl = false → exec .masteryTest s = .next { s with
      peer := { s.peer with claimPlanes := none }, mod := { s.mod with leave := true } }))

/-- R325, R327 to R329: a peer link comes up, is lost, takes only its own kind of SFP module; a request that has had no response goes
out again on the other link and is given up after the third time; a response ends its request; a part of an image is answered, but by a
standby that has not what comes before it. -/
def Obligations.PeerLinksAndRequests : Prop := ∀ (s : State) (l : Plane), hubUp s = true →
  (linkLive s l = true → (linkAt s l).up = true → ∃ t, exec (.peerLinkLost l) s = .next t ∧
    linkAt t l = { linkAt s l with up := false } ∧ (∀ k, k ≠ l → linkAt t k = linkAt s k) ∧ Frame [.peer, .gut] s t) ∧
  (linkLive s l = true → (linkAt s l).up = false → ∃ t, exec (.peerLinkReturn l) s = .next t ∧
    linkAt t l = { linkAt s l with up := true } ∧ (∀ k, k ≠ l → linkAt t k = linkAt s k) ∧ Frame [.peer, .gut] s t) ∧
  (∃ t, exec (.peerSfpInsertion l .tenGSR) s = .next t ∧ linkAt t l = { linkAt s l with sfpOk := true } ∧
    (∀ k, k ≠ l → linkAt t k = linkAt s k) ∧ Frame [.peer] s t) ∧
  (∀ kind, kind ≠ .tenGSR → ∃ t, exec (.peerSfpInsertion l kind) s = .next t ∧
    linkAt t l = { linkAt s l with sfpOk := false, up := false } ∧ (∀ k, k ≠ l → linkAt t k = linkAt s k) ∧ Frame [.peer, .gut] s t) ∧
  (isPair s = true → ∀ r, s.peer.openReqs.find? (fun r => r.sent != 0) = some r →
    (r.sent < 3 → respReserve < s.peer.reqOut.credits → ∃ t, exec .peerRequestTimeout s = .next t ∧
      t.peer.openReqs = s.peer.openReqs.map (fun x => if x.seq = r.seq then { x with sent := x.sent + 1, link := otherLink x.link } else x) ∧
      t.peer.reqOut = ⟨s.peer.reqOut.items ++ [{ seq := r.seq, link := otherLink r.link, body := r.body }], s.peer.reqOut.credits - 1⟩ ∧
      Frame [.peer] s t) ∧
    (3 ≤ r.sent → ∃ t, exec .peerRequestTimeout s = .next t ∧
      t.peer.openReqs.map OpenReq.seq = (s.peer.openReqs.map OpenReq.seq).filter (fun q => q != r.seq) ∧ Frame [.peer] s t)) ∧
  (∀ m, linkLive s l = true → peerValid ptResponse l m = true → bodyOf (pmPay m) = some .segmentAck → pmSender m ≠ masterId s →
    ∃ t, exec (.peerRequestReceive l m) s = .next t ∧ t.peer.openReqs = (s.peer.openReqs.filter fun r => r.seq != pmSeq m) ∧
      Frame [.lanes, .peer] s t) ∧
  (∀ m off last data, linkLive s l = true → peerValid ptRequest l m = true → bodyOf (pmPay m) = some (.segment off last data) →
      pmSender m ≠ masterId s → pmEpoch m ≤ epochKnown s → s.peer.reqOut.credits ≠ 0 →
    ∃ t, exec (.peerRequestReceive l m) s = .next t ∧ t.peer.openReqs = s.peer.openReqs ∧ t.peer.reqIn = s.peer.reqIn.send m ∧
      (s.mod.st ≠ .standby ∨ s.peer.seenReq.contains (pmSeq m) = true → t.lanes = s.lanes) ∧
      (s.mod.st ≠ .standby ∨ s.peer.seenReq.contains (pmSeq m) = true ∨ partFollows s off = true →
        { seq := pmSeq m, link := reqLink s, body := .segmentAck } ∈ t.peer.reqOut.items) ∧
      (s.mod.st = .standby → s.peer.seenReq.contains (pmSeq m) = false → partFollows s off = false →
        t.peer.reqOut = s.peer.reqOut ∧ t.lanes = s.lanes) ∧ Frame [.lanes, .peer] s t)

/-- A mirror block completes the item of its kind and cycle. -/
def Sys2Proof.Machine.blockCompletes (s : State) (m : List Byte) (p : MirrorPay) : Prop :=
  ∃ content, joined (keepBlock (blockOf (pmPay m)) s.peer.mirrorAsm) (blockOf (pmPay m)).kind (blockOf (pmPay m)).cycle = some content ∧
    itemOf (blockOf (pmPay m)).kind content = some p

/-- The group of a mirrored cycle. -/
def Sys2Proof.Machine.mirroredGroup (c : DWord) (recs : List JRec) : JGroup := { cycle := c, recs := recs, closed := true, held := false }

/-- R323, R329, R337 to R341: the standby discards another copy of a mirror block, keeps the blocks of an item until it is whole, and then
takes it: a group of a missed cycle, whose INPUTS and PRESENT are there, is applied to every working lane's region; one of a completed
cycle starts the standby's own computation, whose vote is compared with the holder's result: a difference, or no majority, is
SHADOW_MISMATCH, and the group is applied either way. A block with this module's own ID is PAIR_CONFLICT and no more. -/
def Obligations.MirrorFollowed : Prop := (∀ (s : State) (l : Plane) (m : List Byte), linkLive s l = true → s.mod.st = .standby →
    peerValid ptMirror l m = true → pmEpoch m ≤ epochKnown s →
  (pmSender m = masterId s → ∃ t, exec (.mirrorBlockReceive l m) s = .next t ∧ t.peer = { s.peer with conflict := true } ∧
    Frame [.peer, .gut] s t) ∧
  (pmSender m ≠ masterId s → s.peer.seenMirror.contains (pmSeq m) = true → ∃ t, exec (.mirrorBlockReceive l m) s = .next t ∧
    t.peer = { s.peer with crMirror := t.peer.crMirror, crReq := t.peer.crReq } ∧ Frame [.peer] s t) ∧
  (pmSender m ≠ masterId s → s.peer.seenMirror.contains (pmSeq m) = false →
    (joined (keepBlock (blockOf (pmPay m)) s.peer.mirrorAsm) (blockOf (pmPay m)).kind (blockOf (pmPay m)).cycle = none →
      ∃ t, exec (.mirrorBlockReceive l m) s = .next t ∧ t.peer.mirrorAsm = keepBlock (blockOf (pmPay m)) s.peer.mirrorAsm ∧
        t.peer.seenMirror = noteSeq s.peer.seenMirror (pmSeq m) ∧
        t.peer.backMirror = s.peer.backMirror + blocksOf (pmPay m).length ∧ Frame [.peer] s t) ∧
    (s.peer.groupWait = none → s.peer.mirrorHold = [] →
      (∀ asns tasks, blockCompletes s m (.present asns tasks) → ∃ t, exec (.mirrorBlockReceive l m) s = .next t ∧
        t.peer.mirrorPres = some ((blockOf (pmPay m)).cycle, .present asns tasks) ∧ Frame [.peer] s t) ∧
      (∀ crc sum, blockCompletes s m (.result crc sum) → ∃ t, exec (.mirrorBlockReceive l m) s = .next t ∧
        t.peer.result = some ((blockOf (pmPay m)).cycle, crc, sum) ∧ Frame [.peer] s t) ∧
      (∀ recs, blockCompletes s m (.group recs) → (closeDigest recs).isSome = true → s.peer.lastGroup + 1 = (blockOf (pmPay m)).cycle →
        (s.peer.mirrorIn = none ∨ s.peer.mirrorPres = none → ∃ t, exec (.mirrorBlockReceive l m) s = .next t ∧
          t.peer.groupWait = some (mirroredGroup (blockOf (pmPay m)).cycle recs) ∧ t.peer.lastGroup = (blockOf (pmPay m)).cycle ∧
          Frame [.peer] s t) ∧
        (∀ secs raw key sw sup st asns tasks,
            s.peer.mirrorIn = some ((blockOf (pmPay m)).cycle, .inputs secs raw key sw sup st) →
            s.peer.mirrorPres = some ((blockOf (pmPay m)).cycle, .present asns tasks) →
            exchangedIn s (mirroredGroup (blockOf (pmPay m)).cycle recs) = false →
          (hasDelta (mirroredGroup (blockOf (pmPay m)).cycle recs) = true → ∃ t, exec (.mirrorBlockReceive l m) s = .next t ∧
            t.peer.shadowC = some (blockOf (pmPay m)).cycle ∧
            t.peer.groupWait = some (mirroredGroup (blockOf (pmPay m)).cycle recs) ∧ t.cyc.released = tasks ∧ t.agr.shown = asns ∧
            (∀ d ∈ working s, (t.lanes.get d).todo = tasks ∧ (t.lanes.get d).region = (s.lanes.get d).region)) ∧
          (hasDelta (mirroredGroup (blockOf (pmPay m)).cycle recs) = false →
              (∀ w ∈ s.peer.fullWait, w.1 ≠ (blockOf (pmPay m)).cycle) → ∃ t, exec (.mirrorBlockReceive l m) s = .next t ∧
            t.peer.groupWait = none ∧ t.peer.lastApplied = (blockOf (pmPay m)).cycle ∧ t.cyc.abandoned = tasks ∧
            ∀ d ∈ working s, (t.lanes.get d).region =
              applyGroup (s.lanes.get d).region (mirroredGroup (blockOf (pmPay m)).cycle recs))))))) ∧
  (∀ (s : State) (g : JGroup) (r : Word × DWord) (a b c d : Bool), hubUp s = true → s.mod.st = .standby → s.peer.groupWait = some g →
      s.peer.result = some (g.cycle, r) → s.peer.shadowC = some g.cycle → s.cyc.k.toNat < g.cycle.toNat + 2 → s.peer.mirrorHold = [] →
      (∀ w ∈ s.peer.fullWait, w.1 ≠ g.cycle) →
    ∃ t, exec (.shadowComputationComplete a b c d) s = .next t ∧ t.peer.groupWait = none ∧ t.peer.shadowC = none ∧ t.mod.st = .standby ∧
      t.peer.lastApplied = g.cycle ∧ (∀ d ∈ working s, (t.lanes.get d).region = applyGroup (s.lanes.get d).region g) ∧
      (shadowVote s (shadowBallots s g ⟨a, b, c, d⟩) = none → t.peer.shadowOk = false ∧ t.cyc.done = s.cyc.done) ∧
      (∀ maj, shadowVote s (shadowBallots s g ⟨a, b, c, d⟩) = some maj → t.cyc.done = s.cyc.done + 1 ∧
        t.peer.shadowOk = (s.peer.shadowOk && decide (shadowField maj r ((closeDigest g.recs).getD 0) = 0))))

/-- R356, R358 to R360, R364, R367: 16 Sync offsets in a row within 100 us lock the PTP slave, 16 beyond 1 ms or a lost source unlock
it; a better grandmaster is taken; without a new TIME_SET for 24 h station time goes on in HOLDOVER; a window in which the hub's or
the supervisor's clock has run off leads to SAFE STOP at the next instant. -/
def Obligations.TimeSources : Prop := ∀ s : State, hubUp s = true →
  (∀ ofs : Int, ofs.natAbs ≤ 100 → ∃ t, exec (.ptpSync ofs) s = .next t ∧ t.time.ptpOfs = ofs ∧
    t.time.goodSync = s.time.goodSync + 1 ∧ t.time.badSync = 0 ∧
    t.time.ptpLock = (s.time.ptpLock || decide (15 ≤ s.time.goodSync)) ∧ t.time.ringNs = s.time.ringNs ∧ Frame [.time, .gut] s t) ∧
  (∀ ofs : Int, 1000 < ofs.natAbs → ∃ t, exec (.ptpSync ofs) s = .next t ∧ t.time.ptpOfs = ofs ∧ t.time.goodSync = 0 ∧
    t.time.ptpLock = (s.time.ptpLock && decide (s.time.badSync < 15)) ∧ Frame [.time, .gut] s t) ∧
  (∀ no, ∃ t, exec (.timeSourceLost no) s = .next t ∧ t.time.ptpLock = false ∧ t.time.gm = (if no then none else s.time.gm) ∧
    t.time.ringNs = s.time.ringNs ∧ t.time.supUs = s.time.supUs ∧ Frame [.time, .gut] s t) ∧
  (∀ m : Announce, (m.better = true ∨ s.time.gm = none ∨ s.time.gm = some m.gm) →
    exec (.ptpAnnounce m) s = .next { s with time := { s.time with
      gm := some m.gm, gmUtc := if m.utcValid then some m.utcOfs else none } }) ∧
  (∀ m : Announce, m.better = false → s.time.gm ≠ none → s.time.gm ≠ some m.gm → exec (.ptpAnnounce m) s = .next s) ∧
  (s.time.src = false → s.time.ref ≠ none → ∃ t, exec .timeSetHoldover s = .next t ∧ t.time = { s.time with ref := none } ∧
    (∀ l ∈ working s, stimeState (rgStime (s.lanes.get l).work) = .locked → (t.lanes.get l).work =
      rgSetStime (s.lanes.get l).work (stimeWord .holdover (stimeUs (rgStime (s.lanes.get l).work)))) ∧
    (∀ l, (t.lanes.get l).region = (s.lanes.get l).region) ∧ Frame [.time, .lanes] s t) ∧
  (∀ unread us counts, 100 ≤ s.cyc.window → counts = s.lanes.map (·.ticks) → ∃ t, exec (.clockWindowCheck unread us) s = .next t ∧ t.cyc.window = 0 ∧
    t.cyc.stopNext = (s.cyc.stopNext || strobeOff s counts || superOff s counts unread us) ∧
    (∀ l, (t.lanes.get l).withhold = ((s.lanes.get l).withhold || (oddClocks s counts).contains l) ∧ (t.lanes.get l).badStrobe = 0 ∧
      (t.lanes.get l).ticks = 0) ∧
    Frame [.cyc, .lanes, .gut] s t)

/-- R412, R413, R417 to R420, R423: a record enters the queue of its class behind those that wait, with the next SEQ; a full TRACE queue
gives up its oldest. EVTQ takes the oldest waiting alarm, then events; syslog takes nothing without budget; what syslog has taken
leaves on J11 in order. -/
def Obligations.RecordsQueue : Prop := ∀ s : State, hubUp s = true →
  (∀ g : GRecIn, g.unit < 4 → g.sev < 8 → g.cls < 3 → queueOf (handedRec s g) = .alarm → s.gut.store = [] → s.gut.alarm.credits ≠ 0 →
    (∃ d, (s.lanes.get d).role ≠ .retired) → ∃ t, exec (.gutterRecord g) s = .next t ∧
      t.gut.alarm = ⟨s.gut.alarm.items ++ [freshItem { handedRec s g with seq := s.gut.seqA }], s.gut.alarm.credits - 1⟩ ∧
      t.gut.seqA = s.gut.seqA + 1 ∧ t.gut.event = s.gut.event ∧ t.gut.trace = s.gut.trace ∧ Frame [.gut] s t) ∧
  (∀ g : GRecIn, g.unit < 4 → g.sev < 8 → g.cls < 3 → queueOf (handedRec s g) = .trace → s.gut.trace.credits = 0 → ringOn s qTRCQ = true →
    ∀ i rest, s.gut.trace.items = i :: rest → ∃ t, exec (.gutterRecord g) s = .next t ∧
      t.gut.trace.items = rest ++ [freshItem { handedRec s g with seq := s.gut.seqT }] ∧
      t.gut.trace.credits = 0 ∧ t.gut.lostTr.isSome = true ∧ t.gut.alarm = s.gut.alarm ∧ Frame [.gut] s t) ∧
  (∀ g : GRecIn, 0x8000 ≤ g.code.toNat → (handedRec s g).cls = g.cls ∧ (handedRec s g).sev = g.sev ∧ (handedRec s g).unit = 0) ∧
  (∀ g : GRecIn, g.code.toNat < 0x8000 → (handedRec s g).cls = codeCls g.code.toNat ∧ (handedRec s g).sev = codeSev g.code.toNat ∧
    (handedRec s g).unit = g.unit) ∧
  (∀ c i r, ringCan s qEVTQ = true → pathNext s .evtq = some (c, i, r) → ∃ t, exec (.gutterPathTake .evtq) s = .next t ∧
    t.host.posted = s.host.posted ++ [.mem (entryAddr (qAt s qEVTQ) qEVTQ (qAt s qEVTQ).idx) (recBytes r),
      .mem (qAt s qEVTQ).cWb (wbWord s ((qAt s qEVTQ).idx + 1))] ∧ Frame [.host, .gut] s t) ∧
  (∀ c i r, pathNext s .evtq = some (c, i, r) → (∃ x ∈ s.gut.alarm.items, x.evtq = false ∧ queueOf x.rec_ = .alarm) → c = .alarm) ∧
  (∀ l c i r, (s.lanes.get l).role ≠ .retired → pathNext s (.blackbox l) = some (c, i, r) →
    ∃ t, exec (.gutterPathTake (.blackbox l)) s = .next t ∧ (t.lanes.get l).bbWait = boxWait (s.lanes.get l).bbWait r ∧
      (∀ m, m ≠ l → t.lanes.get m = s.lanes.get m) ∧ Frame [.lanes, .gut] s t) ∧
  (s.gut.budget = 0 → exec (.gutterPathTake .syslog) s = .next s) ∧
  (∀ r rest, s.gut.sysq = r :: rest → exec .syslogSend s = .next { s with gut := { s.gut with
    sysq := rest, sent := some (sysMsg s r) } })

/-! ### Every command runs: when, and with what effect of its own -/

/-- Every position of a plane. -/
def Sys2Proof.Machine.onPlanes (p : RingId → Plane → Bool) : Bool := allPlanes.all fun x => p x.1 x.2

/-- The section of a node position at the front of the counted lanes' set queues. -/
def Sys2Proof.Machine.frontSect (s : State) (r : RingId) (pos : Nat) : Option SetItem :=
  agree2 (fronts s ((counted s).filter fun l => match ((s.lanes.get l).setq.get r.slot).items.head? with
    | some i => i.pos == pos
    | none => false) fun x => (x.setq.get r.slot).items)

/-- When a credit that returns lets its consumer take the front of the queue. -/
def Sys2Proof.Machine.creditActs (q : QueueId) (s : State) : Bool := match q with
  | .ringInput r l => (s.rings.hand.get l).isEmpty && !((s.lanes.get l).ringIn.get r.slot).items.isEmpty
  | .commandIntake l => (s.host.cmdHand.get l).isEmpty && !(s.lanes.get l).cmdIn.items.isEmpty
  | .purlin src dst => !((s.lanes.get dst).purlin.get src).items.isEmpty
  | .setQueue _ _ => true
  | .completion _ => true
  | .indication _ => s.cyc.agreedIn
  | .mirror => (mirrorLink s).isSome && (match s.peer.mirrorQ.items with | m :: _ => blocksOf m.pay.length ≤ s.peer.crMirror | [] => false)
  | .peerRequest true => match s.peer.reqOut.items with
    | m :: _ => linkUp s m.link && respReserve < s.peer.crReq && s.peer.openReqs.isEmpty
    | [] => false
  | .peerRequest false => !s.peer.reqIn.items.isEmpty
  | .lease true => !s.peer.leaseOut.isEmpty
  | .lease false => !s.peer.leaseIn.isEmpty
  | .mramWrite l => (s.lanes.get l).jWait.isEmpty && (match (s.lanes.get l).mramq.items with | .burst _ :: _ => true | _ => false)
  | .gutterAlarm => true
  | .gutterEvent => true
  | .gutterTrace => true
  | .bulkIn l => match (s.lanes.get l).bulkIn.items with
    | b :: _ => xfrId b.entry != injId && isActive s && (runningLoad (lead s).work).isNone && (s.host.bulkHand.get l).isEmpty &&
        (counted s).any fun d => (s.lanes.get d).injSegs.isEmpty
    | [] => false
  | .bulkOut => ringCan s qXFROUT && !s.host.bulkOut.items.isEmpty
  | .errorQueue => ringCan s qERRQ && !s.host.errq.items.isEmpty

/-- What it took, and what followed. -/
def Sys2Proof.Machine.creditDone (q : QueueId) (s t : State) : Bool := match q with
  | .ringInput r l => (t.lanes.get l).ringIn.get r.slot == ((s.lanes.get l).ringIn.get r.slot).free
  | .commandIntake l => (t.lanes.get l).cmdIn == (s.lanes.get l).cmdIn.free
  | .purlin src dst => (t.lanes.get dst).purlin.get src == ((s.lanes.get dst).purlin.get src).free
  | .setQueue r l => (t.lanes.get l).setq.get r.slot == (((s.lanes.get l).setq.get r.slot).sendAll ((s.lanes.get l).sImage.get r.slot)).1
  | .completion _ => t == s
  | .indication l => t.lanes.get l == sendInds (s.lanes.get l)
  | .mirror => t.peer.seqMirror == s.peer.seqMirror + 1
  | .peerRequest true => t.peer.reqOut == s.peer.reqOut.free && t.peer.crReq + 1 == s.peer.crReq
  | .peerRequest false => t.peer.reqIn == s.peer.reqIn.free
  | .lease true => t.peer.leaseOut == s.peer.leaseOut.drop 1
  | .lease false => t.peer.leaseIn == s.peer.leaseIn.drop 1
  | .mramWrite l => (t.lanes.get l).mramq == (s.lanes.get l).mramq.free
  | .gutterAlarm => t.gut == (gutDrain s .alarm).gut
  | .gutterEvent => t.gut == (gutDrain s .event).gut
  | .gutterTrace => t.gut == (gutDrain s .trace).gut
  | .bulkIn l => (t.lanes.get l).bulkIn == (s.lanes.get l).bulkIn.free
  | .bulkOut => t.host.bulkOut == s.host.bulkOut.free && (qAt t qXFROUT).idx == (qAt s qXFROUT).idx + 1
  | .errorQueue => t.host.errq == s.host.errq.free && (qAt t qERRQ).idx == (qAt s qERRQ).idx + 1

/-- A presentation passes the tests of R485. -/
def Sys2Proof.Machine.presentActs (asn : DWord) (op step : Nat) (s : State) : Bool :=
  presentable s asn && match theYealm s, cmdFind (lead s).work asn.toNat with
    | some y, some (_, e) => e.opcode == op && e.step == step && e.asn == asn.toNat &&
        (presentTests s y (viewMem (lead s)) e (presentedDesc s asn)).isNone
    | _, _ => false

/-- The command is shown to the command task; one of the runtime's own has its effect besides: its decision, or what it writes into the
retained state. -/
def Sys2Proof.Machine.presentDone (asn : DWord) (op step : Nat) (s t : State) : Bool :=
  t.agr.shown == s.agr.shown ++ [asn] && t.agr.toShow == s.agr.toShow.drop 1 && match cmdFind (lead s).work asn.toNat with
    | none => true
    | some (_, e) => (working s).all fun l =>
        let x := s.lanes.get l
        let logs (m : Mem) : Bool := (t.lanes.get l).log == x.log ++ logDelta (viewMem x) m
        if op = 0x13 || op = 0x14 then (t.lanes.get l).verdicts.any (fun v => v.asn == asn)
        else if op = 0x12 then logs (rgSetExch (viewMem x) (fldLE (dParam (presentedDesc s asn)) 0 8) e.asn)
        else if op = 0x10 then
          logs (rgSetTset (viewMem x) (fldLE (dParam (presentedDesc s asn)) 0 8) (fldLE (dParam (presentedDesc s asn)) 8 4) e.asn)
        else if op = 0x11 || op = 0x15 then logs (openXfer s.cyc.k.toNat e (dParam (presentedDesc s asn)) (viewMem x))
        else if step = 1 then logs (openReq s.cyc.k.toNat e (viewMem x))
        else if step = 2 then
          (x.log ++ logDelta (viewMem x) (closeReq e (dRef (presentedDesc s asn)) (viewMem x))).isPrefixOf (t.lanes.get l).log &&
            (op != 0x08 || (t.lanes.get l).verdicts.any fun v => v.asn == asn)
        else (t.lanes.get l).log == x.log

/-- The outcome of the vote stands. -/
def Sys2Proof.Machine.voteDone (s t : State) : Bool := match takeVote s with
  | .completed maj _ => t.cyc.voted && t.cyc.misses == 0 && t.cyc.majDigest == maj.digest
  | .missed _ _ => t.cyc.missed && t.cyc.misses == s.cyc.misses + 1

/-- The copy that a lane receives is the same from both sources, has the majority digest, and belongs to the yealm in force. -/
def Sys2Proof.Machine.copyGood (l : Lane) (d1 d2 : List RWrite) (s : State) : Bool :=
  match copySources s, activeImage (s.lanes.get l).mram with
  | a :: r, some y =>
    applyWrites (s.lanes.get a).region d1 == applyWrites (s.lanes.get (r.headD a)).region d2 &&
      digestWhole (regionWords y) (applyWrites (s.lanes.get a).region d1) == s.cyc.majDigest && y.crc64 == s.mod.ycrc
  | _, _ => false

/-- A record of the queues' alarm class, which has room. -/
def Sys2Proof.Machine.alarmRoom (g : GRecIn) (s : State) : Bool :=
  g.unit < 4 && g.sev < 8 && g.cls < 3 && queueOf (handedRec s g) == .alarm && s.gut.store.isEmpty && s.gut.alarm.credits != 0 &&
    Lane.all.any fun d => (s.lanes.get d).role != .retired

/-- What a path needs to take its next record. -/
def Sys2Proof.Machine.pathActs (p : GPath) (s : State) : Bool := hubUp s && attached s p && (pathNext s p).isSome && match p with
  | .evtq => ringCan s qEVTQ
  | .trcq => ringCan s qTRCQ && s.gut.lostTr.isNone
  | .syslog => s.gut.budget != 0
  | .blackbox _ => true

/-- The record is where the path leads. -/
def Sys2Proof.Machine.pathDone (p : GPath) (s t : State) : Bool := match pathNext s p with
  | none => false
  | some (_, _, r) => match p with
    | .evtq => (qAt t qEVTQ).idx == (qAt s qEVTQ).idx + 1
    | .trcq => (qAt t qTRCQ).idx == (qAt s qTRCQ).idx + 1
    | .syslog => t.gut.sysq == s.gut.sysq ++ [r]
    | .blackbox l => (t.lanes.get l).bbWait == boxWait (s.lanes.get l).bbWait r

/-- The image of the running IMAGE_LOAD goes on with a segment in every voting lane, whose queues are empty. -/
def Sys2Proof.Machine.loadGoesOn (e data : List Byte) (s : State) : Bool := match runningLoad (lead s).work with
  | none => false
  | some (_, x) => isActive s && !isPair s && xfrCrcOk e && xfrId e == x.xfrId && data.length ≤ 8192 && Lane.all.all fun l =>
      (s.lanes.get l).bulkIn.items.isEmpty && (s.lanes.get l).bulkIn.credits != 0 && (s.host.bulkHand.get l).isEmpty &&
        (s.lanes.get l).bulkOff == 0 && (s.lanes.get l).bulkCyc == 0 && (s.lanes.get l).injSegs.isEmpty &&
        ((s.lanes.get l).role != .voting || ((shadowBank (s.lanes.get l).mram).state == .loading && !(shadowBank (s.lanes.get l).mram).full &&
          segFits e data (shadowBank (s.lanes.get l).mram).size (loadSize x)))

/-- A segment of injected values in TEST, which every lane takes whole. -/
def Sys2Proof.Machine.injectionGood (e data : List Byte) (s : State) : Bool := match theYealm s with
  | none => false
  | some y => xfrCrcOk e && 2 ≤ (counted s).length && data.length ≤ 8192 && injBad s y data == none && Lane.all.all fun l =>
      (s.lanes.get l).bulkIn.items.isEmpty && (s.lanes.get l).bulkIn.credits != 0 && (s.host.bulkHand.get l).isEmpty &&
        (s.lanes.get l).bulkOff == 0 && (s.lanes.get l).bulkCyc == 0 && (s.lanes.get l).injSegs.isEmpty

/-- The SFP kinds that a ring cage takes (R184). -/
def Sys2Proof.Machine.ringKind (k : SfpKind) : Bool := k == .sx || k == .lx || k == .lx10

/-- The code that a set-up error leaves in ERRSTAT. -/
def Sys2Proof.Machine.errDone (code : Nat) (s t : State) : Bool :=
  t.host.seen == s.host.seen ||| BitVec.ofNat 9 (2 ^ (code - 1)) && t.host.errcnt == s.host.errcnt + 1

/-- When a command acts as its row of the opcode table says: the conditions that its rules put on the state and the operands. In
other states the command is turned away, waits, or takes another course, which other statements tell. -/
def Sys2Proof.Machine.acts (c : Instr) (s : State) : Bool := match c with
  | .commonInstant _ _ => hubUp s
  | .gFrameLaunch => canLaunch s && framesDue s
  | .ringSectionArrival r p f _ => hubUp s && s.peer.held && ownFrame s (f.take 64) &&
      !(planeAt s r p).got.contains (hdrType (f.take 64), hdrFirst (f.take 64), hdrCycle (f.take 64))
  | .inputClose => hubUp s && !s.cyc.closed
  | .inputAgreement _ _ _ => hubUp s && !s.cyc.agreedIn
  | .inputDiverge => hubUp s && s.cyc.opened && s.cyc.k.toNat % 100 == 0
  | .taskEnd _ task _ _ => (inWindow s || inShadow s) && (match theYealm s with | some y => (taskEnt y task).isSome | none => false)
  | .trussEvaluationComplete _ _ => inWindow s || inShadow s
  | .voteDeadline => inWindow s
  | .ridgeVote => voteOpen s && !s.cyc.barred && allArrived s
  | .ballotArrival src k => hubUp s && s.cyc.opened && k == s.cyc.k && (s.lanes.get src).ballot.isSome && !s.cyc.voted && !s.cyc.missed &&
      (s.cyc.ballots.get src).isNone
  | .voteCompleteLimit => voteOpen s && !s.cyc.barred
  | .setQueuePush => hubUp s && s.cyc.voted && !s.cyc.pushed
  | .hubForwardItem (.sect r pos) => hubUp s && (frontSect s r pos).isSome
  | .hubForwardItem .completion => hubUp s && (agree2 (fronts s (counted s) fun x => x.cplq.items)).isSome && ringCan s qCPLQ && !s.host.cplHeld
  | .hubForwardItem .indication => hubUp s && (agree2 (fronts s (counted s) fun x => x.indq.items)).isSome && ringCan s qINDQ
  | .sFrameLaunch => canLaunch s && framesDue s && !s.cyc.sent
  | .mramWriteComplete l => hubUp s && (s.lanes.get l).role != .retired && (s.lanes.get l).jWait.isEmpty &&
      (match (s.lanes.get l).mramq.items with | .group _ :: _ => true | .blackbox _ :: _ => true | _ => false)
  | .snapshotComplete l => hubUp s && (match (s.lanes.get l).snapRun with
      | some (_, p) => ((s.lanes.get l).mram.snaps.get p).isSome
      | none => false)
  | .diagnosticRelease => hubUp s && (s.mod.st.runs || s.mod.st == .indicate) && s.cyc.k.toNat % cyclesPer100 s == 0
  | .diagnosticEnd _ _ _ => hubUp s && s.cyc.diagRun && diagTime s
  | .diagnosticLimit => hubUp s
  | .laneSleep l => hubUp s && laneIdle s (s.lanes.get l)
  | .laneWake l => hubUp s && !(s.lanes.get l).stopped
  | .completionDelivered => hubUp s && !(s.host.cplRep.isEmpty && s.host.indRep.isEmpty)
  | .creditReturn q => hubUp s && creditActs q s
  | .lockstepMismatch l _ => hubUp s && lockstepLive s (s.lanes.get l)
  | .stopFlit src => hubUp s && (s.lanes.get src).stopped && !s.cyc.stops.get src && (s.cyc.toExcl.get src).isNone
  | .bistSliceStart (.lane l) => hubUp s && (s.lanes.get l).bist.pass.isSome && !(s.lanes.get l).bist.running && !(s.lanes.get l).bist.reinit &&
      (s.lanes.get l).role != .retired && s.cyc.rejoiner != some l && !needsPeers (s.lanes.get l).bist.slice
  | .bistSliceStart .hub => hubUp s && s.hub.pass.isSome && !s.hub.running
  | .bistSliceEnd (.lane l) r => hubUp s && (s.lanes.get l).bist.running && (s.lanes.get l).bist.slice < 799 && (s.lanes.get l).bist.suspect.isEmpty &&
      r.matched && r.elapsedUs ≤ sliceBudget (s.lanes.get l).bist.slice && r.rows.isEmpty && r.cols.isEmpty && r.sectors.isEmpty &&
      injectPassed s (s.lanes.get l).bist.slice
  | .bistSliceEnd .hub r => hubUp s && s.hub.running && s.hub.slice < 47 && r.matched && r.elapsedUs ≤ 20000 && r.rows.isEmpty && r.cols.isEmpty
  | .blockReinitComplete l => hubUp s && (s.lanes.get l).bist.reinit
  | .rotationDue => hubUp s && swOn s 18 && s.cyc.mode == .tooThree &&
      (match theYealm s with | some y => rotationCycles y ≤ s.cyc.sinceJoin | none => false)
  | .retainedStateCopyReceived l d1 d2 => hubUp s && s.cyc.copyNow && (s.lanes.get l).role == .copy && !(s.lanes.get l).copied && copyGood l d1 d2 s
  | .yealmFetchComplete l _ => hubUp s && s.mod.boot.agreed && !holdsActive s l && (s.lanes.get l).role != .retired &&
      (match fetchSource s l with | some src => (activeBank (s.lanes.get src).mram).isSome | none => false)
  | .debugHalt l => hubUp s && haltAllowed s (s.lanes.get l)
  | .debugRelease l => hubUp s && (s.lanes.get l).role == .halted
  | .digestRecompute l => hubUp s && s.cyc.done != 0 && s.cyc.done % 1024 == 0 && (s.lanes.get l).role == .voting
  | .sramScrub l _ _ => hubUp s && s.cyc.done != 0 && s.cyc.done % 100000 == 0 && (s.lanes.get l).role == .voting
  | .eccCorrected l _ => hubUp s && (s.lanes.get l).role != .retired
  | .eccUncorrectable l => hubUp s && (s.lanes.get l).role == .voting
  | .trussStats => hubUp s && s.cyc.done != 0 && s.cyc.done % 100000 == 0
  | .planeStats => hubUp s && s.cyc.voted && s.cyc.done % 1000 == 0
  | .routeSet asn => presentActs asn 0x01 0 s
  | .routeCancel asn => presentActs asn 0x02 0 s
  | .pointMove asn => presentActs asn 0x03 0 s
  | .signalRestore asn => presentActs asn 0x04 0 s
  | .block asn => presentActs asn 0x05 0 s
  | .unblock asn => presentActs asn 0x06 0 s
  | .auxReleaseRequest asn => presentActs asn 0x07 1 s
  | .auxReleaseConfirm asn => presentActs asn 0x07 2 s
  | .restartReleaseRequest asn => presentActs asn 0x08 1 s
  | .restartReleaseConfirm asn => presentActs asn 0x08 2 s
  | .timeSet asn => presentActs asn 0x10 0 s
  | .imageLoad asn => presentActs asn 0x11 0 s
  | .imageExchange asn => presentActs asn 0x12 0 s
  | .rotateNow asn => presentActs asn 0x13 0 s
  | .shutdown asn => presentActs asn 0x14 0 s
  | .journalRead asn => presentActs asn 0x15 0 s
  | .commandExpiry asn => inWindow s && isActive s && (lead s).ballot.isNone &&
      (match cmdFind (lead s).work asn.toNat with | some (_, c) => expired s c && c.asn == asn.toNat | none => false)
  | .requestLapse => inWindow s && isActive s && (lead s).ballot.isNone
  | .journalStall => hubUp s && isActive s && 50 ≤ s.agr.waited && !s.agr.stalled
  | .hostFetch => hubUp s && s.agr.notBelong == 8 && s.gut.store.isEmpty && s.gut.alarm.credits != 0
  | .xfrqInSegment e data => bulkReady s && xfrId e != injId && loadGoesOn e data s
  | .transferTimeout => hubUp s && isActive s && (match runningLoad (lead s).work with
      | some (_, x) => x.doneB < loadSize x && x.lastc + cyclesPer10s s ≤ s.cyc.k.toNat
      | none => false)
  | .yealmVerified l => hubUp s && (shadowBank (s.lanes.get l).mram).state == .loading && (shadowBank (s.lanes.get l).mram).full &&
      (runningLoad (lead s).work).isNone
  | .journalReadSegment l => isActive s && ringCan s qXFROUT && s.host.bulkOut.items.isEmpty && s.host.bulkOut.credits != 0 &&
      (s.lanes.get l).role != .retired && !(s.lanes.get l).stopped && (runningRead s l).isSome
  | .inputInjectionSegment e data => bulkReady s && xfrId e == injId && injectionGood e data s
  | .exchangeBoundary => hubUp s && s.mod.st.runs && s.cyc.voted && s.mod.exch == .idle && rgExchX (lead s).work == s.cyc.k.toNat + 1 &&
      !(lead s).verdicts.any (fun v => v.asn.toNat == rgExchAsn (lead s).work) && (boundaryRefuse s).isNone
  | .exchangeCopyComplete bad => hubUp s && s.mod.exch == .copying && (voting s).all fun l => !bad.get l
  | .exchangeReloadComplete => hubUp s && s.mod.exch == .reloading
  | .restartDecision => hubUp s && s.mod.st == .indicate && s.mod.boot.decided.isNone
  | .restartLockExpiry a => isActive s && a < 16 && areaLocked (lead s).work a && areaExpiry (lead s).work a ≤ s.cyc.k.toNat
  | .ringSfpInsertion _ _ _ => hubUp s
  | .sfpDiagRead _ _ _ _ _ => hubUp s
  | .discoverLaunch => canLaunch s
  | .discoverReturn r p _ _ _ => canLaunch s && !(planeAt s r p).txD.isEmpty
  | .timingLaunch => canLaunch s
  | .ringTopology r p => canLaunch s && ringOpen s r && (planeAt s r p).started && ((planeAt s r p).off || notReturned s (planeAt s r p))
  | .periodicTiming => canLaunch s && s.cyc.k.toNat % 1000 == 0
  | .periodicDiscover => canLaunch s && s.cyc.k.toNat % 100 == 0
  | .planeLost r p => canLaunch s && ringOpen s r && !(planeAt s r p).lost
  | .portLinkUp r p own => hubUp s && (!own || (planeAt s r p).sfpOk)
  | .foreignMasterFrame r p f => hubUp s && ringHdr (f.take 64) && s.peer.held && !s.rings.backedOff.get r.slot && !s.rings.backNext.get r.slot &&
      ranksAbove (hdrEpoch (f.take 64)) (hdrMid (f.take 64)) s.peer.epoch.toNat (masterId s)
  | .ringRelay _ _ f => hubUp s && isPair s && !s.peer.held && ringHdr (f.take 64)
  | .relayedLaunch _ _ _ => hubUp s && isPair s && !s.peer.held
  | .lFrameSend l => powered s && !(s.lanes.get l).stopped && (s.lanes.get l).role != .retired && !portTested (s.lanes.get l)
  | .lFrameReceive l d => s.mod.st != .off && (match (s.lanes.get l).txBuf.getLast? with
      | some b => lValid l (s.eaves.rcv.get l).seq (damaged b d)
      | none => false)
  | .eFrameReceive l n d => powered s && !portTested (s.lanes.get l) &&
      eValid l (s.lanes.get l).rxSeq (damaged (eBytes (eFrameNow s.eaves l ((s.eaves.rcv.get l).eSeq + BitVec.ofNat 8 (n + 1)))) d)
  | .battenReceiverTimeout _ => s.mod.st != .off
  | .battenDeadline _ => powered s
  | .eavesCommonInstant _ _ => s.mod.st != .off && (markedCycle s.eaves).isSome
  | .eavesConfigInForce => s.mod.st != .off && (match cfgDue s.eaves with
      | some b => s.eaves.cfg.map (·.crc) != some (eavesCfgOf b).crc
      | none => false)
  | .eavesWindowEnd _ _ => s.mod.st != .off
  | .filterChange c i => s.mod.st != .off && pulsed s i && i < (chainAt s c).ins.length && filterDue (filtOf s i) (chainIn (chainAt s c) i)
  | .inputFaultSet c i => s.mod.st != .off && pulsed s i && i < (chainAt s c).ins.length
  | .inputFaultClear c i => s.mod.st != .off && pulsed s i && i < (chainAt s c).ins.length && 2000 ≤ (chainIn (chainAt s c) i).nGood
  | .sourceFaultSet c i => s.mod.st != .off && i < (chainAt s c).srcFault.length && 3 ≤ (chainAt s c).srcBad.getD i 0
  | .sourceFaultClear c i => s.mod.st != .off && i < (chainAt s c).srcFault.length && 2000 ≤ (chainAt s c).srcGood.getD i 0
  | .discTimerExpiry c i => s.mod.st != .off && s.eaves.cfg.isSome && i < (chainAt s c).pairs.length &&
      (match ((chainAt s c).pairs.getD i {}).timer with | some n => discWindows s i ≤ n | none => false)
  | .discClear c i => s.mod.st != .off && s.eaves.cfg.isSome && i < (chainAt s c).pairs.length && pairFilt s i ≤ ((chainAt s c).pairs.getD i {}).nOff
  | .counterGateEnd c i _ _ => s.mod.st != .off && 56 ≤ i && i - 56 < (chainAt s c).ctrs.length &&
      (match s.eaves.cfg with | some g => (inEnt g i).mode == 3 | none => false)
  | .readbackReading _ => s.mod.st != .off
  | .testPulseStart (.chan c) => s.mod.st != .off && c < s.eaves.outs.length && s.eaves.j == c / 8 && energised s.eaves c && netDriven s.eaves c &&
      !(chanAt s.eaves c).changed && (match s.eaves.cfg with | some g => (outEnt g c).used && (outEnt g c).par == 0 | none => false)
  | .testPulseStart (.master g) => s.mod.st != .off && s.eaves.cfg.isSome && s.eaves.j == slotJ (.master g) && masterSlot s.eaves g == .pulse
  | .testPulseEnd (.chan c) _ _ => c < s.eaves.outs.length && (chanAt s.eaves c).pulsing &&
      (match s.eaves.cfg with | some g => (outEnt g c).par == 0 | none => false)
  | .testPulseEnd (.master g) _ _ => (s.eaves.groups.get g).pulsing
  | .crossWindowEnd => s.mod.st != .off && s.eaves.j == 3
  | .outputTrip c => s.mod.st != .off && energised s.eaves c && overCurrent s.eaves c
  | .tripRetry c => s.mod.st != .off && (chanAt s.eaves c).latch == .tripped && readingsPerS ≤ (chanAt s.eaves c).since && netDriven s.eaves c
  | .retryCountReset c => s.mod.st != .off && energised s.eaves c && 60 * readingsPerS ≤ (chanAt s.eaves c).since
  | .fieldSupplyLow g => s.mod.st != .off && supplyAt s.eaves g < 192 && !(s.eaves.groups.get g).warn
  | .fieldSupplyRecover g => s.mod.st != .off && 197 ≤ supplyAt s.eaves g
  | .fieldSupplyCut g => s.mod.st != .off && 40 ≤ (s.eaves.groups.get g).low && !(s.eaves.groups.get g).cut
  | .cutClear g => s.mod.st != .off && readingsPerS ≤ (s.eaves.groups.get g).high
  | .hpctlOpen => hubUp s && !s.host.en && s.host.quiesced
  | .hpctlClose => hubUp s
  | .quiesceComplete => hubUp s && !s.host.en && !s.host.quiesced
  | .doorbell q v _ => hubUp s && q.val < s.host.q.length && 0 < (v - (qAt s q).db).toNat && (v - (qAt s q).db).toNat < 2 ^ 31 &&
      (if q.val < 2 then (v - (qAt s q).idx).toNat else ((qAt s q).idx - v).toNat) ≤ (qAt s q).cSize
  | .qctlWrite q _ => hubUp s && q.val < s.host.q.length
  | .msixSend v => hubUp s && s.host.en && s.host.msixEn && s.host.bme && !s.host.d3 && s.host.vecDue.getLsbD v
  | .msixUnmask v => hubUp s && v.val < s.host.msix.length
  | .unsupportedRequest _ _ => hubUp s
  | .poisonedRequest _ => hubUp s
  | .bar0ReadTimeout _ => hubUp s
  | .postedWriteFail _ => hubUp s
  | .moduleRequestFail _ _ => hubUp s
  | .errstatClear _ _ => hubUp s
  | .pairLoRead off => hubUp s && (off == 0x508 || off == 0x510 || off == 0x518)
  | .bootoptSplit _ => hubUp s
  | .bootoptLoad _ => hubUp s
  | .bootoptActivate _ => hubUp s
  | .timecfgSrc _ => hubUp s
  | .timecfgDomain d => hubUp s && d < 128
  | .timecfgUtcOfs _ => hubUp s
  | .maintPortWrite off _ => hubUp s && (off == 0x600 || off == 0x604 || off == 0x608 || off == 0x60C || off == 0x610)
  | .registerWrite .bar0 off _ => hubUp s && 0x200 ≤ off && off < 0x400 && s.host.q.length == 8 && off % 64 == 0
  | .registerWrite .bar4 off _ => hubUp s && off < 0x80 && s.host.msix.length == 8 && (off % 16 == 0 || off % 16 == 4 || off % 16 == 8)
  | .registerWrite .msixControl _ _ => hubUp s
  | .registerWrite .deviceControl _ _ => hubUp s
  | .registerWrite .deviceControl2 _ _ => hubUp s
  | .registerWrite .aerStatus _ _ => hubUp s
  | .registerWrite .linkTrained _ v => hubUp s && 1 ≤ bitsAt v.toNat 3 0 && bitsAt v.toNat 3 0 ≤ 3 &&
      (bitsAt v.toNat 9 4 == 1 || bitsAt v.toNat 9 4 == 2 || bitsAt v.toNat 9 4 == 4)
  | .perst => hubUp s
  | .renewRelease => renews s && (agreedRenew (advanceTo s (periodNs s - 50000))).isSome
  | .renewReceive l m => linkLive s l && peerValid ptRenew l m && m.length == 100 && !s.peer.held && s.mod.st == .standby &&
      epochKnown s ≤ pmEpoch m && pmSender m != masterId s && !s.peer.seenLease.contains (pmSeq m)
  | .beatSend => hubUp s && isPair s && s.mod.st == .standby
  | .beatReceive l m => linkLive s l && peerValid ptBeat l m && m.length == 100 && s.peer.held && epochKnown s ≤ pmEpoch m &&
      pmSender m != masterId s && !s.peer.seenLease.contains (pmSeq m)
  | .linkSend l => linkLive s l && !s.ul.leaseInh
  | .linkReceive l m _ => linkLive s l && peerValid ptLink l m && pmSender m != masterId s && (linkAt s l).rxSeq != pmSeq m
  | .leaseExpired => s.mod.st != .off && s.ul.leaseRun
  | .leaseClaim => s.peer.groupWait.isNone && (match s.peer.renew with | some r => mayClaim s r | none => false)
  | .pairStartClaim => hubUp s && isPair s && s.mod.st == .boot && s.mod.boot.agreed && !s.mod.boot.split && !s.mod.boot.swBad && !s.peer.held &&
      !s.peer.conflict && !s.peer.heard
  | .masteryTest => hubUp s && s.mod.st.runs && s.cyc.sent && s.peer.claimPlanes.isSome
  | .peerLinkLost l => linkLive s l && (linkAt s l).up
  | .peerLinkReturn l => linkLive s l && !(linkAt s l).up
  | .peerSfpInsertion _ _ => hubUp s
  | .mirrorBlockReceive l m => linkLive s l && s.mod.st == .standby && peerValid ptMirror l m && pmEpoch m ≤ epochKnown s && pmSender m != masterId s &&
      !s.peer.seenMirror.contains (pmSeq m) &&
      (joined (keepBlock (blockOf (pmPay m)) s.peer.mirrorAsm) (blockOf (pmPay m)).kind (blockOf (pmPay m)).cycle).isNone
  | .shadowComputationComplete _ _ _ _ => hubUp s && s.mod.st == .standby && s.peer.mirrorHold.isEmpty && (match s.peer.groupWait, s.peer.result with
      | some g, some (c, _) => c == g.cycle && s.peer.shadowC == some g.cycle && s.cyc.k.toNat < g.cycle.toNat + 2 && s.peer.fullWait.all fun w => w.1 != g.cycle
      | _, _ => false)
  | .peerRequestReceive l m => linkLive s l && peerValid ptResponse l m && bodyOf (pmPay m) == some .segmentAck && pmSender m != masterId s
  | .peerRequestTimeout => hubUp s && isPair s && respReserve < s.peer.reqOut.credits && (match s.peer.openReqs.find? (fun r => r.sent != 0) with
      | some r => r.sent < 3
      | none => false)
  | .ptpSync _ => hubUp s
  | .timeSourceLost _ => hubUp s
  | .timeSetHoldover => hubUp s && !s.time.src && s.time.ref.isSome
  | .clockWindowCheck _ _ => hubUp s && 100 ≤ s.cyc.window
  | .supplyStart _ pressed => s.mod.st == .off && !s.time.supLost && !pressed
  | .supplyLow b => s.mod.st != .off && !s.ul.warn && 145 ≤ b && b < 180
  | .supplyRecovery _ _ => s.mod.st != .off && s.ul.warn && s.ul.dipCycle.isSome
  | .supplyReset => s.mod.st != .off
  | .rstRelease us => s.mod.st != .off && s.ul.orderly.isNone && s.ul.pressed && s.ul.button == .pressed && 100000 ≤ us && us ≤ 5000000
  | .resetStuck => s.mod.st != .off && s.ul.button == .pressed
  | .rstRearm => s.mod.st != .off && !s.ul.pressed && s.ul.button == .stuck
  | .orderlyReset => s.mod.st != .off && s.ul.orderly == some .reset && (s.ul.stopAt || noCycleToEnd s.mod.st)
  | .keyPatternStable => hubUp s && s.mod.st != .boot && s.mod.st != .indicate && 50 ≤ keyHeldMs s && s.ctl.next.isNone &&
      (keyPattern s.ctl.agreed s.ctl.contacts).isSome && keyPattern s.ctl.agreed s.ctl.contacts != s.ctl.pos
  | .keyAllOpenTimeout => hubUp s && s.mod.st != .boot && s.mod.st != .indicate && 2000 < keyHeldMs s && s.ctl.next.isNone && s.ctl.agreed &&
      s.ctl.contacts == 0 && s.ctl.pos != some .invalid
  | .sealChange => hubUp s && s.ctl.swValid
  | .switchSense l => hubUp s && 100 ≤ (s.lanes.get l).swDiff && !(s.lanes.get l).sense
  | .hubWatchdog => s.mod.st != .off && !s.ul.wdog
  | .junctionOvertemp (.lane l) => hubUp s && (s.lanes.get l).role == .voting
  | .junctionOvertemp .hub => hubUp s
  | .diesOutOfReset _ => hubUp s && s.mod.st == .boot && !s.mod.boot.diesOut
  | .bootRecordCheck _ => hubUp s && s.mod.st == .boot && s.mod.boot.diesOut && !s.mod.boot.checked && 2 ≤ (aliveLanes s).length
  | .bootYealmAgreed => hubUp s && s.mod.st == .boot && s.mod.boot.checked && !s.mod.boot.agreed && !s.ul.optActivate && !s.mod.boot.noImage &&
      !splitAsked s && !isPair s && 2 ≤ ((aliveLanes s).filter fun l => (s.lanes.get l).checked).length &&
      (aliveLanes s).all fun l => match activeBank (s.lanes.get l).mram with
        | some b => (match verify l (s.lanes.get l).sw false (bankBytes b) with | .ok y => y.crc64 == s.mod.ycrc | .refused _ _ => false)
        | none => false
  | .ringStartComplete => hubUp s && indicateReady s && ringsStarted s
  | .indicateGather => hubUp s && s.mod.st == .indicate && s.mod.boot.b.isNone && s.cyc.k.toNat % cyclesPer100 s == 0
  | .bootShadowStart => hubUp s && s.mod.st == .indicate && s.mod.boot.decided.isSome && s.mod.boot.b.isNone && s.ul.orderly.isNone &&
      3 ≤ (bootLanes s).length && (chosenDigest s).isSome && s.mod.boot.started
  | .shutdownBegin => hubUp s && s.ul.orderly == some .shutdown && (s.ul.stopAt || shutAtOnce s.mod.st) && s.mod.st != .boot
  | .shutdownDone => hubUp s && s.mod.shutPass && s.hub.pass.isNone && (aliveLanes s).all fun l => (s.lanes.get l).bist.pass.isNone
  | .mramWriteFault l _ => hubUp s && (s.lanes.get l).role != .retired && sectFree (s.lanes.get l).mram != 0
  | .mramUncorrectableRead l n => hubUp s && (s.lanes.get l).role != .retired && sectFree (s.lanes.get l).mram != 0 &&
      8 ≤ areaSector (s.lanes.get l).mram n
  | .gutterRecord g => hubUp s && alarmRoom g s
  | .gutterPathTake p => pathActs p s
  | .syslogSend => hubUp s && !s.gut.sysq.isEmpty
  | .blackboxWrite l => hubUp s && !(s.lanes.get l).stopped && (s.lanes.get l).role != .retired
  | .cmdqFetch _ => ringServed s qCMDQ && !s.cyc.agreedIn && s.mod.st != .safeStop
  | .linkProbe _ _ _ => hubUp s
  | .rstPress => s.mod.st != .off && !s.ul.pressed && s.ul.button == .armed
  | .reserveStoreExhausted => s.mod.st == .off
  | .primaryCellExhausted => true
  | .hubSramScrub _ => hubUp s
  | .mramCorrectedRead l n => hubUp s && (s.lanes.get l).role != .retired && corrCount s.time.supUs (s.lanes.get l).mram n ≤ 7
  | .busMasterEnable _ => hubUp s
  | .powerStateChange _ => hubUp s
  | .ptpAnnounce m => hubUp s && (m.better || s.time.gm.isNone || s.time.gm == some m.gm)

/-- The effect that the command's rules give it, in the state that it leaves: what the command is for. What else it changes, and what
it does not, other statements tell. -/
def Sys2Proof.Machine.hasEffect (c : Instr) (s t : State) : Bool := match c with
  | .commonInstant _ _ => t.cyc.k == s.cyc.k + 1 && !t.cyc.closed && !t.cyc.voted
  | .gFrameLaunch => onPlanes fun r p => !(ringOpen s r && (planeAt s r p).started) || (planeAt t r p).txG == gFrames s r p
  | .ringSectionArrival r p f _ => (planeAt t r p).returned &&
      (planeAt t r p).got.contains (hdrType (f.take 64), hdrFirst (f.take 64), hdrCycle (f.take 64))
  | .inputClose => t.cyc.closed && Lane.all.all fun l => Lane.all.all fun r => ((t.lanes.get l).ringIn.get r).items.isEmpty
  | .inputAgreement _ _ _ => t.cyc.agreedIn && t.cyc.closed
  | .inputDiverge => (voting s).all fun l => (t.lanes.get l).adopted == 0
  | .taskEnd lanes task _ _ => (taskLanes s lanes task).all fun l => (t.lanes.get l).todo == (s.lanes.get l).todo.drop 1
  | .trussEvaluationComplete lanes _ => (working s).all fun l => !lanes.get l || (s.lanes.get l).truss.done || (s.lanes.get l).stopped ||
      (match (s.lanes.get l).yealm with
        | some y => (t.lanes.get l).truss == trussEval (trussIn (atCycle s) y (s.lanes.get l))
        | none => true)
  | .voteDeadline => t.cyc.voting
  | .ridgeVote => voteDone s t
  | .ballotArrival src _ => t.cyc.ballots.get src == (s.lanes.get src).ballot
  | .voteCompleteLimit => voteDone s t
  | .setQueuePush => t.cyc.pushed && (voting s).all fun l => Lane.all.all fun r =>
      (t.lanes.get l).setq.get r == (((s.lanes.get l).setq.get r).sendAll ((s.lanes.get l).sImage.get r)).1
  | .hubForwardItem (.sect r pos) => (match frontSect s r pos with
      | some i => t.rings.fwd.get r.slot == s.rings.fwd.get r.slot ++ [i]
      | none => false)
  | .hubForwardItem .completion => (match agree2 (fronts s (counted s) fun x => x.cplq.items) with
      | some c => t.host.cplRep == s.host.cplRep ++ [c] && (qAt t qCPLQ).idx == (qAt s qCPLQ).idx + 1
      | none => false)
  | .hubForwardItem .indication => (match agree2 (fronts s (counted s) fun x => x.indq.items) with
      | some i => t.host.indRep == s.host.indRep ++ [i] && (qAt t qINDQ).idx == (qAt s qINDQ).idx + 1
      | none => false)
  | .sFrameLaunch => t.cyc.sent && onPlanes fun r p => !(ringOpen s r && (planeAt s r p).started) || (planeAt t r p).txS == sFrames s r p
  | .mramWriteComplete l => (t.lanes.get l).mramq.items == (s.lanes.get l).mramq.items.drop 1 && (match (s.lanes.get l).mramq.items with
      | .group g :: _ => (t.lanes.get l).written == g.cycle
      | .blackbox _ :: _ => (bootCur (t.lanes.get l).mram).bbIndex == (bootCur (s.lanes.get l).mram).bbIndex + 1
      | _ => false)
  | .snapshotComplete l => (t.lanes.get l).snapRun.isNone && (match (s.lanes.get l).snapRun with
      | some (c, p) => (match (t.lanes.get l).mram.snaps.get p with
        | some n => n.complete && n.s == c && n.content == (s.lanes.get l).region
        | none => false)
      | none => false)
  | .diagnosticRelease => t.cyc.diagRun && (counted s).all fun l => (t.lanes.get l).diagSnap == some (taskSnap s (s.lanes.get l) 0)
  | .diagnosticEnd _ _ _ => !t.cyc.diagRun && Lane.all.all fun l => (t.lanes.get l).diagSnap.isNone
  | .diagnosticLimit => t.cyc.diagLim
  | .laneSleep l => !(t.lanes.get l).clocksOn
  | .laneWake l => (t.lanes.get l).clocksOn
  | .completionDelivered => if s.host.cplRep.isEmpty then t.host.indRep == s.host.indRep.drop 1 else t.host.cplRep == s.host.cplRep.drop 1
  | .creditReturn q => creditDone q s t
  | .lockstepMismatch l _ => (t.lanes.get l).stopped && !(t.lanes.get l).clocksOn && (t.lanes.get l).txBuf.isEmpty
  | .stopFlit src => t.cyc.stops.get src && t.cyc.toExcl.get src == some .lockstep
  | .bistSliceStart (.lane l) => (t.lanes.get l).bist.running
  | .bistSliceStart .hub => t.hub.running
  | .bistSliceEnd (.lane l) _ => !(t.lanes.get l).bist.running && (t.lanes.get l).bist.reinit && (t.lanes.get l).bist.slice == (s.lanes.get l).bist.slice + 1
  | .bistSliceEnd .hub _ => !t.hub.running && t.hub.slice == s.hub.slice + 1
  | .blockReinitComplete l => !(t.lanes.get l).bist.reinit
  | .rotationDue => t.cyc.rotDue
  | .retainedStateCopyReceived l d1 _ => (t.lanes.get l).copied &&
      (match copySources s with | a :: _ => (t.lanes.get l).region == applyWrites (s.lanes.get a).region d1 | [] => false)
  | .yealmFetchComplete l d => (match fetchSource s l with
      | some src => (match activeBank (s.lanes.get src).mram with
        | some b => (match verify l (s.lanes.get l).sw s.mod.boot.split (bankBytes { state := .active, mem := applyWrites b.mem d, size := b.size, img := none }) with
          | .ok y => if y.crc64 = s.mod.ycrc then (t.lanes.get l).fetchFails == 0 && (activeBank (t.lanes.get l).mram).isSome
              else (t.lanes.get l).fetchFails == (s.lanes.get l).fetchFails + 1
          | .refused _ _ => (t.lanes.get l).fetchFails == (s.lanes.get l).fetchFails + 1)
        | none => false)
      | none => false)
  | .debugHalt l => (t.lanes.get l).haltReq && !(t.lanes.get l).clocksOn
  | .debugRelease l => (t.lanes.get l).role == .excluded && (t.lanes.get l).bist.pass == some .inject
  | .digestRecompute l => (t.lanes.get l).digest == digestWhole (laneWords (s.lanes.get l)) (s.lanes.get l).region
  | .sramScrub l cs bad => (t.lanes.get l).withhold == ((s.lanes.get l).withhold || bad) && (t.lanes.get l).bist.ecc.length == (s.lanes.get l).bist.ecc.length + cs.length
  | .eccCorrected l row => (t.lanes.get l).bist.ecc == (s.lanes.get l).bist.ecc ++ [(row, s.time.supUs)]
  | .eccUncorrectable l => (t.lanes.get l).withhold
  | .trussStats => (voting s).all fun l => (t.lanes.get l).tstat == {}
  | .planeStats => (voting s).all fun l => (t.lanes.get l).planeCnt.isEmpty
  | .routeSet asn => presentDone asn 0x01 0 s t
  | .routeCancel asn => presentDone asn 0x02 0 s t
  | .pointMove asn => presentDone asn 0x03 0 s t
  | .signalRestore asn => presentDone asn 0x04 0 s t
  | .block asn => presentDone asn 0x05 0 s t
  | .unblock asn => presentDone asn 0x06 0 s t
  | .auxReleaseRequest asn => presentDone asn 0x07 1 s t
  | .auxReleaseConfirm asn => presentDone asn 0x07 2 s t
  | .restartReleaseRequest asn => presentDone asn 0x08 1 s t
  | .restartReleaseConfirm asn => presentDone asn 0x08 2 s t
  | .timeSet asn => presentDone asn 0x10 0 s t
  | .imageLoad asn => presentDone asn 0x11 0 s t
  | .imageExchange asn => presentDone asn 0x12 0 s t
  | .rotateNow asn => presentDone asn 0x13 0 s t
  | .shutdown asn => presentDone asn 0x14 0 s t
  | .journalRead asn => presentDone asn 0x15 0 s t
  | .commandExpiry asn => (working s).all fun l => (t.lanes.get l).verdicts.any fun v => v.asn == asn
  | .requestLapse => (working s).all fun l => (t.lanes.get l).log == (s.lanes.get l).log ++ logDelta (viewMem (s.lanes.get l))
      ((lapsedReqs (viewMem (s.lanes.get l)) s.cyc.k.toNat (cyclesPerS s)).foldl reqClose (viewMem (s.lanes.get l)))
  | .journalStall => t.agr.stalled
  | .hostFetch => t.gut.seqA == s.gut.seqA + 1
  | .xfrqInSegment _ data => (qAt t qXFRIN).idx == (qAt s qXFRIN).idx + 1 && (voting s).all fun l =>
      (shadowBank (t.lanes.get l).mram).size == (shadowBank (s.lanes.get l).mram).size + data.length
  | .transferTimeout => (match runningLoad (lead s).work with
      | some (_, x) => (working s).all fun l => (t.lanes.get l).verdicts.any fun v => v.asn == BitVec.ofNat 64 x.asn || v.asn.toNat == x.asn
      | none => false)
  | .yealmVerified l => (match verify l (s.lanes.get l).sw s.mod.boot.split (bankBytes (shadowBank (s.lanes.get l).mram)) with
      | .ok y => (shadowBank (t.lanes.get l).mram).state == .verified && (shadowBank (t.lanes.get l).mram).img == some y
      | .refused _ _ => (shadowBank (t.lanes.get l).mram).state == .empty)
  | .journalReadSegment _ => (qAt t qXFROUT).idx == (qAt s qXFROUT).idx + 1 && s.host.posted.length < t.host.posted.length
  | .inputInjectionSegment _ data => (qAt t qXFRIN).idx == (qAt s qXFRIN).idx + 1 && t.agr.inj == s.agr.inj ++ (records 8 data).map injItem
  | .exchangeBoundary => t.mod.exch == .copying
  | .exchangeCopyComplete _ => t.mod.exch == .ready && (voting s).all fun l => (match (s.lanes.get l).yealm, (shadowBank (s.lanes.get l).mram).img with
      | some old, some new => (t.lanes.get l).mapped == some (mapRegion old new (s.lanes.get l).region)
      | _, _ => true)
  | .exchangeReloadComplete => t.mod.exch == .idle
  | .restartDecision => t.mod.boot.decided == some (warmOf s).isSome
  | .restartLockExpiry a => (working s).all fun l => (t.lanes.get l).work == areaSet (s.lanes.get l).work a false timerIdle
  | .ringSfpInsertion r p k => (planeAt t r p).sfpOk == ringKind k
  | .sfpDiagRead r p a b c => (planeAt t r p).diag == (a, b, c)
  | .discoverLaunch => onPlanes fun r p => !(ringOpen s r && (discoverDue (planeAt s r p) && svcFree s (planeAt s r p))) ||
      (!(planeAt t r p).txD.isEmpty && !(planeAt t r p).discDue)
  | .discoverReturn r p fs loopNs _ => (planeAt t r p).txD.isEmpty && (planeAt t r p).loopNs == loopNs &&
      (planeAt t r p).accepted == (acceptedOf (judgeFrames (listed s r) fs)).map Prod.fst
  | .timingLaunch => onPlanes fun r p => !(ringOpen s r && timingDue s (planeAt s r p)) ||
      ((planeAt t r p).started && (planeAt t r p).txT == timingFrames s r p)
  | .ringTopology r p => (planeAt t r p).discDue
  | .periodicTiming => onPlanes fun r p => !(ringOpen s r && (planeAt s r p).started && !(planeAt s r p).delayBad) || (planeAt t r p).timDue
  | .periodicDiscover => onPlanes fun r p => !(ringOpen s r && wantsDiscovery (listed s r).length (planeAt s r p)) || (planeAt t r p).discDue
  | .planeLost r p => (planeAt t r p).lost && !(planeAt t r p).started && (planeAt t r p).accepted.isEmpty
  | .portLinkUp r p own => (planeAt t r p).discDue && if own then (planeAt t r p).upOwn else (planeAt t r p).upPeer
  | .foreignMasterFrame r _ _ => t.rings.backNext.get r.slot
  | .ringRelay r p f => (planeAt t r p).relayed == f && t.peer.heard
  | .relayedLaunch r p f => (planeAt t r p).relayed == f
  | .lFrameSend l => (t.lanes.get l).txSeq == (s.lanes.get l).txSeq + 1 && !(t.lanes.get l).txBuf.isEmpty
  | .lFrameReceive l d => (match (s.lanes.get l).txBuf.getLast? with
      | some b => t.eaves.rcv.get l == takeL (lFields (damaged b d)) (s.eaves.rcv.get l)
      | none => false)
  | .eFrameReceive l n d => (t.lanes.get l).rxSeq ==
      some (eFields (damaged (eBytes (eFrameNow s.eaves l ((s.eaves.rcv.get l).eSeq + BitVec.ofNat 8 (n + 1)))) d)).seq
  | .battenReceiverTimeout l => !(t.eaves.rcv.get l).valid && !(t.eaves.rcv.get l).producing && (t.eaves.rcv.get l).drive == 0
  | .battenDeadline l => (t.lanes.get l).battenMiss
  | .eavesCommonInstant _ _ => some t.eaves.ck == markedCycle s.eaves && t.eaves.marks.isEmpty && t.eaves.window == 0
  | .eavesConfigInForce => t.eaves.cfg == (cfgDue s.eaves).map eavesCfgOf
  | .eavesWindowEnd x y => t.eaves.window == s.eaves.window + 1 && t.eaves.chains.a == windowChain s.eaves.cfg x s.eaves.chains.a &&
      t.eaves.chains.b == windowChain s.eaves.cfg y s.eaves.chains.b
  | .filterChange c i => (chainIn (chainAt t c) i).filt == !(chainIn (chainAt s c) i).filt && (chainIn (chainAt t c) i).cnt == 0
  | .inputFaultSet c i =>
      (chainIn (chainAt t c) i).fConst == ((chainIn (chainAt s c) i).fConst || decide (3 ≤ (chainIn (chainAt s c) i).nConst)) &&
      (chainIn (chainAt t c) i).fCross == ((chainIn (chainAt s c) i).fCross || decide (3 ≤ (chainIn (chainAt s c) i).nCross)) &&
      (chainIn (chainAt t c) i).fUndef == ((chainIn (chainAt s c) i).fUndef || decide (41 ≤ (chainIn (chainAt s c) i).nMid))
  | .inputFaultClear c i => !(chainIn (chainAt t c) i).fConst && !(chainIn (chainAt t c) i).fCross && !(chainIn (chainAt t c) i).fUndef
  | .sourceFaultSet c i => (chainAt t c).srcFault.getD i false
  | .sourceFaultClear c i => !(chainAt t c).srcFault.getD i true
  | .discTimerExpiry c i => ((chainAt t c).pairs.getD i {}).disc
  | .discClear c i => !((chainAt t c).pairs.getD i {}).disc
  | .counterGateEnd c i edges ns => (match s.eaves.cfg with
      | some g => ((chainAt t c).ctrs.getD (i - 56) {}).freq == freqOf (inEnt g i).gate edges ns
      | none => false)
  | .readbackReading m => (List.range s.eaves.outs.length).all fun c => (chanAt t.eaves c).volt == m.volt.getD c 0 && (chanAt t.eaves c).curr == m.curr.getD c 0
  | .testPulseStart (.chan c) => (chanAt t.eaves c).pulsing
  | .testPulseStart (.master g) => (t.eaves.groups.get g).pulsing
  | .testPulseEnd (.chan c) m _ => !(chanAt t.eaves c).pulsing && (chanAt t.eaves c).shorted == (chanAt s.eaves c).shorted ||| m.elems.getD c 0
  | .testPulseEnd (.master g) _ _ => !(t.eaves.groups.get g).pulsing
  | .crossWindowEnd => (List.range 32).all fun c => !(decide (c < s.eaves.outs.length)) || (match (chanAt s.eaves c).offCase with
      | some n => !(decide (n < s.eaves.interval)) || (t.eaves.groups.get (outGroup c)).latched
      | none => true)
  | .outputTrip c => (unitAt s.eaves c).all fun i => !(decide (i < s.eaves.outs.length)) ||
      (chanAt t.eaves i).latch == (if 3 ≤ (chanAt s.eaves c).retries then .latched else .tripped)
  | .tripRetry c => (unitAt s.eaves c).all fun i => !(decide (i < s.eaves.outs.length)) ||
      ((chanAt t.eaves i).latch == .none && (chanAt t.eaves i).retries == (chanAt s.eaves i).retries + 1)
  | .retryCountReset c => (unitAt s.eaves c).all fun i => (chanAt t.eaves i).retries == 0
  | .fieldSupplyLow g => (t.eaves.groups.get g).warn
  | .fieldSupplyRecover g => !(t.eaves.groups.get g).warn
  | .fieldSupplyCut g => (t.eaves.groups.get g).cut && !(t.eaves.groups.get g).closed
  | .cutClear g => !(t.eaves.groups.get g).cut
  | .hpctlOpen => t.host.en && !t.host.quiesced
  | .hpctlClose => !t.host.en
  | .quiesceComplete => if s.host.heldOpen then t.host.en && !t.host.heldOpen else t.host.quiesced
  | .doorbell q v _ => (qAt t q).db == v
  | .qctlWrite q v => readBar0 t (0x214 + 64 * q.val) == v &&& 0xF
  | .msixSend v => !t.host.vecDue.getLsbD v && if (msixAt s v).masked || s.host.funcMask then t.host.pba.getLsbD v
      else t.host.posted == s.host.posted ++ [.msix v (msixAt s v).addr (msixAt s v).data]
  | .msixUnmask v => !(msixAt t v).masked
  | .unsupportedRequest k _ => errDone (urCode k) s t
  | .poisonedRequest _ => errDone 9 s t
  | .bar0ReadTimeout r => errDone 3 s t && t.host.cpls == s.host.cpls ++ [⟨.abort, 0, r.hdr⟩]
  | .postedWriteFail _ => errDone 4 s t
  | .moduleRequestFail how _ => errDone (reqFailCode how) s t
  | .errstatClear v now => t.host.seen == (s.host.seen &&& ~~~(v.setWidth 9)) ||| now.setWidth 9
  | .pairLoRead off => readBar0 t (off + 4) ++ readBar0 s off == pairValue s off
  | .bootoptSplit b => t.ul.optSplit == b
  | .bootoptLoad b => t.ul.optLoad == b
  | .bootoptActivate b => t.ul.optActivate == b
  | .timecfgSrc b => readBar0 t 0x500 == maskedWrite (readBar0 s 0x500) 1 (if b then 1 else 0)
  | .timecfgDomain d => readBar0 t 0x500 == maskedWrite (readBar0 s 0x500) 0x7F00 (BitVec.ofNat 32 (256 * d))
  | .timecfgUtcOfs u => readBar0 t 0x500 == maskedWrite (readBar0 s 0x500) 0xFFFF0000 (u ++ (0 : Half))
  | .maintPortWrite off v => readBar0 t off == if off = 0x610 then v &&& 0xFFFF0001 else v
  | .registerWrite .bar0 off v => readBar0 t off == v &&& 0xFFFFF000
  | .registerWrite .bar4 off v => readBar4 t off == v
  | .registerWrite .msixControl _ v => t.host.msixEn == v.getLsbD 15 && t.host.funcMask == v.getLsbD 14
  | .registerWrite .deviceControl _ v => t.host.mps == bitsAt v.toNat 7 5 && t.host.mrrs == bitsAt v.toNat 14 12
  | .registerWrite .deviceControl2 _ v => t.host.cto == bitsAt v.toNat 3 0
  | .registerWrite .aerStatus _ v => t.host.aer == s.host.aer &&& ~~~v
  | .registerWrite .linkTrained _ v => t.host.linkSpeed == bitsAt v.toNat 3 0 && t.host.linkWidth == bitsAt v.toNat 9 4
  | .perst => !t.host.en && t.host.seen == 0 && t.host.errcnt == 0 && !t.ul.optSplit && t.mod.st == s.mod.st
  | .renewRelease => t.ul.leaseRun && t.peer.seqLease == s.peer.seqLease + (if isPair s then 1 else 0)
  | .renewReceive _ m => t.peer.renew == some (renewOf m) && t.peer.heard
  | .beatSend => t.peer.seqLease == s.peer.seqLease + 1
  | .beatReceive _ m => t.peer.beat == some (beatOf m)
  | .linkSend l => (linkAt t l).txSeq == (linkAt s l).txSeq + 1
  | .linkReceive l m rtt => (linkAt t l).delayNs == rtt / 2 && (linkAt t l).rxSeq == pmSeq m
  | .leaseExpired => t.mod.st == .safeStop && !t.peer.held && t.rings.inhibited && t.ul.leaseInh
  | .leaseClaim => t.peer.held && t.mod.claim && t.ul.leaseRun && t.peer.epoch == epochAfter (epochKnown s)
  | .pairStartClaim => t.peer.held && t.ul.leaseRun && t.peer.epoch == epochAfter (epochKnown s)
  | .masteryTest => t.peer.claimPlanes.isNone
  | .peerLinkLost l => !(linkAt t l).up
  | .peerLinkReturn l => (linkAt t l).up
  | .peerSfpInsertion l k => (linkAt t l).sfpOk == (k == .tenGSR)
  | .mirrorBlockReceive _ m => t.peer.mirrorAsm == keepBlock (blockOf (pmPay m)) s.peer.mirrorAsm && t.peer.seenMirror == noteSeq s.peer.seenMirror (pmSeq m)
  | .shadowComputationComplete _ _ _ _ => t.peer.groupWait.isNone && t.peer.shadowC.isNone && (match s.peer.groupWait with
      | some g => t.peer.lastApplied == g.cycle && (working s).all fun d => (t.lanes.get d).region == applyGroup (s.lanes.get d).region g
      | none => false)
  | .peerRequestReceive _ m => t.peer.openReqs == s.peer.openReqs.filter fun r => r.seq != pmSeq m
  | .peerRequestTimeout => (match s.peer.openReqs.find? (fun r => r.sent != 0) with
      | some r => t.peer.reqOut.items == s.peer.reqOut.items ++ [{ seq := r.seq, link := otherLink r.link, body := r.body }]
      | none => false)
  | .ptpSync ofs => t.time.ptpOfs == ofs
  | .timeSourceLost _ => !t.time.ptpLock
  | .timeSetHoldover => t.time.ref.isNone
  | .clockWindowCheck _ _ => t.cyc.window == 0 && Lane.all.all fun l => (t.lanes.get l).ticks == 0
  | .supplyStart us _ => t.mod.st == .boot && !t.ul.diesHeld && t.time.supUs == s.time.supUs + BitVec.ofNat 64 us
  | .supplyLow b => t.ul.warn && t.ul.bus == b && t.ul.dipCycle == some s.cyc.k
  | .supplyRecovery d m => !t.ul.warn && t.ul.dips == s.ul.dips ++ [((s.ul.dipCycle.getD 0), d, m)]
  | .supplyReset => t.mod.st == .off && t.ul.diesHeld
  | .rstRelease us => !t.ul.pressed && t.ul.orderly == some (if powerOffPrep s us then .shutdown else .reset)
  | .resetStuck => t.ul.button == .stuck
  | .rstRearm => t.ul.button == .armed
  | .orderlyReset => t.mod.st == .boot && t.ul.orderly.isNone && !t.peer.held
  | .keyPatternStable => t.ctl.next == keyPattern s.ctl.agreed s.ctl.contacts
  | .keyAllOpenTimeout => t.ctl.next == some .invalid
  | .sealChange => if s.mod.st == .boot then t.mod.boot.swBad == reservedOn s.ctl.sw else t.ctl.swSeen == s.ctl.sw
  | .switchSense l => (t.lanes.get l).sense
  | .hubWatchdog => t.ul.wdog && (!s.mod.st.runs || t.mod.st == .safeStop)
  | .junctionOvertemp (.lane l) => (t.lanes.get l).withhold
  | .junctionOvertemp .hub => t.ul.wdog && t.ul.hubHeld
  | .diesOutOfReset _ => t.mod.boot.diesOut && !t.ul.diesHeld
  | .bootRecordCheck _ => t.mod.boot.checked
  | .bootYealmAgreed => t.mod.boot.agreed && t.peer.held
  | .ringStartComplete => t.mod.st == .indicate && t.mod.boot.ringsUp
  | .indicateGather => t.cyc.gather
  | .bootShadowStart => t.mod.boot.b == some s.cyc.k && (chosenLanes s).all fun l => (t.lanes.get l).role == .copy
  | .shutdownBegin => t.mod.st == .safeStop && t.mod.shutPass && t.hub.pass == some .shutdown
  | .shutdownDone => t.mod.shutDone && !t.mod.shutPass
  | .mramWriteFault l n => (bootCur (t.lanes.get l).mram).remaps.any fun x => x.1 == n
  | .mramUncorrectableRead l n => (bootCur (t.lanes.get l).mram).remaps.any fun x => x.1 == n
  | .gutterRecord g => t.gut.seqA == s.gut.seqA + 1 && t.gut.alarm.items == s.gut.alarm.items ++ [freshItem { handedRec s g with seq := s.gut.seqA }]
  | .gutterPathTake p => pathDone p s t
  | .syslogSend => t.gut.sysq == s.gut.sysq.drop 1 && t.gut.sent.isSome
  | .blackboxWrite l => t.lanes.get l == boxWrite (s.lanes.get l)
  | .cmdqFetch ds => t.host.fetched == s.host.fetched + min (min (s.host.fetchLim - s.host.fetched) (cmdqReady s)) ds.length
  | .linkProbe r p rtt => (planeAt t r p).probes == (planeAt s r p).probes + 1 && (!isPair s || (planeAt t r p).probeNs == rtt / 2)
  | .rstPress => t.ul.pressed && t.ul.button == .pressed
  | .reserveStoreExhausted => t.time.supLost && t.time.supUs == 0
  | .primaryCellExhausted => !t.ul.cellOk && t.ul.shelf.isNone
  | .hubSramScrub bad => t.hub.scrubs == s.hub.scrubs + 1 && t.hub.scrubBad == s.hub.scrubBad + ofFlag bad
  | .mramCorrectedRead l n => (t.lanes.get l).mram.corr == (s.lanes.get l).mram.corr ++ [(n, s.time.supUs)]
  | .busMasterEnable b => t.host.bme == b
  | .powerStateChange b => t.host.d3 == b
  | .ptpAnnounce m => t.time.gm == some m.gm

/-- Every command of the table runs (R10, and the rule of each row): where its rules have it act, it answers a next state with its
own effect. -/
def Obligations.EveryCommandCompletes : Prop := ∀ (c : Instr) (s : State), acts c s = true →
  ∃ t, exec c s = .next t ∧ hasEffect c s t = true

end
end

