-- ==== Sys2Proof/Laws/Kept.lean ====
section
/-! SUPPORT. The relation the frame lemmas are stated in: what changed, and that HEALTHY and SAFE STOP stand. -/

namespace Sys2Proof.Machine

/-- Beside the frame: HEALTHY still goes with the module state, and SAFE STOP is not left. -/
structure Kept (ps : List Part) (s t : State) : Prop where
  frame   : Frame ps s t
  healthy : HealthyAgrees s → HealthyAgrees t
  safe    : s.mod.st = .safeStop → t.mod.st = .safeStop

/-- Every part of the one list stands in the other. -/
def within (ps qs : List Part) : Bool := ps.all fun p => qs.contains p

theorem within_mem {ps qs : List Part} (h : within ps qs = true) (p : Part) (hp : p ∈ ps) : p ∈ qs := by
  simpa using List.all_eq_true.mp h p hp

theorem Part.same_refl (s : State) (p : Part) : p.same s s := by cases p <;> exact rfl

theorem Part.same_trans {s r t : State} (p : Part) (h : p.same s r) (g : p.same r t) : p.same s t := by
  cases p <;> exact Eq.trans g h

theorem Kept.refl (ps : List Part) (s : State) : Kept ps s s := ⟨⟨rfl, fun p _ => p.same_refl s⟩, id, id⟩

/-- One more step of the same run. -/
theorem Kept.step {ps qs : List Part} {s r t : State} (h : Kept qs s r) (g : Kept ps r t) (w : within ps qs = true) : Kept qs s t :=
  ⟨⟨g.frame.queue.trans h.frame.queue,
    fun p hp => p.same_trans (h.frame.rest p hp) (g.frame.rest p fun hm => hp (within_mem w p hm))⟩,
   fun a => g.healthy (h.healthy a), fun a => g.safe (h.safe a)⟩

/-- The same, last step first. -/
theorem Kept.after {ps qs : List Part} {s r t : State} (g : Kept ps r t) (w : within ps qs = true) (h : Kept qs s r) : Kept qs s t :=
  h.step g w

theorem Kept.mono {ps qs : List Part} {s t : State} (g : Kept ps s t) (w : within ps qs = true) : Kept qs s t :=
  (Kept.refl qs s).step g w

theorem Kept.foldl {α : Type} {ps : List Part} {f : State → α → State} (h : ∀ s x, Kept ps s (f s x)) :
    ∀ (l : List α) (s : State), Kept ps s (l.foldl f s)
  | [], s => Kept.refl ps s
  | x :: l, s => (h s x).step (Kept.foldl h l (f s x)) (by simp [within])

/-- A record update after a run: each component is one the list names, or stands as it stood; HEALTHY and the module state stand. -/
theorem Kept.upd {ps : List Part} {s r : State} (h : Kept ps s r) {ti ul mo ct cy la ag ri ea ho pe gu hu}
    (h1 : Part.time ∈ ps ∨ ti = r.time) (h2 : (Part.supply ∈ ps ∧ ul.healthy = r.ul.healthy) ∨ ul = r.ul)
    (h3 : (Part.module ∈ ps ∧ mo.st = r.mod.st) ∨ mo = r.mod) (h4 : Part.ctl ∈ ps ∨ ct = r.ctl) (h5 : Part.cyc ∈ ps ∨ cy = r.cyc)
    (h6 : Part.lanes ∈ ps ∨ la = r.lanes) (h7 : Part.agr ∈ ps ∨ ag = r.agr) (h8 : Part.rings ∈ ps ∨ ri = r.rings)
    (h9 : Part.eaves ∈ ps ∨ ea = r.eaves) (h10 : Part.host ∈ ps ∨ ho = r.host) (h11 : Part.peer ∈ ps ∨ pe = r.peer)
    (h12 : Part.gut ∈ ps ∨ gu = r.gut) (h13 : Part.hub ∈ ps ∨ hu = r.hub) :
    Kept ps s ⟨r.pending, ti, ul, mo, ct, cy, la, ag, ri, ea, ho, pe, gu, hu⟩ := by
  have hu' : ul.healthy = r.ul.healthy := h2.elim (·.2) (fun e => by rw [e])
  have hm' : mo.st = r.mod.st := h3.elim (·.2) (fun e => by rw [e])
  refine ⟨⟨h.frame.queue, fun p hp => ?_⟩, fun a => ?_, fun a => ?_⟩
  · have hr := h.frame.rest p hp
    cases p
    case time => exact (h1.resolve_left hp).trans hr
    case supply => have e := h2.resolve_left fun x => hp x.1; subst e; exact hr
    case healthy => exact hu'.trans hr
    case mode => exact hm'.trans hr
    case module => have e := h3.resolve_left fun x => hp x.1; subst e; exact hr
    case ctl => exact (h4.resolve_left hp).trans hr
    case cyc => exact (h5.resolve_left hp).trans hr
    case lanes => exact (h6.resolve_left hp).trans hr
    case agr => exact (h7.resolve_left hp).trans hr
    case rings => exact (h8.resolve_left hp).trans hr
    case eaves => exact (h9.resolve_left hp).trans hr
    case host => exact (h10.resolve_left hp).trans hr
    case peer => exact (h11.resolve_left hp).trans hr
    case gut => exact (h12.resolve_left hp).trans hr
    case hub => exact (h13.resolve_left hp).trans hr
  · exact hu'.trans ((h.healthy a).trans (by rw [hm']))
  · exact hm'.trans (h.safe a)

end Sys2Proof.Machine
end

