-- ==== Sys2Proof/Laws/KeptOps.lean ====
section
/-! SUPPORT. Frame lemmas: which parts of the state each operation of Ops, HostOps, GutterOps, LaneOps may change. -/

set_option linter.unusedTactic false
set_option linter.unreachableTactic false

namespace Sys2Proof.Machine

theorem onLanes_kept (s : State) (ls : List Lane) (f : Lane → LaneSt → LaneSt) : Kept [.lanes] s (onLanes s ls f) := by
  unfold onLanes
  try dsimp only
  repeat' first
    | with_reducible apply Kept.refl
    | (show within _ _ = true; rfl)
    | exact Or.inl (by decide)
    | exact Or.inr (by with_reducible rfl)
    | exact Or.inl ⟨by decide, rfl⟩
    | split
    | with_reducible apply Kept.upd

theorem onLane_kept (s : State) (l : Lane) (f : LaneSt → LaneSt) : Kept [.lanes] s (onLane s l f) := by
  unfold onLane
  try dsimp only
  repeat' first
    | with_reducible apply Kept.refl
    | (show within _ _ = true; rfl)
    | exact Or.inl (by decide)
    | exact Or.inr (by with_reducible rfl)
    | exact Or.inl ⟨by decide, rfl⟩
    | split
    | with_reducible apply Kept.upd

theorem qMod_kept (s : State) (q : Nat) (f : QReg → QReg) : Kept [.host] s (qMod s q f) := by
  unfold qMod
  try dsimp only
  repeat' first
    | with_reducible apply Kept.refl
    | (show within _ _ = true; rfl)
    | exact Or.inl (by decide)
    | exact Or.inr (by with_reducible rfl)
    | exact Or.inl ⟨by decide, rfl⟩
    | split
    | with_reducible apply Kept.upd

theorem post_kept (s : State) (w : HostWrite) : Kept [.host] s (post s w) := by
  unfold post
  try dsimp only
  repeat' first
    | with_reducible apply Kept.refl
    | (show within _ _ = true; rfl)
    | exact Or.inl (by decide)
    | exact Or.inr (by with_reducible rfl)
    | exact Or.inl ⟨by decide, rfl⟩
    | split
    | with_reducible apply Kept.upd

theorem postData_kept (s : State) (addr : DWord) (data : List Byte) : Kept [.host] s (postData s addr data) := by
  unfold postData
  try dsimp only
  repeat' first
    | with_reducible apply Kept.refl
    | with_reducible apply Kept.after (post_kept ..)
    | with_reducible refine Kept.step ?_ (Kept.foldl (ps := [.host]) (fun _ _ => ?_) _ _) rfl
    | (show within _ _ = true; rfl)
    | exact Or.inl (by decide)
    | exact Or.inr (by with_reducible rfl)
    | exact Or.inl ⟨by decide, rfl⟩
    | split
    | with_reducible apply Kept.upd

theorem readHost_kept (s : State) (addr : DWord) (len : Nat) : Kept [.host] s (readHost s addr len) := by
  unfold readHost
  try dsimp only
  repeat' first
    | with_reducible apply Kept.refl
    | (show within _ _ = true; rfl)
    | exact Or.inl (by decide)
    | exact Or.inr (by with_reducible rfl)
    | exact Or.inl ⟨by decide, rfl⟩
    | split
    | with_reducible apply Kept.upd

theorem complete_kept (s : State) (st : CplStatus) (data : Word) (hdr : List Byte) : Kept [.host] s (complete s st data hdr) := by
  unfold complete
  try dsimp only
  repeat' first
    | with_reducible apply Kept.refl
    | (show within _ _ = true; rfl)
    | exact Or.inl (by decide)
    | exact Or.inr (by with_reducible rfl)
    | exact Or.inl ⟨by decide, rfl⟩
    | split
    | with_reducible apply Kept.upd

theorem vecRaise_kept (s : State) (v : Nat) : Kept [.host] s (vecRaise s v) := by
  unfold vecRaise
  try dsimp only
  repeat' first
    | with_reducible apply Kept.refl
    | (show within _ _ = true; rfl)
    | exact Or.inl (by decide)
    | exact Or.inr (by with_reducible rfl)
    | exact Or.inl ⟨by decide, rfl⟩
    | split
    | with_reducible apply Kept.upd

theorem ringPut_kept (s : State) (q : Nat) (rec_ : List Byte) : Kept [.host] s (ringPut s q rec_) := by
  unfold ringPut
  try dsimp only
  repeat' first
    | with_reducible apply Kept.refl
    | with_reducible apply Kept.after (vecRaise_kept ..)
    | with_reducible apply Kept.after (post_kept ..)
    | with_reducible apply Kept.after (qMod_kept ..)
    | (show within _ _ = true; rfl)
    | exact Or.inl (by decide)
    | exact Or.inr (by with_reducible rfl)
    | exact Or.inl ⟨by decide, rfl⟩
    | split
    | with_reducible apply Kept.upd

theorem writeBack_kept (s : State) (q : Nat) : Kept [.host] s (writeBack s q) := by
  unfold writeBack
  try dsimp only
  repeat' first
    | with_reducible apply Kept.refl
    | with_reducible apply Kept.after (vecRaise_kept ..)
    | with_reducible apply Kept.after (post_kept ..)
    | (show within _ _ = true; rfl)
    | exact Or.inl (by decide)
    | exact Or.inr (by with_reducible rfl)
    | exact Or.inl ⟨by decide, rfl⟩
    | split
    | with_reducible apply Kept.upd

theorem ringConsume_kept (s : State) (q n : Nat) : Kept [.host] s (ringConsume s q n) := by
  unfold ringConsume
  try dsimp only
  repeat' first
    | with_reducible apply Kept.refl
    | with_reducible apply Kept.after (writeBack_kept ..)
    | with_reducible apply Kept.after (qMod_kept ..)
    | (show within _ _ = true; rfl)
    | exact Or.inl (by decide)
    | exact Or.inr (by with_reducible rfl)
    | exact Or.inl ⟨by decide, rfl⟩
    | split
    | with_reducible apply Kept.upd

theorem errRaise_kept (s : State) (code flags : Nat) (r : HostReq) (bar : Nat) : Kept [.host] s (errRaise s code flags r bar) := by
  unfold errRaise
  try dsimp only
  repeat' first
    | with_reducible apply Kept.refl
    | (show within _ _ = true; rfl)
    | exact Or.inl (by decide)
    | exact Or.inr (by with_reducible rfl)
    | exact Or.inl ⟨by decide, rfl⟩
    | split
    | with_reducible apply Kept.upd

theorem errWrite_kept (s : State) : Kept [.host] s (errWrite s) := by
  unfold errWrite
  try dsimp only
  repeat' first
    | with_reducible apply Kept.refl
    | with_reducible apply Kept.after (ringPut_kept ..)
    | (show within _ _ = true; rfl)
    | exact Or.inl (by decide)
    | exact Or.inr (by with_reducible rfl)
    | exact Or.inl ⟨by decide, rfl⟩
    | split
    | with_reducible apply Kept.upd

theorem indicate_kept (s : State) (i : Ind) : Kept [.lanes] s (indicate s i) := by
  unfold indicate
  try dsimp only
  repeat' first
    | with_reducible apply Kept.refl
    | with_reducible apply Kept.after (onLanes_kept ..)
    | (show within _ _ = true; rfl)
    | exact Or.inl (by decide)
    | exact Or.inr (by with_reducible rfl)
    | exact Or.inl ⟨by decide, rfl⟩
    | split
    | with_reducible apply Kept.upd

theorem reportAll_kept (s : State) : Kept [.lanes, .host] s (reportAll s) := by
  unfold reportAll
  extract_lets s1 s2
  have h1 : Kept [.lanes, .host] s s1 := (Kept.foldl (fun _ _ => onLanes_kept ..) _ _).mono rfl
  have h2 : Kept [.lanes, .host] s s2 := h1.step (Kept.foldl (fun _ _ => onLanes_kept ..) _ _) rfl
  clear_value s1 s2
  refine Kept.upd (h2) ?_ ?_ ?_ ?_ ?_ ?_ ?_ ?_ ?_ ?_ ?_ ?_ ?_ <;> first | exact .inl (by decide) | exact .inr rfl | exact .inl ⟨by decide, rfl⟩

theorem signalState_kept (s : State) : Kept [.host] s (signalState s) := by
  unfold signalState
  try dsimp only
  repeat' first
    | with_reducible apply Kept.refl
    | with_reducible apply Kept.after (vecRaise_kept ..)
    | (show within _ _ = true; rfl)
    | exact Or.inl (by decide)
    | exact Or.inr (by with_reducible rfl)
    | exact Or.inl ⟨by decide, rfl⟩
    | split
    | with_reducible apply Kept.upd

theorem reportState_kept (s : State) : Kept [.lanes, .host] s (reportState s) := by
  unfold reportState
  try dsimp only
  repeat' first
    | with_reducible apply Kept.refl
    | with_reducible apply Kept.after (indicate_kept ..)
    | (show within _ _ = true; rfl)
    | exact Or.inl (by decide)
    | exact Or.inr (by with_reducible rfl)
    | exact Or.inl ⟨by decide, rfl⟩
    | split
    | with_reducible apply Kept.upd

theorem setState_kept (s : State) (st : ModState) (h : s.mod.st = .safeStop → st = .safeStop) :
    Kept [.healthy, .mode, .lanes, .host] s (setState s st) := by
  unfold setState
  try dsimp only
  split
  · exact Kept.refl _ _
  · refine Kept.step (Kept.step ?_ (signalState_kept _) rfl) (reportState_kept _) rfl
    exact ⟨⟨rfl, fun p hp => by cases p <;> first | rfl | exact absurd (by decide) hp⟩, fun _ => rfl, h⟩

theorem enterQ_kept (s : State) (r : GRec) : Kept [.gut] s (enterQ s r) := by
  unfold enterQ
  try dsimp only
  repeat' first
    | with_reducible apply Kept.refl
    | (show within _ _ = true; rfl)
    | exact Or.inl (by decide)
    | exact Or.inr (by with_reducible rfl)
    | exact Or.inl ⟨by decide, rfl⟩
    | split
    | with_reducible apply Kept.upd

theorem flushStore_kept (n : Nat) : ∀ s : State, Kept [.gut] s (flushStore n s) := by
  induction n with
  | zero => exact fun s => Kept.refl _ s
  | succ n ih =>
    intro s
    unfold flushStore
    split
    · exact Kept.refl _ _
    · split
      · exact Kept.refl _ _
      · refine Kept.step (Kept.step ?_ (enterQ_kept ..) rfl) (ih _) rfl
        refine Kept.upd ?_ ?_ ?_ ?_ ?_ ?_ ?_ ?_ ?_ ?_ ?_ ?_ ?_ ?_ <;> first | exact Kept.refl _ _ | exact .inl (by decide) | exact .inr rfl | exact .inl ⟨by decide, rfl⟩

theorem sendLoss_kept (s : State) (p : Nat) : Kept [.gut] s (sendLoss s p) := by
  unfold sendLoss
  try dsimp only
  repeat' first
    | with_reducible apply Kept.refl
    | with_reducible apply Kept.after (enterQ_kept ..)
    | (show within _ _ = true; rfl)
    | exact Or.inl (by decide)
    | exact Or.inr (by with_reducible rfl)
    | exact Or.inl ⟨by decide, rfl⟩
    | split
    | with_reducible apply Kept.upd

theorem gutPut_kept (s : State) (r : GRec) : Kept [.gut] s (gutPut s r) := by
  unfold gutPut
  try dsimp only
  repeat' first
    | with_reducible apply Kept.refl
    | with_reducible apply Kept.after (sendLoss_kept ..)
    | with_reducible apply Kept.after (flushStore_kept ..)
    | with_reducible apply Kept.after (enterQ_kept ..)
    | (show within _ _ = true; rfl)
    | exact Or.inl (by decide)
    | exact Or.inr (by with_reducible rfl)
    | exact Or.inl ⟨by decide, rfl⟩
    | split
    | with_reducible apply Kept.upd

theorem gutDrain_kept (s : State) (c : GClass) : Kept [.gut] s (gutDrain s c) := by
  unfold gutDrain
  try dsimp only
  repeat' first
    | with_reducible apply Kept.refl
    | with_reducible apply Kept.after (sendLoss_kept ..)
    | with_reducible apply Kept.after (flushStore_kept ..)
    | with_reducible refine Kept.step ?_ (Kept.foldl (ps := [.gut]) (fun _ _ => ?_) _ _) rfl
    | (show within _ _ = true; rfl)
    | exact Or.inl (by decide)
    | exact Or.inr (by with_reducible rfl)
    | exact Or.inl ⟨by decide, rfl⟩
    | split
    | with_reducible apply Kept.upd

theorem redrain_kept (s : State) : Kept [.gut] s (redrain s) := by
  unfold redrain
  try dsimp only
  repeat' first
    | with_reducible apply Kept.refl
    | with_reducible apply Kept.after (gutDrain_kept ..)
    | (show within _ _ = true; rfl)
    | exact Or.inl (by decide)
    | exact Or.inr (by with_reducible rfl)
    | exact Or.inl ⟨by decide, rfl⟩
    | split
    | with_reducible apply Kept.upd

theorem raiseRec_kept (s : State) (code unit : Nat) (lanes : BitVec 4) (args : List Byte) : Kept [.gut] s (raiseRec s code unit lanes args) := by
  unfold raiseRec
  try dsimp only
  repeat' first
    | with_reducible apply Kept.refl
    | with_reducible apply Kept.after (gutPut_kept ..)
    | (show within _ _ = true; rfl)
    | exact Or.inl (by decide)
    | exact Or.inr (by with_reducible rfl)
    | exact Or.inl ⟨by decide, rfl⟩
    | split
    | with_reducible apply Kept.upd

theorem raiseShared_kept (s : State) (code : Nat) (args : List Byte) : Kept [.gut] s (raiseShared s code args) := by
  unfold raiseShared
  try dsimp only
  repeat' first
    | with_reducible apply Kept.refl
    | with_reducible apply Kept.after (raiseRec_kept ..)
    | (show within _ _ = true; rfl)
    | exact Or.inl (by decide)
    | exact Or.inr (by with_reducible rfl)
    | exact Or.inl ⟨by decide, rfl⟩
    | split
    | with_reducible apply Kept.upd

theorem raiseLane_kept (s : State) (l : Lane) (code : Nat) (args : List Byte) : Kept [.gut] s (raiseLane s l code args) := by
  unfold raiseLane
  try dsimp only
  repeat' first
    | with_reducible apply Kept.refl
    | with_reducible apply Kept.after (raiseRec_kept ..)
    | (show within _ _ = true; rfl)
    | exact Or.inl (by decide)
    | exact Or.inr (by with_reducible rfl)
    | exact Or.inl ⟨by decide, rfl⟩
    | split
    | with_reducible apply Kept.upd

theorem raiseHub_kept (s : State) (code : Nat) (args : List Byte) : Kept [.gut] s (raiseHub s code args) := by
  unfold raiseHub
  try dsimp only
  repeat' first
    | with_reducible apply Kept.refl
    | with_reducible apply Kept.after (raiseRec_kept ..)
    | (show within _ _ = true; rfl)
    | exact Or.inl (by decide)
    | exact Or.inr (by with_reducible rfl)
    | exact Or.inl ⟨by decide, rfl⟩
    | split
    | with_reducible apply Kept.upd

theorem raiseUl_kept (s : State) (code : Nat) (args : List Byte) : Kept [.gut] s (raiseUl s code args) := by
  unfold raiseUl
  try dsimp only
  repeat' first
    | with_reducible apply Kept.refl
    | with_reducible apply Kept.after (raiseRec_kept ..)
    | (show within _ _ = true; rfl)
    | exact Or.inl (by decide)
    | exact Or.inr (by with_reducible rfl)
    | exact Or.inl ⟨by decide, rfl⟩
    | split
    | with_reducible apply Kept.upd

theorem raiseEaves_kept (s : State) (code : Nat) (args : List Byte) : Kept [.gut] s (raiseEaves s code args) := by
  unfold raiseEaves
  try dsimp only
  repeat' first
    | with_reducible apply Kept.refl
    | with_reducible apply Kept.after (raiseRec_kept ..)
    | (show within _ _ = true; rfl)
    | exact Or.inl (by decide)
    | exact Or.inr (by with_reducible rfl)
    | exact Or.inl ⟨by decide, rfl⟩
    | split
    | with_reducible apply Kept.upd

theorem callResting_kept (s : State) : Kept [.cyc, .lanes] s (callResting s) := by
  unfold callResting
  try dsimp only
  repeat' first
    | with_reducible apply Kept.refl
    | with_reducible apply Kept.after (onLane_kept ..)
    | (show within _ _ = true; rfl)
    | exact Or.inl (by decide)
    | exact Or.inr (by with_reducible rfl)
    | exact Or.inl ⟨by decide, rfl⟩
    | split
    | with_reducible apply Kept.upd

theorem decideExcl_kept (s : State) (l : Lane) (c : ExclCause) (more : List Byte) : Kept [.cyc, .lanes, .gut] s (decideExcl s l c more) := by
  unfold decideExcl
  try dsimp only
  repeat' first
    | with_reducible apply Kept.refl
    | with_reducible apply Kept.after (callResting_kept ..)
    | with_reducible apply Kept.after (raiseShared_kept ..)
    | (show within _ _ = true; rfl)
    | exact Or.inl (by decide)
    | exact Or.inr (by with_reducible rfl)
    | exact Or.inl ⟨by decide, rfl⟩
    | split
    | with_reducible apply Kept.upd

theorem setMode_kept (s : State) : Kept [.cyc] s (setMode s) := by
  unfold setMode
  try dsimp only
  repeat' first
    | with_reducible apply Kept.refl
    | (show within _ _ = true; rfl)
    | exact Or.inl (by decide)
    | exact Or.inr (by with_reducible rfl)
    | exact Or.inl ⟨by decide, rfl⟩
    | split
    | with_reducible apply Kept.upd

theorem lanesAlarm_kept (s : State) : Kept [.cyc, .gut] s (lanesAlarm s) := by
  unfold lanesAlarm
  try dsimp only
  repeat' first
    | with_reducible apply Kept.refl
    | with_reducible apply Kept.after (raiseShared_kept ..)
    | (show within _ _ = true; rfl)
    | exact Or.inl (by decide)
    | exact Or.inr (by with_reducible rfl)
    | exact Or.inl ⟨by decide, rfl⟩
    | split
    | with_reducible apply Kept.upd

theorem battenMisses_kept (s : State) : Kept [.cyc, .lanes, .agr, .gut] s (battenMisses s) := by
  unfold battenMisses
  try dsimp only
  repeat' first
    | with_reducible apply Kept.refl
    | with_reducible apply Kept.after (decideExcl_kept ..)
    | with_reducible apply Kept.after (raiseShared_kept ..)
    | with_reducible refine Kept.step ?_ (Kept.foldl (ps := [.cyc, .lanes, .agr, .gut]) (fun _ _ => ?_) _ _) rfl
    | (show within _ _ = true; rfl)
    | exact Or.inl (by decide)
    | exact Or.inr (by with_reducible rfl)
    | exact Or.inl ⟨by decide, rfl⟩
    | split
    | with_reducible apply Kept.upd

theorem enterSafeStop_kept (s : State) : Kept [.supply, .healthy, .mode, .module, .cyc, .lanes, .host, .peer] s (enterSafeStop s) := by
  unfold enterSafeStop
  try dsimp only
  refine Kept.step ?_ (setState_kept _ _ fun _ => rfl) rfl
  refine Kept.upd ?_ ?_ ?_ ?_ ?_ ?_ ?_ ?_ ?_ ?_ ?_ ?_ ?_ ?_ <;> first | exact Kept.refl _ _ | exact .inl (by decide) | exact .inr rfl | exact .inl ⟨by decide, rfl⟩

end Sys2Proof.Machine
end

