-- ==== Sys2Proof/Laws/KeptCycle.lean ====
section
/-! SUPPORT. Frame lemmas: which parts of the state each operation of RegionInit, Instant, Sections, EavesImage, Truss, CmdOps, Readback, PeerMsg, Agree, Ballot, Commit, Vote, AfterVote may change. -/

set_option linter.unusedTactic false
set_option linter.unreachableTactic false

namespace Sys2Proof.Machine

theorem restartNodes_kept (s : State) : Kept [.agr] s (restartNodes s) := by
  unfold restartNodes
  try dsimp only
  repeat' first
    | with_reducible apply Kept.refl
    | (show within _ _ = true; rfl)
    | exact Or.inl (by decide)
    | exact Or.inr (by with_reducible rfl)
    | exact Or.inl ⟨by decide, rfl⟩
    | split
    | with_reducible apply Kept.upd

theorem advanceTo_kept (s : State) (offNs : Nat) : Kept [.time, .supply] s (advanceTo s offNs) := by
  unfold advanceTo
  try dsimp only
  repeat' first
    | with_reducible apply Kept.refl
    | (show within _ _ = true; rfl)
    | exact Or.inl (by decide)
    | exact Or.inr (by with_reducible rfl)
    | exact Or.inl ⟨by decide, rfl⟩
    | split
    | with_reducible apply Kept.upd

theorem nextCk_kept (s : State) : Kept [.time, .supply] s (nextCk s) := by
  unfold nextCk
  try dsimp only
  repeat' first
    | with_reducible apply Kept.refl
    | with_reducible apply Kept.after (advanceTo_kept ..)
    | (show within _ _ = true; rfl)
    | exact Or.inl (by decide)
    | exact Or.inr (by with_reducible rfl)
    | exact Or.inl ⟨by decide, rfl⟩
    | split
    | with_reducible apply Kept.upd

theorem spillCount_kept (s : State) (queue inst n : Nat) : Kept [.gut] s (spillCount s queue inst n) := by
  unfold spillCount
  try dsimp only
  repeat' first
    | with_reducible apply Kept.refl
    | with_reducible apply Kept.after (raiseHub_kept ..)
    | (show within _ _ = true; rfl)
    | exact Or.inl (by decide)
    | exact Or.inr (by with_reducible rfl)
    | exact Or.inl ⟨by decide, rfl⟩
    | split
    | with_reducible apply Kept.upd

theorem boundary_kept (s : State) : Kept [.cyc, .lanes, .rings, .host, .peer, .gut] s (boundary s) := by
  unfold boundary
  extract_lets s0 sp s1 s2
  have h0 : Kept [.cyc, .lanes, .rings, .host, .peer, .gut] s s0 := (reportAll_kept ..).mono rfl
  have h1 : Kept [.cyc, .lanes, .rings, .host, .peer, .gut] s s1 := h0.step (Kept.foldl (fun _ _ => raiseHub_kept ..) _ _) rfl
  have h2 : Kept [.cyc, .lanes, .rings, .host, .peer, .gut] s s2 := h1.step (Kept.foldl (fun _ _ => decideExcl_kept ..) _ _) rfl
  clear_value s1 s2
  refine Kept.upd (h2) ?_ ?_ ?_ ?_ ?_ ?_ ?_ ?_ ?_ ?_ ?_ ?_ ?_ <;> first | exact .inl (by decide) | exact .inr rfl | exact .inl ⟨by decide, rfl⟩

theorem journalLate_kept (s : State) : Kept [.lanes, .gut] s (journalLate s) := by
  unfold journalLate
  try dsimp only
  repeat' first
    | with_reducible apply Kept.refl
    | with_reducible apply Kept.after (raiseLane_kept ..)
    | with_reducible refine Kept.step ?_ (Kept.foldl (ps := [.lanes, .gut]) (fun _ _ => ?_) _ _) rfl
    | (show within _ _ = true; rfl)
    | exact Or.inl (by decide)
    | exact Or.inr (by with_reducible rfl)
    | exact Or.inl ⟨by decide, rfl⟩
    | split
    | with_reducible apply Kept.upd

theorem sample_kept (s : State) (smp : Quad LaneSample) : Kept [.lanes] s (sample s smp) := by
  unfold sample
  try dsimp only
  repeat' first
    | with_reducible apply Kept.refl
    | (show within _ _ = true; rfl)
    | exact Or.inl (by decide)
    | exact Or.inr (by with_reducible rfl)
    | exact Or.inl ⟨by decide, rfl⟩
    | split
    | with_reducible apply Kept.upd

theorem applyLeaving_kept (s : State) : Kept [.cyc, .lanes] s (applyLeaving s) := by
  unfold applyLeaving
  try dsimp only
  repeat' first
    | with_reducible apply Kept.refl
    | (show within _ _ = true; rfl)
    | exact Or.inl (by decide)
    | exact Or.inr (by with_reducible rfl)
    | exact Or.inl ⟨by decide, rfl⟩
    | split
    | with_reducible apply Kept.upd

theorem applyShadow_kept (s : State) : Kept [.lanes] s (applyShadow s) := by
  unfold applyShadow
  try dsimp only
  repeat' first
    | with_reducible apply Kept.refl
    | (show within _ _ = true; rfl)
    | exact Or.inl (by decide)
    | exact Or.inr (by with_reducible rfl)
    | exact Or.inl ⟨by decide, rfl⟩
    | split
    | with_reducible apply Kept.upd

theorem applyJoin_kept (s : State) : Kept [.cyc, .lanes] s (applyJoin s) := by
  unfold applyJoin
  try dsimp only
  repeat' first
    | with_reducible apply Kept.refl
    | with_reducible apply Kept.after (onLane_kept ..)
    | (show within _ _ = true; rfl)
    | exact Or.inl (by decide)
    | exact Or.inr (by with_reducible rfl)
    | exact Or.inl ⟨by decide, rfl⟩
    | split
    | with_reducible apply Kept.upd

theorem standbyRoles_kept (s : State) : Kept [.lanes] s (standbyRoles s) := by
  unfold standbyRoles
  try dsimp only
  repeat' first
    | with_reducible apply Kept.refl
    | with_reducible apply Kept.after (onLanes_kept ..)
    | (show within _ _ = true; rfl)
    | exact Or.inl (by decide)
    | exact Or.inr (by with_reducible rfl)
    | exact Or.inl ⟨by decide, rfl⟩
    | split
    | with_reducible apply Kept.upd

theorem checkVotes_kept (s : State) : Kept [.supply, .healthy, .mode, .module, .cyc, .lanes, .host, .peer, .gut] s (checkVotes s) := by
  unfold checkVotes
  try dsimp only
  repeat' first
    | with_reducible apply Kept.refl
    | with_reducible apply Kept.after (enterSafeStop_kept ..)
    | with_reducible apply Kept.after (raiseShared_kept ..)
    | (show within _ _ = true; rfl)
    | exact Or.inl (by decide)
    | exact Or.inr (by with_reducible rfl)
    | exact Or.inl ⟨by decide, rfl⟩
    | split
    | with_reducible apply Kept.upd

theorem bootVotes_kept (s : State) : Kept [.lanes] s (bootVotes s) := by
  unfold bootVotes
  try dsimp only
  repeat' first
    | with_reducible apply Kept.refl
    | with_reducible apply Kept.after (onLanes_kept ..)
    | (show within _ _ = true; rfl)
    | exact Or.inl (by decide)
    | exact Or.inr (by with_reducible rfl)
    | exact Or.inl ⟨by decide, rfl⟩
    | split
    | with_reducible apply Kept.upd

theorem checkStandby_kept (before : Nat) (s : State) : Kept [.supply, .healthy, .mode, .module, .cyc, .lanes, .host, .peer] s (checkStandby before s) := by
  unfold checkStandby
  try dsimp only
  repeat' first
    | with_reducible apply Kept.refl
    | with_reducible apply Kept.after (enterSafeStop_kept ..)
    | (show within _ _ = true; rfl)
    | exact Or.inl (by decide)
    | exact Or.inr (by with_reducible rfl)
    | exact Or.inl ⟨by decide, rfl⟩
    | split
    | with_reducible apply Kept.upd

theorem retiredAlarms_kept (before s : State) : Kept [.gut] s (retiredAlarms before s) := by
  unfold retiredAlarms
  try dsimp only
  repeat' first
    | with_reducible apply Kept.refl
    | with_reducible apply Kept.after (raiseLane_kept ..)
    | with_reducible apply Kept.after (redrain_kept ..)
    | with_reducible refine Kept.step ?_ (Kept.foldl (ps := [.gut]) (fun _ _ => ?_) _ _) rfl
    | (show within _ _ = true; rfl)
    | exact Or.inl (by decide)
    | exact Or.inr (by with_reducible rfl)
    | exact Or.inl ⟨by decide, rfl⟩
    | split
    | with_reducible apply Kept.upd

theorem roles_kept (s : State) : Kept [.supply, .healthy, .mode, .module, .cyc, .lanes, .host, .peer, .gut] s (roles s) := by
  unfold roles
  try dsimp only
  repeat' first
    | with_reducible apply Kept.refl
    | with_reducible apply Kept.after (retiredAlarms_kept ..)
    | with_reducible apply Kept.after (checkStandby_kept ..)
    | with_reducible apply Kept.after (checkVotes_kept ..)
    | with_reducible apply Kept.after (standbyRoles_kept ..)
    | with_reducible apply Kept.after (applyJoin_kept ..)
    | with_reducible apply Kept.after (applyShadow_kept ..)
    | with_reducible apply Kept.after (applyLeaving_kept ..)
    | with_reducible apply Kept.after (lanesAlarm_kept ..)
    | with_reducible apply Kept.after (setMode_kept ..)
    | (show within _ _ = true; rfl)
    | exact Or.inl (by decide)
    | exact Or.inr (by with_reducible rfl)
    | exact Or.inl ⟨by decide, rfl⟩
    | split
    | with_reducible apply Kept.upd

theorem coldRunning_kept (s : State) (k : Nat) : Kept [.module, .cyc, .lanes, .agr, .gut] s (coldRunning s k) := by
  unfold coldRunning
  try dsimp only
  repeat' first
    | with_reducible apply Kept.refl
    | with_reducible apply Kept.after (restartNodes_kept ..)
    | with_reducible apply Kept.after (raiseShared_kept ..)
    | with_reducible apply Kept.after (onLanes_kept ..)
    | (show within _ _ = true; rfl)
    | exact Or.inl (by decide)
    | exact Or.inr (by with_reducible rfl)
    | exact Or.inl ⟨by decide, rfl⟩
    | split
    | with_reducible apply Kept.upd

theorem applyKey_kept (s : State) (k : Nat) : Kept [.healthy, .mode, .module, .ctl, .cyc, .lanes, .agr, .host, .gut] s (applyKey s k) := by
  unfold applyKey
  split
  · exact Kept.refl _ _
  · extract_lets wasTest c s1 s2 a t s3 t' a' s4
    have h1 : Kept [.healthy, .mode, .module, .ctl, .cyc, .lanes, .agr, .host, .gut] s s1 := by
      refine Kept.upd (Kept.refl _ _) ?_ ?_ ?_ ?_ ?_ ?_ ?_ ?_ ?_ ?_ ?_ ?_ ?_ <;> first | exact .inl (by decide) | exact .inr rfl | exact .inl ⟨by decide, rfl⟩
    have h2 : Kept [.healthy, .mode, .module, .ctl, .cyc, .lanes, .agr, .host, .gut] s s2 := by
      unfold s2
      split
      · refine Kept.upd (h1) ?_ ?_ ?_ ?_ ?_ ?_ ?_ ?_ ?_ ?_ ?_ ?_ ?_ <;> first | exact .inl (by decide) | exact .inr rfl | exact .inl ⟨by decide, rfl⟩
      · exact h1
    have h3 : Kept [.healthy, .mode, .module, .ctl, .cyc, .lanes, .agr, .host, .gut] s s3 := by
      unfold s3
      split
      · have ht : Kept [.healthy, .mode, .module, .ctl, .cyc, .lanes, .agr, .host, .gut] s t := by
          refine Kept.upd (h2) ?_ ?_ ?_ ?_ ?_ ?_ ?_ ?_ ?_ ?_ ?_ ?_ ?_ <;> first | exact .inl (by decide) | exact .inr rfl | exact .inl ⟨by decide, rfl⟩
        split
        · rename_i hc
          refine (ht.step (coldRunning_kept ..) rfl).step (setState_kept _ _ fun a => ?_) rfl
          rw [show (coldRunning t k).mod.st = t.mod.st from (coldRunning_kept ..).frame.rest .mode (by decide)] at a
          rw [a] at hc
          exact absurd hc (by decide)
        · exact ht
      · exact h2
    have h4 : Kept [.healthy, .mode, .module, .ctl, .cyc, .lanes, .agr, .host, .gut] s s4 := by
      unfold s4
      split
      · have ht : Kept [.healthy, .mode, .module, .ctl, .cyc, .lanes, .agr, .host, .gut] s t' := h3.step (onLanes_kept ..) rfl
        refine Kept.upd (ht) ?_ ?_ ?_ ?_ ?_ ?_ ?_ ?_ ?_ ?_ ?_ ?_ ?_ <;> first | exact .inl (by decide) | exact .inr rfl | exact .inl ⟨by decide, rfl⟩
      · exact h3
    exact h4.step (reportState_kept ..) rfl

theorem applyState_kept (s : State) : Kept [.supply, .healthy, .mode, .module, .cyc, .lanes, .host, .peer, .gut] s (applyState s) := by
  unfold applyState
  split
  · exact (enterSafeStop_kept _).mono rfl
  · split
    · refine Kept.upd ?_ ?_ ?_ ?_ ?_ ?_ ?_ ?_ ?_ ?_ ?_ ?_ ?_ ?_ <;> first | exact Kept.refl _ _ | exact .inl (by decide) | exact .inr rfl | exact .inl ⟨by decide, rfl⟩
    · split
      · rename_i hc
        have hs : s.mod.st ≠ .safeStop := by intro e; simp [e, ModState.runs] at hc
        refine Kept.step (Kept.step ?_ (raiseShared_kept ..) rfl) (setState_kept _ _ fun a => ?_) rfl
        · refine Kept.upd ?_ ?_ ?_ ?_ ?_ ?_ ?_ ?_ ?_ ?_ ?_ ?_ ?_ ?_ <;> first | exact Kept.refl _ _ | exact .inl (by decide) | exact .inr rfl | exact .inl ⟨by decide, rfl⟩
        · rw [(raiseShared_kept ..).frame.rest .mode (by decide)] at a
          exact absurd a hs
      · split
        · rename_i hc
          have hs : s.mod.st ≠ .safeStop := by intro e; simp [e] at hc
          refine Kept.step ?_ (setState_kept _ _ fun a => absurd a hs) rfl
          refine Kept.upd ?_ ?_ ?_ ?_ ?_ ?_ ?_ ?_ ?_ ?_ ?_ ?_ ?_ ?_ <;> first | exact Kept.refl _ _ | exact .inl (by decide) | exact .inr rfl | exact .inl ⟨by decide, rfl⟩
        · split
          · rename_i hc
            exact (setState_kept _ _ fun a => by rw [a] at hc; simp [ModState.runs] at hc).mono rfl
          · exact Kept.refl _ _

theorem applyExchange_kept (s : State) (k : Nat) : Kept [.module, .lanes] s (applyExchange s k) := by
  unfold applyExchange
  try dsimp only
  repeat' first
    | with_reducible apply Kept.refl
    | with_reducible apply Kept.after (onLanes_kept ..)
    | (show within _ _ = true; rfl)
    | exact Or.inl (by decide)
    | exact Or.inr (by with_reducible rfl)
    | exact Or.inl ⟨by decide, rfl⟩
    | split
    | with_reducible apply Kept.upd

theorem toHoldover_kept (s : State) : Kept [.lanes] s (toHoldover s) := by
  unfold toHoldover
  try dsimp only
  repeat' first
    | with_reducible apply Kept.refl
    | with_reducible apply Kept.after (onLanes_kept ..)
    | (show within _ _ = true; rfl)
    | exact Or.inl (by decide)
    | exact Or.inr (by with_reducible rfl)
    | exact Or.inl ⟨by decide, rfl⟩
    | split
    | with_reducible apply Kept.upd

theorem applyTimecfg_kept (s : State) : Kept [.time, .lanes, .gut] s (applyTimecfg s) := by
  unfold applyTimecfg
  try dsimp only
  repeat' first
    | with_reducible apply Kept.refl
    | with_reducible apply Kept.after (toHoldover_kept ..)
    | with_reducible apply Kept.after (raiseHub_kept ..)
    | (show within _ _ = true; rfl)
    | exact Or.inl (by decide)
    | exact Or.inr (by with_reducible rfl)
    | exact Or.inl ⟨by decide, rfl⟩
    | split
    | with_reducible apply Kept.upd

theorem bootJoin_kept (s : State) (k : Nat) : Kept [.healthy, .mode, .module, .cyc, .lanes, .host, .gut] s (bootJoin s k) := by
  unfold bootJoin
  split
  · exact Kept.refl _ _
  · split
    · exact Kept.refl _ _
    · rename_i hc
      have hs : s.mod.st ≠ .safeStop := by intro e; simp [e] at hc
      dsimp only
      split
      · refine Kept.step ?_ (raiseShared_kept ..) rfl
        refine Kept.upd ?_ ?_ ?_ ?_ ?_ ?_ ?_ ?_ ?_ ?_ ?_ ?_ ?_ ?_ <;> first | exact Kept.refl _ _ | exact .inl (by decide) | exact .inr rfl | exact .inl ⟨by decide, rfl⟩
      · refine Kept.step ?_ (setState_kept _ _ fun a => ?_) rfl
        · refine Kept.step ?_ (lanesAlarm_kept ..) rfl
          refine Kept.upd ?_ ?_ ?_ ?_ ?_ ?_ ?_ ?_ ?_ ?_ ?_ ?_ ?_ ?_
          all_goals try first | exact .inl (by decide) | exact .inr rfl | exact .inl ⟨by decide, rfl⟩
          · refine Kept.step (Kept.step ?_ (onLanes_kept ..) rfl) (setMode_kept ..) rfl
            refine Kept.upd ?_ ?_ ?_ ?_ ?_ ?_ ?_ ?_ ?_ ?_ ?_ ?_ ?_ ?_ <;> first | exact Kept.refl _ _ | exact .inl (by decide) | exact .inr rfl | exact .inl ⟨by decide, rfl⟩
        · rw [(lanesAlarm_kept ..).frame.rest .mode (by decide)] at a
          exact absurd ((setMode_kept ..).frame.rest .mode (by decide) |>.symm.trans a) hs

theorem openCycle_kept (s : State) (k : DWord) : Kept [.supply, .module, .cyc, .lanes, .agr, .host, .gut] s (openCycle s k) := by
  unfold openCycle
  try dsimp only
  repeat' first
    | with_reducible apply Kept.refl
    | (show within _ _ = true; rfl)
    | exact Or.inl (by decide)
    | exact Or.inr (by with_reducible rfl)
    | exact Or.inl ⟨by decide, rfl⟩
    | split
    | with_reducible apply Kept.upd

theorem orderlyStop_kept (s : State) : Kept [.supply, .lanes] s (orderlyStop s) := by
  unfold orderlyStop
  try dsimp only
  repeat' first
    | with_reducible apply Kept.refl
    | (show within _ _ = true; rfl)
    | exact Or.inl (by decide)
    | exact Or.inr (by with_reducible rfl)
    | exact Or.inl ⟨by decide, rfl⟩
    | split
    | with_reducible apply Kept.upd

theorem portOpenAtB_kept (s : State) : Kept [.lanes, .host] s (portOpenAtB s) := by
  unfold portOpenAtB
  try dsimp only
  repeat' first
    | with_reducible apply Kept.refl
    | with_reducible apply Kept.after (indicate_kept ..)
    | (show within _ _ = true; rfl)
    | exact Or.inl (by decide)
    | exact Or.inr (by with_reducible rfl)
    | exact Or.inl ⟨by decide, rfl⟩
    | split
    | with_reducible apply Kept.upd

theorem mirrorEnd_kept (s : State) : Kept [.peer] s (mirrorEnd s) := by
  unfold mirrorEnd
  try dsimp only
  repeat' first
    | with_reducible apply Kept.refl
    | (show within _ _ = true; rfl)
    | exact Or.inl (by decide)
    | exact Or.inr (by with_reducible rfl)
    | exact Or.inl ⟨by decide, rfl⟩
    | split
    | with_reducible apply Kept.upd

theorem stoppedLanes_kept (s : State) : Kept [.cyc, .lanes, .gut] s (stoppedLanes s) := by
  unfold stoppedLanes
  try dsimp only
  repeat' first
    | with_reducible apply Kept.refl
    | with_reducible apply Kept.after (decideExcl_kept ..)
    | with_reducible refine Kept.step ?_ (Kept.foldl (ps := [.cyc, .lanes, .gut]) (fun _ _ => ?_) _ _) rfl
    | (show within _ _ = true; rfl)
    | exact Or.inl (by decide)
    | exact Or.inr (by with_reducible rfl)
    | exact Or.inl ⟨by decide, rfl⟩
    | split
    | with_reducible apply Kept.upd

theorem endCycle_kept (s : State) : Kept [.cyc, .lanes, .agr, .rings, .host, .peer, .gut] s (endCycle s) := by
  unfold endCycle
  try dsimp only
  repeat' first
    | with_reducible apply Kept.refl
    | with_reducible apply Kept.after (stoppedLanes_kept ..)
    | with_reducible apply Kept.after (mirrorEnd_kept ..)
    | with_reducible apply Kept.after (journalLate_kept ..)
    | with_reducible apply Kept.after (boundary_kept ..)
    | with_reducible apply Kept.after (battenMisses_kept ..)
    | (show within _ _ = true; rfl)
    | exact Or.inl (by decide)
    | exact Or.inr (by with_reducible rfl)
    | exact Or.inl ⟨by decide, rfl⟩
    | split
    | with_reducible apply Kept.upd

theorem countCycle_kept (s : State) : Kept [.cyc] s (countCycle s) := by
  unfold countCycle
  try dsimp only
  repeat' first
    | with_reducible apply Kept.refl
    | (show within _ _ = true; rfl)
    | exact Or.inl (by decide)
    | exact Or.inr (by with_reducible rfl)
    | exact Or.inl ⟨by decide, rfl⟩
    | split
    | with_reducible apply Kept.upd

theorem takeSamples_kept (smp : Quad LaneSample) (strobe : Quad Int) (s : State) : Kept [.lanes] s (takeSamples smp strobe s) := by
  unfold takeSamples
  try dsimp only
  repeat' first
    | with_reducible apply Kept.refl
    | with_reducible apply Kept.after (sample_kept ..)
    | (show within _ _ = true; rfl)
    | exact Or.inl (by decide)
    | exact Or.inr (by with_reducible rfl)
    | exact Or.inl ⟨by decide, rfl⟩
    | split
    | with_reducible apply Kept.upd

theorem ringBackOff_kept (s : State) : Kept [.rings] s (ringBackOff s) := by
  unfold ringBackOff
  try dsimp only
  repeat' first
    | with_reducible apply Kept.refl
    | (show within _ _ = true; rfl)
    | exact Or.inl (by decide)
    | exact Or.inr (by with_reducible rfl)
    | exact Or.inl ⟨by decide, rfl⟩
    | split
    | with_reducible apply Kept.upd

theorem takeEffect_kept (s : State) : Kept [.time, .supply, .healthy, .mode, .module, .ctl, .cyc, .lanes, .agr, .rings, .host, .peer, .gut] s (takeEffect s) := by
  unfold takeEffect
  try dsimp only
  repeat' first
    | with_reducible apply Kept.refl
    | with_reducible apply Kept.after (ringBackOff_kept ..)
    | with_reducible apply Kept.after (orderlyStop_kept ..)
    | with_reducible apply Kept.after (bootJoin_kept ..)
    | with_reducible apply Kept.after (applyTimecfg_kept ..)
    | with_reducible apply Kept.after (applyExchange_kept ..)
    | with_reducible apply Kept.after (applyState_kept ..)
    | with_reducible apply Kept.after (applyKey_kept ..)
    | with_reducible apply Kept.after (roles_kept ..)
    | (show within _ _ = true; rfl)
    | exact Or.inl (by decide)
    | exact Or.inr (by with_reducible rfl)
    | exact Or.inl ⟨by decide, rfl⟩
    | split
    | with_reducible apply Kept.upd

theorem commonInstant_kept (smp : Quad LaneSample) (strobe : Quad Int) (s : State) : Kept [.time, .supply, .healthy, .mode, .module, .ctl, .cyc, .lanes, .agr, .rings, .host, .peer, .gut] s (commonInstant smp strobe s) := by
  unfold commonInstant
  try dsimp only
  repeat' first
    | with_reducible apply Kept.refl
    | with_reducible apply Kept.after (takeEffect_kept ..)
    | with_reducible apply Kept.after (takeSamples_kept ..)
    | with_reducible apply Kept.after (countCycle_kept ..)
    | with_reducible apply Kept.after (endCycle_kept ..)
    | with_reducible apply Kept.after (openCycle_kept ..)
    | with_reducible apply Kept.after (nextCk_kept ..)
    | with_reducible apply Kept.after (reportState_kept ..)
    | with_reducible apply Kept.after (signalState_kept ..)
    | (show within _ _ = true; rfl)
    | exact Or.inl (by decide)
    | exact Or.inr (by with_reducible rfl)
    | exact Or.inl ⟨by decide, rfl⟩
    | split
    | with_reducible apply Kept.upd

theorem execCommonInstant_kept (smp : Quad LaneSample) (strobe : Quad Int) (s : State) : ∃ t, execCommonInstant smp strobe s = .next t ∧ Kept [.time, .supply, .healthy, .mode, .module, .ctl, .cyc, .lanes, .agr, .rings, .host, .peer, .gut] s t := by
  refine ⟨_, rfl, ?_⟩
  repeat' first
    | with_reducible apply Kept.refl
    | with_reducible apply Kept.after (commonInstant_kept ..)
    | (show within _ _ = true; rfl)
    | exact Or.inl (by decide)
    | exact Or.inr (by with_reducible rfl)
    | exact Or.inl ⟨by decide, rfl⟩
    | split
    | with_reducible apply Kept.upd

theorem nodeAlarms_kept (ring pos : Nat) (e : NodeEnt) (g st : SecAgreed) (old : NodeImg) (s : State) : Kept [.gut] s (nodeAlarms ring pos e g st old s) := by
  unfold nodeAlarms
  try dsimp only
  repeat' first
    | with_reducible apply Kept.refl
    | with_reducible apply Kept.after (raiseShared_kept ..)
    | (show within _ _ = true; rfl)
    | exact Or.inl (by decide)
    | exact Or.inr (by with_reducible rfl)
    | exact Or.inl ⟨by decide, rfl⟩
    | split
    | with_reducible apply Kept.upd

theorem agreeNode_kept (y : Yealm) (ls all : List Lane) (fetchBad : Quad Bool) (prevT nowT : DWord) (r : RingId) (s : State) (pe : Nat × NodeEnt) : Kept [.lanes, .agr, .gut] s (agreeNode y ls all fetchBad prevT nowT r s pe) := by
  unfold agreeNode
  try dsimp only
  repeat' first
    | with_reducible apply Kept.refl
    | with_reducible apply Kept.after (nodeAlarms_kept ..)
    | with_reducible apply Kept.after (onLanes_kept ..)
    | (show within _ _ = true; rfl)
    | exact Or.inl (by decide)
    | exact Or.inr (by with_reducible rfl)
    | exact Or.inl ⟨by decide, rfl⟩
    | split
    | with_reducible apply Kept.upd

theorem agreeRings_kept (y : Yealm) (ls all : List Lane) (fetchBad : Quad Bool) (prevT nowT : DWord) (s : State) : Kept [.lanes, .agr, .gut] s (agreeRings y ls all fetchBad prevT nowT s) := by
  unfold agreeRings
  try dsimp only
  repeat' first
    | with_reducible apply Kept.refl
    | with_reducible apply Kept.after (agreeNode_kept ..)
    | with_reducible refine Kept.step ?_ (Kept.foldl (ps := [.lanes, .agr, .gut]) (fun _ _ => ?_) _ _) rfl
    | (show within _ _ = true; rfl)
    | exact Or.inl (by decide)
    | exact Or.inr (by with_reducible rfl)
    | exact Or.inl ⟨by decide, rfl⟩
    | split
    | with_reducible apply Kept.upd

theorem agreeEaves_kept (y : Yealm) (ls : List Lane) (nowT : DWord) (s : State) : Kept [.lanes, .agr, .gut] s (agreeEaves y ls nowT s) := by
  unfold agreeEaves
  try dsimp only
  repeat' first
    | with_reducible apply Kept.refl
    | with_reducible apply Kept.after (raiseShared_kept ..)
    | with_reducible apply Kept.after (onLanes_kept ..)
    | with_reducible refine Kept.step ?_ (Kept.foldl (ps := [.lanes, .agr, .gut]) (fun _ _ => ?_) _ _) rfl
    | (show within _ _ = true; rfl)
    | exact Or.inl (by decide)
    | exact Or.inr (by with_reducible rfl)
    | exact Or.inl ⟨by decide, rfl⟩
    | split
    | with_reducible apply Kept.upd

theorem missedBatten_kept (s : State) : Kept [.lanes] s (missedBatten s) := by
  unfold missedBatten
  try dsimp only
  repeat' first
    | with_reducible apply Kept.refl
    | (show within _ _ = true; rfl)
    | exact Or.inl (by decide)
    | exact Or.inr (by with_reducible rfl)
    | exact Or.inl ⟨by decide, rfl⟩
    | split
    | with_reducible apply Kept.upd

theorem trussStatsLane_kept (s : State) (l : Lane) : Kept [.lanes, .gut] s (trussStatsLane s l) := by
  unfold trussStatsLane
  try dsimp only
  repeat' first
    | with_reducible apply Kept.refl
    | with_reducible apply Kept.after (raiseLane_kept ..)
    | with_reducible apply Kept.after (onLane_kept ..)
    | (show within _ _ = true; rfl)
    | exact Or.inl (by decide)
    | exact Or.inr (by with_reducible rfl)
    | exact Or.inl ⟨by decide, rfl⟩
    | split
    | with_reducible apply Kept.upd

theorem execTrussStats_kept (s : State) : ∃ t, execTrussStats s = .next t ∧ Kept [.lanes, .gut] s t := by
  refine ⟨_, rfl, ?_⟩
  repeat' first
    | with_reducible apply Kept.refl
    | with_reducible apply Kept.after (trussStatsLane_kept ..)
    | with_reducible refine Kept.step ?_ (Kept.foldl (ps := [.lanes, .gut]) (fun _ _ => ?_) _ _) rfl
    | (show within _ _ = true; rfl)
    | exact Or.inl (by decide)
    | exact Or.inr (by with_reducible rfl)
    | exact Or.inl ⟨by decide, rfl⟩
    | split
    | with_reducible apply Kept.upd

theorem standbyIncomplete_kept (s : State) (cond : Nat) : Kept [.peer, .gut] s (standbyIncomplete s cond) := by
  unfold standbyIncomplete
  try dsimp only
  repeat' first
    | with_reducible apply Kept.refl
    | with_reducible apply Kept.after (raiseHub_kept ..)
    | (show within _ _ = true; rfl)
    | exact Or.inl (by decide)
    | exact Or.inr (by with_reducible rfl)
    | exact Or.inl ⟨by decide, rfl⟩
    | split
    | with_reducible apply Kept.upd

theorem markStandby_kept (s : State) : Kept [.peer, .gut] s (markStandby s) := by
  unfold markStandby
  try dsimp only
  repeat' first
    | with_reducible apply Kept.refl
    | with_reducible apply Kept.after (standbyIncomplete_kept ..)
    | (show within _ _ = true; rfl)
    | exact Or.inl (by decide)
    | exact Or.inr (by with_reducible rfl)
    | exact Or.inl ⟨by decide, rfl⟩
    | split
    | with_reducible apply Kept.upd

theorem takeCmd_kept (s : State) (d : List Byte) : Kept [.lanes] s (takeCmd s d) := by
  unfold takeCmd
  try dsimp only
  repeat' first
    | with_reducible apply Kept.refl
    | with_reducible apply Kept.after (onLanes_kept ..)
    | (show within _ _ = true; rfl)
    | exact Or.inl (by decide)
    | exact Or.inr (by with_reducible rfl)
    | exact Or.inl ⟨by decide, rfl⟩
    | split
    | with_reducible apply Kept.upd

theorem answerAll_kept (s : State) (ls : List Lane) (i : Nat) (status reason : Byte) : Kept [.lanes] s (answerAll s ls i status reason) := by
  unfold answerAll
  try dsimp only
  repeat' first
    | with_reducible apply Kept.refl
    | with_reducible apply Kept.after (onLanes_kept ..)
    | (show within _ _ = true; rfl)
    | exact Or.inl (by decide)
    | exact Or.inr (by with_reducible rfl)
    | exact Or.inl ⟨by decide, rfl⟩
    | split
    | with_reducible apply Kept.upd

theorem intake_kept (ls : List Lane) (n : Nat) : ∀ (i : Nat) (s : State), Kept [.lanes, .agr] s (intake ls n i s).1 := by
  induction n with
  | zero => exact fun i s => Kept.refl _ s
  | succ n ih =>
    intro i s
    unfold intake
    repeat' first
      | with_reducible exact Kept.refl _ _
      | exact Kept.step ((answerAll_kept ..).mono rfl) (ih _ _) rfl
      | exact Kept.step ((takeCmd_kept ..).mono rfl) (ih _ _) rfl
      | split

theorem closeIntake_kept (s : State) (ls : List Lane) : Kept [.lanes, .agr, .host] s (closeIntake s ls) := by
  unfold closeIntake
  try dsimp only
  repeat' first
    | with_reducible apply Kept.refl
    | with_reducible apply Kept.after (intake_kept ..)
    | with_reducible apply Kept.after (ringConsume_kept ..)
    | (show within _ _ = true; rfl)
    | exact Or.inl (by decide)
    | exact Or.inr (by with_reducible rfl)
    | exact Or.inl ⟨by decide, rfl⟩
    | split
    | with_reducible apply Kept.upd

theorem needAck_kept (s : State) (cyc : Nat) : Kept [.peer, .gut] s (needAck s cyc) := by
  unfold needAck
  try dsimp only
  repeat' first
    | with_reducible apply Kept.refl
    | with_reducible apply Kept.after (markStandby_kept ..)
    | (show within _ _ = true; rfl)
    | exact Or.inl (by decide)
    | exact Or.inr (by with_reducible rfl)
    | exact Or.inl ⟨by decide, rfl⟩
    | split
    | with_reducible apply Kept.upd

theorem needAcks_kept (cs : List CmdEnt) (s : State) : Kept [.peer, .gut] s (needAcks cs s) := by
  unfold needAcks
  try dsimp only
  repeat' first
    | with_reducible apply Kept.refl
    | with_reducible apply Kept.after (needAck_kept ..)
    | with_reducible refine Kept.step ?_ (Kept.foldl (ps := [.peer, .gut]) (fun _ _ => ?_) _ _) rfl
    | (show within _ _ = true; rfl)
    | exact Or.inl (by decide)
    | exact Or.inr (by with_reducible rfl)
    | exact Or.inl ⟨by decide, rfl⟩
    | split
    | with_reducible apply Kept.upd

theorem confirmLoop_kept (cs : List CmdEnt) : ∀ s : State, Kept [.lanes, .agr] s (confirmLoop cs s) := by
  induction cs with
  | nil => intro s; unfold confirmLoop; refine Kept.upd ?_ ?_ ?_ ?_ ?_ ?_ ?_ ?_ ?_ ?_ ?_ ?_ ?_ ?_ <;> first | exact Kept.refl _ _ | exact .inl (by decide) | exact .inr rfl | exact .inl ⟨by decide, rfl⟩
  | cons c r ih =>
    intro s
    unfold confirmLoop
    try dsimp only
    split
    · exact ih s
    · split
      · refine Kept.step ?_ (ih _) rfl
        refine Kept.upd ?_ ?_ ?_ ?_ ?_ ?_ ?_ ?_ ?_ ?_ ?_ ?_ ?_ ?_
        all_goals try first | exact .inl (by decide) | exact .inr rfl | exact .inl ⟨by decide, rfl⟩
        · exact (onLanes_kept ..).mono rfl
      · refine Kept.upd ?_ ?_ ?_ ?_ ?_ ?_ ?_ ?_ ?_ ?_ ?_ ?_ ?_ ?_ <;> first | exact Kept.refl _ _ | exact .inl (by decide) | exact .inr rfl | exact .inl ⟨by decide, rfl⟩

theorem termLoop_kept (cs : List CmdEnt) : ∀ s : State, Kept [.lanes] s (termLoop cs s) := by
  induction cs with
  | nil => exact fun s => Kept.refl _ s
  | cons c r ih =>
    intro s
    unfold termLoop
    try dsimp only
    split
    · exact Kept.step (onLanes_kept ..) (ih _) rfl
    · exact ih s

theorem produceCpl_kept (s : State) : Kept [.lanes] s (produceCpl s) := by
  unfold produceCpl
  try dsimp only
  repeat' first
    | with_reducible apply Kept.refl
    | with_reducible apply Kept.after (onLanes_kept ..)
    | (show within _ _ = true; rfl)
    | exact Or.inl (by decide)
    | exact Or.inr (by with_reducible rfl)
    | exact Or.inl ⟨by decide, rfl⟩
    | split
    | with_reducible apply Kept.upd

theorem decideCmd_kept (s : State) (asn status reason data : Nat) (keep : Bool) : Kept [.lanes] s (decideCmd s asn status reason data keep) := by
  unfold decideCmd
  try dsimp only
  repeat' first
    | with_reducible apply Kept.refl
    | with_reducible apply Kept.after (onLanes_kept ..)
    | (show within _ _ = true; rfl)
    | exact Or.inl (by decide)
    | exact Or.inr (by with_reducible rfl)
    | exact Or.inl ⟨by decide, rfl⟩
    | split
    | with_reducible apply Kept.upd

theorem refreshUl_kept (s : State) : Kept [.host] s (refreshUl s) := by
  unfold refreshUl
  try dsimp only
  repeat' first
    | with_reducible apply Kept.refl
    | (show within _ _ = true; rfl)
    | exact Or.inl (by decide)
    | exact Or.inr (by with_reducible rfl)
    | exact Or.inl ⟨by decide, rfl⟩
    | split
    | with_reducible apply Kept.upd

theorem refreshLanes_kept (s : State) : Kept [.host] s (refreshLanes s) := by
  unfold refreshLanes
  try dsimp only
  repeat' first
    | with_reducible apply Kept.refl
    | (show within _ _ = true; rfl)
    | exact Or.inl (by decide)
    | exact Or.inr (by with_reducible rfl)
    | exact Or.inl ⟨by decide, rfl⟩
    | split
    | with_reducible apply Kept.upd

theorem refreshAll_kept (s : State) : Kept [.host] s (refreshAll s) := by
  unfold refreshAll
  try dsimp only
  repeat' first
    | with_reducible apply Kept.refl
    | with_reducible apply Kept.after (refreshLanes_kept ..)
    | with_reducible apply Kept.after (refreshUl_kept ..)
    | (show within _ _ = true; rfl)
    | exact Or.inl (by decide)
    | exact Or.inr (by with_reducible rfl)
    | exact Or.inl ⟨by decide, rfl⟩
    | split
    | with_reducible apply Kept.upd

theorem lateSection_kept (s : State) (w : RingSlot) : Kept [.agr] s (lateSection s w) := by
  unfold lateSection
  try dsimp only
  repeat' first
    | with_reducible apply Kept.refl
    | (show within _ _ = true; rfl)
    | exact Or.inl (by decide)
    | exact Or.inr (by with_reducible rfl)
    | exact Or.inl ⟨by decide, rfl⟩
    | split
    | with_reducible apply Kept.upd

theorem drainSpills_kept (s : State) : Kept [.gut] s (drainSpills s) := by
  unfold drainSpills
  try dsimp only
  repeat' first
    | with_reducible apply Kept.refl
    | with_reducible apply Kept.after (spillCount_kept ..)
    | with_reducible refine Kept.step ?_ (Kept.foldl (ps := [.gut]) (fun _ _ => ?_) _ _) rfl
    | (show within _ _ = true; rfl)
    | exact Or.inl (by decide)
    | exact Or.inr (by with_reducible rfl)
    | exact Or.inl ⟨by decide, rfl⟩
    | split
    | with_reducible apply Kept.upd

theorem inputCloseAt_kept (s : State) : Kept [.time, .supply, .cyc, .lanes, .agr, .rings, .gut] s (inputCloseAt s) := by
  unfold inputCloseAt
  try dsimp only
  repeat' first
    | with_reducible apply Kept.refl
    | with_reducible apply Kept.after (drainSpills_kept ..)
    | with_reducible apply Kept.after (lateSection_kept ..)
    | with_reducible apply Kept.after (advanceTo_kept ..)
    | with_reducible refine Kept.step ?_ (Kept.foldl (ps := [.time, .supply, .cyc, .lanes, .agr, .rings, .gut]) (fun _ _ => ?_) _ _) rfl
    | (show within _ _ = true; rfl)
    | exact Or.inl (by decide)
    | exact Or.inr (by with_reducible rfl)
    | exact Or.inl ⟨by decide, rfl⟩
    | split
    | with_reducible apply Kept.upd

theorem execInputClose_kept (s : State) : ∃ t, execInputClose s = .next t ∧ Kept [.time, .supply, .cyc, .lanes, .agr, .rings, .gut] s t := by
  refine ⟨_, rfl, ?_⟩
  repeat' first
    | with_reducible apply Kept.refl
    | with_reducible apply Kept.after (inputCloseAt_kept ..)
    | (show within _ _ = true; rfl)
    | exact Or.inl (by decide)
    | exact Or.inr (by with_reducible rfl)
    | exact Or.inl ⟨by decide, rfl⟩
    | split
    | with_reducible apply Kept.upd

theorem ctlAgree_kept (s : State) (ls : List Lane) : Kept [.ctl, .lanes] s (ctlAgree s ls) := by
  unfold ctlAgree
  try dsimp only
  repeat' first
    | with_reducible apply Kept.refl
    | (show within _ _ = true; rfl)
    | exact Or.inl (by decide)
    | exact Or.inr (by with_reducible rfl)
    | exact Or.inl ⟨by decide, rfl⟩
    | split
    | with_reducible apply Kept.upd

theorem stationTime_kept (s : State) (ls : List Lane) (o : StationOffer) : Kept [.lanes, .agr, .gut] s (stationTime s ls o) := by
  unfold stationTime
  try dsimp only
  repeat' first
    | with_reducible apply Kept.refl
    | with_reducible apply Kept.after (raiseShared_kept ..)
    | with_reducible apply Kept.after (onLanes_kept ..)
    | (show within _ _ = true; rfl)
    | exact Or.inl (by decide)
    | exact Or.inr (by with_reducible rfl)
    | exact Or.inl ⟨by decide, rfl⟩
    | split
    | with_reducible apply Kept.upd

theorem releaseAll_kept (s : State) (y : Yealm) : Kept [.cyc, .lanes] s (releaseAll s y) := by
  unfold releaseAll
  try dsimp only
  repeat' first
    | with_reducible apply Kept.refl
    | with_reducible apply Kept.after (onLanes_kept ..)
    | (show within _ _ = true; rfl)
    | exact Or.inl (by decide)
    | exact Or.inr (by with_reducible rfl)
    | exact Or.inl ⟨by decide, rfl⟩
    | split
    | with_reducible apply Kept.upd

theorem fitNodes_kept (s : State) (y : Yealm) : Kept [.agr] s (fitNodes s y) := by
  unfold fitNodes
  try dsimp only
  repeat' first
    | with_reducible apply Kept.refl
    | (show within _ _ = true; rfl)
    | exact Or.inl (by decide)
    | exact Or.inr (by with_reducible rfl)
    | exact Or.inl ⟨by decide, rfl⟩
    | split
    | with_reducible apply Kept.upd

theorem agreeImage_kept (s : State) (y : Yealm) (ls : List Lane) (fetchBad : Quad Bool) (prevT nowT : DWord) : Kept [.cyc, .lanes, .agr, .gut] s (agreeImage s y ls fetchBad prevT nowT) := by
  unfold agreeImage
  try dsimp only
  repeat' first
    | with_reducible apply Kept.refl
    | with_reducible apply Kept.after (fitNodes_kept ..)
    | with_reducible apply Kept.after (missedBatten_kept ..)
    | with_reducible apply Kept.after (agreeEaves_kept ..)
    | with_reducible apply Kept.after (agreeRings_kept ..)
    | with_reducible apply Kept.after (decideExcl_kept ..)
    | with_reducible refine Kept.step ?_ (Kept.foldl (ps := [.cyc, .lanes, .agr, .gut]) (fun _ _ => ?_) _ _) rfl
    | (show within _ _ = true; rfl)
    | exact Or.inl (by decide)
    | exact Or.inr (by with_reducible rfl)
    | exact Or.inl ⟨by decide, rfl⟩
    | split
    | with_reducible apply Kept.upd

theorem clearInputs_kept (s : State) : Kept [.lanes] s (clearInputs s) := by
  unfold clearInputs
  try dsimp only
  repeat' first
    | with_reducible apply Kept.refl
    | (show within _ _ = true; rfl)
    | exact Or.inl (by decide)
    | exact Or.inr (by with_reducible rfl)
    | exact Or.inl ⟨by decide, rfl⟩
    | split
    | with_reducible apply Kept.upd

theorem agreeCommands_kept (s : State) : Kept [.lanes, .agr, .host, .peer, .gut] s (agreeCommands s) := by
  unfold agreeCommands
  try dsimp only
  repeat' first
    | with_reducible apply Kept.refl
    | with_reducible apply Kept.after (produceCpl_kept ..)
    | with_reducible apply Kept.after (termLoop_kept ..)
    | with_reducible apply Kept.after (confirmLoop_kept ..)
    | with_reducible apply Kept.after (needAcks_kept ..)
    | with_reducible apply Kept.after (closeIntake_kept ..)
    | (show within _ _ = true; rfl)
    | exact Or.inl (by decide)
    | exact Or.inr (by with_reducible rfl)
    | exact Or.inl ⟨by decide, rfl⟩
    | split
    | with_reducible apply Kept.upd

theorem agreeInputs_kept (ls : List Lane) (fetchBad : Quad Bool) (offer : StationOffer) (s : State) : Kept [.cyc, .lanes, .agr, .gut] s (agreeInputs ls fetchBad offer s) := by
  unfold agreeInputs
  try dsimp only
  repeat' first
    | with_reducible apply Kept.refl
    | with_reducible apply Kept.after (agreeImage_kept ..)
    | with_reducible apply Kept.after (releaseAll_kept ..)
    | with_reducible apply Kept.after (stationTime_kept ..)
    | (show within _ _ = true; rfl)
    | exact Or.inl (by decide)
    | exact Or.inr (by with_reducible rfl)
    | exact Or.inl ⟨by decide, rfl⟩
    | split
    | with_reducible apply Kept.upd

theorem agreeReadback_kept (s : State) : Kept [.host] s (agreeReadback s) := by
  unfold agreeReadback
  try dsimp only
  repeat' first
    | with_reducible apply Kept.refl
    | with_reducible apply Kept.after (refreshAll_kept ..)
    | with_reducible apply Kept.after (refreshUl_kept ..)
    | (show within _ _ = true; rfl)
    | exact Or.inl (by decide)
    | exact Or.inr (by with_reducible rfl)
    | exact Or.inl ⟨by decide, rfl⟩
    | split
    | with_reducible apply Kept.upd

theorem agreeSilent_kept (noReport : Quad Bool) (s : State) : Kept [.cyc, .lanes, .gut] s (agreeSilent noReport s) := by
  unfold agreeSilent
  exact Kept.foldl (fun _ _ => decideExcl_kept ..) _ _

theorem cycleAgree_kept (s : State) (ls : List Lane) : Kept [.cyc, .lanes] s (cycleAgree s ls) := by
  unfold cycleAgree
  try dsimp only
  repeat' first
    | with_reducible apply Kept.refl
    | (show within _ _ = true; rfl)
    | exact Or.inl (by decide)
    | exact Or.inr (by with_reducible rfl)
    | exact Or.inl ⟨by decide, rfl⟩
    | split
    | with_reducible apply Kept.upd

theorem inputAgreementAt_kept (noReport fetchBad : Quad Bool) (offer : StationOffer) (s : State) :
    Kept [.time, .supply, .ctl, .cyc, .lanes, .agr, .host, .peer, .gut] s (inputAgreementAt noReport fetchBad offer s) := by
  unfold inputAgreementAt
  have h0 : Kept [.time, .supply, .ctl, .cyc, .lanes, .agr, .host, .peer, .gut] s { (advanceTo s 600000) with cyc := { s.cyc with agreedIn := true, closed := true } } := by
    refine Kept.upd (r := advanceTo s 600000) ((advanceTo_kept s _).mono rfl) ?_ ?_ ?_ ?_ ?_ ?_ ?_ ?_ ?_ ?_ ?_ ?_ ?_ <;> first | exact Or.inl (by decide) | exact Or.inr rfl | exact Or.inl ⟨by decide, rfl⟩
  have h1 := h0.step (agreeSilent_kept noReport _) rfl
  generalize agreeSilent noReport { (advanceTo s 600000) with cyc := { s.cyc with agreedIn := true, closed := true } } = s1 at h1 ⊢
  extract_lets s1' ls s2
  have h2 : Kept [.time, .supply, .ctl, .cyc, .lanes, .agr, .host, .peer, .gut] s s2 :=
    ((((h1.step (cycleAgree_kept ..) rfl).step (ctlAgree_kept ..) rfl).step (agreeInputs_kept ..) rfl).step (clearInputs_kept ..) rfl).step (agreeCommands_kept ..) rfl
  clear_value s2
  refine Kept.step ?_ (agreeReadback_kept ..) rfl
  refine Kept.upd (h2) ?_ ?_ ?_ ?_ ?_ ?_ ?_ ?_ ?_ ?_ ?_ ?_ ?_ <;> first | exact .inl (by decide) | exact .inr rfl | exact .inl ⟨by decide, rfl⟩

theorem execInputAgreement_kept (noReport fetchBad : Quad Bool) (offer : StationOffer) (s : State) : ∃ t, execInputAgreement noReport fetchBad offer s = .next t ∧ Kept [.time, .supply, .ctl, .cyc, .lanes, .agr, .host, .peer, .gut] s t := by
  refine ⟨_, rfl, ?_⟩
  repeat' first
    | with_reducible apply Kept.refl
    | with_reducible apply Kept.after (inputAgreementAt_kept ..)
    | (show within _ _ = true; rfl)
    | exact Or.inl (by decide)
    | exact Or.inr (by with_reducible rfl)
    | exact Or.inl ⟨by decide, rfl⟩
    | split
    | with_reducible apply Kept.upd

theorem execInputDiverge_kept (s : State) : ∃ t, execInputDiverge s = .next t ∧ Kept [.lanes, .gut] s t := by
  refine ⟨_, rfl, ?_⟩
  repeat' first
    | with_reducible apply Kept.refl
    | with_reducible apply Kept.after (raiseLane_kept ..)
    | with_reducible apply Kept.after (onLane_kept ..)
    | with_reducible refine Kept.step ?_ (Kept.foldl (ps := [.lanes, .gut]) (fun _ _ => ?_) _ _) rfl
    | (show within _ _ = true; rfl)
    | exact Or.inl (by decide)
    | exact Or.inr (by with_reducible rfl)
    | exact Or.inl ⟨by decide, rfl⟩
    | split
    | with_reducible apply Kept.upd

theorem flitSent_kept (s : State) (l : Lane) (kind : FlitKind) : Kept [.lanes] s (flitSent s l kind) := by
  unfold flitSent
  try dsimp only
  repeat' first
    | with_reducible apply Kept.refl
    | (show within _ _ = true; rfl)
    | exact Or.inl (by decide)
    | exact Or.inr (by with_reducible rfl)
    | exact Or.inl ⟨by decide, rfl⟩
    | split
    | with_reducible apply Kept.upd

theorem flitTaken_kept (s : State) (l : Lane) (kind : FlitKind) : Kept [.lanes] s (flitTaken s l kind) := by
  unfold flitTaken
  try dsimp only
  repeat' first
    | with_reducible apply Kept.refl
    | (show within _ _ = true; rfl)
    | exact Or.inl (by decide)
    | exact Or.inr (by with_reducible rfl)
    | exact Or.inl ⟨by decide, rfl⟩
    | split
    | with_reducible apply Kept.upd

theorem tryPublish_kept (s : State) (l : Lane) : Kept [.lanes] s (tryPublish s l) := by
  unfold tryPublish
  try dsimp only
  repeat' first
    | with_reducible apply Kept.refl
    | with_reducible apply Kept.after (flitSent_kept ..)
    | (show within _ _ = true; rfl)
    | exact Or.inl (by decide)
    | exact Or.inr (by with_reducible rfl)
    | exact Or.inl ⟨by decide, rfl⟩
    | split
    | with_reducible apply Kept.upd

theorem atCycle_kept (s : State) : Kept [.cyc] s (atCycle s) := by
  unfold atCycle
  try dsimp only
  repeat' first
    | with_reducible apply Kept.refl
    | (show within _ _ = true; rfl)
    | exact Or.inl (by decide)
    | exact Or.inr (by with_reducible rfl)
    | exact Or.inl ⟨by decide, rfl⟩
    | split
    | with_reducible apply Kept.upd

theorem programRecs_kept (s : State) (recs : List GRecIn) : Kept [.gut] s (programRecs s recs) := by
  unfold programRecs
  try dsimp only
  repeat' first
    | with_reducible apply Kept.refl
    | with_reducible apply Kept.after (gutPut_kept ..)
    | with_reducible refine Kept.step ?_ (Kept.foldl (ps := [.gut]) (fun _ _ => ?_) _ _) rfl
    | (show within _ _ = true; rfl)
    | exact Or.inl (by decide)
    | exact Or.inr (by with_reducible rfl)
    | exact Or.inl ⟨by decide, rfl⟩
    | split
    | with_reducible apply Kept.upd

theorem taskEndAt_kept (lanes : Quad Bool) (task runUs : Nat) (r : TaskResult) (s : State) : Kept [.cyc, .lanes, .gut] s (taskEndAt lanes task runUs r s) := by
  unfold taskEndAt
  try dsimp only
  repeat' first
    | with_reducible apply Kept.refl
    | with_reducible apply Kept.after (programRecs_kept ..)
    | with_reducible apply Kept.after (atCycle_kept ..)
    | with_reducible apply Kept.after (tryPublish_kept ..)
    | with_reducible apply Kept.after (raiseLane_kept ..)
    | with_reducible apply Kept.after (onLanes_kept ..)
    | with_reducible refine Kept.step ?_ (Kept.foldl (ps := [.cyc, .lanes, .gut]) (fun _ _ => ?_) _ _) rfl
    | (show within _ _ = true; rfl)
    | exact Or.inl (by decide)
    | exact Or.inr (by with_reducible rfl)
    | exact Or.inl ⟨by decide, rfl⟩
    | split
    | with_reducible apply Kept.upd

theorem execTaskEnd_kept (lanes : Quad Bool) (task runUs : Nat) (res : TaskResult) (s : State) : ∃ t, execTaskEnd lanes task runUs res s = .next t ∧ Kept [.cyc, .lanes, .gut] s t := by
  refine ⟨_, rfl, ?_⟩
  repeat' first
    | with_reducible apply Kept.refl
    | with_reducible apply Kept.after (taskEndAt_kept ..)
    | (show within _ _ = true; rfl)
    | exact Or.inl (by decide)
    | exact Or.inr (by with_reducible rfl)
    | exact Or.inl ⟨by decide, rfl⟩
    | split
    | with_reducible apply Kept.upd

theorem trussDoneAt_kept (lanes : Quad Bool) (evalUs : Nat) (s : State) : Kept [.cyc, .lanes] s (trussDoneAt lanes evalUs s) := by
  unfold trussDoneAt
  try dsimp only
  repeat' first
    | with_reducible apply Kept.refl
    | with_reducible apply Kept.after (atCycle_kept ..)
    | with_reducible apply Kept.after (tryPublish_kept ..)
    | with_reducible apply Kept.after (onLanes_kept ..)
    | with_reducible refine Kept.step ?_ (Kept.foldl (ps := [.cyc, .lanes]) (fun _ _ => ?_) _ _) rfl
    | (show within _ _ = true; rfl)
    | exact Or.inl (by decide)
    | exact Or.inr (by with_reducible rfl)
    | exact Or.inl ⟨by decide, rfl⟩
    | split
    | with_reducible apply Kept.upd

theorem execTrussEvaluationComplete_kept (lanes : Quad Bool) (evalUs : Nat) (s : State) : ∃ t, execTrussEvaluationComplete lanes evalUs s = .next t ∧ Kept [.cyc, .lanes] s t := by
  refine ⟨_, rfl, ?_⟩
  repeat' first
    | with_reducible apply Kept.refl
    | with_reducible apply Kept.after (trussDoneAt_kept ..)
    | (show within _ _ = true; rfl)
    | exact Or.inl (by decide)
    | exact Or.inr (by with_reducible rfl)
    | exact Or.inl ⟨by decide, rfl⟩
    | split
    | with_reducible apply Kept.upd

theorem voteDeadlineAt_kept (s : State) : Kept [.time, .supply, .cyc, .lanes] s (voteDeadlineAt s) := by
  unfold voteDeadlineAt
  try dsimp only
  repeat' first
    | with_reducible apply Kept.refl
    | with_reducible apply Kept.after (flitSent_kept ..)
    | with_reducible apply Kept.after (advanceTo_kept ..)
    | with_reducible refine Kept.step ?_ (Kept.foldl (ps := [.time, .supply, .cyc, .lanes]) (fun _ _ => ?_) _ _) rfl
    | (show within _ _ = true; rfl)
    | exact Or.inl (by decide)
    | exact Or.inr (by with_reducible rfl)
    | exact Or.inl ⟨by decide, rfl⟩
    | split
    | with_reducible apply Kept.upd

theorem execVoteDeadline_kept (s : State) : ∃ t, execVoteDeadline s = .next t ∧ Kept [.time, .supply, .cyc, .lanes] s t := by
  refine ⟨_, rfl, ?_⟩
  repeat' first
    | with_reducible apply Kept.refl
    | with_reducible apply Kept.after (voteDeadlineAt_kept ..)
    | (show within _ _ = true; rfl)
    | exact Or.inl (by decide)
    | exact Or.inr (by with_reducible rfl)
    | exact Or.inl ⟨by decide, rfl⟩
    | split
    | with_reducible apply Kept.upd

theorem ballotArrivalAt_kept (src : Lane) (k : DWord) (s : State) : Kept [.cyc, .lanes, .gut] s (ballotArrivalAt src k s) := by
  unfold ballotArrivalAt
  try dsimp only
  repeat' first
    | with_reducible apply Kept.refl
    | with_reducible apply Kept.after (flitTaken_kept ..)
    | with_reducible apply Kept.after (raiseShared_kept ..)
    | (show within _ _ = true; rfl)
    | exact Or.inl (by decide)
    | exact Or.inr (by with_reducible rfl)
    | exact Or.inl ⟨by decide, rfl⟩
    | split
    | with_reducible apply Kept.upd

theorem execBallotArrival_kept (src : Lane) (k : DWord) (s : State) : ∃ t, execBallotArrival src k s = .next t ∧ Kept [.cyc, .lanes, .gut] s t := by
  refine ⟨_, rfl, ?_⟩
  repeat' first
    | with_reducible apply Kept.refl
    | with_reducible apply Kept.after (ballotArrivalAt_kept ..)
    | (show within _ _ = true; rfl)
    | exact Or.inl (by decide)
    | exact Or.inr (by with_reducible rfl)
    | exact Or.inl ⟨by decide, rfl⟩
    | split
    | with_reducible apply Kept.upd

theorem creditsBack_kept (sent : Bool) (s : State) : Kept [.peer] s (creditsBack sent s) := by
  unfold creditsBack
  try dsimp only
  repeat' first
    | with_reducible apply Kept.refl
    | (show within _ _ = true; rfl)
    | exact Or.inl (by decide)
    | exact Or.inr (by with_reducible rfl)
    | exact Or.inl ⟨by decide, rfl⟩
    | split
    | with_reducible apply Kept.upd

theorem pumpMirror_kept (s : State) : Kept [.peer] s (pumpMirror s) := by
  unfold pumpMirror
  try dsimp only
  repeat' first
    | with_reducible apply Kept.refl
    | (show within _ _ = true; rfl)
    | exact Or.inl (by decide)
    | exact Or.inr (by with_reducible rfl)
    | exact Or.inl ⟨by decide, rfl⟩
    | split
    | with_reducible apply Kept.upd

theorem mirrorPut_kept (s : State) (p : MirrorPay) : Kept [.peer] s (mirrorPut s p) := by
  unfold mirrorPut
  try dsimp only
  repeat' first
    | with_reducible apply Kept.refl
    | with_reducible apply Kept.after (pumpMirror_kept ..)
    | (show within _ _ = true; rfl)
    | exact Or.inl (by decide)
    | exact Or.inr (by with_reducible rfl)
    | exact Or.inl ⟨by decide, rfl⟩
    | split
    | with_reducible apply Kept.upd

theorem relaySend_kept (s : State) (frame : List Byte) : Kept [.peer] s (relaySend s frame) := by
  unfold relaySend
  try dsimp only
  repeat' first
    | with_reducible apply Kept.refl
    | (show within _ _ = true; rfl)
    | exact Or.inl (by decide)
    | exact Or.inr (by with_reducible rfl)
    | exact Or.inl ⟨by decide, rfl⟩
    | split
    | with_reducible apply Kept.upd

theorem mirrorLeave_kept (s : State) : Kept [.peer] s (mirrorLeave s) := by
  unfold mirrorLeave
  try dsimp only
  repeat' first
    | with_reducible apply Kept.refl
    | with_reducible apply Kept.after (pumpMirror_kept ..)
    | with_reducible apply Kept.after (creditsBack_kept ..)
    | (show within _ _ = true; rfl)
    | exact Or.inl (by decide)
    | exact Or.inr (by with_reducible rfl)
    | exact Or.inl ⟨by decide, rfl⟩
    | split
    | with_reducible apply Kept.upd

theorem pumpReqs_kept (s : State) : Kept [.peer] s (pumpReqs s) := by
  unfold pumpReqs
  try dsimp only
  repeat' first
    | with_reducible apply Kept.refl
    | with_reducible refine Kept.step ?_ (Kept.foldl (ps := [.peer]) (fun _ _ => ?_) _ _) rfl
    | (show within _ _ = true; rfl)
    | exact Or.inl (by decide)
    | exact Or.inr (by with_reducible rfl)
    | exact Or.inl ⟨by decide, rfl⟩
    | split
    | with_reducible apply Kept.upd

theorem sendReq_kept (s : State) (b : PeerBody) : Kept [.peer] s (sendReq s b) := by
  unfold sendReq
  try dsimp only
  repeat' first
    | with_reducible apply Kept.refl
    | with_reducible apply Kept.after (pumpReqs_kept ..)
    | (show within _ _ = true; rfl)
    | exact Or.inl (by decide)
    | exact Or.inr (by with_reducible rfl)
    | exact Or.inl ⟨by decide, rfl⟩
    | split
    | with_reducible apply Kept.upd

theorem sendResp_kept (s : State) (seq : Word) (b : PeerBody) : Kept [.peer] s (sendResp s seq b) := by
  unfold sendResp
  try dsimp only
  repeat' first
    | with_reducible apply Kept.refl
    | (show within _ _ = true; rfl)
    | exact Or.inl (by decide)
    | exact Or.inr (by with_reducible rfl)
    | exact Or.inl ⟨by decide, rfl⟩
    | split
    | with_reducible apply Kept.upd

theorem reqLeave_kept (s : State) : Kept [.peer] s (reqLeave s) := by
  unfold reqLeave
  try dsimp only
  repeat' first
    | with_reducible apply Kept.refl
    | with_reducible apply Kept.after (pumpReqs_kept ..)
    | with_reducible apply Kept.after (creditsBack_kept ..)
    | (show within _ _ = true; rfl)
    | exact Or.inl (by decide)
    | exact Or.inr (by with_reducible rfl)
    | exact Or.inl ⟨by decide, rfl⟩
    | split
    | with_reducible apply Kept.upd

theorem snapStart_kept (s : State) (l : Lane) : Kept [.lanes, .gut] s (snapStart s l) := by
  unfold snapStart
  try dsimp only
  repeat' first
    | with_reducible apply Kept.refl
    | with_reducible apply Kept.after (raiseLane_kept ..)
    | with_reducible apply Kept.after (onLane_kept ..)
    | (show within _ _ = true; rfl)
    | exact Or.inl (by decide)
    | exact Or.inr (by with_reducible rfl)
    | exact Or.inl ⟨by decide, rfl⟩
    | split
    | with_reducible apply Kept.upd

theorem trussRecords_kept (s : State) (y : Yealm) (disc : List Disc) : Kept [.cyc, .gut] s (trussRecords s y disc) := by
  unfold trussRecords
  try dsimp only
  repeat' first
    | with_reducible apply Kept.refl
    | with_reducible apply Kept.after (raiseShared_kept ..)
    | with_reducible refine Kept.step ?_ (Kept.foldl (ps := [.cyc, .gut]) (fun _ _ => ?_) _ _) rfl
    | (show within _ _ = true; rfl)
    | exact Or.inl (by decide)
    | exact Or.inr (by with_reducible rfl)
    | exact Or.inl ⟨by decide, rfl⟩
    | split
    | with_reducible apply Kept.upd

theorem deferExchange_kept (s : State) : Kept [.module, .lanes] s (deferExchange s) := by
  unfold deferExchange
  try dsimp only
  repeat' first
    | with_reducible apply Kept.refl
    | with_reducible apply Kept.after (indicate_kept ..)
    | with_reducible apply Kept.after (onLanes_kept ..)
    | (show within _ _ = true; rfl)
    | exact Or.inl (by decide)
    | exact Or.inr (by with_reducible rfl)
    | exact Or.inl ⟨by decide, rfl⟩
    | split
    | with_reducible apply Kept.upd

theorem pickRejoin_kept (s : State) : Kept [.cyc, .lanes] s (pickRejoin s) := by
  unfold pickRejoin
  try dsimp only
  repeat' first
    | with_reducible apply Kept.refl
    | with_reducible apply Kept.after (callResting_kept ..)
    | with_reducible apply Kept.after (onLane_kept ..)
    | (show within _ _ = true; rfl)
    | exact Or.inl (by decide)
    | exact Or.inr (by with_reducible rfl)
    | exact Or.inl ⟨by decide, rfl⟩
    | split
    | with_reducible apply Kept.upd

theorem startCopy_kept (s : State) : Kept [.cyc, .lanes] s (startCopy s) := by
  unfold startCopy
  try dsimp only
  repeat' first
    | with_reducible apply Kept.refl
    | with_reducible apply Kept.after (onLane_kept ..)
    | (show within _ _ = true; rfl)
    | exact Or.inl (by decide)
    | exact Or.inr (by with_reducible rfl)
    | exact Or.inl ⟨by decide, rfl⟩
    | split
    | with_reducible apply Kept.upd

theorem shadowLane_kept (maj : Majority) (s : State) (l : Lane) : Kept [.cyc, .lanes, .gut] s (shadowLane maj s l) := by
  unfold shadowLane
  try dsimp only
  repeat' first
    | with_reducible apply Kept.refl
    | with_reducible apply Kept.after (decideExcl_kept ..)
    | with_reducible apply Kept.after (onLane_kept ..)
    | (show within _ _ = true; rfl)
    | exact Or.inl (by decide)
    | exact Or.inr (by with_reducible rfl)
    | exact Or.inl ⟨by decide, rfl⟩
    | split
    | with_reducible apply Kept.upd

theorem mirrorCycle_kept (s : State) : Kept [.rings, .peer] s (mirrorCycle s) := by
  unfold mirrorCycle
  try dsimp only
  repeat' first
    | with_reducible apply Kept.refl
    | with_reducible apply Kept.after (mirrorPut_kept ..)
    | (show within _ _ = true; rfl)
    | exact Or.inl (by decide)
    | exact Or.inr (by with_reducible rfl)
    | exact Or.inl ⟨by decide, rfl⟩
    | split
    | with_reducible apply Kept.upd

theorem takeTime_kept (s : State) (m : Mem) : Kept [.time] s (takeTime s m) := by
  unfold takeTime
  try dsimp only
  repeat' first
    | with_reducible apply Kept.refl
    | (show within _ _ = true; rfl)
    | exact Or.inl (by decide)
    | exact Or.inr (by with_reducible rfl)
    | exact Or.inl ⟨by decide, rfl⟩
    | split
    | with_reducible apply Kept.upd

theorem commitEffect_kept (m : Mem) (vs : List Verdict) (s : State) (c : CmdEnt) : Kept [.time, .module, .cyc, .lanes] s (commitEffect m vs s c) := by
  unfold commitEffect
  try dsimp only
  repeat' first
    | with_reducible apply Kept.refl
    | with_reducible apply Kept.after (takeTime_kept ..)
    | (show within _ _ = true; rfl)
    | exact Or.inl (by decide)
    | exact Or.inr (by with_reducible rfl)
    | exact Or.inl ⟨by decide, rfl⟩
    | split
    | with_reducible apply Kept.upd

theorem commitEffects_kept (s : State) (x : LaneSt) : Kept [.time, .module, .cyc, .lanes] s (commitEffects s x) := by
  unfold commitEffects
  try dsimp only
  repeat' first
    | with_reducible apply Kept.refl
    | with_reducible apply Kept.after (commitEffect_kept ..)
    | with_reducible refine Kept.step ?_ (Kept.foldl (ps := [.time, .module, .cyc, .lanes]) (fun _ _ => ?_) _ _) rfl
    | (show within _ _ = true; rfl)
    | exact Or.inl (by decide)
    | exact Or.inr (by with_reducible rfl)
    | exact Or.inl ⟨by decide, rfl⟩
    | split
    | with_reducible apply Kept.upd

theorem completeCycle_kept (s : State) (maj : Majority) : Kept [.time, .supply, .module, .cyc, .lanes, .agr, .gut] s (completeCycle s maj) := by
  unfold completeCycle
  try dsimp only
  repeat' first
    | with_reducible apply Kept.refl
    | with_reducible apply Kept.after (commitEffects_kept ..)
    | with_reducible apply Kept.after (trussRecords_kept ..)
    | with_reducible apply Kept.after (snapStart_kept ..)
    | with_reducible apply Kept.after (onLanes_kept ..)
    | with_reducible refine Kept.step ?_ (Kept.foldl (ps := [.time, .supply, .module, .cyc, .lanes, .agr, .gut]) (fun _ _ => ?_) _ _) rfl
    | (show within _ _ = true; rfl)
    | exact Or.inl (by decide)
    | exact Or.inr (by with_reducible rfl)
    | exact Or.inl ⟨by decide, rfl⟩
    | split
    | with_reducible apply Kept.upd

theorem afterCommit_kept (s : State) (maj : Majority) : Kept [.module, .cyc, .lanes, .rings, .host, .peer, .gut] s (afterCommit s maj) := by
  unfold afterCommit
  extract_lets s1 s2 late s3
  have h1 : Kept [.module, .cyc, .lanes, .rings, .host, .peer, .gut] s s1 := by
    unfold s1
    split
    · exact Kept.refl _ _
    · exact (Kept.foldl (fun _ _ => shadowLane_kept ..) _ _).mono rfl
  clear_value s1
  have h2 : Kept [.module, .cyc, .lanes, .rings, .host, .peer, .gut] s s2 := by
    unfold s2
    split
    · exact (h1.step (pickRejoin_kept ..) rfl).step (startCopy_kept ..) rfl
    · exact h1
  clear_value s2
  have h3 : Kept [.module, .cyc, .lanes, .rings, .host, .peer, .gut] s s3 := by
    unfold s3
    split
    · exact h2.step (deferExchange_kept ..) rfl
    · exact h2
  exact (h3.step (mirrorCycle_kept ..) rfl).step (refreshLanes_kept ..) rfl

theorem missCycle_kept (s : State) (stop : Bool) : Kept [.supply, .healthy, .mode, .module, .cyc, .lanes, .rings, .host, .peer, .gut] s (missCycle s stop) := by
  unfold missCycle
  try dsimp only
  repeat' first
    | with_reducible apply Kept.refl
    | with_reducible apply Kept.after (mirrorCycle_kept ..)
    | with_reducible apply Kept.after (deferExchange_kept ..)
    | with_reducible apply Kept.after (enterSafeStop_kept ..)
    | with_reducible apply Kept.after (raiseShared_kept ..)
    | with_reducible apply Kept.after (onLanes_kept ..)
    | (show within _ _ = true; rfl)
    | exact Or.inl (by decide)
    | exact Or.inr (by with_reducible rfl)
    | exact Or.inl ⟨by decide, rfl⟩
    | split
    | with_reducible apply Kept.upd

theorem bootMatch_kept (s : State) (out : List (Lane × ExclCause × List Byte)) : Kept [.module] s (bootMatch s out) := by
  unfold bootMatch
  try dsimp only
  repeat' first
    | with_reducible apply Kept.refl
    | (show within _ _ = true; rfl)
    | exact Or.inl (by decide)
    | exact Or.inr (by with_reducible rfl)
    | exact Or.inl ⟨by decide, rfl⟩
    | split
    | with_reducible apply Kept.upd

theorem endVote_kept (s : State) : Kept [.time, .supply, .healthy, .mode, .module, .cyc, .lanes, .agr, .rings, .host, .peer, .gut] s (endVote s) := by
  unfold endVote
  try dsimp only
  repeat' first
    | with_reducible apply Kept.refl
    | with_reducible apply Kept.after (bootMatch_kept ..)
    | with_reducible apply Kept.after (missCycle_kept ..)
    | with_reducible apply Kept.after (afterCommit_kept ..)
    | with_reducible apply Kept.after (completeCycle_kept ..)
    | with_reducible apply Kept.after (decideExcl_kept ..)
    | with_reducible refine Kept.step ?_ (Kept.foldl (ps := [.time, .supply, .healthy, .mode, .module, .cyc, .lanes, .agr, .rings, .host, .peer, .gut]) (fun _ _ => ?_) _ _) rfl
    | (show within _ _ = true; rfl)
    | exact Or.inl (by decide)
    | exact Or.inr (by with_reducible rfl)
    | exact Or.inl ⟨by decide, rfl⟩
    | split
    | with_reducible apply Kept.upd

theorem execRidgeVote_kept (s : State) : ∃ t, execRidgeVote s = .next t ∧ Kept [.time, .supply, .healthy, .mode, .module, .cyc, .lanes, .agr, .rings, .host, .peer, .gut] s t := by
  refine ⟨_, rfl, ?_⟩
  repeat' first
    | with_reducible apply Kept.refl
    | with_reducible apply Kept.after (endVote_kept ..)
    | (show within _ _ = true; rfl)
    | exact Or.inl (by decide)
    | exact Or.inr (by with_reducible rfl)
    | exact Or.inl ⟨by decide, rfl⟩
    | split
    | with_reducible apply Kept.upd

theorem voteLimitAt_kept (s : State) : Kept [.time, .supply, .healthy, .mode, .module, .cyc, .lanes, .agr, .rings, .host, .peer, .gut] s (voteLimitAt s) := by
  unfold voteLimitAt
  try dsimp only
  repeat' first
    | with_reducible apply Kept.refl
    | with_reducible apply Kept.after (endVote_kept ..)
    | with_reducible apply Kept.after (missCycle_kept ..)
    | with_reducible apply Kept.after (advanceTo_kept ..)
    | (show within _ _ = true; rfl)
    | exact Or.inl (by decide)
    | exact Or.inr (by with_reducible rfl)
    | exact Or.inl ⟨by decide, rfl⟩
    | split
    | with_reducible apply Kept.upd

theorem execVoteCompleteLimit_kept (s : State) : ∃ t, execVoteCompleteLimit s = .next t ∧ Kept [.time, .supply, .healthy, .mode, .module, .cyc, .lanes, .agr, .rings, .host, .peer, .gut] s t := by
  refine ⟨_, rfl, ?_⟩
  repeat' first
    | with_reducible apply Kept.refl
    | with_reducible apply Kept.after (voteLimitAt_kept ..)
    | (show within _ _ = true; rfl)
    | exact Or.inl (by decide)
    | exact Or.inr (by with_reducible rfl)
    | exact Or.inl ⟨by decide, rfl⟩
    | split
    | with_reducible apply Kept.upd

theorem setQueuePushAt_kept (s : State) : Kept [.time, .supply, .cyc, .lanes] s (setQueuePushAt s) := by
  unfold setQueuePushAt
  try dsimp only
  repeat' first
    | with_reducible apply Kept.refl
    | with_reducible apply Kept.after (advanceTo_kept ..)
    | with_reducible apply Kept.after (onLanes_kept ..)
    | (show within _ _ = true; rfl)
    | exact Or.inl (by decide)
    | exact Or.inr (by with_reducible rfl)
    | exact Or.inl ⟨by decide, rfl⟩
    | split
    | with_reducible apply Kept.upd

theorem execSetQueuePush_kept (s : State) : ∃ t, execSetQueuePush s = .next t ∧ Kept [.time, .supply, .cyc, .lanes] s t := by
  refine ⟨_, rfl, ?_⟩
  repeat' first
    | with_reducible apply Kept.refl
    | with_reducible apply Kept.after (setQueuePushAt_kept ..)
    | (show within _ _ = true; rfl)
    | exact Or.inl (by decide)
    | exact Or.inr (by with_reducible rfl)
    | exact Or.inl ⟨by decide, rfl⟩
    | split
    | with_reducible apply Kept.upd

theorem forwardSect_kept (s : State) (r : RingId) (pos : Nat) : Kept [.lanes, .rings] s (forwardSect s r pos) := by
  unfold forwardSect
  try dsimp only
  repeat' first
    | with_reducible apply Kept.refl
    | with_reducible apply Kept.after (onLanes_kept ..)
    | (show within _ _ = true; rfl)
    | exact Or.inl (by decide)
    | exact Or.inr (by with_reducible rfl)
    | exact Or.inl ⟨by decide, rfl⟩
    | split
    | with_reducible apply Kept.upd

theorem countMismatch_kept (s : State) (q : Nat) : Kept [.host, .gut] s (countMismatch s q) := by
  unfold countMismatch
  try dsimp only
  repeat' first
    | with_reducible apply Kept.refl
    | with_reducible apply Kept.after (raiseHub_kept ..)
    | (show within _ _ = true; rfl)
    | exact Or.inl (by decide)
    | exact Or.inr (by with_reducible rfl)
    | exact Or.inl ⟨by decide, rfl⟩
    | split
    | with_reducible apply Kept.upd

theorem forwardCpl_kept (s : State) : Kept [.lanes, .host, .gut] s (forwardCpl s) := by
  unfold forwardCpl
  try dsimp only
  repeat' first
    | with_reducible apply Kept.refl
    | with_reducible apply Kept.after (countMismatch_kept ..)
    | with_reducible apply Kept.after (ringPut_kept ..)
    | with_reducible apply Kept.after (onLanes_kept ..)
    | (show within _ _ = true; rfl)
    | exact Or.inl (by decide)
    | exact Or.inr (by with_reducible rfl)
    | exact Or.inl ⟨by decide, rfl⟩
    | split
    | with_reducible apply Kept.upd

theorem forwardInd_kept (s : State) : Kept [.lanes, .host, .gut] s (forwardInd s) := by
  unfold forwardInd
  try dsimp only
  repeat' first
    | with_reducible apply Kept.refl
    | with_reducible apply Kept.after (countMismatch_kept ..)
    | with_reducible apply Kept.after (ringPut_kept ..)
    | with_reducible apply Kept.after (onLanes_kept ..)
    | (show within _ _ = true; rfl)
    | exact Or.inl (by decide)
    | exact Or.inr (by with_reducible rfl)
    | exact Or.inl ⟨by decide, rfl⟩
    | split
    | with_reducible apply Kept.upd

theorem execHubForwardItem_kept (item : ForwardItem) (s : State) : ∃ t, execHubForwardItem item s = .next t ∧ Kept [.lanes, .rings, .host, .gut] s t := by
  refine ⟨_, rfl, ?_⟩
  repeat' first
    | with_reducible apply Kept.refl
    | with_reducible apply Kept.after (forwardInd_kept ..)
    | with_reducible apply Kept.after (forwardCpl_kept ..)
    | with_reducible apply Kept.after (forwardSect_kept ..)
    | (show within _ _ = true; rfl)
    | exact Or.inl (by decide)
    | exact Or.inr (by with_reducible rfl)
    | exact Or.inl ⟨by decide, rfl⟩
    | split
    | with_reducible apply Kept.upd

theorem deliverOne_kept (s : State) : Kept [.lanes, .host] s (deliverOne s) := by
  unfold deliverOne
  try dsimp only
  repeat' first
    | with_reducible apply Kept.refl
    | with_reducible apply Kept.after (onLanes_kept ..)
    | (show within _ _ = true; rfl)
    | exact Or.inl (by decide)
    | exact Or.inr (by with_reducible rfl)
    | exact Or.inl ⟨by decide, rfl⟩
    | split
    | with_reducible apply Kept.upd

theorem execCompletionDelivered_kept (s : State) : ∃ t, execCompletionDelivered s = .next t ∧ Kept [.lanes, .host] s t := by
  refine ⟨_, rfl, ?_⟩
  repeat' first
    | with_reducible apply Kept.refl
    | with_reducible apply Kept.after (deliverOne_kept ..)
    | (show within _ _ = true; rfl)
    | exact Or.inl (by decide)
    | exact Or.inr (by with_reducible rfl)
    | exact Or.inl ⟨by decide, rfl⟩
    | split
    | with_reducible apply Kept.upd

theorem groupWritten_kept (s : State) (l : Lane) (g : JGroup) : Kept [.lanes, .gut] s (groupWritten s l g) := by
  unfold groupWritten
  try dsimp only
  repeat' first
    | with_reducible apply Kept.refl
    | with_reducible apply Kept.after (raiseLane_kept ..)
    | with_reducible apply Kept.after (onLane_kept ..)
    | (show within _ _ = true; rfl)
    | exact Or.inl (by decide)
    | exact Or.inr (by with_reducible rfl)
    | exact Or.inl ⟨by decide, rfl⟩
    | split
    | with_reducible apply Kept.upd

theorem mramDone_kept (s : State) (l : Lane) : Kept [.lanes, .gut] s (mramDone s l) := by
  unfold mramDone
  try dsimp only
  repeat' first
    | with_reducible apply Kept.refl
    | with_reducible apply Kept.after (groupWritten_kept ..)
    | with_reducible apply Kept.after (onLane_kept ..)
    | (show within _ _ = true; rfl)
    | exact Or.inl (by decide)
    | exact Or.inr (by with_reducible rfl)
    | exact Or.inl ⟨by decide, rfl⟩
    | split
    | with_reducible apply Kept.upd

theorem execMramWriteComplete_kept (l : Lane) (s : State) : ∃ t, execMramWriteComplete l s = .next t ∧ Kept [.lanes, .gut] s t := by
  refine ⟨_, rfl, ?_⟩
  repeat' first
    | with_reducible apply Kept.refl
    | with_reducible apply Kept.after (mramDone_kept ..)
    | (show within _ _ = true; rfl)
    | exact Or.inl (by decide)
    | exact Or.inr (by with_reducible rfl)
    | exact Or.inl ⟨by decide, rfl⟩
    | split
    | with_reducible apply Kept.upd

theorem execSnapshotComplete_kept (l : Lane) (s : State) : ∃ t, execSnapshotComplete l s = .next t ∧ Kept [.lanes] s t := by
  refine ⟨_, rfl, ?_⟩
  repeat' first
    | with_reducible apply Kept.refl
    | with_reducible apply Kept.after (onLane_kept ..)
    | (show within _ _ = true; rfl)
    | exact Or.inl (by decide)
    | exact Or.inr (by with_reducible rfl)
    | exact Or.inl ⟨by decide, rfl⟩
    | split
    | with_reducible apply Kept.upd

theorem diagReleaseAt_kept (s : State) : Kept [.cyc, .lanes, .gut] s (diagReleaseAt s) := by
  unfold diagReleaseAt
  try dsimp only
  repeat' first
    | with_reducible apply Kept.refl
    | with_reducible apply Kept.after (raiseShared_kept ..)
    | with_reducible apply Kept.after (onLanes_kept ..)
    | (show within _ _ = true; rfl)
    | exact Or.inl (by decide)
    | exact Or.inr (by with_reducible rfl)
    | exact Or.inl ⟨by decide, rfl⟩
    | split
    | with_reducible apply Kept.upd

theorem execDiagnosticRelease_kept (s : State) : ∃ t, execDiagnosticRelease s = .next t ∧ Kept [.cyc, .lanes, .gut] s t := by
  refine ⟨_, rfl, ?_⟩
  repeat' first
    | with_reducible apply Kept.refl
    | with_reducible apply Kept.after (diagReleaseAt_kept ..)
    | (show within _ _ = true; rfl)
    | exact Or.inl (by decide)
    | exact Or.inr (by with_reducible rfl)
    | exact Or.inl ⟨by decide, rfl⟩
    | split
    | with_reducible apply Kept.upd

theorem diagEndAt_kept (lanes : Quad Bool) (inds : List (List Byte)) (traces : List GRecIn) (s : State) : Kept [.cyc, .lanes, .gut] s (diagEndAt lanes inds traces s) := by
  unfold diagEndAt
  try dsimp only
  repeat' first
    | with_reducible apply Kept.refl
    | with_reducible apply Kept.after (gutPut_kept ..)
    | with_reducible apply Kept.after (onLanes_kept ..)
    | with_reducible refine Kept.step ?_ (Kept.foldl (ps := [.cyc, .lanes, .gut]) (fun _ _ => ?_) _ _) rfl
    | (show within _ _ = true; rfl)
    | exact Or.inl (by decide)
    | exact Or.inr (by with_reducible rfl)
    | exact Or.inl ⟨by decide, rfl⟩
    | split
    | with_reducible apply Kept.upd

theorem execDiagnosticEnd_kept (lanes : Quad Bool) (inds : List (List Byte)) (traces : List GRecIn) (s : State) : ∃ t, execDiagnosticEnd lanes inds traces s = .next t ∧ Kept [.cyc, .lanes, .gut] s t := by
  refine ⟨_, rfl, ?_⟩
  repeat' first
    | with_reducible apply Kept.refl
    | with_reducible apply Kept.after (diagEndAt_kept ..)
    | (show within _ _ = true; rfl)
    | exact Or.inl (by decide)
    | exact Or.inr (by with_reducible rfl)
    | exact Or.inl ⟨by decide, rfl⟩
    | split
    | with_reducible apply Kept.upd

theorem execDiagnosticLimit_kept (s : State) : ∃ t, execDiagnosticLimit s = .next t ∧ Kept [.time, .supply, .cyc] s t := by
  refine ⟨_, rfl, ?_⟩
  repeat' first
    | with_reducible apply Kept.refl
    | with_reducible apply Kept.after (advanceTo_kept ..)
    | (show within _ _ = true; rfl)
    | exact Or.inl (by decide)
    | exact Or.inr (by with_reducible rfl)
    | exact Or.inl ⟨by decide, rfl⟩
    | split
    | with_reducible apply Kept.upd

theorem execLaneSleep_kept (l : Lane) (s : State) : ∃ t, execLaneSleep l s = .next t ∧ Kept [.lanes] s t := by
  refine ⟨_, rfl, ?_⟩
  repeat' first
    | with_reducible apply Kept.refl
    | with_reducible apply Kept.after (onLane_kept ..)
    | (show within _ _ = true; rfl)
    | exact Or.inl (by decide)
    | exact Or.inr (by with_reducible rfl)
    | exact Or.inl ⟨by decide, rfl⟩
    | split
    | with_reducible apply Kept.upd

theorem execLaneWake_kept (l : Lane) (s : State) : ∃ t, execLaneWake l s = .next t ∧ Kept [.time, .supply, .lanes] s t := by
  refine ⟨_, rfl, ?_⟩
  repeat' first
    | with_reducible apply Kept.refl
    | with_reducible apply Kept.after (advanceTo_kept ..)
    | with_reducible apply Kept.after (onLane_kept ..)
    | (show within _ _ = true; rfl)
    | exact Or.inl (by decide)
    | exact Or.inr (by with_reducible rfl)
    | exact Or.inl ⟨by decide, rfl⟩
    | split
    | with_reducible apply Kept.upd

theorem readDone_kept (s : State) (e : List Byte) : Kept [.lanes] s (readDone s e) := by
  unfold readDone
  try dsimp only
  repeat' first
    | with_reducible apply Kept.refl
    | with_reducible apply Kept.after (decideCmd_kept ..)
    | (show within _ _ = true; rfl)
    | exact Or.inl (by decide)
    | exact Or.inr (by with_reducible rfl)
    | exact Or.inl ⟨by decide, rfl⟩
    | split
    | with_reducible apply Kept.upd

theorem bulkLeave_kept (s : State) : Kept [.lanes, .host] s (bulkLeave s) := by
  unfold bulkLeave
  try dsimp only
  repeat' first
    | with_reducible apply Kept.refl
    | with_reducible apply Kept.after (readDone_kept ..)
    | with_reducible apply Kept.after (ringPut_kept ..)
    | (show within _ _ = true; rfl)
    | exact Or.inl (by decide)
    | exact Or.inr (by with_reducible rfl)
    | exact Or.inl ⟨by decide, rfl⟩
    | split
    | with_reducible apply Kept.upd

theorem execDigestRecompute_kept (l : Lane) (s : State) : ∃ t, execDigestRecompute l s = .next t ∧ Kept [.lanes] s t := by
  refine ⟨_, rfl, ?_⟩
  repeat' first
    | with_reducible apply Kept.refl
    | with_reducible apply Kept.after (onLane_kept ..)
    | (show within _ _ = true; rfl)
    | exact Or.inl (by decide)
    | exact Or.inr (by with_reducible rfl)
    | exact Or.inl ⟨by decide, rfl⟩
    | split
    | with_reducible apply Kept.upd

end Sys2Proof.Machine
end

