-- ==== Sys2Proof/Laws/KeptCmds.lean ====
section
/-! SUPPORT. Frame lemmas: which parts of the state each operation of Container, TrussLoad, Verify, Present, Transfers, Repair, Inject, Lanes, Bist may change. -/

set_option linter.unusedTactic false
set_option linter.unreachableTactic false

namespace Sys2Proof.Machine

theorem logWrite_kept (s : State) (f : Mem → Mem) : Kept [.lanes] s (logWrite s f) := by
  unfold logWrite
  try dsimp only
  repeat' first
    | with_reducible apply Kept.refl
    | with_reducible apply Kept.after (onLanes_kept ..)
    | (show within _ _ = true; rfl)
    | exact Or.inl (by decide)
    | exact Or.inr (by with_reducible rfl)
    | exact Or.inl ⟨by decide, rfl⟩
    | split
    | with_reducible apply Kept.upd

theorem carryOut_kept (s : State) (c : CmdEnt) (d : List Byte) : Kept [.lanes] s (carryOut s c d) := by
  unfold carryOut
  try dsimp only
  repeat' first
    | with_reducible apply Kept.refl
    | with_reducible apply Kept.after (logWrite_kept ..)
    | with_reducible apply Kept.after (decideCmd_kept ..)
    | (show within _ _ = true; rfl)
    | exact Or.inl (by decide)
    | exact Or.inr (by with_reducible rfl)
    | exact Or.inl ⟨by decide, rfl⟩
    | split
    | with_reducible apply Kept.upd

theorem refuseCmd_kept (s : State) (c : CmdEnt) (d : List Byte) (r : Nat × Nat × Nat) : Kept [.lanes] s (refuseCmd s c d r) := by
  unfold refuseCmd
  try dsimp only
  repeat' first
    | with_reducible apply Kept.refl
    | with_reducible apply Kept.after (logWrite_kept ..)
    | with_reducible apply Kept.after (decideCmd_kept ..)
    | (show within _ _ = true; rfl)
    | exact Or.inl (by decide)
    | exact Or.inr (by with_reducible rfl)
    | exact Or.inl ⟨by decide, rfl⟩
    | split
    | with_reducible apply Kept.upd

theorem showCmd_kept (y : Yealm) (asn : DWord) (s : State) : Kept [.lanes, .agr] s (showCmd y asn s) := by
  unfold showCmd
  try dsimp only
  repeat' first
    | with_reducible apply Kept.refl
    | with_reducible apply Kept.after (onLanes_kept ..)
    | (show within _ _ = true; rfl)
    | exact Or.inl (by decide)
    | exact Or.inr (by with_reducible rfl)
    | exact Or.inl ⟨by decide, rfl⟩
    | split
    | with_reducible apply Kept.upd

theorem presentAt_kept (op step : Nat) (asn : DWord) (s : State) : Kept [.lanes, .agr] s (presentAt op step asn s) := by
  unfold presentAt
  try dsimp only
  repeat' first
    | with_reducible apply Kept.refl
    | with_reducible apply Kept.after (showCmd_kept ..)
    | with_reducible apply Kept.after (refuseCmd_kept ..)
    | with_reducible apply Kept.after (carryOut_kept ..)
    | (show within _ _ = true; rfl)
    | exact Or.inl (by decide)
    | exact Or.inr (by with_reducible rfl)
    | exact Or.inl ⟨by decide, rfl⟩
    | split
    | with_reducible apply Kept.upd

theorem presentCmd_kept (op step : Nat) (asn : DWord) (s : State) : Kept [.lanes, .agr] s (presentCmd op step asn s) := by
  unfold presentCmd
  try dsimp only
  repeat' first
    | with_reducible apply Kept.refl
    | with_reducible apply Kept.after (presentAt_kept ..)
    | (show within _ _ = true; rfl)
    | exact Or.inl (by decide)
    | exact Or.inr (by with_reducible rfl)
    | exact Or.inl ⟨by decide, rfl⟩
    | split
    | with_reducible apply Kept.upd

theorem execRouteSet_kept (asn : DWord) (s : State) : ∃ t, execRouteSet asn s = .next t ∧ Kept [.lanes, .agr] s t := by
  refine ⟨_, rfl, ?_⟩
  repeat' first
    | with_reducible apply Kept.refl
    | with_reducible apply Kept.after (presentCmd_kept ..)
    | (show within _ _ = true; rfl)
    | exact Or.inl (by decide)
    | exact Or.inr (by with_reducible rfl)
    | exact Or.inl ⟨by decide, rfl⟩
    | split
    | with_reducible apply Kept.upd

theorem execRouteCancel_kept (asn : DWord) (s : State) : ∃ t, execRouteCancel asn s = .next t ∧ Kept [.lanes, .agr] s t := by
  refine ⟨_, rfl, ?_⟩
  repeat' first
    | with_reducible apply Kept.refl
    | with_reducible apply Kept.after (presentCmd_kept ..)
    | (show within _ _ = true; rfl)
    | exact Or.inl (by decide)
    | exact Or.inr (by with_reducible rfl)
    | exact Or.inl ⟨by decide, rfl⟩
    | split
    | with_reducible apply Kept.upd

theorem execPointMove_kept (asn : DWord) (s : State) : ∃ t, execPointMove asn s = .next t ∧ Kept [.lanes, .agr] s t := by
  refine ⟨_, rfl, ?_⟩
  repeat' first
    | with_reducible apply Kept.refl
    | with_reducible apply Kept.after (presentCmd_kept ..)
    | (show within _ _ = true; rfl)
    | exact Or.inl (by decide)
    | exact Or.inr (by with_reducible rfl)
    | exact Or.inl ⟨by decide, rfl⟩
    | split
    | with_reducible apply Kept.upd

theorem execSignalRestore_kept (asn : DWord) (s : State) : ∃ t, execSignalRestore asn s = .next t ∧ Kept [.lanes, .agr] s t := by
  refine ⟨_, rfl, ?_⟩
  repeat' first
    | with_reducible apply Kept.refl
    | with_reducible apply Kept.after (presentCmd_kept ..)
    | (show within _ _ = true; rfl)
    | exact Or.inl (by decide)
    | exact Or.inr (by with_reducible rfl)
    | exact Or.inl ⟨by decide, rfl⟩
    | split
    | with_reducible apply Kept.upd

theorem execBlock_kept (asn : DWord) (s : State) : ∃ t, execBlock asn s = .next t ∧ Kept [.lanes, .agr] s t := by
  refine ⟨_, rfl, ?_⟩
  repeat' first
    | with_reducible apply Kept.refl
    | with_reducible apply Kept.after (presentCmd_kept ..)
    | (show within _ _ = true; rfl)
    | exact Or.inl (by decide)
    | exact Or.inr (by with_reducible rfl)
    | exact Or.inl ⟨by decide, rfl⟩
    | split
    | with_reducible apply Kept.upd

theorem execUnblock_kept (asn : DWord) (s : State) : ∃ t, execUnblock asn s = .next t ∧ Kept [.lanes, .agr] s t := by
  refine ⟨_, rfl, ?_⟩
  repeat' first
    | with_reducible apply Kept.refl
    | with_reducible apply Kept.after (presentCmd_kept ..)
    | (show within _ _ = true; rfl)
    | exact Or.inl (by decide)
    | exact Or.inr (by with_reducible rfl)
    | exact Or.inl ⟨by decide, rfl⟩
    | split
    | with_reducible apply Kept.upd

theorem execAuxReleaseRequest_kept (asn : DWord) (s : State) : ∃ t, execAuxReleaseRequest asn s = .next t ∧ Kept [.lanes, .agr] s t := by
  refine ⟨_, rfl, ?_⟩
  repeat' first
    | with_reducible apply Kept.refl
    | with_reducible apply Kept.after (presentCmd_kept ..)
    | (show within _ _ = true; rfl)
    | exact Or.inl (by decide)
    | exact Or.inr (by with_reducible rfl)
    | exact Or.inl ⟨by decide, rfl⟩
    | split
    | with_reducible apply Kept.upd

theorem execAuxReleaseConfirm_kept (asn : DWord) (s : State) : ∃ t, execAuxReleaseConfirm asn s = .next t ∧ Kept [.lanes, .agr] s t := by
  refine ⟨_, rfl, ?_⟩
  repeat' first
    | with_reducible apply Kept.refl
    | with_reducible apply Kept.after (presentCmd_kept ..)
    | (show within _ _ = true; rfl)
    | exact Or.inl (by decide)
    | exact Or.inr (by with_reducible rfl)
    | exact Or.inl ⟨by decide, rfl⟩
    | split
    | with_reducible apply Kept.upd

theorem execRestartReleaseRequest_kept (asn : DWord) (s : State) : ∃ t, execRestartReleaseRequest asn s = .next t ∧ Kept [.lanes, .agr] s t := by
  refine ⟨_, rfl, ?_⟩
  repeat' first
    | with_reducible apply Kept.refl
    | with_reducible apply Kept.after (presentCmd_kept ..)
    | (show within _ _ = true; rfl)
    | exact Or.inl (by decide)
    | exact Or.inr (by with_reducible rfl)
    | exact Or.inl ⟨by decide, rfl⟩
    | split
    | with_reducible apply Kept.upd

theorem execRestartReleaseConfirm_kept (asn : DWord) (s : State) : ∃ t, execRestartReleaseConfirm asn s = .next t ∧ Kept [.lanes, .agr] s t := by
  refine ⟨_, rfl, ?_⟩
  repeat' first
    | with_reducible apply Kept.refl
    | with_reducible apply Kept.after (presentCmd_kept ..)
    | (show within _ _ = true; rfl)
    | exact Or.inl (by decide)
    | exact Or.inr (by with_reducible rfl)
    | exact Or.inl ⟨by decide, rfl⟩
    | split
    | with_reducible apply Kept.upd

theorem execTimeSet_kept (asn : DWord) (s : State) : ∃ t, execTimeSet asn s = .next t ∧ Kept [.lanes, .agr] s t := by
  refine ⟨_, rfl, ?_⟩
  repeat' first
    | with_reducible apply Kept.refl
    | with_reducible apply Kept.after (presentCmd_kept ..)
    | (show within _ _ = true; rfl)
    | exact Or.inl (by decide)
    | exact Or.inr (by with_reducible rfl)
    | exact Or.inl ⟨by decide, rfl⟩
    | split
    | with_reducible apply Kept.upd

theorem execImageLoad_kept (asn : DWord) (s : State) : ∃ t, execImageLoad asn s = .next t ∧ Kept [.lanes, .agr] s t := by
  refine ⟨_, rfl, ?_⟩
  repeat' first
    | with_reducible apply Kept.refl
    | with_reducible apply Kept.after (presentCmd_kept ..)
    | (show within _ _ = true; rfl)
    | exact Or.inl (by decide)
    | exact Or.inr (by with_reducible rfl)
    | exact Or.inl ⟨by decide, rfl⟩
    | split
    | with_reducible apply Kept.upd

theorem execImageExchange_kept (asn : DWord) (s : State) : ∃ t, execImageExchange asn s = .next t ∧ Kept [.lanes, .agr] s t := by
  refine ⟨_, rfl, ?_⟩
  repeat' first
    | with_reducible apply Kept.refl
    | with_reducible apply Kept.after (presentCmd_kept ..)
    | (show within _ _ = true; rfl)
    | exact Or.inl (by decide)
    | exact Or.inr (by with_reducible rfl)
    | exact Or.inl ⟨by decide, rfl⟩
    | split
    | with_reducible apply Kept.upd

theorem execRotateNow_kept (asn : DWord) (s : State) : ∃ t, execRotateNow asn s = .next t ∧ Kept [.lanes, .agr] s t := by
  refine ⟨_, rfl, ?_⟩
  repeat' first
    | with_reducible apply Kept.refl
    | with_reducible apply Kept.after (presentCmd_kept ..)
    | (show within _ _ = true; rfl)
    | exact Or.inl (by decide)
    | exact Or.inr (by with_reducible rfl)
    | exact Or.inl ⟨by decide, rfl⟩
    | split
    | with_reducible apply Kept.upd

theorem execShutdown_kept (asn : DWord) (s : State) : ∃ t, execShutdown asn s = .next t ∧ Kept [.lanes, .agr] s t := by
  refine ⟨_, rfl, ?_⟩
  repeat' first
    | with_reducible apply Kept.refl
    | with_reducible apply Kept.after (presentCmd_kept ..)
    | (show within _ _ = true; rfl)
    | exact Or.inl (by decide)
    | exact Or.inr (by with_reducible rfl)
    | exact Or.inl ⟨by decide, rfl⟩
    | split
    | with_reducible apply Kept.upd

theorem execJournalRead_kept (asn : DWord) (s : State) : ∃ t, execJournalRead asn s = .next t ∧ Kept [.lanes, .agr] s t := by
  refine ⟨_, rfl, ?_⟩
  repeat' first
    | with_reducible apply Kept.refl
    | with_reducible apply Kept.after (presentCmd_kept ..)
    | (show within _ _ = true; rfl)
    | exact Or.inl (by decide)
    | exact Or.inr (by with_reducible rfl)
    | exact Or.inl ⟨by decide, rfl⟩
    | split
    | with_reducible apply Kept.upd

theorem execCommandExpiry_kept (asn : DWord) (s : State) : ∃ t, execCommandExpiry asn s = .next t ∧ Kept [.lanes] s t := by
  refine ⟨_, rfl, ?_⟩
  repeat' first
    | with_reducible apply Kept.refl
    | with_reducible apply Kept.after (decideCmd_kept ..)
    | (show within _ _ = true; rfl)
    | exact Or.inl (by decide)
    | exact Or.inr (by with_reducible rfl)
    | exact Or.inl ⟨by decide, rfl⟩
    | split
    | with_reducible apply Kept.upd

theorem execRequestLapse_kept (s : State) : ∃ t, execRequestLapse s = .next t ∧ Kept [.lanes] s t := by
  refine ⟨_, rfl, ?_⟩
  repeat' first
    | with_reducible apply Kept.refl
    | with_reducible apply Kept.after (logWrite_kept ..)
    | with_reducible refine Kept.step ?_ (Kept.foldl (ps := [.lanes]) (fun _ _ => ?_) _ _) rfl
    | (show within _ _ = true; rfl)
    | exact Or.inl (by decide)
    | exact Or.inr (by with_reducible rfl)
    | exact Or.inl ⟨by decide, rfl⟩
    | split
    | with_reducible apply Kept.upd

theorem execJournalStall_kept (s : State) : ∃ t, execJournalStall s = .next t ∧ Kept [.agr, .gut] s t := by
  refine ⟨_, rfl, ?_⟩
  repeat' first
    | with_reducible apply Kept.refl
    | with_reducible apply Kept.after (raiseShared_kept ..)
    | (show within _ _ = true; rfl)
    | exact Or.inl (by decide)
    | exact Or.inr (by with_reducible rfl)
    | exact Or.inl ⟨by decide, rfl⟩
    | split
    | with_reducible apply Kept.upd

theorem execHostFetch_kept (s : State) : ∃ t, execHostFetch s = .next t ∧ Kept [.gut] s t := by
  refine ⟨_, rfl, ?_⟩
  repeat' first
    | with_reducible apply Kept.refl
    | with_reducible apply Kept.after (raiseShared_kept ..)
    | (show within _ _ = true; rfl)
    | exact Or.inl (by decide)
    | exact Or.inr (by with_reducible rfl)
    | exact Or.inl ⟨by decide, rfl⟩
    | split
    | with_reducible apply Kept.upd

theorem refuseImage_kept (s : State) (l : Lane) (step : Nat) (truss : Option (Nat × Nat)) : Kept [.gut] s (refuseImage s l step truss) := by
  unfold refuseImage
  try dsimp only
  repeat' first
    | with_reducible apply Kept.refl
    | with_reducible apply Kept.after (raiseLane_kept ..)
    | (show within _ _ = true; rfl)
    | exact Or.inl (by decide)
    | exact Or.inr (by with_reducible rfl)
    | exact Or.inl ⟨by decide, rfl⟩
    | split
    | with_reducible apply Kept.upd

theorem fetchOne_kept (s : State) (d : List Byte) : Kept [.lanes, .host] s (fetchOne s d) := by
  unfold fetchOne
  try dsimp only
  repeat' first
    | with_reducible apply Kept.refl
    | with_reducible apply Kept.after (onLane_kept ..)
    | with_reducible refine Kept.step ?_ (Kept.foldl (ps := [.lanes, .host]) (fun _ _ => ?_) _ _) rfl
    | (show within _ _ = true; rfl)
    | exact Or.inl (by decide)
    | exact Or.inr (by with_reducible rfl)
    | exact Or.inl ⟨by decide, rfl⟩
    | split
    | with_reducible apply Kept.upd

theorem cmdqFetchAt_kept (descs : List (List Byte)) (s : State) : Kept [.lanes, .host] s (cmdqFetchAt descs s) := by
  unfold cmdqFetchAt
  try dsimp only
  repeat' first
    | with_reducible apply Kept.refl
    | with_reducible apply Kept.after (fetchOne_kept ..)
    | with_reducible apply Kept.after (readHost_kept ..)
    | with_reducible refine Kept.step ?_ (Kept.foldl (ps := [.lanes, .host]) (fun _ _ => ?_) _ _) rfl
    | (show within _ _ = true; rfl)
    | exact Or.inl (by decide)
    | exact Or.inr (by with_reducible rfl)
    | exact Or.inl ⟨by decide, rfl⟩
    | split
    | with_reducible apply Kept.upd

theorem execCmdqFetch_kept (descs : List (List Byte)) (s : State) : ∃ t, execCmdqFetch descs s = .next t ∧ Kept [.lanes, .host] s t := by
  refine ⟨_, rfl, ?_⟩
  repeat' first
    | with_reducible apply Kept.refl
    | with_reducible apply Kept.after (cmdqFetchAt_kept ..)
    | (show within _ _ = true; rfl)
    | exact Or.inl (by decide)
    | exact Or.inr (by with_reducible rfl)
    | exact Or.inl ⟨by decide, rfl⟩
    | split
    | with_reducible apply Kept.upd

theorem passSegment_kept (s : State) (off : Nat) (last : Bool) (data : List Byte) : Kept [.peer] s (passSegment s off last data) := by
  unfold passSegment
  try dsimp only
  repeat' first
    | with_reducible apply Kept.refl
    | with_reducible apply Kept.after (sendReq_kept ..)
    | with_reducible refine Kept.step ?_ (Kept.foldl (ps := [.peer]) (fun _ _ => ?_) _ _) rfl
    | (show within _ _ = true; rfl)
    | exact Or.inl (by decide)
    | exact Or.inr (by with_reducible rfl)
    | exact Or.inl ⟨by decide, rfl⟩
    | split
    | with_reducible apply Kept.upd

theorem failLoad_kept (s : State) (x : XferEnt) : Kept [.lanes] s (failLoad s x) := by
  unfold failLoad
  try dsimp only
  repeat' first
    | with_reducible apply Kept.refl
    | with_reducible apply Kept.after (decideCmd_kept ..)
    | (show within _ _ = true; rfl)
    | exact Or.inl (by decide)
    | exact Or.inr (by with_reducible rfl)
    | exact Or.inl ⟨by decide, rfl⟩
    | split
    | with_reducible apply Kept.upd

theorem countLoad_kept (s : State) : Kept [.lanes] s (countLoad s) := by
  unfold countLoad
  try dsimp only
  repeat' first
    | with_reducible apply Kept.refl
    | with_reducible apply Kept.after (onLanes_kept ..)
    | with_reducible refine Kept.step ?_ (Kept.foldl (ps := [.lanes]) (fun _ _ => ?_) _ _) rfl
    | (show within _ _ = true; rfl)
    | exact Or.inl (by decide)
    | exact Or.inr (by with_reducible rfl)
    | exact Or.inl ⟨by decide, rfl⟩
    | split
    | with_reducible apply Kept.upd

theorem loadStep_kept (s : State) (l : Lane) (e : XferEnt) (b : BulkSeg) : Kept [.lanes, .peer] s (loadStep s l e b) := by
  unfold loadStep
  try dsimp only
  repeat' first
    | with_reducible apply Kept.refl
    | with_reducible apply Kept.after (countLoad_kept ..)
    | with_reducible apply Kept.after (failLoad_kept ..)
    | with_reducible apply Kept.after (passSegment_kept ..)
    | with_reducible apply Kept.after (onLane_kept ..)
    | (show within _ _ = true; rfl)
    | exact Or.inl (by decide)
    | exact Or.inr (by with_reducible rfl)
    | exact Or.inl ⟨by decide, rfl⟩
    | split
    | with_reducible apply Kept.upd

theorem bulkStep_kept (l : Lane) (s : State) : Kept [.lanes, .peer] s (bulkStep l s) := by
  unfold bulkStep
  try dsimp only
  repeat' first
    | with_reducible apply Kept.refl
    | with_reducible apply Kept.after (loadStep_kept ..)
    | with_reducible apply Kept.after (onLane_kept ..)
    | (show within _ _ = true; rfl)
    | exact Or.inl (by decide)
    | exact Or.inr (by with_reducible rfl)
    | exact Or.inl ⟨by decide, rfl⟩
    | split
    | with_reducible apply Kept.upd

theorem handBulk_kept (l : Lane) (s : State) : Kept [.lanes, .host] s (handBulk l s) := by
  unfold handBulk
  try dsimp only
  repeat' first
    | with_reducible apply Kept.refl
    | with_reducible apply Kept.after (onLane_kept ..)
    | (show within _ _ = true; rfl)
    | exact Or.inl (by decide)
    | exact Or.inr (by with_reducible rfl)
    | exact Or.inl ⟨by decide, rfl⟩
    | split
    | with_reducible apply Kept.upd

theorem spreadBulk_kept (s : State) (b : BulkSeg) : Kept [.lanes, .host] s (spreadBulk s b) := by
  unfold spreadBulk
  try dsimp only
  repeat' first
    | with_reducible apply Kept.refl
    | with_reducible apply Kept.after (handBulk_kept ..)
    | with_reducible refine Kept.step ?_ (Kept.foldl (ps := [.lanes, .host]) (fun _ _ => ?_) _ _) rfl
    | (show within _ _ = true; rfl)
    | exact Or.inl (by decide)
    | exact Or.inr (by with_reducible rfl)
    | exact Or.inl ⟨by decide, rfl⟩
    | split
    | with_reducible apply Kept.upd

theorem loadArrived_kept (s : State) (e : List Byte) : Kept [.lanes] s (loadArrived s e) := by
  unfold loadArrived
  try dsimp only
  repeat' first
    | with_reducible apply Kept.refl
    | with_reducible apply Kept.after (onLanes_kept ..)
    | (show within _ _ = true; rfl)
    | exact Or.inl (by decide)
    | exact Or.inr (by with_reducible rfl)
    | exact Or.inl ⟨by decide, rfl⟩
    | split
    | with_reducible apply Kept.upd

theorem fetchBulk_kept (b : BulkSeg) (s : State) : Kept [.lanes, .host] s (fetchBulk b s) := by
  unfold fetchBulk
  try dsimp only
  repeat' first
    | with_reducible apply Kept.refl
    | with_reducible apply Kept.after (loadArrived_kept ..)
    | with_reducible apply Kept.after (spreadBulk_kept ..)
    | with_reducible apply Kept.after (ringConsume_kept ..)
    | with_reducible apply Kept.after (readHost_kept ..)
    | (show within _ _ = true; rfl)
    | exact Or.inl (by decide)
    | exact Or.inr (by with_reducible rfl)
    | exact Or.inl ⟨by decide, rfl⟩
    | split
    | with_reducible apply Kept.upd

theorem injectAt_kept (b : BulkSeg) (s : State) : Kept [.agr, .gut] s (injectAt b s) := by
  unfold injectAt
  try dsimp only
  repeat' first
    | with_reducible apply Kept.refl
    | with_reducible apply Kept.after (raiseShared_kept ..)
    | (show within _ _ = true; rfl)
    | exact Or.inl (by decide)
    | exact Or.inr (by with_reducible rfl)
    | exact Or.inl ⟨by decide, rfl⟩
    | split
    | with_reducible apply Kept.upd

theorem injectAgree_kept (s : State) : Kept [.lanes, .agr, .gut] s (injectAgree s) := by
  unfold injectAgree
  try dsimp only
  repeat' first
    | with_reducible apply Kept.refl
    | with_reducible apply Kept.after (injectAt_kept ..)
    | (show within _ _ = true; rfl)
    | exact Or.inl (by decide)
    | exact Or.inr (by with_reducible rfl)
    | exact Or.inl ⟨by decide, rfl⟩
    | split
    | with_reducible apply Kept.upd

theorem bulkSteps_kept (ls : List Lane) (s : State) : Kept [.lanes, .agr, .peer, .gut] s (bulkSteps ls s) := by
  unfold bulkSteps
  try dsimp only
  repeat' first
    | with_reducible apply Kept.refl
    | with_reducible apply Kept.after (injectAgree_kept ..)
    | with_reducible apply Kept.after (bulkStep_kept ..)
    | with_reducible refine Kept.step ?_ (Kept.foldl (ps := [.lanes, .agr, .peer, .gut]) (fun _ _ => ?_) _ _) rfl
    | (show within _ _ = true; rfl)
    | exact Or.inl (by decide)
    | exact Or.inr (by with_reducible rfl)
    | exact Or.inl ⟨by decide, rfl⟩
    | split
    | with_reducible apply Kept.upd

theorem bulkReturn_kept (l : Lane) (s : State) : Kept [.lanes, .agr, .host, .peer, .gut] s (bulkReturn l s) := by
  unfold bulkReturn
  try dsimp only
  repeat' first
    | with_reducible apply Kept.refl
    | with_reducible apply Kept.after (bulkSteps_kept ..)
    | with_reducible apply Kept.after (handBulk_kept ..)
    | (show within _ _ = true; rfl)
    | exact Or.inl (by decide)
    | exact Or.inr (by with_reducible rfl)
    | exact Or.inl ⟨by decide, rfl⟩
    | split
    | with_reducible apply Kept.upd

theorem execXfrqInSegment_kept (entry data : List Byte) (s : State) : ∃ t, execXfrqInSegment entry data s = .next t ∧ Kept [.lanes, .agr, .host, .peer, .gut] s t := by
  refine ⟨_, rfl, ?_⟩
  repeat' first
    | with_reducible apply Kept.refl
    | with_reducible apply Kept.after (bulkSteps_kept ..)
    | with_reducible apply Kept.after (fetchBulk_kept ..)
    | (show within _ _ = true; rfl)
    | exact Or.inl (by decide)
    | exact Or.inr (by with_reducible rfl)
    | exact Or.inl ⟨by decide, rfl⟩
    | split
    | with_reducible apply Kept.upd

theorem execTransferTimeout_kept (s : State) : ∃ t, execTransferTimeout s = .next t ∧ Kept [.lanes] s t := by
  refine ⟨_, rfl, ?_⟩
  repeat' first
    | with_reducible apply Kept.refl
    | with_reducible apply Kept.after (failLoad_kept ..)
    | (show within _ _ = true; rfl)
    | exact Or.inl (by decide)
    | exact Or.inr (by with_reducible rfl)
    | exact Or.inl ⟨by decide, rfl⟩
    | split
    | with_reducible apply Kept.upd

theorem loadDone_kept (s : State) : Kept [.lanes] s (loadDone s) := by
  unfold loadDone
  try dsimp only
  repeat' first
    | with_reducible apply Kept.refl
    | with_reducible apply Kept.after (decideCmd_kept ..)
    | (show within _ _ = true; rfl)
    | exact Or.inl (by decide)
    | exact Or.inr (by with_reducible rfl)
    | exact Or.inl ⟨by decide, rfl⟩
    | split
    | with_reducible apply Kept.upd

theorem imageRefused_kept (s : State) (l : Lane) (step : Nat) (t : Option (Nat × Nat)) : Kept [.lanes, .gut] s (imageRefused s l step t) := by
  unfold imageRefused
  try dsimp only
  repeat' first
    | with_reducible apply Kept.refl
    | with_reducible apply Kept.after (refuseImage_kept ..)
    | with_reducible apply Kept.after (decideCmd_kept ..)
    | with_reducible apply Kept.after (onLane_kept ..)
    | (show within _ _ = true; rfl)
    | exact Or.inl (by decide)
    | exact Or.inr (by with_reducible rfl)
    | exact Or.inl ⟨by decide, rfl⟩
    | split
    | with_reducible apply Kept.upd

theorem imageHeld_kept (s : State) (l : Lane) (y : Yealm) : Kept [.lanes, .gut] s (imageHeld s l y) := by
  unfold imageHeld
  try dsimp only
  repeat' first
    | with_reducible apply Kept.refl
    | with_reducible apply Kept.after (loadDone_kept ..)
    | with_reducible apply Kept.after (raiseLane_kept ..)
    | with_reducible apply Kept.after (onLane_kept ..)
    | (show within _ _ = true; rfl)
    | exact Or.inl (by decide)
    | exact Or.inr (by with_reducible rfl)
    | exact Or.inl ⟨by decide, rfl⟩
    | split
    | with_reducible apply Kept.upd

theorem yealmVerifiedAt_kept (l : Lane) (s : State) : Kept [.lanes, .gut] s (yealmVerifiedAt l s) := by
  unfold yealmVerifiedAt
  try dsimp only
  repeat' first
    | with_reducible apply Kept.refl
    | with_reducible apply Kept.after (imageHeld_kept ..)
    | with_reducible apply Kept.after (imageRefused_kept ..)
    | with_reducible apply Kept.after (failLoad_kept ..)
    | with_reducible apply Kept.after (onLane_kept ..)
    | (show within _ _ = true; rfl)
    | exact Or.inl (by decide)
    | exact Or.inr (by with_reducible rfl)
    | exact Or.inl ⟨by decide, rfl⟩
    | split
    | with_reducible apply Kept.upd

theorem execYealmVerified_kept (l : Lane) (s : State) : ∃ t, execYealmVerified l s = .next t ∧ Kept [.lanes, .gut] s t := by
  refine ⟨_, rfl, ?_⟩
  repeat' first
    | with_reducible apply Kept.refl
    | with_reducible apply Kept.after (yealmVerifiedAt_kept ..)
    | (show within _ _ = true; rfl)
    | exact Or.inl (by decide)
    | exact Or.inr (by with_reducible rfl)
    | exact Or.inl ⟨by decide, rfl⟩
    | split
    | with_reducible apply Kept.upd

theorem fetchDone_kept (l src : Lane) (damage : List RWrite) (s : State) : Kept [.cyc, .lanes, .gut] s (fetchDone l src damage s) := by
  unfold fetchDone
  try dsimp only
  repeat' first
    | with_reducible apply Kept.refl
    | with_reducible apply Kept.after (refuseImage_kept ..)
    | with_reducible apply Kept.after (decideExcl_kept ..)
    | with_reducible apply Kept.after (onLane_kept ..)
    | (show within _ _ = true; rfl)
    | exact Or.inl (by decide)
    | exact Or.inr (by with_reducible rfl)
    | exact Or.inl ⟨by decide, rfl⟩
    | split
    | with_reducible apply Kept.upd

theorem execYealmFetchComplete_kept (l : Lane) (damage : List RWrite) (s : State) : ∃ t, execYealmFetchComplete l damage s = .next t ∧ Kept [.cyc, .lanes, .gut] s t := by
  refine ⟨_, rfl, ?_⟩
  repeat' first
    | with_reducible apply Kept.refl
    | with_reducible apply Kept.after (fetchDone_kept ..)
    | (show within _ _ = true; rfl)
    | exact Or.inl (by decide)
    | exact Or.inr (by with_reducible rfl)
    | exact Or.inl ⟨by decide, rfl⟩
    | split
    | with_reducible apply Kept.upd

theorem readSegment_kept (s : State) (l : Lane) (i : Nat) (x : XferEnt) : Kept [.lanes, .host] s (readSegment s l i x) := by
  unfold readSegment
  try dsimp only
  repeat' first
    | with_reducible apply Kept.refl
    | with_reducible apply Kept.after (bulkLeave_kept ..)
    | with_reducible apply Kept.after (postData_kept ..)
    | with_reducible apply Kept.after (onLanes_kept ..)
    | (show within _ _ = true; rfl)
    | exact Or.inl (by decide)
    | exact Or.inr (by with_reducible rfl)
    | exact Or.inl ⟨by decide, rfl⟩
    | split
    | with_reducible apply Kept.upd

theorem execJournalReadSegment_kept (l : Lane) (s : State) : ∃ t, execJournalReadSegment l s = .next t ∧ Kept [.lanes, .host] s t := by
  refine ⟨_, rfl, ?_⟩
  repeat' first
    | with_reducible apply Kept.refl
    | with_reducible apply Kept.after (readSegment_kept ..)
    | (show within _ _ = true; rfl)
    | exact Or.inl (by decide)
    | exact Or.inr (by with_reducible rfl)
    | exact Or.inl ⟨by decide, rfl⟩
    | split
    | with_reducible apply Kept.upd

theorem execInputInjectionSegment_kept (entry data : List Byte) (s : State) : ∃ t, execInputInjectionSegment entry data s = .next t ∧ Kept [.lanes, .agr, .host, .peer, .gut] s t := by
  refine ⟨_, rfl, ?_⟩
  repeat' first
    | with_reducible apply Kept.refl
    | with_reducible apply Kept.after (bulkSteps_kept ..)
    | with_reducible apply Kept.after (fetchBulk_kept ..)
    | (show within _ _ = true; rfl)
    | exact Or.inl (by decide)
    | exact Or.inr (by with_reducible rfl)
    | exact Or.inl ⟨by decide, rfl⟩
    | split
    | with_reducible apply Kept.upd

theorem exchBoundaryAt_kept (s : State) : Kept [.module, .cyc, .lanes] s (exchBoundaryAt s) := by
  unfold exchBoundaryAt
  try dsimp only
  repeat' first
    | with_reducible apply Kept.refl
    | with_reducible apply Kept.after (decideCmd_kept ..)
    | (show within _ _ = true; rfl)
    | exact Or.inl (by decide)
    | exact Or.inr (by with_reducible rfl)
    | exact Or.inl ⟨by decide, rfl⟩
    | split
    | with_reducible apply Kept.upd

theorem execExchangeBoundary_kept (s : State) : ∃ t, execExchangeBoundary s = .next t ∧ Kept [.module, .cyc, .lanes] s t := by
  refine ⟨_, rfl, ?_⟩
  repeat' first
    | with_reducible apply Kept.refl
    | with_reducible apply Kept.after (exchBoundaryAt_kept ..)
    | (show within _ _ = true; rfl)
    | exact Or.inl (by decide)
    | exact Or.inr (by with_reducible rfl)
    | exact Or.inl ⟨by decide, rfl⟩
    | split
    | with_reducible apply Kept.upd

theorem exchCopyAt_kept (copyBad : Quad Bool) (s : State) : Kept [.module, .lanes] s (exchCopyAt copyBad s) := by
  unfold exchCopyAt
  try dsimp only
  repeat' first
    | with_reducible apply Kept.refl
    | with_reducible apply Kept.after (decideCmd_kept ..)
    | with_reducible apply Kept.after (onLanes_kept ..)
    | (show within _ _ = true; rfl)
    | exact Or.inl (by decide)
    | exact Or.inr (by with_reducible rfl)
    | exact Or.inl ⟨by decide, rfl⟩
    | split
    | with_reducible apply Kept.upd

theorem execExchangeCopyComplete_kept (copyBad : Quad Bool) (s : State) : ∃ t, execExchangeCopyComplete copyBad s = .next t ∧ Kept [.module, .lanes] s t := by
  refine ⟨_, rfl, ?_⟩
  repeat' first
    | with_reducible apply Kept.refl
    | with_reducible apply Kept.after (exchCopyAt_kept ..)
    | (show within _ _ = true; rfl)
    | exact Or.inl (by decide)
    | exact Or.inr (by with_reducible rfl)
    | exact Or.inl ⟨by decide, rfl⟩
    | split
    | with_reducible apply Kept.upd

theorem execExchangeReloadComplete_kept (s : State) : ∃ t, execExchangeReloadComplete s = .next t ∧ Kept [.module] s t := by
  refine ⟨_, rfl, ?_⟩
  repeat' first
    | with_reducible apply Kept.refl
    | (show within _ _ = true; rfl)
    | exact Or.inl (by decide)
    | exact Or.inr (by with_reducible rfl)
    | exact Or.inl ⟨by decide, rfl⟩
    | split
    | with_reducible apply Kept.upd

theorem bootFew_kept (s : State) : Kept [.supply, .healthy, .mode, .module, .cyc, .lanes, .host, .peer, .gut] s (bootFew s) := by
  unfold bootFew
  try dsimp only
  repeat' first
    | with_reducible apply Kept.refl
    | with_reducible apply Kept.after (enterSafeStop_kept ..)
    | with_reducible apply Kept.after (raiseShared_kept ..)
    | (show within _ _ = true; rfl)
    | exact Or.inl (by decide)
    | exact Or.inr (by with_reducible rfl)
    | exact Or.inl ⟨by decide, rfl⟩
    | split
    | with_reducible apply Kept.upd

theorem retireLane_kept (s : State) (l : Lane) (exhausted : Bool) : Kept [.supply, .healthy, .mode, .module, .cyc, .lanes, .host, .peer, .gut] s (retireLane s l exhausted) := by
  unfold retireLane
  try dsimp only
  repeat' first
    | with_reducible apply Kept.refl
    | with_reducible apply Kept.after (bootFew_kept ..)
    | with_reducible apply Kept.after (raiseLane_kept ..)
    | with_reducible apply Kept.after (redrain_kept ..)
    | with_reducible apply Kept.after (onLane_kept ..)
    | (show within _ _ = true; rfl)
    | exact Or.inl (by decide)
    | exact Or.inr (by with_reducible rfl)
    | exact Or.inl ⟨by decide, rfl⟩
    | split
    | with_reducible apply Kept.upd

theorem sparesLow_kept (s : State) (who before after limit : Nat) (hub : Bool) : Kept [.gut] s (sparesLow s who before after limit hub) := by
  unfold sparesLow
  try dsimp only
  repeat' first
    | with_reducible apply Kept.refl
    | with_reducible apply Kept.after (raiseHub_kept ..)
    | with_reducible apply Kept.after (raiseLane_kept ..)
    | (show within _ _ = true; rfl)
    | exact Or.inl (by decide)
    | exact Or.inr (by with_reducible rfl)
    | exact Or.inl ⟨by decide, rfl⟩
    | split
    | with_reducible apply Kept.upd

theorem remapSector_kept (s : State) (l : Lane) (sector : Nat) : Kept [.supply, .healthy, .mode, .module, .cyc, .lanes, .host, .peer, .gut] s (remapSector s l sector) := by
  unfold remapSector
  try dsimp only
  repeat' first
    | with_reducible apply Kept.refl
    | with_reducible apply Kept.after (sparesLow_kept ..)
    | with_reducible apply Kept.after (retireLane_kept ..)
    | with_reducible apply Kept.after (raiseLane_kept ..)
    | with_reducible apply Kept.after (onLane_kept ..)
    | (show within _ _ = true; rfl)
    | exact Or.inl (by decide)
    | exact Or.inr (by with_reducible rfl)
    | exact Or.inl ⟨by decide, rfl⟩
    | split
    | with_reducible apply Kept.upd

theorem boxLoss_kept (s : State) (l : Lane) (count : Nat) : Kept [.gut] s (boxLoss s l count) := by
  unfold boxLoss
  try dsimp only
  repeat' first
    | with_reducible apply Kept.refl
    | with_reducible apply Kept.after (gutPut_kept ..)
    | (show within _ _ = true; rfl)
    | exact Or.inl (by decide)
    | exact Or.inr (by with_reducible rfl)
    | exact Or.inl ⟨by decide, rfl⟩
    | split
    | with_reducible apply Kept.upd

theorem execMramWriteFault_kept (l : Lane) (sector : Nat) (s : State) : ∃ t, execMramWriteFault l sector s = .next t ∧ Kept [.supply, .healthy, .mode, .module, .cyc, .lanes, .host, .peer, .gut] s t := by
  refine ⟨_, rfl, ?_⟩
  repeat' first
    | with_reducible apply Kept.refl
    | with_reducible apply Kept.after (remapSector_kept ..)
    | (show within _ _ = true; rfl)
    | exact Or.inl (by decide)
    | exact Or.inr (by with_reducible rfl)
    | exact Or.inl ⟨by decide, rfl⟩
    | split
    | with_reducible apply Kept.upd

theorem sectorLost_kept (l : Lane) (sector : Nat) (s : State) : Kept [.supply, .healthy, .mode, .module, .cyc, .lanes, .host, .peer, .gut] s (sectorLost l sector s) := by
  unfold sectorLost
  try dsimp only
  repeat' first
    | with_reducible apply Kept.refl
    | with_reducible apply Kept.after (boxLoss_kept ..)
    | with_reducible apply Kept.after (remapSector_kept ..)
    | with_reducible apply Kept.after (onLane_kept ..)
    | (show within _ _ = true; rfl)
    | exact Or.inl (by decide)
    | exact Or.inr (by with_reducible rfl)
    | exact Or.inl ⟨by decide, rfl⟩
    | split
    | with_reducible apply Kept.upd

theorem execMramUncorrectableRead_kept (l : Lane) (sector : Nat) (s : State) : ∃ t, execMramUncorrectableRead l sector s = .next t ∧ Kept [.supply, .healthy, .mode, .module, .cyc, .lanes, .host, .peer, .gut] s t := by
  refine ⟨_, rfl, ?_⟩
  repeat' first
    | with_reducible apply Kept.refl
    | with_reducible apply Kept.after (sectorLost_kept ..)
    | (show within _ _ = true; rfl)
    | exact Or.inl (by decide)
    | exact Or.inr (by with_reducible rfl)
    | exact Or.inl ⟨by decide, rfl⟩
    | split
    | with_reducible apply Kept.upd

theorem sectorCorrected_kept (l : Lane) (sector : Nat) (s : State) : Kept [.supply, .healthy, .mode, .module, .cyc, .lanes, .host, .peer, .gut] s (sectorCorrected l sector s) := by
  unfold sectorCorrected
  try dsimp only
  repeat' first
    | with_reducible apply Kept.refl
    | with_reducible apply Kept.after (remapSector_kept ..)
    | with_reducible apply Kept.after (onLane_kept ..)
    | (show within _ _ = true; rfl)
    | exact Or.inl (by decide)
    | exact Or.inr (by with_reducible rfl)
    | exact Or.inl ⟨by decide, rfl⟩
    | split
    | with_reducible apply Kept.upd

theorem execMramCorrectedRead_kept (l : Lane) (sector : Nat) (s : State) : ∃ t, execMramCorrectedRead l sector s = .next t ∧ Kept [.supply, .healthy, .mode, .module, .cyc, .lanes, .host, .peer, .gut] s t := by
  refine ⟨_, rfl, ?_⟩
  repeat' first
    | with_reducible apply Kept.refl
    | with_reducible apply Kept.after (sectorCorrected_kept ..)
    | (show within _ _ = true; rfl)
    | exact Or.inl (by decide)
    | exact Or.inr (by with_reducible rfl)
    | exact Or.inl ⟨by decide, rfl⟩
    | split
    | with_reducible apply Kept.upd

theorem execEccCorrected_kept (l : Lane) (row : Nat) (s : State) : ∃ t, execEccCorrected l row s = .next t ∧ Kept [.lanes] s t := by
  refine ⟨_, rfl, ?_⟩
  repeat' first
    | with_reducible apply Kept.refl
    | with_reducible apply Kept.after (onLane_kept ..)
    | (show within _ _ = true; rfl)
    | exact Or.inl (by decide)
    | exact Or.inr (by with_reducible rfl)
    | exact Or.inl ⟨by decide, rfl⟩
    | split
    | with_reducible apply Kept.upd

theorem execEccUncorrectable_kept (l : Lane) (s : State) : ∃ t, execEccUncorrectable l s = .next t ∧ Kept [.lanes] s t := by
  refine ⟨_, rfl, ?_⟩
  repeat' first
    | with_reducible apply Kept.refl
    | with_reducible apply Kept.after (onLane_kept ..)
    | (show within _ _ = true; rfl)
    | exact Or.inl (by decide)
    | exact Or.inr (by with_reducible rfl)
    | exact Or.inl ⟨by decide, rfl⟩
    | split
    | with_reducible apply Kept.upd

theorem execSramScrub_kept (l : Lane) (corrected : List Nat) (uncorrectable : Bool) (s : State) : ∃ t, execSramScrub l corrected uncorrectable s = .next t ∧ Kept [.lanes] s t := by
  refine ⟨_, rfl, ?_⟩
  repeat' first
    | with_reducible apply Kept.refl
    | with_reducible apply Kept.after (onLane_kept ..)
    | with_reducible refine Kept.step ?_ (Kept.foldl (ps := [.lanes]) (fun _ _ => ?_) _ _) rfl
    | (show within _ _ = true; rfl)
    | exact Or.inl (by decide)
    | exact Or.inr (by with_reducible rfl)
    | exact Or.inl ⟨by decide, rfl⟩
    | split
    | with_reducible apply Kept.upd

theorem execHubSramScrub_kept (uncorrectable : Bool) (s : State) : ∃ t, execHubSramScrub uncorrectable s = .next t ∧ Kept [.hub] s t := by
  refine ⟨_, rfl, ?_⟩
  repeat' first
    | with_reducible apply Kept.refl
    | (show within _ _ = true; rfl)
    | exact Or.inl (by decide)
    | exact Or.inr (by with_reducible rfl)
    | exact Or.inl ⟨by decide, rfl⟩
    | split
    | with_reducible apply Kept.upd

theorem hubStops_kept (s : State) : Kept [.supply, .healthy, .mode, .module, .cyc, .lanes, .host, .peer] s (hubStops s) := by
  unfold hubStops
  try dsimp only
  repeat' first
    | with_reducible apply Kept.refl
    | with_reducible apply Kept.after (enterSafeStop_kept ..)
    | (show within _ _ = true; rfl)
    | exact Or.inl (by decide)
    | exact Or.inr (by with_reducible rfl)
    | exact Or.inl ⟨by decide, rfl⟩
    | split
    | with_reducible apply Kept.upd

theorem execJunctionOvertemp_kept (u : BistUnit) (s : State) : ∃ t, execJunctionOvertemp u s = .next t ∧ Kept [.supply, .healthy, .mode, .module, .cyc, .lanes, .host, .peer] s t := by
  refine ⟨_, rfl, ?_⟩
  repeat' first
    | with_reducible apply Kept.refl
    | with_reducible apply Kept.after (hubStops_kept ..)
    | with_reducible apply Kept.after (onLane_kept ..)
    | (show within _ _ = true; rfl)
    | exact Or.inl (by decide)
    | exact Or.inr (by with_reducible rfl)
    | exact Or.inl ⟨by decide, rfl⟩
    | split
    | with_reducible apply Kept.upd

theorem execHubWatchdog_kept (s : State) : ∃ t, execHubWatchdog s = .next t ∧ Kept [.supply, .healthy, .mode, .module, .cyc, .lanes, .host, .peer] s t := by
  refine ⟨_, rfl, ?_⟩
  repeat' first
    | with_reducible apply Kept.refl
    | with_reducible apply Kept.after (hubStops_kept ..)
    | (show within _ _ = true; rfl)
    | exact Or.inl (by decide)
    | exact Or.inr (by with_reducible rfl)
    | exact Or.inl ⟨by decide, rfl⟩
    | split
    | with_reducible apply Kept.upd

theorem forgeItems_kept (s : State) (l : Lane) (srcs : List Lane) : Kept [.lanes] s (forgeItems s l srcs) := by
  unfold forgeItems
  try dsimp only
  repeat' first
    | with_reducible apply Kept.refl
    | with_reducible apply Kept.after (onLane_kept ..)
    | with_reducible refine Kept.step ?_ (Kept.foldl (ps := [.lanes]) (fun _ _ => ?_) _ _) rfl
    | (show within _ _ = true; rfl)
    | exact Or.inl (by decide)
    | exact Or.inr (by with_reducible rfl)
    | exact Or.inl ⟨by decide, rfl⟩
    | split
    | with_reducible apply Kept.upd

theorem lockstepAt_kept (l : Lane) (clk : Word) (s : State) : Kept [.lanes] s (lockstepAt l clk s) := by
  unfold lockstepAt
  try dsimp only
  repeat' first
    | with_reducible apply Kept.refl
    | with_reducible apply Kept.after (flitSent_kept ..)
    | with_reducible apply Kept.after (onLane_kept ..)
    | (show within _ _ = true; rfl)
    | exact Or.inl (by decide)
    | exact Or.inr (by with_reducible rfl)
    | exact Or.inl ⟨by decide, rfl⟩
    | split
    | with_reducible apply Kept.upd

theorem execLockstepMismatch_kept (l : Lane) (clk : Word) (s : State) : ∃ t, execLockstepMismatch l clk s = .next t ∧ Kept [.lanes] s t := by
  refine ⟨_, rfl, ?_⟩
  repeat' first
    | with_reducible apply Kept.refl
    | with_reducible apply Kept.after (lockstepAt_kept ..)
    | (show within _ _ = true; rfl)
    | exact Or.inl (by decide)
    | exact Or.inr (by with_reducible rfl)
    | exact Or.inl ⟨by decide, rfl⟩
    | split
    | with_reducible apply Kept.upd

theorem stopFlitAt_kept (src : Lane) (s : State) : Kept [.cyc, .lanes, .gut] s (stopFlitAt src s) := by
  unfold stopFlitAt
  try dsimp only
  repeat' first
    | with_reducible apply Kept.refl
    | with_reducible apply Kept.after (flitTaken_kept ..)
    | with_reducible apply Kept.after (decideExcl_kept ..)
    | (show within _ _ = true; rfl)
    | exact Or.inl (by decide)
    | exact Or.inr (by with_reducible rfl)
    | exact Or.inl ⟨by decide, rfl⟩
    | split
    | with_reducible apply Kept.upd

theorem execStopFlit_kept (src : Lane) (s : State) : ∃ t, execStopFlit src s = .next t ∧ Kept [.cyc, .lanes, .gut] s t := by
  refine ⟨_, rfl, ?_⟩
  repeat' first
    | with_reducible apply Kept.refl
    | with_reducible apply Kept.after (stopFlitAt_kept ..)
    | (show within _ _ = true; rfl)
    | exact Or.inl (by decide)
    | exact Or.inr (by with_reducible rfl)
    | exact Or.inl ⟨by decide, rfl⟩
    | split
    | with_reducible apply Kept.upd

theorem execDebugHalt_kept (l : Lane) (s : State) : ∃ t, execDebugHalt l s = .next t ∧ Kept [.lanes] s t := by
  refine ⟨_, rfl, ?_⟩
  repeat' first
    | with_reducible apply Kept.refl
    | with_reducible apply Kept.after (onLane_kept ..)
    | (show within _ _ = true; rfl)
    | exact Or.inl (by decide)
    | exact Or.inr (by with_reducible rfl)
    | exact Or.inl ⟨by decide, rfl⟩
    | split
    | with_reducible apply Kept.upd

theorem execDebugRelease_kept (l : Lane) (s : State) : ∃ t, execDebugRelease l s = .next t ∧ Kept [.lanes] s t := by
  refine ⟨_, rfl, ?_⟩
  repeat' first
    | with_reducible apply Kept.refl
    | with_reducible apply Kept.after (onLane_kept ..)
    | (show within _ _ = true; rfl)
    | exact Or.inl (by decide)
    | exact Or.inr (by with_reducible rfl)
    | exact Or.inl ⟨by decide, rfl⟩
    | split
    | with_reducible apply Kept.upd

theorem execRotationDue_kept (s : State) : ∃ t, execRotationDue s = .next t ∧ Kept [.cyc] s t := by
  refine ⟨_, rfl, ?_⟩
  repeat' first
    | with_reducible apply Kept.refl
    | (show within _ _ = true; rfl)
    | exact Or.inl (by decide)
    | exact Or.inr (by with_reducible rfl)
    | exact Or.inl ⟨by decide, rfl⟩
    | split
    | with_reducible apply Kept.upd

theorem copyFailed_kept (s : State) (l : Lane) : Kept [.cyc, .lanes, .gut] s (copyFailed s l) := by
  unfold copyFailed
  try dsimp only
  repeat' first
    | with_reducible apply Kept.refl
    | with_reducible apply Kept.after (decideExcl_kept ..)
    | with_reducible apply Kept.after (onLane_kept ..)
    | (show within _ _ = true; rfl)
    | exact Or.inl (by decide)
    | exact Or.inr (by with_reducible rfl)
    | exact Or.inl ⟨by decide, rfl⟩
    | split
    | with_reducible apply Kept.upd

theorem copyReceived_kept (l : Lane) (damage1 damage2 : List RWrite) (s : State) : Kept [.cyc, .lanes, .gut] s (copyReceived l damage1 damage2 s) := by
  unfold copyReceived
  try dsimp only
  repeat' first
    | with_reducible apply Kept.refl
    | with_reducible apply Kept.after (copyFailed_kept ..)
    | with_reducible apply Kept.after (onLane_kept ..)
    | (show within _ _ = true; rfl)
    | exact Or.inl (by decide)
    | exact Or.inr (by with_reducible rfl)
    | exact Or.inl ⟨by decide, rfl⟩
    | split
    | with_reducible apply Kept.upd

theorem execRetainedStateCopyReceived_kept (l : Lane) (damage1 damage2 : List RWrite) (s : State) : ∃ t, execRetainedStateCopyReceived l damage1 damage2 s = .next t ∧ Kept [.cyc, .lanes, .gut] s t := by
  refine ⟨_, rfl, ?_⟩
  repeat' first
    | with_reducible apply Kept.refl
    | with_reducible apply Kept.after (copyReceived_kept ..)
    | (show within _ _ = true; rfl)
    | exact Or.inl (by decide)
    | exact Or.inr (by with_reducible rfl)
    | exact Or.inl ⟨by decide, rfl⟩
    | split
    | with_reducible apply Kept.upd

theorem raiseUnit_kept (s : State) (u : BistUnit) (code : Nat) (args : List Byte) : Kept [.gut] s (raiseUnit s u code args) := by
  unfold raiseUnit
  try dsimp only
  repeat' first
    | with_reducible apply Kept.refl
    | with_reducible apply Kept.after (raiseHub_kept ..)
    | with_reducible apply Kept.after (raiseLane_kept ..)
    | (show within _ _ = true; rfl)
    | exact Or.inl (by decide)
    | exact Or.inr (by with_reducible rfl)
    | exact Or.inl ⟨by decide, rfl⟩
    | split
    | with_reducible apply Kept.upd

theorem beyondRepair_kept (s : State) (u : BistUnit) (slice group : Nat) (exhausted : Bool) : Kept [.supply, .healthy, .mode, .module, .cyc, .lanes, .host, .peer, .gut, .hub] s (beyondRepair s u slice group exhausted) := by
  unfold beyondRepair
  try dsimp only
  repeat' first
    | with_reducible apply Kept.refl
    | with_reducible apply Kept.after (raiseUnit_kept ..)
    | with_reducible apply Kept.after (retireLane_kept ..)
    | (show within _ _ = true; rfl)
    | exact Or.inl (by decide)
    | exact Or.inr (by with_reducible rfl)
    | exact Or.inl ⟨by decide, rfl⟩
    | split
    | with_reducible apply Kept.upd

theorem afterExclusion_kept (s : State) (l : Lane) : Kept [.cyc, .lanes] s (afterExclusion s l) := by
  unfold afterExclusion
  try dsimp only
  repeat' first
    | with_reducible apply Kept.refl
    | with_reducible apply Kept.after (onLane_kept ..)
    | (show within _ _ = true; rfl)
    | exact Or.inl (by decide)
    | exact Or.inr (by with_reducible rfl)
    | exact Or.inl ⟨by decide, rfl⟩
    | split
    | with_reducible apply Kept.upd

theorem afterBoot_kept (s : State) (l : Lane) : Kept [.lanes] s (afterBoot s l) := by
  unfold afterBoot
  try dsimp only
  repeat' first
    | with_reducible apply Kept.refl
    | with_reducible apply Kept.after (onLane_kept ..)
    | (show within _ _ = true; rfl)
    | exact Or.inl (by decide)
    | exact Or.inr (by with_reducible rfl)
    | exact Or.inl ⟨by decide, rfl⟩
    | split
    | with_reducible apply Kept.upd

theorem passEnd_kept (s : State) (l : Lane) : Kept [.cyc, .lanes] s (passEnd s l) := by
  unfold passEnd
  try dsimp only
  repeat' first
    | with_reducible apply Kept.refl
    | with_reducible apply Kept.after (afterBoot_kept ..)
    | with_reducible apply Kept.after (afterExclusion_kept ..)
    | with_reducible apply Kept.after (onLane_kept ..)
    | (show within _ _ = true; rfl)
    | exact Or.inl (by decide)
    | exact Or.inr (by with_reducible rfl)
    | exact Or.inl ⟨by decide, rfl⟩
    | split
    | with_reducible apply Kept.upd

theorem nextSlice_kept (s : State) (l : Lane) : Kept [.cyc, .lanes] s (nextSlice s l) := by
  unfold nextSlice
  try dsimp only
  repeat' first
    | with_reducible apply Kept.refl
    | with_reducible apply Kept.after (passEnd_kept ..)
    | with_reducible apply Kept.after (onLane_kept ..)
    | (show within _ _ = true; rfl)
    | exact Or.inl (by decide)
    | exact Or.inr (by with_reducible rfl)
    | exact Or.inl ⟨by decide, rfl⟩
    | split
    | with_reducible apply Kept.upd

theorem laneSliceStart_kept (s : State) (l : Lane) : Kept [.cyc, .lanes] s (laneSliceStart s l) := by
  unfold laneSliceStart
  try dsimp only
  repeat' first
    | with_reducible apply Kept.refl
    | with_reducible apply Kept.after (nextSlice_kept ..)
    | with_reducible apply Kept.after (forgeItems_kept ..)
    | with_reducible apply Kept.after (onLane_kept ..)
    | (show within _ _ = true; rfl)
    | exact Or.inl (by decide)
    | exact Or.inr (by with_reducible rfl)
    | exact Or.inl ⟨by decide, rfl⟩
    | split
    | with_reducible apply Kept.upd

theorem execBistSliceStart_kept (u : BistUnit) (s : State) : ∃ t, execBistSliceStart u s = .next t ∧ Kept [.cyc, .lanes, .hub] s t := by
  refine ⟨_, rfl, ?_⟩
  repeat' first
    | with_reducible apply Kept.refl
    | with_reducible apply Kept.after (laneSliceStart_kept ..)
    | (show within _ _ = true; rfl)
    | exact Or.inl (by decide)
    | exact Or.inr (by with_reducible rfl)
    | exact Or.inl ⟨by decide, rfl⟩
    | split
    | with_reducible apply Kept.upd

theorem sramFail_kept (s : State) (l : Lane) (i : Nat) (rows cols : List (Nat × Nat)) (repeatOk : Bool) : Kept [.supply, .healthy, .mode, .module, .cyc, .lanes, .host, .peer, .gut, .hub] s (sramFail s l i rows cols repeatOk) := by
  unfold sramFail
  try dsimp only
  repeat' first
    | with_reducible apply Kept.refl
    | with_reducible apply Kept.after (nextSlice_kept ..)
    | with_reducible apply Kept.after (beyondRepair_kept ..)
    | with_reducible apply Kept.after (raiseUnit_kept ..)
    | with_reducible apply Kept.after (sparesLow_kept ..)
    | with_reducible apply Kept.after (onLane_kept ..)
    | (show within _ _ = true; rfl)
    | exact Or.inl (by decide)
    | exact Or.inr (by with_reducible rfl)
    | exact Or.inl ⟨by decide, rfl⟩
    | split
    | with_reducible apply Kept.upd

theorem mramFail_kept (s : State) (l : Lane) (i : Nat) (sectors : List Nat) : Kept [.supply, .healthy, .mode, .module, .cyc, .lanes, .host, .peer, .gut, .hub] s (mramFail s l i sectors) := by
  unfold mramFail
  try dsimp only
  repeat' first
    | with_reducible apply Kept.refl
    | with_reducible apply Kept.after (nextSlice_kept ..)
    | with_reducible apply Kept.after (beyondRepair_kept ..)
    | with_reducible apply Kept.after (remapSector_kept ..)
    | with_reducible apply Kept.after (onLane_kept ..)
    | with_reducible refine Kept.step ?_ (Kept.foldl (ps := [.supply, .healthy, .mode, .module, .cyc, .lanes, .host, .peer, .gut, .hub]) (fun _ _ => ?_) _ _) rfl
    | (show within _ _ = true; rfl)
    | exact Or.inl (by decide)
    | exact Or.inr (by with_reducible rfl)
    | exact Or.inl ⟨by decide, rfl⟩
    | split
    | with_reducible apply Kept.upd

theorem logicFail_kept (s : State) (l : Lane) (i g : Nat) (repeatOk : Bool) : Kept [.supply, .healthy, .mode, .module, .cyc, .lanes, .host, .peer, .gut, .hub] s (logicFail s l i g repeatOk) := by
  unfold logicFail
  try dsimp only
  repeat' first
    | with_reducible apply Kept.refl
    | with_reducible apply Kept.after (nextSlice_kept ..)
    | with_reducible apply Kept.after (beyondRepair_kept ..)
    | with_reducible apply Kept.after (raiseUnit_kept ..)
    | with_reducible apply Kept.after (onLane_kept ..)
    | (show within _ _ = true; rfl)
    | exact Or.inl (by decide)
    | exact Or.inr (by with_reducible rfl)
    | exact Or.inl ⟨by decide, rfl⟩
    | split
    | with_reducible apply Kept.upd

theorem laneSliceEnd_kept (s : State) (l : Lane) (r : SliceResult) : Kept [.supply, .healthy, .mode, .module, .cyc, .lanes, .host, .peer, .gut, .hub] s (laneSliceEnd s l r) := by
  unfold laneSliceEnd
  try dsimp only
  repeat' first
    | with_reducible apply Kept.refl
    | with_reducible apply Kept.after (logicFail_kept ..)
    | with_reducible apply Kept.after (mramFail_kept ..)
    | with_reducible apply Kept.after (sramFail_kept ..)
    | with_reducible apply Kept.after (nextSlice_kept ..)
    | with_reducible apply Kept.after (beyondRepair_kept ..)
    | with_reducible apply Kept.after (onLane_kept ..)
    | (show within _ _ = true; rfl)
    | exact Or.inl (by decide)
    | exact Or.inr (by with_reducible rfl)
    | exact Or.inl ⟨by decide, rfl⟩
    | split
    | with_reducible apply Kept.upd

theorem hubNext_kept (s : State) : Kept [.hub] s (hubNext s) := by
  unfold hubNext
  try dsimp only
  repeat' first
    | with_reducible apply Kept.refl
    | (show within _ _ = true; rfl)
    | exact Or.inl (by decide)
    | exact Or.inr (by with_reducible rfl)
    | exact Or.inl ⟨by decide, rfl⟩
    | split
    | with_reducible apply Kept.upd

theorem writeHubEnts_kept (s : State) (ents : List RepEnt) : Kept [.lanes, .hub] s (writeHubEnts s ents) := by
  unfold writeHubEnts
  try dsimp only
  repeat' first
    | with_reducible apply Kept.refl
    | (show within _ _ = true; rfl)
    | exact Or.inl (by decide)
    | exact Or.inr (by with_reducible rfl)
    | exact Or.inl ⟨by decide, rfl⟩
    | split
    | with_reducible apply Kept.upd

theorem hubSliceEnd_kept (s : State) (r : SliceResult) : Kept [.supply, .healthy, .mode, .module, .cyc, .lanes, .host, .peer, .gut, .hub] s (hubSliceEnd s r) := by
  unfold hubSliceEnd
  try dsimp only
  repeat' first
    | with_reducible apply Kept.refl
    | with_reducible apply Kept.after (writeHubEnts_kept ..)
    | with_reducible apply Kept.after (hubNext_kept ..)
    | with_reducible apply Kept.after (beyondRepair_kept ..)
    | with_reducible apply Kept.after (raiseUnit_kept ..)
    | with_reducible apply Kept.after (sparesLow_kept ..)
    | (show within _ _ = true; rfl)
    | exact Or.inl (by decide)
    | exact Or.inr (by with_reducible rfl)
    | exact Or.inl ⟨by decide, rfl⟩
    | split
    | with_reducible apply Kept.upd

theorem execBistSliceEnd_kept (u : BistUnit) (res : SliceResult) (s : State) : ∃ t, execBistSliceEnd u res s = .next t ∧ Kept [.supply, .healthy, .mode, .module, .cyc, .lanes, .host, .peer, .gut, .hub] s t := by
  refine ⟨_, rfl, ?_⟩
  repeat' first
    | with_reducible apply Kept.refl
    | with_reducible apply Kept.after (hubSliceEnd_kept ..)
    | with_reducible apply Kept.after (laneSliceEnd_kept ..)
    | (show within _ _ = true; rfl)
    | exact Or.inl (by decide)
    | exact Or.inr (by with_reducible rfl)
    | exact Or.inl ⟨by decide, rfl⟩
    | split
    | with_reducible apply Kept.upd

theorem reinitDone_kept (s : State) (l : Lane) : Kept [.lanes] s (reinitDone s l) := by
  unfold reinitDone
  try dsimp only
  repeat' first
    | with_reducible apply Kept.refl
    | with_reducible apply Kept.after (onLane_kept ..)
    | (show within _ _ = true; rfl)
    | exact Or.inl (by decide)
    | exact Or.inr (by with_reducible rfl)
    | exact Or.inl ⟨by decide, rfl⟩
    | split
    | with_reducible apply Kept.upd

theorem execBlockReinitComplete_kept (l : Lane) (s : State) : ∃ t, execBlockReinitComplete l s = .next t ∧ Kept [.lanes] s t := by
  refine ⟨_, rfl, ?_⟩
  repeat' first
    | with_reducible apply Kept.refl
    | with_reducible apply Kept.after (reinitDone_kept ..)
    | (show within _ _ = true; rfl)
    | exact Or.inl (by decide)
    | exact Or.inr (by with_reducible rfl)
    | exact Or.inl ⟨by decide, rfl⟩
    | split
    | with_reducible apply Kept.upd

end Sys2Proof.Machine
end

