-- ==== Sys2Proof/Laws/KeptBoot.lean ====
section
/-! SUPPORT. Frame lemmas: which parts of the state each operation of Power, Boot, Restart may change. -/

set_option linter.unusedTactic false
set_option linter.unreachableTactic false

namespace Sys2Proof.Machine

theorem execSupplyLow_kept (bus : Nat) (s : State) : ∃ t, execSupplyLow bus s = .next t ∧ Kept [.supply, .host, .gut] s t := by
  refine ⟨_, rfl, ?_⟩
  repeat' first
    | with_reducible apply Kept.refl
    | with_reducible apply Kept.after (refreshUl_kept ..)
    | with_reducible apply Kept.after (raiseUl_kept ..)
    | (show within _ _ = true; rfl)
    | exact Or.inl (by decide)
    | exact Or.inr (by with_reducible rfl)
    | exact Or.inl ⟨by decide, rfl⟩
    | split
    | with_reducible apply Kept.upd

theorem execSupplyRecovery_kept (durUs minBus : Nat) (s : State) : ∃ t, execSupplyRecovery durUs minBus s = .next t ∧ Kept [.supply, .host] s t := by
  refine ⟨_, rfl, ?_⟩
  repeat' first
    | with_reducible apply Kept.refl
    | with_reducible apply Kept.after (refreshUl_kept ..)
    | (show within _ _ = true; rfl)
    | exact Or.inl (by decide)
    | exact Or.inr (by with_reducible rfl)
    | exact Or.inl ⟨by decide, rfl⟩
    | split
    | with_reducible apply Kept.upd

theorem execReserveStoreExhausted_kept (s : State) : ∃ t, execReserveStoreExhausted s = .next t ∧ Kept [.time, .supply] s t := by
  refine ⟨_, rfl, ?_⟩
  repeat' first
    | with_reducible apply Kept.refl
    | (show within _ _ = true; rfl)
    | exact Or.inl (by decide)
    | exact Or.inr (by with_reducible rfl)
    | exact Or.inl ⟨by decide, rfl⟩
    | split
    | with_reducible apply Kept.upd

theorem execPrimaryCellExhausted_kept (s : State) : ∃ t, execPrimaryCellExhausted s = .next t ∧ Kept [.supply] s t := by
  refine ⟨_, rfl, ?_⟩
  repeat' first
    | with_reducible apply Kept.refl
    | (show within _ _ = true; rfl)
    | exact Or.inl (by decide)
    | exact Or.inr (by with_reducible rfl)
    | exact Or.inl ⟨by decide, rfl⟩
    | split
    | with_reducible apply Kept.upd

theorem execRstPress_kept (s : State) : ∃ t, execRstPress s = .next t ∧ Kept [.supply, .host] s t := by
  refine ⟨_, rfl, ?_⟩
  repeat' first
    | with_reducible apply Kept.refl
    | with_reducible apply Kept.after (refreshUl_kept ..)
    | (show within _ _ = true; rfl)
    | exact Or.inl (by decide)
    | exact Or.inr (by with_reducible rfl)
    | exact Or.inl ⟨by decide, rfl⟩
    | split
    | with_reducible apply Kept.upd

theorem released_kept (heldUs : Nat) (s : State) : Kept [.supply, .module] s (released heldUs s) := by
  unfold released
  try dsimp only
  repeat' first
    | with_reducible apply Kept.refl
    | (show within _ _ = true; rfl)
    | exact Or.inl (by decide)
    | exact Or.inr (by with_reducible rfl)
    | exact Or.inl ⟨by decide, rfl⟩
    | split
    | with_reducible apply Kept.upd

theorem execRstRelease_kept (heldUs : Nat) (s : State) : ∃ t, execRstRelease heldUs s = .next t ∧ Kept [.supply, .module, .host] s t := by
  refine ⟨_, rfl, ?_⟩
  repeat' first
    | with_reducible apply Kept.refl
    | with_reducible apply Kept.after (released_kept ..)
    | with_reducible apply Kept.after (refreshUl_kept ..)
    | (show within _ _ = true; rfl)
    | exact Or.inl (by decide)
    | exact Or.inr (by with_reducible rfl)
    | exact Or.inl ⟨by decide, rfl⟩
    | split
    | with_reducible apply Kept.upd

theorem execResetStuck_kept (s : State) : ∃ t, execResetStuck s = .next t ∧ Kept [.supply, .host, .gut] s t := by
  refine ⟨_, rfl, ?_⟩
  repeat' first
    | with_reducible apply Kept.refl
    | with_reducible apply Kept.after (refreshUl_kept ..)
    | with_reducible apply Kept.after (raiseUl_kept ..)
    | (show within _ _ = true; rfl)
    | exact Or.inl (by decide)
    | exact Or.inr (by with_reducible rfl)
    | exact Or.inl ⟨by decide, rfl⟩
    | split
    | with_reducible apply Kept.upd

theorem execRstRearm_kept (s : State) : ∃ t, execRstRearm s = .next t ∧ Kept [.supply, .host] s t := by
  refine ⟨_, rfl, ?_⟩
  repeat' first
    | with_reducible apply Kept.refl
    | with_reducible apply Kept.after (refreshUl_kept ..)
    | (show within _ _ = true; rfl)
    | exact Or.inl (by decide)
    | exact Or.inr (by with_reducible rfl)
    | exact Or.inl ⟨by decide, rfl⟩
    | split
    | with_reducible apply Kept.upd

theorem takeKey_kept (s : State) (p : KeyPos) : Kept [.ctl, .lanes, .host, .gut] s (takeKey s p) := by
  unfold takeKey
  try dsimp only
  repeat' first
    | with_reducible apply Kept.refl
    | with_reducible apply Kept.after (raiseShared_kept ..)
    | with_reducible apply Kept.after (reportState_kept ..)
    | (show within _ _ = true; rfl)
    | exact Or.inl (by decide)
    | exact Or.inr (by with_reducible rfl)
    | exact Or.inl ⟨by decide, rfl⟩
    | split
    | with_reducible apply Kept.upd

theorem execKeyPatternStable_kept (s : State) : ∃ t, execKeyPatternStable s = .next t ∧ Kept [.ctl, .lanes, .host, .gut] s t := by
  refine ⟨_, rfl, ?_⟩
  repeat' first
    | with_reducible apply Kept.refl
    | with_reducible apply Kept.after (takeKey_kept ..)
    | (show within _ _ = true; rfl)
    | exact Or.inl (by decide)
    | exact Or.inr (by with_reducible rfl)
    | exact Or.inl ⟨by decide, rfl⟩
    | split
    | with_reducible apply Kept.upd

theorem execKeyAllOpenTimeout_kept (s : State) : ∃ t, execKeyAllOpenTimeout s = .next t ∧ Kept [.ctl, .lanes, .host, .gut] s t := by
  refine ⟨_, rfl, ?_⟩
  repeat' first
    | with_reducible apply Kept.refl
    | with_reducible apply Kept.after (takeKey_kept ..)
    | (show within _ _ = true; rfl)
    | exact Or.inl (by decide)
    | exact Or.inr (by with_reducible rfl)
    | exact Or.inl ⟨by decide, rfl⟩
    | split
    | with_reducible apply Kept.upd

theorem sealChanged_kept (s : State) : Kept [.ctl, .gut] s (sealChanged s) := by
  unfold sealChanged
  try dsimp only
  repeat' first
    | with_reducible apply Kept.refl
    | with_reducible apply Kept.after (raiseShared_kept ..)
    | (show within _ _ = true; rfl)
    | exact Or.inl (by decide)
    | exact Or.inr (by with_reducible rfl)
    | exact Or.inl ⟨by decide, rfl⟩
    | split
    | with_reducible apply Kept.upd

theorem sealBoot_kept (s : State) : Kept [.module, .gut] s (sealBoot s) := by
  unfold sealBoot
  try dsimp only
  repeat' first
    | with_reducible apply Kept.refl
    | with_reducible apply Kept.after (raiseShared_kept ..)
    | (show within _ _ = true; rfl)
    | exact Or.inl (by decide)
    | exact Or.inr (by with_reducible rfl)
    | exact Or.inl ⟨by decide, rfl⟩
    | split
    | with_reducible apply Kept.upd

theorem execSealChange_kept (s : State) : ∃ t, execSealChange s = .next t ∧ Kept [.module, .ctl, .gut] s t := by
  refine ⟨_, rfl, ?_⟩
  repeat' first
    | with_reducible apply Kept.refl
    | with_reducible apply Kept.after (sealBoot_kept ..)
    | with_reducible apply Kept.after (sealChanged_kept ..)
    | (show within _ _ = true; rfl)
    | exact Or.inl (by decide)
    | exact Or.inr (by with_reducible rfl)
    | exact Or.inl ⟨by decide, rfl⟩
    | split
    | with_reducible apply Kept.upd

theorem execSwitchSense_kept (l : Lane) (s : State) : ∃ t, execSwitchSense l s = .next t ∧ Kept [.lanes, .gut] s t := by
  refine ⟨_, rfl, ?_⟩
  repeat' first
    | with_reducible apply Kept.refl
    | with_reducible apply Kept.after (raiseLane_kept ..)
    | with_reducible apply Kept.after (onLane_kept ..)
    | (show within _ _ = true; rfl)
    | exact Or.inl (by decide)
    | exact Or.inr (by with_reducible rfl)
    | exact Or.inl ⟨by decide, rfl⟩
    | split
    | with_reducible apply Kept.upd

theorem bootMod_kept (s : State) (f : BootSt → BootSt) : Kept [.module] s (bootMod s f) := by
  unfold bootMod
  try dsimp only
  repeat' first
    | with_reducible apply Kept.refl
    | (show within _ _ = true; rfl)
    | exact Or.inl (by decide)
    | exact Or.inr (by with_reducible rfl)
    | exact Or.inl ⟨by decide, rfl⟩
    | split
    | with_reducible apply Kept.upd

theorem bootstatSet_kept (s : State) (i : Nat) : Kept [.host] s (bootstatSet s i) := by
  unfold bootstatSet
  try dsimp only
  repeat' first
    | with_reducible apply Kept.refl
    | (show within _ _ = true; rfl)
    | exact Or.inl (by decide)
    | exact Or.inr (by with_reducible rfl)
    | exact Or.inl ⟨by decide, rfl⟩
    | split
    | with_reducible apply Kept.upd

theorem retestLane_kept (failing : Quad (List Nat)) (s : State) (l : Lane) : Kept [.lanes, .gut] s (retestLane failing s l) := by
  unfold retestLane
  try dsimp only
  repeat' first
    | with_reducible apply Kept.refl
    | with_reducible apply Kept.after (raiseLane_kept ..)
    | with_reducible apply Kept.after (onLane_kept ..)
    | with_reducible refine Kept.step ?_ (Kept.foldl (ps := [.lanes, .gut]) (fun _ _ => ?_) _ _) rfl
    | (show within _ _ = true; rfl)
    | exact Or.inl (by decide)
    | exact Or.inr (by with_reducible rfl)
    | exact Or.inl ⟨by decide, rfl⟩
    | split
    | with_reducible apply Kept.upd

theorem diesOutAt_kept (failing : Quad (List Nat)) (s : State) : Kept [.supply, .module, .lanes, .gut, .hub] s (diesOutAt failing s) := by
  unfold diesOutAt
  try dsimp only
  repeat' first
    | with_reducible apply Kept.refl
    | with_reducible apply Kept.after (retestLane_kept ..)
    | with_reducible apply Kept.after (bootMod_kept ..)
    | with_reducible refine Kept.step ?_ (Kept.foldl (ps := [.supply, .module, .lanes, .gut, .hub]) (fun _ _ => ?_) _ _) rfl
    | (show within _ _ = true; rfl)
    | exact Or.inl (by decide)
    | exact Or.inr (by with_reducible rfl)
    | exact Or.inl ⟨by decide, rfl⟩
    | split
    | with_reducible apply Kept.upd

theorem execDiesOutOfReset_kept (failing : Quad (List Nat)) (s : State) : ∃ t, execDiesOutOfReset failing s = .next t ∧ Kept [.supply, .module, .lanes, .gut, .hub] s t := by
  refine ⟨_, rfl, ?_⟩
  repeat' first
    | with_reducible apply Kept.refl
    | with_reducible apply Kept.after (diesOutAt_kept ..)
    | (show within _ _ = true; rfl)
    | exact Or.inl (by decide)
    | exact Or.inr (by with_reducible rfl)
    | exact Or.inl ⟨by decide, rfl⟩
    | split
    | with_reducible apply Kept.upd

theorem recordCheckAt_kept (circuitsOk : Quad Bool) (s : State) : Kept [.supply, .healthy, .mode, .module, .cyc, .lanes, .host, .peer, .gut, .hub] s (recordCheckAt circuitsOk s) := by
  unfold recordCheckAt
  try dsimp only
  repeat' first
    | with_reducible apply Kept.refl
    | with_reducible apply Kept.after (bootstatSet_kept ..)
    | with_reducible apply Kept.after (bootMod_kept ..)
    | with_reducible apply Kept.after (bootFew_kept ..)
    | with_reducible apply Kept.after (refreshLanes_kept ..)
    | with_reducible apply Kept.after (raiseUl_kept ..)
    | with_reducible apply Kept.after (onLanes_kept ..)
    | (show within _ _ = true; rfl)
    | exact Or.inl (by decide)
    | exact Or.inr (by with_reducible rfl)
    | exact Or.inl ⟨by decide, rfl⟩
    | split
    | with_reducible apply Kept.upd

theorem execBootRecordCheck_kept (circuitsOk : Quad Bool) (s : State) : ∃ t, execBootRecordCheck circuitsOk s = .next t ∧ Kept [.supply, .healthy, .mode, .module, .cyc, .lanes, .host, .peer, .gut, .hub] s t := by
  refine ⟨_, rfl, ?_⟩
  repeat' first
    | with_reducible apply Kept.refl
    | with_reducible apply Kept.after (recordCheckAt_kept ..)
    | (show within _ _ = true; rfl)
    | exact Or.inl (by decide)
    | exact Or.inr (by with_reducible rfl)
    | exact Or.inl ⟨by decide, rfl⟩
    | split
    | with_reducible apply Kept.upd

theorem newEpoch_kept (s : State) : Kept [.lanes, .peer] s (newEpoch s) := by
  unfold newEpoch
  try dsimp only
  repeat' first
    | with_reducible apply Kept.refl
    | (show within _ _ = true; rfl)
    | exact Or.inl (by decide)
    | exact Or.inr (by with_reducible rfl)
    | exact Or.inl ⟨by decide, rfl⟩
    | split
    | with_reducible apply Kept.upd

theorem takeLease_kept (s : State) : Kept [.supply, .lanes, .host, .peer] s (takeLease s) := by
  unfold takeLease
  try dsimp only
  repeat' first
    | with_reducible apply Kept.refl
    | with_reducible apply Kept.after (newEpoch_kept ..)
    | with_reducible apply Kept.after (refreshLanes_kept ..)
    | (show within _ _ = true; rfl)
    | exact Or.inl (by decide)
    | exact Or.inr (by with_reducible rfl)
    | exact Or.inl ⟨by decide, rfl⟩
    | split
    | with_reducible apply Kept.upd

theorem activate_kept (s : State) : Kept [.supply, .module, .lanes, .host] s (activate s) := by
  unfold activate
  try dsimp only
  repeat' first
    | with_reducible apply Kept.refl
    | with_reducible apply Kept.after (bootstatSet_kept ..)
    | with_reducible apply Kept.after (bootMod_kept ..)
    | with_reducible apply Kept.after (onLanes_kept ..)
    | (show within _ _ = true; rfl)
    | exact Or.inl (by decide)
    | exact Or.inr (by with_reducible rfl)
    | exact Or.inl ⟨by decide, rfl⟩
    | split
    | with_reducible apply Kept.upd

theorem verifyActive_kept (s : State) (l : Lane) : Kept [.lanes, .gut] s (verifyActive s l) := by
  unfold verifyActive
  try dsimp only
  repeat' first
    | with_reducible apply Kept.refl
    | with_reducible apply Kept.after (refuseImage_kept ..)
    | with_reducible apply Kept.after (onLane_kept ..)
    | (show within _ _ = true; rfl)
    | exact Or.inl (by decide)
    | exact Or.inr (by with_reducible rfl)
    | exact Or.inl ⟨by decide, rfl⟩
    | split
    | with_reducible apply Kept.upd

theorem enterSplit_kept (s : State) (h : s.mod.st ≠ .safeStop) : Kept [.healthy, .mode, .lanes, .host] s (enterSplit s) := by
  unfold enterSplit
  try dsimp only
  refine Kept.step (qs := [.healthy, .mode, .lanes, .host]) ?_ (bootstatSet_kept ..) rfl
  refine Kept.step (qs := [.healthy, .mode, .lanes, .host]) ?_ (setState_kept _ _ fun a => absurd a h) rfl
  refine Kept.upd ?_ ?_ ?_ ?_ ?_ ?_ ?_ ?_ ?_ ?_ ?_ ?_ ?_ ?_ <;> first | exact Kept.refl _ _ | exact .inl (by decide) | exact .inr rfl | exact .inl ⟨by decide, rfl⟩

theorem tryStandby_kept (s : State) : Kept [.healthy, .mode, .lanes, .host, .peer] s (tryStandby s) := by
  unfold tryStandby
  split
  · split
    · rename_i hc
      have hs : s.mod.st = .boot := by simp only [Bool.and_eq_true, beq_iff_eq] at hc; exact hc.1.1.1.1.1
      dsimp only
      refine Kept.step ?_ (setState_kept _ _ fun a => absurd (hs.symm.trans a) (by decide)) rfl
      refine Kept.upd ((onLanes_kept s _ _).mono rfl) ?_ ?_ ?_ ?_ ?_ ?_ ?_ ?_ ?_ ?_ ?_ ?_ ?_ <;> first | exact .inl (by decide) | exact .inr rfl | exact .inl ⟨by decide, rfl⟩
    · exact Kept.refl _ _
  · exact Kept.refl _ _

theorem yealmAgreed_kept (c : DWord) (s : State) (h : s.mod.st ≠ .safeStop) : Kept [.supply, .healthy, .mode, .module, .lanes, .host, .peer] s (yealmAgreed c s) := by
  unfold yealmAgreed
  dsimp only
  split
  · refine Kept.step ?_ (enterSplit_kept _ h) rfl
    refine Kept.upd ?_ ?_ ?_ ?_ ?_ ?_ ?_ ?_ ?_ ?_ ?_ ?_ ?_ ?_
    all_goals try first | exact .inl (by decide) | exact .inr rfl | exact .inl ⟨by decide, rfl⟩
    · refine Kept.step ?_ (bootMod_kept ..) rfl
      refine Kept.upd ?_ ?_ ?_ ?_ ?_ ?_ ?_ ?_ ?_ ?_ ?_ ?_ ?_ ?_ <;> first | exact Kept.refl _ _ | exact .inl (by decide) | exact .inr rfl | exact .inl ⟨by decide, rfl⟩
  · split
    · refine Kept.step ?_ (tryStandby_kept _) rfl
      refine Kept.upd ?_ ?_ ?_ ?_ ?_ ?_ ?_ ?_ ?_ ?_ ?_ ?_ ?_ ?_
      all_goals try first | exact .inl (by decide) | exact .inr rfl | exact .inl ⟨by decide, rfl⟩
      · refine Kept.step ?_ (bootMod_kept ..) rfl
        refine Kept.upd ?_ ?_ ?_ ?_ ?_ ?_ ?_ ?_ ?_ ?_ ?_ ?_ ?_ ?_ <;> first | exact Kept.refl _ _ | exact .inl (by decide) | exact .inr rfl | exact .inl ⟨by decide, rfl⟩
    · refine Kept.step ?_ (takeLease_kept _) rfl
      refine Kept.upd ?_ ?_ ?_ ?_ ?_ ?_ ?_ ?_ ?_ ?_ ?_ ?_ ?_ ?_
      all_goals try first | exact .inl (by decide) | exact .inr rfl | exact .inl ⟨by decide, rfl⟩
      · refine Kept.step ?_ (bootMod_kept ..) rfl
        refine Kept.upd ?_ ?_ ?_ ?_ ?_ ?_ ?_ ?_ ?_ ?_ ?_ ?_ ?_ ?_ <;> first | exact Kept.refl _ _ | exact .inl (by decide) | exact .inr rfl | exact .inl ⟨by decide, rfl⟩

theorem noImageAt_kept (s : State) : Kept [.module, .host, .gut] s (noImageAt s) := by
  unfold noImageAt
  try dsimp only
  repeat' first
    | with_reducible apply Kept.refl
    | with_reducible apply Kept.after (bootstatSet_kept ..)
    | with_reducible apply Kept.after (bootMod_kept ..)
    | with_reducible apply Kept.after (raiseShared_kept ..)
    | (show within _ _ = true; rfl)
    | exact Or.inl (by decide)
    | exact Or.inr (by with_reducible rfl)
    | exact Or.inl ⟨by decide, rfl⟩
    | split
    | with_reducible apply Kept.upd

theorem yealmAgreedAt_kept (s : State) (h : s.mod.st ≠ .safeStop) : Kept [.supply, .healthy, .mode, .module, .lanes, .host, .peer, .gut] s (yealmAgreedAt s) := by
  unfold yealmAgreedAt
  dsimp only
  have h0 : Kept [.supply, .module, .lanes, .host, .gut] s (if s.mod.boot.noImage then s else activate (bootMod s fun b => { b with split := splitAsked s })) := by
    split
    · exact Kept.refl _ _
    · exact Kept.step ((bootMod_kept ..).mono rfl) (activate_kept ..) rfl
  generalize (if s.mod.boot.noImage then s else activate (bootMod s fun b => { b with split := splitAsked s })) = s0 at *
  have h1 : Kept [.supply, .module, .lanes, .host, .gut] s ((aliveLanes s0).foldl verifyActive s0) :=
    h0.step (Kept.foldl (fun s l => verifyActive_kept s l) _ _) rfl
  generalize (aliveLanes s0).foldl verifyActive s0 = s1 at *
  split
  · exact Kept.step (h1.mono rfl) (yealmAgreed_kept _ _ (by rw [h1.frame.rest .mode (by decide)]; exact h)) rfl
  · exact Kept.step (h1.mono rfl) (noImageAt_kept _) rfl

theorem execBootYealmAgreed_kept (s : State) : ∃ t, execBootYealmAgreed s = .next t ∧ Kept [.supply, .healthy, .mode, .module, .lanes, .host, .peer, .gut] s t := by
  refine ⟨_, rfl, ?_⟩
  split
  · rename_i hc
    have hs : s.mod.st = .boot := by simp only [Bool.and_eq_true, beq_iff_eq] at hc; exact hc.1.1.1.1.2
    exact yealmAgreedAt_kept s (by rw [hs]; decide)
  · exact Kept.refl _ _

theorem ringStartAt_kept (s : State) (h : s.mod.st ≠ .safeStop) : Kept [.healthy, .mode, .module, .lanes, .host] s (ringStartAt s) := by
  unfold ringStartAt
  dsimp only
  exact Kept.step (Kept.step ((onLanes_kept ..).mono rfl) (bootMod_kept ..) rfl) (setState_kept _ _ fun a => absurd a h) rfl

theorem execRingStartComplete_kept (s : State) : ∃ t, execRingStartComplete s = .next t ∧ Kept [.healthy, .mode, .module, .lanes, .host] s t := by
  refine ⟨_, rfl, ?_⟩
  split
  · rename_i hc
    have hs : s.mod.st = .boot := by
      simp only [indicateReady, Bool.and_eq_true, beq_iff_eq] at hc; exact hc.1.2.1.1.1.1.1.1.1.1
    exact ringStartAt_kept s (by rw [hs]; decide)
  · exact Kept.refl _ _

theorem shutdownAt_kept (s : State) : Kept [.supply, .healthy, .mode, .module, .cyc, .lanes, .host, .peer, .gut, .hub] s (shutdownAt s) := by
  unfold shutdownAt
  try dsimp only
  repeat' first
    | with_reducible apply Kept.refl
    | with_reducible apply Kept.after (bootMod_kept ..)
    | with_reducible apply Kept.after (enterSafeStop_kept ..)
    | with_reducible apply Kept.after (raiseShared_kept ..)
    | (show within _ _ = true; rfl)
    | exact Or.inl (by decide)
    | exact Or.inr (by with_reducible rfl)
    | exact Or.inl ⟨by decide, rfl⟩
    | split
    | with_reducible apply Kept.upd

theorem execShutdownBegin_kept (s : State) : ∃ t, execShutdownBegin s = .next t ∧ Kept [.supply, .healthy, .mode, .module, .cyc, .lanes, .host, .peer, .gut, .hub] s t := by
  refine ⟨_, rfl, ?_⟩
  repeat' first
    | with_reducible apply Kept.refl
    | with_reducible apply Kept.after (shutdownAt_kept ..)
    | (show within _ _ = true; rfl)
    | exact Or.inl (by decide)
    | exact Or.inr (by with_reducible rfl)
    | exact Or.inl ⟨by decide, rfl⟩
    | split
    | with_reducible apply Kept.upd

theorem shutdownDoneAt_kept (s : State) : Kept [.module, .lanes, .host, .gut] s (shutdownDoneAt s) := by
  unfold shutdownDoneAt
  try dsimp only
  repeat' first
    | with_reducible apply Kept.refl
    | with_reducible apply Kept.after (refreshLanes_kept ..)
    | with_reducible apply Kept.after (raiseShared_kept ..)
    | with_reducible apply Kept.after (onLanes_kept ..)
    | (show within _ _ = true; rfl)
    | exact Or.inl (by decide)
    | exact Or.inr (by with_reducible rfl)
    | exact Or.inl ⟨by decide, rfl⟩
    | split
    | with_reducible apply Kept.upd

theorem execShutdownDone_kept (s : State) : ∃ t, execShutdownDone s = .next t ∧ Kept [.module, .lanes, .host, .gut] s t := by
  refine ⟨_, rfl, ?_⟩
  repeat' first
    | with_reducible apply Kept.refl
    | with_reducible apply Kept.after (shutdownDoneAt_kept ..)
    | (show within _ _ = true; rfl)
    | exact Or.inl (by decide)
    | exact Or.inr (by with_reducible rfl)
    | exact Or.inl ⟨by decide, rfl⟩
    | split
    | with_reducible apply Kept.upd

theorem warmRestart_kept (L : Nat) (rs : List (Lane × Mem)) (s : State) : Kept [.module, .lanes, .agr, .host] s (warmRestart L rs s) := by
  unfold warmRestart
  try dsimp only
  repeat' first
    | with_reducible apply Kept.refl
    | with_reducible apply Kept.after (bootstatSet_kept ..)
    | with_reducible apply Kept.after (bootMod_kept ..)
    | with_reducible apply Kept.after (onLane_kept ..)
    | with_reducible refine Kept.step ?_ (Kept.foldl (ps := [.module, .lanes, .agr, .host]) (fun _ _ => ?_) _ _) rfl
    | (show within _ _ = true; rfl)
    | exact Or.inl (by decide)
    | exact Or.inr (by with_reducible rfl)
    | exact Or.inl ⟨by decide, rfl⟩
    | split
    | with_reducible apply Kept.upd

theorem coldRestart_kept (s : State) : Kept [.module, .cyc, .lanes, .agr, .gut] s (coldRestart s) := by
  unfold coldRestart
  try dsimp only
  repeat' first
    | with_reducible apply Kept.refl
    | with_reducible apply Kept.after (bootMod_kept ..)
    | with_reducible apply Kept.after (raiseShared_kept ..)
    | with_reducible apply Kept.after (onLanes_kept ..)
    | (show within _ _ = true; rfl)
    | exact Or.inl (by decide)
    | exact Or.inr (by with_reducible rfl)
    | exact Or.inl ⟨by decide, rfl⟩
    | split
    | with_reducible apply Kept.upd

theorem restartDecisionAt_kept (s : State) : Kept [.time, .module, .cyc, .lanes, .agr, .host, .gut] s (restartDecisionAt s) := by
  unfold restartDecisionAt
  try dsimp only
  repeat' first
    | with_reducible apply Kept.refl
    | with_reducible apply Kept.after (coldRestart_kept ..)
    | with_reducible apply Kept.after (warmRestart_kept ..)
    | with_reducible apply Kept.after (refreshLanes_kept ..)
    | (show within _ _ = true; rfl)
    | exact Or.inl (by decide)
    | exact Or.inr (by with_reducible rfl)
    | exact Or.inl ⟨by decide, rfl⟩
    | split
    | with_reducible apply Kept.upd

theorem execRestartDecision_kept (s : State) : ∃ t, execRestartDecision s = .next t ∧ Kept [.time, .module, .cyc, .lanes, .agr, .host, .gut] s t := by
  refine ⟨_, rfl, ?_⟩
  repeat' first
    | with_reducible apply Kept.refl
    | with_reducible apply Kept.after (restartDecisionAt_kept ..)
    | (show within _ _ = true; rfl)
    | exact Or.inl (by decide)
    | exact Or.inr (by with_reducible rfl)
    | exact Or.inl ⟨by decide, rfl⟩
    | split
    | with_reducible apply Kept.upd

theorem execRestartLockExpiry_kept (area : Nat) (s : State) : ∃ t, execRestartLockExpiry area s = .next t ∧ Kept [.lanes] s t := by
  refine ⟨_, rfl, ?_⟩
  repeat' first
    | with_reducible apply Kept.refl
    | with_reducible apply Kept.after (onLanes_kept ..)
    | (show within _ _ = true; rfl)
    | exact Or.inl (by decide)
    | exact Or.inr (by with_reducible rfl)
    | exact Or.inl ⟨by decide, rfl⟩
    | split
    | with_reducible apply Kept.upd

theorem firstStart_kept (s : State) : Kept [.module, .cyc, .lanes] s (firstStart s) := by
  unfold firstStart
  try dsimp only
  repeat' first
    | with_reducible apply Kept.refl
    | with_reducible apply Kept.after (bootMod_kept ..)
    | (show within _ _ = true; rfl)
    | exact Or.inl (by decide)
    | exact Or.inr (by with_reducible rfl)
    | exact Or.inl ⟨by decide, rfl⟩
    | split
    | with_reducible apply Kept.upd

theorem bootRoles_kept (d : DWord) (s : State) : Kept [.module, .cyc, .lanes] s (bootRoles d s) := by
  unfold bootRoles
  try dsimp only
  repeat' first
    | with_reducible apply Kept.refl
    | with_reducible apply Kept.after (bootMod_kept ..)
    | with_reducible apply Kept.after (setMode_kept ..)
    | with_reducible apply Kept.after (onLanes_kept ..)
    | (show within _ _ = true; rfl)
    | exact Or.inl (by decide)
    | exact Or.inr (by with_reducible rfl)
    | exact Or.inl ⟨by decide, rfl⟩
    | split
    | with_reducible apply Kept.upd

theorem firstCpls_kept (s : State) : Kept [.agr] s (firstCpls s) := by
  unfold firstCpls
  try dsimp only
  repeat' first
    | with_reducible apply Kept.refl
    | (show within _ _ = true; rfl)
    | exact Or.inl (by decide)
    | exact Or.inr (by with_reducible rfl)
    | exact Or.inl ⟨by decide, rfl⟩
    | split
    | with_reducible apply Kept.upd

theorem bootShadowAt_kept (s : State) : Kept [.module, .cyc, .lanes, .agr, .host, .gut] s (bootShadowAt s) := by
  unfold bootShadowAt
  try dsimp only
  repeat' first
    | with_reducible apply Kept.refl
    | with_reducible apply Kept.after (firstCpls_kept ..)
    | with_reducible apply Kept.after (bootRoles_kept ..)
    | with_reducible apply Kept.after (firstStart_kept ..)
    | with_reducible apply Kept.after (bootMod_kept ..)
    | with_reducible apply Kept.after (portOpenAtB_kept ..)
    | with_reducible apply Kept.after (restartNodes_kept ..)
    | with_reducible apply Kept.after (raiseShared_kept ..)
    | (show within _ _ = true; rfl)
    | exact Or.inl (by decide)
    | exact Or.inr (by with_reducible rfl)
    | exact Or.inl ⟨by decide, rfl⟩
    | split
    | with_reducible apply Kept.upd

theorem execBootShadowStart_kept (s : State) : ∃ t, execBootShadowStart s = .next t ∧ Kept [.module, .cyc, .lanes, .agr, .host, .gut] s t := by
  refine ⟨_, rfl, ?_⟩
  repeat' first
    | with_reducible apply Kept.refl
    | with_reducible apply Kept.after (bootShadowAt_kept ..)
    | (show within _ _ = true; rfl)
    | exact Or.inl (by decide)
    | exact Or.inr (by with_reducible rfl)
    | exact Or.inl ⟨by decide, rfl⟩
    | split
    | with_reducible apply Kept.upd

end Sys2Proof.Machine
end

