-- ==== Sys2Proof/Laws/KeptIo.lean ====
section
/-! SUPPORT. Frame lemmas: which parts of the state each operation of Rings, EavesLink, EavesIn, EavesOut, HostRegs may change. -/

set_option linter.unusedTactic false
set_option linter.unreachableTactic false

namespace Sys2Proof.Machine

theorem execLFrameSend_kept (l : Lane) (s : State) : ∃ t, execLFrameSend l s = .next t ∧ Kept [.lanes] s t := by
  refine ⟨_, rfl, ?_⟩
  repeat' first
    | with_reducible apply Kept.refl
    | with_reducible apply Kept.after (onLane_kept ..)
    | (show within _ _ = true; rfl)
    | exact Or.inl (by decide)
    | exact Or.inr (by with_reducible rfl)
    | exact Or.inl ⟨by decide, rfl⟩
    | split
    | with_reducible apply Kept.upd

theorem execLFrameReceive_kept (l : Lane) (damage : List RWrite) (s : State) : ∃ t, execLFrameReceive l damage s = .next t ∧ Kept [.lanes, .eaves] s t := by
  refine ⟨_, rfl, ?_⟩
  repeat' first
    | with_reducible apply Kept.refl
    | with_reducible apply Kept.after (onLane_kept ..)
    | (show within _ _ = true; rfl)
    | exact Or.inl (by decide)
    | exact Or.inr (by with_reducible rfl)
    | exact Or.inl ⟨by decide, rfl⟩
    | split
    | with_reducible apply Kept.upd

theorem execBattenReceiverTimeout_kept (l : Lane) (s : State) : ∃ t, execBattenReceiverTimeout l s = .next t ∧ Kept [.eaves] s t := by
  refine ⟨_, rfl, ?_⟩
  repeat' first
    | with_reducible apply Kept.refl
    | (show within _ _ = true; rfl)
    | exact Or.inl (by decide)
    | exact Or.inr (by with_reducible rfl)
    | exact Or.inl ⟨by decide, rfl⟩
    | split
    | with_reducible apply Kept.upd

theorem execEFrameReceive_kept (l : Lane) (lost : Nat) (damage : List RWrite) (s : State) : ∃ t, execEFrameReceive l lost damage s = .next t ∧ Kept [.lanes, .eaves] s t := by
  refine ⟨_, rfl, ?_⟩
  repeat' first
    | with_reducible apply Kept.refl
    | with_reducible apply Kept.after (onLane_kept ..)
    | (show within _ _ = true; rfl)
    | exact Or.inl (by decide)
    | exact Or.inr (by with_reducible rfl)
    | exact Or.inl ⟨by decide, rfl⟩
    | split
    | with_reducible apply Kept.upd

theorem execBattenDeadline_kept (l : Lane) (s : State) : ∃ t, execBattenDeadline l s = .next t ∧ Kept [.lanes] s t := by
  refine ⟨_, rfl, ?_⟩
  repeat' first
    | with_reducible apply Kept.refl
    | with_reducible apply Kept.after (onLane_kept ..)
    | (show within _ _ = true; rfl)
    | exact Or.inl (by decide)
    | exact Or.inr (by with_reducible rfl)
    | exact Or.inl ⟨by decide, rfl⟩
    | split
    | with_reducible apply Kept.upd

theorem execEavesCommonInstant_kept (edgesX edgesY : List Nat) (s : State) : ∃ t, execEavesCommonInstant edgesX edgesY s = .next t ∧ Kept [.eaves] s t := by
  refine ⟨_, rfl, ?_⟩
  repeat' first
    | with_reducible apply Kept.refl
    | (show within _ _ = true; rfl)
    | exact Or.inl (by decide)
    | exact Or.inr (by with_reducible rfl)
    | exact Or.inl ⟨by decide, rfl⟩
    | split
    | with_reducible apply Kept.upd

theorem execEavesConfigInForce_kept (s : State) : ∃ t, execEavesConfigInForce s = .next t ∧ Kept [.eaves] s t := by
  refine ⟨_, rfl, ?_⟩
  repeat' first
    | with_reducible apply Kept.refl
    | (show within _ _ = true; rfl)
    | exact Or.inl (by decide)
    | exact Or.inr (by with_reducible rfl)
    | exact Or.inl ⟨by decide, rfl⟩
    | split
    | with_reducible apply Kept.upd

theorem execEavesWindowEnd_kept (x y : ChainWindow) (s : State) : ∃ t, execEavesWindowEnd x y s = .next t ∧ Kept [.eaves] s t := by
  refine ⟨_, rfl, ?_⟩
  repeat' first
    | with_reducible apply Kept.refl
    | (show within _ _ = true; rfl)
    | exact Or.inl (by decide)
    | exact Or.inr (by with_reducible rfl)
    | exact Or.inl ⟨by decide, rfl⟩
    | split
    | with_reducible apply Kept.upd

theorem chainMod_kept (s : State) (c : Chain) (f : ChainSt → ChainSt) : Kept [.eaves] s (chainMod s c f) := by
  unfold chainMod
  try dsimp only
  repeat' first
    | with_reducible apply Kept.refl
    | (show within _ _ = true; rfl)
    | exact Or.inl (by decide)
    | exact Or.inr (by with_reducible rfl)
    | exact Or.inl ⟨by decide, rfl⟩
    | split
    | with_reducible apply Kept.upd

theorem inMod_kept (s : State) (c : Chain) (i : Nat) (f : ChainIn → ChainIn) : Kept [.eaves] s (inMod s c i f) := by
  unfold inMod
  try dsimp only
  repeat' first
    | with_reducible apply Kept.refl
    | with_reducible apply Kept.after (chainMod_kept ..)
    | (show within _ _ = true; rfl)
    | exact Or.inl (by decide)
    | exact Or.inr (by with_reducible rfl)
    | exact Or.inl ⟨by decide, rfl⟩
    | split
    | with_reducible apply Kept.upd

theorem execFilterChange_kept (c : Chain) (inp : Nat) (s : State) : ∃ t, execFilterChange c inp s = .next t ∧ Kept [.eaves] s t := by
  refine ⟨_, rfl, ?_⟩
  repeat' first
    | with_reducible apply Kept.refl
    | with_reducible apply Kept.after (inMod_kept ..)
    | (show within _ _ = true; rfl)
    | exact Or.inl (by decide)
    | exact Or.inr (by with_reducible rfl)
    | exact Or.inl ⟨by decide, rfl⟩
    | split
    | with_reducible apply Kept.upd

theorem execInputFaultSet_kept (c : Chain) (inp : Nat) (s : State) : ∃ t, execInputFaultSet c inp s = .next t ∧ Kept [.eaves] s t := by
  refine ⟨_, rfl, ?_⟩
  repeat' first
    | with_reducible apply Kept.refl
    | with_reducible apply Kept.after (inMod_kept ..)
    | (show within _ _ = true; rfl)
    | exact Or.inl (by decide)
    | exact Or.inr (by with_reducible rfl)
    | exact Or.inl ⟨by decide, rfl⟩
    | split
    | with_reducible apply Kept.upd

theorem execInputFaultClear_kept (c : Chain) (inp : Nat) (s : State) : ∃ t, execInputFaultClear c inp s = .next t ∧ Kept [.eaves] s t := by
  refine ⟨_, rfl, ?_⟩
  repeat' first
    | with_reducible apply Kept.refl
    | with_reducible apply Kept.after (inMod_kept ..)
    | (show within _ _ = true; rfl)
    | exact Or.inl (by decide)
    | exact Or.inr (by with_reducible rfl)
    | exact Or.inl ⟨by decide, rfl⟩
    | split
    | with_reducible apply Kept.upd

theorem execSourceFaultSet_kept (c : Chain) (src : Nat) (s : State) : ∃ t, execSourceFaultSet c src s = .next t ∧ Kept [.eaves] s t := by
  refine ⟨_, rfl, ?_⟩
  repeat' first
    | with_reducible apply Kept.refl
    | with_reducible apply Kept.after (chainMod_kept ..)
    | (show within _ _ = true; rfl)
    | exact Or.inl (by decide)
    | exact Or.inr (by with_reducible rfl)
    | exact Or.inl ⟨by decide, rfl⟩
    | split
    | with_reducible apply Kept.upd

theorem execSourceFaultClear_kept (c : Chain) (src : Nat) (s : State) : ∃ t, execSourceFaultClear c src s = .next t ∧ Kept [.eaves] s t := by
  refine ⟨_, rfl, ?_⟩
  repeat' first
    | with_reducible apply Kept.refl
    | with_reducible apply Kept.after (chainMod_kept ..)
    | (show within _ _ = true; rfl)
    | exact Or.inl (by decide)
    | exact Or.inr (by with_reducible rfl)
    | exact Or.inl ⟨by decide, rfl⟩
    | split
    | with_reducible apply Kept.upd

theorem pairMod_kept (s : State) (c : Chain) (i : Nat) (f : PairSt → PairSt) : Kept [.eaves] s (pairMod s c i f) := by
  unfold pairMod
  try dsimp only
  repeat' first
    | with_reducible apply Kept.refl
    | with_reducible apply Kept.after (chainMod_kept ..)
    | (show within _ _ = true; rfl)
    | exact Or.inl (by decide)
    | exact Or.inr (by with_reducible rfl)
    | exact Or.inl ⟨by decide, rfl⟩
    | split
    | with_reducible apply Kept.upd

theorem execDiscTimerExpiry_kept (c : Chain) (pair : Nat) (s : State) : ∃ t, execDiscTimerExpiry c pair s = .next t ∧ Kept [.eaves] s t := by
  refine ⟨_, rfl, ?_⟩
  repeat' first
    | with_reducible apply Kept.refl
    | with_reducible apply Kept.after (pairMod_kept ..)
    | (show within _ _ = true; rfl)
    | exact Or.inl (by decide)
    | exact Or.inr (by with_reducible rfl)
    | exact Or.inl ⟨by decide, rfl⟩
    | split
    | with_reducible apply Kept.upd

theorem execDiscClear_kept (c : Chain) (pair : Nat) (s : State) : ∃ t, execDiscClear c pair s = .next t ∧ Kept [.eaves] s t := by
  refine ⟨_, rfl, ?_⟩
  repeat' first
    | with_reducible apply Kept.refl
    | with_reducible apply Kept.after (pairMod_kept ..)
    | (show within _ _ = true; rfl)
    | exact Or.inl (by decide)
    | exact Or.inr (by with_reducible rfl)
    | exact Or.inl ⟨by decide, rfl⟩
    | split
    | with_reducible apply Kept.upd

theorem execCounterGateEnd_kept (c : Chain) (inp : Nat) (edges spanNs : Nat) (s : State) : ∃ t, execCounterGateEnd c inp edges spanNs s = .next t ∧ Kept [.eaves] s t := by
  refine ⟨_, rfl, ?_⟩
  repeat' first
    | with_reducible apply Kept.refl
    | with_reducible apply Kept.after (chainMod_kept ..)
    | (show within _ _ = true; rfl)
    | exact Or.inl (by decide)
    | exact Or.inr (by with_reducible rfl)
    | exact Or.inl ⟨by decide, rfl⟩
    | split
    | with_reducible apply Kept.upd

theorem elemAlarms_kept (s : State) (code num : Nat) (old new : BitVec 12) : Kept [.gut] s (elemAlarms s code num old new) := by
  unfold elemAlarms
  try dsimp only
  repeat' first
    | with_reducible apply Kept.refl
    | with_reducible apply Kept.after (raiseEaves_kept ..)
    | with_reducible refine Kept.step ?_ (Kept.foldl (ps := [.gut]) (fun _ _ => ?_) _ _) rfl
    | (show within _ _ = true; rfl)
    | exact Or.inl (by decide)
    | exact Or.inr (by with_reducible rfl)
    | exact Or.inl ⟨by decide, rfl⟩
    | split
    | with_reducible apply Kept.upd

theorem senseChan_kept (m : EavesMeas) (s : State) (c : Nat) : Kept [.eaves, .gut] s (senseChan m s c) := by
  unfold senseChan
  try dsimp only
  repeat' first
    | with_reducible apply Kept.refl
    | with_reducible apply Kept.after (elemAlarms_kept ..)
    | (show within _ _ = true; rfl)
    | exact Or.inl (by decide)
    | exact Or.inr (by with_reducible rfl)
    | exact Or.inl ⟨by decide, rfl⟩
    | split
    | with_reducible apply Kept.upd

theorem senseMaster_kept (m : EavesMeas) (s : State) (g : Plane) : Kept [.eaves, .gut] s (senseMaster m s g) := by
  unfold senseMaster
  try dsimp only
  repeat' first
    | with_reducible apply Kept.refl
    | with_reducible apply Kept.after (elemAlarms_kept ..)
    | (show within _ _ = true; rfl)
    | exact Or.inl (by decide)
    | exact Or.inr (by with_reducible rfl)
    | exact Or.inl ⟨by decide, rfl⟩
    | split
    | with_reducible apply Kept.upd

theorem foreignChan_kept (s : State) (c : Nat) (off : Bool) : Kept [.eaves, .gut] s (foreignChan s c off) := by
  unfold foreignChan
  try dsimp only
  repeat' first
    | with_reducible apply Kept.refl
    | with_reducible apply Kept.after (raiseEaves_kept ..)
    | (show within _ _ = true; rfl)
    | exact Or.inl (by decide)
    | exact Or.inr (by with_reducible rfl)
    | exact Or.inl ⟨by decide, rfl⟩
    | split
    | with_reducible apply Kept.upd

theorem openMaster_kept (s : State) (g : Plane) : Kept [.eaves] s (openMaster s g) := by
  unfold openMaster
  try dsimp only
  repeat' first
    | with_reducible apply Kept.refl
    | (show within _ _ = true; rfl)
    | exact Or.inl (by decide)
    | exact Or.inr (by with_reducible rfl)
    | exact Or.inl ⟨by decide, rfl⟩
    | split
    | with_reducible apply Kept.upd

theorem crossChans_kept (s : State) (c d : Nat) : Kept [.eaves, .gut] s (crossChans s c d) := by
  unfold crossChans
  try dsimp only
  repeat' first
    | with_reducible apply Kept.refl
    | with_reducible apply Kept.after (raiseEaves_kept ..)
    | (show within _ _ = true; rfl)
    | exact Or.inl (by decide)
    | exact Or.inr (by with_reducible rfl)
    | exact Or.inl ⟨by decide, rfl⟩
    | split
    | with_reducible apply Kept.upd

theorem judgeChan_kept (s : State) (c : Nat) : Kept [.eaves, .gut] s (judgeChan s c) := by
  unfold judgeChan
  try dsimp only
  repeat' first
    | with_reducible apply Kept.refl
    | with_reducible apply Kept.after (foreignChan_kept ..)
    | (show within _ _ = true; rfl)
    | exact Or.inl (by decide)
    | exact Or.inr (by with_reducible rfl)
    | exact Or.inl ⟨by decide, rfl⟩
    | split
    | with_reducible apply Kept.upd

theorem shareCodes_kept (s : State) : Kept [.eaves] s (shareCodes s) := by
  unfold shareCodes
  try dsimp only
  repeat' first
    | with_reducible apply Kept.refl
    | (show within _ _ = true; rfl)
    | exact Or.inl (by decide)
    | exact Or.inr (by with_reducible rfl)
    | exact Or.inl ⟨by decide, rfl⟩
    | split
    | with_reducible apply Kept.upd

theorem explainOff_kept (before : EavesSt) (p : List Nat) (s : State) : Kept [.eaves, .gut] s (explainOff before p s) := by
  unfold explainOff
  try dsimp only
  repeat' first
    | with_reducible apply Kept.refl
    | with_reducible apply Kept.after (crossChans_kept ..)
    | with_reducible refine Kept.step ?_ (Kept.foldl (ps := [.eaves, .gut]) (fun _ _ => ?_) _ _) rfl
    | (show within _ _ = true; rfl)
    | exact Or.inl (by decide)
    | exact Or.inr (by with_reducible rfl)
    | exact Or.inl ⟨by decide, rfl⟩
    | split
    | with_reducible apply Kept.upd

theorem readingAt_kept (m : EavesMeas) (s : State) : Kept [.eaves, .gut] s (readingAt m s) := by
  unfold readingAt
  try dsimp only
  repeat' first
    | with_reducible apply Kept.refl
    | with_reducible apply Kept.after (explainOff_kept ..)
    | with_reducible apply Kept.after (shareCodes_kept ..)
    | with_reducible apply Kept.after (judgeChan_kept ..)
    | with_reducible apply Kept.after (senseMaster_kept ..)
    | with_reducible apply Kept.after (senseChan_kept ..)
    | with_reducible refine Kept.step ?_ (Kept.foldl (ps := [.eaves, .gut]) (fun _ _ => ?_) _ _) rfl
    | (show within _ _ = true; rfl)
    | exact Or.inl (by decide)
    | exact Or.inr (by with_reducible rfl)
    | exact Or.inl ⟨by decide, rfl⟩
    | split
    | with_reducible apply Kept.upd

theorem execReadbackReading_kept (m : EavesMeas) (s : State) : ∃ t, execReadbackReading m s = .next t ∧ Kept [.eaves, .gut] s t := by
  refine ⟨_, rfl, ?_⟩
  repeat' first
    | with_reducible apply Kept.refl
    | with_reducible apply Kept.after (readingAt_kept ..)
    | (show within _ _ = true; rfl)
    | exact Or.inl (by decide)
    | exact Or.inr (by with_reducible rfl)
    | exact Or.inl ⟨by decide, rfl⟩
    | split
    | with_reducible apply Kept.upd

theorem execTestPulseStart_kept (net : NetId) (s : State) : ∃ t, execTestPulseStart net s = .next t ∧ Kept [.eaves] s t := by
  refine ⟨_, rfl, ?_⟩
  repeat' first
    | with_reducible apply Kept.refl
    | (show within _ _ = true; rfl)
    | exact Or.inl (by decide)
    | exact Or.inr (by with_reducible rfl)
    | exact Or.inl ⟨by decide, rfl⟩
    | split
    | with_reducible apply Kept.upd

theorem onCase_kept (p : List Nat) (rose : List Nat) (s : State) (c : Nat) : Kept [.eaves, .gut] s (onCase p rose s c) := by
  unfold onCase
  try dsimp only
  repeat' first
    | with_reducible apply Kept.refl
    | with_reducible apply Kept.after (crossChans_kept ..)
    | with_reducible apply Kept.after (openMaster_kept ..)
    | with_reducible apply Kept.after (foreignChan_kept ..)
    | (show within _ _ = true; rfl)
    | exact Or.inl (by decide)
    | exact Or.inr (by with_reducible rfl)
    | exact Or.inl ⟨by decide, rfl⟩
    | split
    | with_reducible apply Kept.upd

theorem pulseElems_kept (m : EavesMeas) (s : State) (c : Nat) : Kept [.eaves, .gut] s (pulseElems m s c) := by
  unfold pulseElems
  try dsimp only
  repeat' first
    | with_reducible apply Kept.refl
    | with_reducible apply Kept.after (elemAlarms_kept ..)
    | (show within _ _ = true; rfl)
    | exact Or.inl (by decide)
    | exact Or.inr (by with_reducible rfl)
    | exact Or.inl ⟨by decide, rfl⟩
    | split
    | with_reducible apply Kept.upd

theorem pulseElemsG_kept (m : EavesMeas) (s : State) (g : Plane) : Kept [.eaves, .gut] s (pulseElemsG m s g) := by
  unfold pulseElemsG
  try dsimp only
  repeat' first
    | with_reducible apply Kept.refl
    | with_reducible apply Kept.after (elemAlarms_kept ..)
    | (show within _ _ = true; rfl)
    | exact Or.inl (by decide)
    | exact Or.inr (by with_reducible rfl)
    | exact Or.inl ⟨by decide, rfl⟩
    | split
    | with_reducible apply Kept.upd

theorem endChan_kept (c : Nat) (m : EavesMeas) (rose : List Nat) (s : State) : Kept [.eaves, .gut] s (endChan c m rose s) := by
  unfold endChan
  try dsimp only
  repeat' first
    | with_reducible apply Kept.refl
    | with_reducible apply Kept.after (pulseElems_kept ..)
    | with_reducible apply Kept.after (onCase_kept ..)
    | with_reducible apply Kept.after (explainOff_kept ..)
    | with_reducible apply Kept.after (shareCodes_kept ..)
    | with_reducible refine Kept.step ?_ (Kept.foldl (ps := [.eaves, .gut]) (fun _ _ => ?_) _ _) rfl
    | (show within _ _ = true; rfl)
    | exact Or.inl (by decide)
    | exact Or.inr (by with_reducible rfl)
    | exact Or.inl ⟨by decide, rfl⟩
    | split
    | with_reducible apply Kept.upd

theorem endMaster_kept (g : Plane) (m : EavesMeas) (rose : List Nat) (s : State) : Kept [.eaves, .gut] s (endMaster g m rose s) := by
  unfold endMaster
  try dsimp only
  repeat' first
    | with_reducible apply Kept.refl
    | with_reducible apply Kept.after (pulseElemsG_kept ..)
    | with_reducible apply Kept.after (onCase_kept ..)
    | with_reducible apply Kept.after (shareCodes_kept ..)
    | with_reducible refine Kept.step ?_ (Kept.foldl (ps := [.eaves, .gut]) (fun _ _ => ?_) _ _) rfl
    | (show within _ _ = true; rfl)
    | exact Or.inl (by decide)
    | exact Or.inr (by with_reducible rfl)
    | exact Or.inl ⟨by decide, rfl⟩
    | split
    | with_reducible apply Kept.upd

theorem execTestPulseEnd_kept (net : NetId) (m : EavesMeas) (roseMa : List Nat) (s : State) : ∃ t, execTestPulseEnd net m roseMa s = .next t ∧ Kept [.eaves, .gut] s t := by
  refine ⟨_, rfl, ?_⟩
  repeat' first
    | with_reducible apply Kept.refl
    | with_reducible apply Kept.after (endMaster_kept ..)
    | with_reducible apply Kept.after (endChan_kept ..)
    | (show within _ _ = true; rfl)
    | exact Or.inl (by decide)
    | exact Or.inr (by with_reducible rfl)
    | exact Or.inl ⟨by decide, rfl⟩
    | split
    | with_reducible apply Kept.upd

theorem execCrossWindowEnd_kept (s : State) : ∃ t, execCrossWindowEnd s = .next t ∧ Kept [.eaves] s t := by
  refine ⟨_, rfl, ?_⟩
  repeat' first
    | with_reducible apply Kept.refl
    | with_reducible apply Kept.after (openMaster_kept ..)
    | with_reducible refine Kept.step ?_ (Kept.foldl (ps := [.eaves]) (fun _ _ => ?_) _ _) rfl
    | (show within _ _ = true; rfl)
    | exact Or.inl (by decide)
    | exact Or.inr (by with_reducible rfl)
    | exact Or.inl ⟨by decide, rfl⟩
    | split
    | with_reducible apply Kept.upd

theorem execOutputTrip_kept (ch : Nat) (s : State) : ∃ t, execOutputTrip ch s = .next t ∧ Kept [.eaves, .gut] s t := by
  refine ⟨_, rfl, ?_⟩
  repeat' first
    | with_reducible apply Kept.refl
    | with_reducible apply Kept.after (raiseEaves_kept ..)
    | (show within _ _ = true; rfl)
    | exact Or.inl (by decide)
    | exact Or.inr (by with_reducible rfl)
    | exact Or.inl ⟨by decide, rfl⟩
    | split
    | with_reducible apply Kept.upd

theorem execTripRetry_kept (ch : Nat) (s : State) : ∃ t, execTripRetry ch s = .next t ∧ Kept [.eaves] s t := by
  refine ⟨_, rfl, ?_⟩
  repeat' first
    | with_reducible apply Kept.refl
    | (show within _ _ = true; rfl)
    | exact Or.inl (by decide)
    | exact Or.inr (by with_reducible rfl)
    | exact Or.inl ⟨by decide, rfl⟩
    | split
    | with_reducible apply Kept.upd

theorem execRetryCountReset_kept (ch : Nat) (s : State) : ∃ t, execRetryCountReset ch s = .next t ∧ Kept [.eaves] s t := by
  refine ⟨_, rfl, ?_⟩
  repeat' first
    | with_reducible apply Kept.refl
    | (show within _ _ = true; rfl)
    | exact Or.inl (by decide)
    | exact Or.inr (by with_reducible rfl)
    | exact Or.inl ⟨by decide, rfl⟩
    | split
    | with_reducible apply Kept.upd

theorem execFieldSupplyLow_kept (g : Plane) (s : State) : ∃ t, execFieldSupplyLow g s = .next t ∧ Kept [.eaves, .gut] s t := by
  refine ⟨_, rfl, ?_⟩
  repeat' first
    | with_reducible apply Kept.refl
    | with_reducible apply Kept.after (raiseEaves_kept ..)
    | (show within _ _ = true; rfl)
    | exact Or.inl (by decide)
    | exact Or.inr (by with_reducible rfl)
    | exact Or.inl ⟨by decide, rfl⟩
    | split
    | with_reducible apply Kept.upd

theorem execFieldSupplyRecover_kept (g : Plane) (s : State) : ∃ t, execFieldSupplyRecover g s = .next t ∧ Kept [.eaves] s t := by
  refine ⟨_, rfl, ?_⟩
  repeat' first
    | with_reducible apply Kept.refl
    | (show within _ _ = true; rfl)
    | exact Or.inl (by decide)
    | exact Or.inr (by with_reducible rfl)
    | exact Or.inl ⟨by decide, rfl⟩
    | split
    | with_reducible apply Kept.upd

theorem execFieldSupplyCut_kept (g : Plane) (s : State) : ∃ t, execFieldSupplyCut g s = .next t ∧ Kept [.eaves, .gut] s t := by
  refine ⟨_, rfl, ?_⟩
  repeat' first
    | with_reducible apply Kept.refl
    | with_reducible apply Kept.after (raiseEaves_kept ..)
    | (show within _ _ = true; rfl)
    | exact Or.inl (by decide)
    | exact Or.inr (by with_reducible rfl)
    | exact Or.inl ⟨by decide, rfl⟩
    | split
    | with_reducible apply Kept.upd

theorem execCutClear_kept (g : Plane) (s : State) : ∃ t, execCutClear g s = .next t ∧ Kept [.eaves] s t := by
  refine ⟨_, rfl, ?_⟩
  repeat' first
    | with_reducible apply Kept.refl
    | (show within _ _ = true; rfl)
    | exact Or.inl (by decide)
    | exact Or.inr (by with_reducible rfl)
    | exact Or.inl ⟨by decide, rfl⟩
    | split
    | with_reducible apply Kept.upd

theorem flushQ_kept (s : State) (q : Nat) : Kept [.host] s (flushQ s q) := by
  unfold flushQ
  try dsimp only
  repeat' first
    | with_reducible apply Kept.refl
    | with_reducible apply Kept.after (post_kept ..)
    | (show within _ _ = true; rfl)
    | exact Or.inl (by decide)
    | exact Or.inr (by with_reducible rfl)
    | exact Or.inl ⟨by decide, rfl⟩
    | split
    | with_reducible apply Kept.upd

theorem flushWb_kept (s : State) : Kept [.host] s (flushWb s) := by
  unfold flushWb
  try dsimp only
  repeat' first
    | with_reducible apply Kept.refl
    | with_reducible apply Kept.after (flushQ_kept ..)
    | with_reducible refine Kept.step ?_ (Kept.foldl (ps := [.host]) (fun _ _ => ?_) _ _) rfl
    | (show within _ _ = true; rfl)
    | exact Or.inl (by decide)
    | exact Or.inr (by with_reducible rfl)
    | exact Or.inl ⟨by decide, rfl⟩
    | split
    | with_reducible apply Kept.upd

theorem openPort_kept (s : State) : Kept [.lanes, .host] s (openPort s) := by
  unfold openPort
  try dsimp only
  repeat' first
    | with_reducible apply Kept.refl
    | with_reducible apply Kept.after (flushWb_kept ..)
    | with_reducible apply Kept.after (indicate_kept ..)
    | (show within _ _ = true; rfl)
    | exact Or.inl (by decide)
    | exact Or.inr (by with_reducible rfl)
    | exact Or.inl ⟨by decide, rfl⟩
    | split
    | with_reducible apply Kept.upd

theorem execHpctlOpen_kept (s : State) : ∃ t, execHpctlOpen s = .next t ∧ Kept [.lanes, .host] s t := by
  refine ⟨_, rfl, ?_⟩
  repeat' first
    | with_reducible apply Kept.refl
    | with_reducible apply Kept.after (openPort_kept ..)
    | (show within _ _ = true; rfl)
    | exact Or.inl (by decide)
    | exact Or.inr (by with_reducible rfl)
    | exact Or.inl ⟨by decide, rfl⟩
    | split
    | with_reducible apply Kept.upd

theorem execHpctlClose_kept (s : State) : ∃ t, execHpctlClose s = .next t ∧ Kept [.host, .gut] s t := by
  refine ⟨_, rfl, ?_⟩
  repeat' first
    | with_reducible apply Kept.refl
    | with_reducible apply Kept.after (redrain_kept ..)
    | (show within _ _ = true; rfl)
    | exact Or.inl (by decide)
    | exact Or.inr (by with_reducible rfl)
    | exact Or.inl ⟨by decide, rfl⟩
    | split
    | with_reducible apply Kept.upd

theorem execQuiesceComplete_kept (s : State) : ∃ t, execQuiesceComplete s = .next t ∧ Kept [.lanes, .host] s t := by
  refine ⟨_, rfl, ?_⟩
  repeat' first
    | with_reducible apply Kept.refl
    | with_reducible apply Kept.after (openPort_kept ..)
    | (show within _ _ = true; rfl)
    | exact Or.inl (by decide)
    | exact Or.inr (by with_reducible rfl)
    | exact Or.inl ⟨by decide, rfl⟩
    | split
    | with_reducible apply Kept.upd

theorem execDoorbell_kept (q : Fin 8) (v : Word) (req : HostReq) (s : State) : ∃ t, execDoorbell q v req s = .next t ∧ Kept [.host] s t := by
  refine ⟨_, rfl, ?_⟩
  repeat' first
    | with_reducible apply Kept.refl
    | with_reducible apply Kept.after (errRaise_kept ..)
    | with_reducible apply Kept.after (qMod_kept ..)
    | (show within _ _ = true; rfl)
    | exact Or.inl (by decide)
    | exact Or.inr (by with_reducible rfl)
    | exact Or.inl ⟨by decide, rfl⟩
    | split
    | with_reducible apply Kept.upd

theorem execQctlWrite_kept (q : Fin 8) (v : Word) (s : State) : ∃ t, execQctlWrite q v s = .next t ∧ Kept [.host, .gut] s t := by
  refine ⟨_, rfl, ?_⟩
  repeat' first
    | with_reducible apply Kept.refl
    | with_reducible apply Kept.after (flushWb_kept ..)
    | with_reducible apply Kept.after (redrain_kept ..)
    | with_reducible apply Kept.after (qMod_kept ..)
    | (show within _ _ = true; rfl)
    | exact Or.inl (by decide)
    | exact Or.inr (by with_reducible rfl)
    | exact Or.inl ⟨by decide, rfl⟩
    | split
    | with_reducible apply Kept.upd

theorem sendMsix_kept (s : State) (v : Nat) : Kept [.host] s (sendMsix s v) := by
  unfold sendMsix
  try dsimp only
  repeat' first
    | with_reducible apply Kept.refl
    | with_reducible apply Kept.after (post_kept ..)
    | (show within _ _ = true; rfl)
    | exact Or.inl (by decide)
    | exact Or.inr (by with_reducible rfl)
    | exact Or.inl ⟨by decide, rfl⟩
    | split
    | with_reducible apply Kept.upd

theorem execMsixSend_kept (vec : Fin 8) (s : State) : ∃ t, execMsixSend vec s = .next t ∧ Kept [.host] s t := by
  refine ⟨_, rfl, ?_⟩
  repeat' first
    | with_reducible apply Kept.refl
    | with_reducible apply Kept.after (sendMsix_kept ..)
    | (show within _ _ = true; rfl)
    | exact Or.inl (by decide)
    | exact Or.inr (by with_reducible rfl)
    | exact Or.inl ⟨by decide, rfl⟩
    | split
    | with_reducible apply Kept.upd

theorem flushVec_kept (s : State) (v : Nat) : Kept [.host] s (flushVec s v) := by
  unfold flushVec
  try dsimp only
  repeat' first
    | with_reducible apply Kept.refl
    | with_reducible apply Kept.after (sendMsix_kept ..)
    | (show within _ _ = true; rfl)
    | exact Or.inl (by decide)
    | exact Or.inr (by with_reducible rfl)
    | exact Or.inl ⟨by decide, rfl⟩
    | split
    | with_reducible apply Kept.upd

theorem execMsixUnmask_kept (vec : Fin 8) (s : State) : ∃ t, execMsixUnmask vec s = .next t ∧ Kept [.host] s t := by
  refine ⟨_, rfl, ?_⟩
  repeat' first
    | with_reducible apply Kept.refl
    | with_reducible apply Kept.after (flushVec_kept ..)
    | (show within _ _ = true; rfl)
    | exact Or.inl (by decide)
    | exact Or.inr (by with_reducible rfl)
    | exact Or.inl ⟨by decide, rfl⟩
    | split
    | with_reducible apply Kept.upd

theorem refuseReq_kept (s : State) (st : CplStatus) (req : HostReq) : Kept [.host] s (refuseReq s st req) := by
  unfold refuseReq
  try dsimp only
  repeat' first
    | with_reducible apply Kept.refl
    | with_reducible apply Kept.after (complete_kept ..)
    | (show within _ _ = true; rfl)
    | exact Or.inl (by decide)
    | exact Or.inr (by with_reducible rfl)
    | exact Or.inl ⟨by decide, rfl⟩
    | split
    | with_reducible apply Kept.upd

theorem execUnsupportedRequest_kept (kind : UrKind) (req : HostReq) (s : State) : ∃ t, execUnsupportedRequest kind req s = .next t ∧ Kept [.host] s t := by
  refine ⟨_, rfl, ?_⟩
  repeat' first
    | with_reducible apply Kept.refl
    | with_reducible apply Kept.after (refuseReq_kept ..)
    | with_reducible apply Kept.after (errRaise_kept ..)
    | (show within _ _ = true; rfl)
    | exact Or.inl (by decide)
    | exact Or.inr (by with_reducible rfl)
    | exact Or.inl ⟨by decide, rfl⟩
    | split
    | with_reducible apply Kept.upd

theorem execPoisonedRequest_kept (req : HostReq) (s : State) : ∃ t, execPoisonedRequest req s = .next t ∧ Kept [.host] s t := by
  refine ⟨_, rfl, ?_⟩
  repeat' first
    | with_reducible apply Kept.refl
    | with_reducible apply Kept.after (errRaise_kept ..)
    | (show within _ _ = true; rfl)
    | exact Or.inl (by decide)
    | exact Or.inr (by with_reducible rfl)
    | exact Or.inl ⟨by decide, rfl⟩
    | split
    | with_reducible apply Kept.upd

theorem execBar0ReadTimeout_kept (req : HostReq) (s : State) : ∃ t, execBar0ReadTimeout req s = .next t ∧ Kept [.host] s t := by
  refine ⟨_, rfl, ?_⟩
  repeat' first
    | with_reducible apply Kept.refl
    | with_reducible apply Kept.after (errRaise_kept ..)
    | with_reducible apply Kept.after (complete_kept ..)
    | (show within _ _ = true; rfl)
    | exact Or.inl (by decide)
    | exact Or.inr (by with_reducible rfl)
    | exact Or.inl ⟨by decide, rfl⟩
    | split
    | with_reducible apply Kept.upd

theorem execPostedWriteFail_kept (req : HostReq) (s : State) : ∃ t, execPostedWriteFail req s = .next t ∧ Kept [.host] s t := by
  refine ⟨_, rfl, ?_⟩
  repeat' first
    | with_reducible apply Kept.refl
    | with_reducible apply Kept.after (errRaise_kept ..)
    | (show within _ _ = true; rfl)
    | exact Or.inl (by decide)
    | exact Or.inr (by with_reducible rfl)
    | exact Or.inl ⟨by decide, rfl⟩
    | split
    | with_reducible apply Kept.upd

theorem execModuleRequestFail_kept (how : ReqFail) (req : HostReq) (s : State) : ∃ t, execModuleRequestFail how req s = .next t ∧ Kept [.host] s t := by
  refine ⟨_, rfl, ?_⟩
  repeat' first
    | with_reducible apply Kept.refl
    | with_reducible apply Kept.after (errRaise_kept ..)
    | (show within _ _ = true; rfl)
    | exact Or.inl (by decide)
    | exact Or.inr (by with_reducible rfl)
    | exact Or.inl ⟨by decide, rfl⟩
    | split
    | with_reducible apply Kept.upd

theorem execErrstatClear_kept (v setNow : Word) (s : State) : ∃ t, execErrstatClear v setNow s = .next t ∧ Kept [.host] s t := by
  refine ⟨_, rfl, ?_⟩
  repeat' first
    | with_reducible apply Kept.refl
    | (show within _ _ = true; rfl)
    | exact Or.inl (by decide)
    | exact Or.inr (by with_reducible rfl)
    | exact Or.inl ⟨by decide, rfl⟩
    | split
    | with_reducible apply Kept.upd

theorem execBootoptSplit_kept (on : Bool) (s : State) : ∃ t, execBootoptSplit on s = .next t ∧ Kept [.supply] s t := by
  refine ⟨_, rfl, ?_⟩
  repeat' first
    | with_reducible apply Kept.refl
    | (show within _ _ = true; rfl)
    | exact Or.inl (by decide)
    | exact Or.inr (by with_reducible rfl)
    | exact Or.inl ⟨by decide, rfl⟩
    | split
    | with_reducible apply Kept.upd

theorem execBootoptLoad_kept (on : Bool) (s : State) : ∃ t, execBootoptLoad on s = .next t ∧ Kept [.supply] s t := by
  refine ⟨_, rfl, ?_⟩
  repeat' first
    | with_reducible apply Kept.refl
    | (show within _ _ = true; rfl)
    | exact Or.inl (by decide)
    | exact Or.inr (by with_reducible rfl)
    | exact Or.inl ⟨by decide, rfl⟩
    | split
    | with_reducible apply Kept.upd

theorem execBootoptActivate_kept (on : Bool) (s : State) : ∃ t, execBootoptActivate on s = .next t ∧ Kept [.supply] s t := by
  refine ⟨_, rfl, ?_⟩
  repeat' first
    | with_reducible apply Kept.refl
    | (show within _ _ = true; rfl)
    | exact Or.inl (by decide)
    | exact Or.inr (by with_reducible rfl)
    | exact Or.inl ⟨by decide, rfl⟩
    | split
    | with_reducible apply Kept.upd

theorem writeTimecfg_kept (s : State) (mask v : Word) : Kept [.supply] s (writeTimecfg s mask v) := by
  unfold writeTimecfg
  try dsimp only
  repeat' first
    | with_reducible apply Kept.refl
    | (show within _ _ = true; rfl)
    | exact Or.inl (by decide)
    | exact Or.inr (by with_reducible rfl)
    | exact Or.inl ⟨by decide, rfl⟩
    | split
    | with_reducible apply Kept.upd

theorem execTimecfgSrc_kept (ptp : Bool) (s : State) : ∃ t, execTimecfgSrc ptp s = .next t ∧ Kept [.supply] s t := by
  refine ⟨_, rfl, ?_⟩
  repeat' first
    | with_reducible apply Kept.refl
    | with_reducible apply Kept.after (writeTimecfg_kept ..)
    | (show within _ _ = true; rfl)
    | exact Or.inl (by decide)
    | exact Or.inr (by with_reducible rfl)
    | exact Or.inl ⟨by decide, rfl⟩
    | split
    | with_reducible apply Kept.upd

theorem execTimecfgDomain_kept (dom : Nat) (s : State) : ∃ t, execTimecfgDomain dom s = .next t ∧ Kept [.supply] s t := by
  refine ⟨_, rfl, ?_⟩
  repeat' first
    | with_reducible apply Kept.refl
    | with_reducible apply Kept.after (writeTimecfg_kept ..)
    | (show within _ _ = true; rfl)
    | exact Or.inl (by decide)
    | exact Or.inr (by with_reducible rfl)
    | exact Or.inl ⟨by decide, rfl⟩
    | split
    | with_reducible apply Kept.upd

theorem execTimecfgUtcOfs_kept (ofs : Half) (s : State) : ∃ t, execTimecfgUtcOfs ofs s = .next t ∧ Kept [.supply] s t := by
  refine ⟨_, rfl, ?_⟩
  repeat' first
    | with_reducible apply Kept.refl
    | with_reducible apply Kept.after (writeTimecfg_kept ..)
    | (show within _ _ = true; rfl)
    | exact Or.inl (by decide)
    | exact Or.inr (by with_reducible rfl)
    | exact Or.inl ⟨by decide, rfl⟩
    | split
    | with_reducible apply Kept.upd

theorem writeMaint_healthy (u : Underlay) (off : Nat) (v : Word) : (writeMaint u off v).healthy = u.healthy := by
  unfold writeMaint
  repeat' split
  all_goals rfl

theorem execMaintPortWrite_kept (off : Nat) (v : Word) (s : State) : ∃ t, execMaintPortWrite off v s = .next t ∧ Kept [.supply, .gut] s t := by
  refine ⟨_, rfl, ?_⟩
  split
  · refine Kept.step ?_ (redrain_kept ..) rfl
    refine Kept.upd (Kept.refl _ _) ?_ ?_ ?_ ?_ ?_ ?_ ?_ ?_ ?_ ?_ ?_ ?_ ?_ <;>
      first | exact Or.inl (by decide) | exact Or.inr rfl | exact Or.inl ⟨by decide, writeMaint_healthy ..⟩
  · exact Kept.refl _ _

theorem writeMsixControl_kept (s : State) (on mask : Bool) : Kept [.host] s (writeMsixControl s on mask) := by
  unfold writeMsixControl
  try dsimp only
  repeat' first
    | with_reducible apply Kept.refl
    | with_reducible apply Kept.after (flushVec_kept ..)
    | with_reducible refine Kept.step ?_ (Kept.foldl (ps := [.host]) (fun _ _ => ?_) _ _) rfl
    | (show within _ _ = true; rfl)
    | exact Or.inl (by decide)
    | exact Or.inr (by with_reducible rfl)
    | exact Or.inl ⟨by decide, rfl⟩
    | split
    | with_reducible apply Kept.upd

theorem execRegisterWrite_kept (sp : RegSpace) (off : Nat) (v : Word) (s : State) : ∃ t, execRegisterWrite sp off v s = .next t ∧ Kept [.host] s t := by
  refine ⟨_, rfl, ?_⟩
  repeat' first
    | with_reducible apply Kept.refl
    | with_reducible apply Kept.after (writeMsixControl_kept ..)
    | with_reducible apply Kept.after (qMod_kept ..)
    | (show within _ _ = true; rfl)
    | exact Or.inl (by decide)
    | exact Or.inr (by with_reducible rfl)
    | exact Or.inl ⟨by decide, rfl⟩
    | split
    | with_reducible apply Kept.upd

theorem execPairLoRead_kept (off : Nat) (s : State) : ∃ t, execPairLoRead off s = .next t ∧ Kept [.host] s t := by
  refine ⟨_, rfl, ?_⟩
  repeat' first
    | with_reducible apply Kept.refl
    | with_reducible apply Kept.after (complete_kept ..)
    | (show within _ _ = true; rfl)
    | exact Or.inl (by decide)
    | exact Or.inr (by with_reducible rfl)
    | exact Or.inl ⟨by decide, rfl⟩
    | split
    | with_reducible apply Kept.upd

theorem perstAt_kept (s : State) : Kept [.supply, .host, .gut] s (perstAt s) := by
  unfold perstAt
  try dsimp only
  repeat' first
    | with_reducible apply Kept.refl
    | with_reducible apply Kept.after (redrain_kept ..)
    | (show within _ _ = true; rfl)
    | exact Or.inl (by decide)
    | exact Or.inr (by with_reducible rfl)
    | exact Or.inl ⟨by decide, rfl⟩
    | split
    | with_reducible apply Kept.upd

theorem execPerst_kept (s : State) : ∃ t, execPerst s = .next t ∧ Kept [.supply, .host, .gut] s t := by
  refine ⟨_, rfl, ?_⟩
  repeat' first
    | with_reducible apply Kept.refl
    | with_reducible apply Kept.after (perstAt_kept ..)
    | (show within _ _ = true; rfl)
    | exact Or.inl (by decide)
    | exact Or.inr (by with_reducible rfl)
    | exact Or.inl ⟨by decide, rfl⟩
    | split
    | with_reducible apply Kept.upd

theorem execBusMasterEnable_kept (on : Bool) (s : State) : ∃ t, execBusMasterEnable on s = .next t ∧ Kept [.host] s t := by
  refine ⟨_, rfl, ?_⟩
  repeat' first
    | with_reducible apply Kept.refl
    | with_reducible apply Kept.after (flushWb_kept ..)
    | (show within _ _ = true; rfl)
    | exact Or.inl (by decide)
    | exact Or.inr (by with_reducible rfl)
    | exact Or.inl ⟨by decide, rfl⟩
    | split
    | with_reducible apply Kept.upd

theorem execPowerStateChange_kept (d3 : Bool) (s : State) : ∃ t, execPowerStateChange d3 s = .next t ∧ Kept [.host] s t := by
  refine ⟨_, rfl, ?_⟩
  repeat' first
    | with_reducible apply Kept.refl
    | with_reducible apply Kept.after (flushWb_kept ..)
    | (show within _ _ = true; rfl)
    | exact Or.inl (by decide)
    | exact Or.inr (by with_reducible rfl)
    | exact Or.inl ⟨by decide, rfl⟩
    | split
    | with_reducible apply Kept.upd

theorem planeMod_kept (s : State) (r : RingId) (p : Plane) (f : PlaneHub → PlaneHub) : Kept [.rings] s (planeMod s r p f) := by
  unfold planeMod
  try dsimp only
  repeat' first
    | with_reducible apply Kept.refl
    | (show within _ _ = true; rfl)
    | exact Or.inl (by decide)
    | exact Or.inr (by with_reducible rfl)
    | exact Or.inl ⟨by decide, rfl⟩
    | split
    | with_reducible apply Kept.upd

theorem relayFrames_kept (s : State) (x : PlaneHub) (fs : List (List Byte)) : Kept [.peer] s (relayFrames s x fs) := by
  unfold relayFrames
  try dsimp only
  repeat' first
    | with_reducible apply Kept.refl
    | with_reducible apply Kept.after (relaySend_kept ..)
    | with_reducible refine Kept.step ?_ (Kept.foldl (ps := [.peer]) (fun _ _ => ?_) _ _) rfl
    | (show within _ _ = true; rfl)
    | exact Or.inl (by decide)
    | exact Or.inr (by with_reducible rfl)
    | exact Or.inl ⟨by decide, rfl⟩
    | split
    | with_reducible apply Kept.upd

theorem gLaunchAt_kept (s : State) : Kept [.time, .supply, .rings, .peer] s (gLaunchAt s) := by
  unfold gLaunchAt
  try dsimp only
  repeat' first
    | with_reducible apply Kept.refl
    | with_reducible apply Kept.after (relayFrames_kept ..)
    | with_reducible apply Kept.after (planeMod_kept ..)
    | with_reducible apply Kept.after (advanceTo_kept ..)
    | with_reducible refine Kept.step ?_ (Kept.foldl (ps := [.time, .supply, .rings, .peer]) (fun _ _ => ?_) _ _) rfl
    | (show within _ _ = true; rfl)
    | exact Or.inl (by decide)
    | exact Or.inr (by with_reducible rfl)
    | exact Or.inl ⟨by decide, rfl⟩
    | split
    | with_reducible apply Kept.upd

theorem execGFrameLaunch_kept (s : State) : ∃ t, execGFrameLaunch s = .next t ∧ Kept [.time, .supply, .rings, .peer] s t := by
  refine ⟨_, rfl, ?_⟩
  repeat' first
    | with_reducible apply Kept.refl
    | with_reducible apply Kept.after (gLaunchAt_kept ..)
    | (show within _ _ = true; rfl)
    | exact Or.inl (by decide)
    | exact Or.inr (by with_reducible rfl)
    | exact Or.inl ⟨by decide, rfl⟩
    | split
    | with_reducible apply Kept.upd

theorem sLaunchAt_kept (s : State) : Kept [.time, .supply, .cyc, .rings, .peer] s (sLaunchAt s) := by
  unfold sLaunchAt
  try dsimp only
  repeat' first
    | with_reducible apply Kept.refl
    | with_reducible apply Kept.after (relayFrames_kept ..)
    | with_reducible apply Kept.after (planeMod_kept ..)
    | with_reducible apply Kept.after (advanceTo_kept ..)
    | with_reducible refine Kept.step ?_ (Kept.foldl (ps := [.time, .supply, .cyc, .rings, .peer]) (fun _ _ => ?_) _ _) rfl
    | (show within _ _ = true; rfl)
    | exact Or.inl (by decide)
    | exact Or.inr (by with_reducible rfl)
    | exact Or.inl ⟨by decide, rfl⟩
    | split
    | with_reducible apply Kept.upd

theorem execSFrameLaunch_kept (s : State) : ∃ t, execSFrameLaunch s = .next t ∧ Kept [.time, .supply, .cyc, .rings, .peer] s t := by
  refine ⟨_, rfl, ?_⟩
  repeat' first
    | with_reducible apply Kept.refl
    | with_reducible apply Kept.after (sLaunchAt_kept ..)
    | (show within _ _ = true; rfl)
    | exact Or.inl (by decide)
    | exact Or.inr (by with_reducible rfl)
    | exact Or.inl ⟨by decide, rfl⟩
    | split
    | with_reducible apply Kept.upd

theorem raiseEpoch_kept (s : State) (e : Nat) : Kept [.lanes] s (raiseEpoch s e) := by
  unfold raiseEpoch
  try dsimp only
  repeat' first
    | with_reducible apply Kept.refl
    | (show within _ _ = true; rfl)
    | exact Or.inl (by decide)
    | exact Or.inr (by with_reducible rfl)
    | exact Or.inl ⟨by decide, rfl⟩
    | split
    | with_reducible apply Kept.upd

theorem mirrorLost_kept (s : State) : Kept [.peer, .gut] s (mirrorLost s) := by
  unfold mirrorLost
  try dsimp only
  repeat' first
    | with_reducible apply Kept.refl
    | with_reducible apply Kept.after (standbyIncomplete_kept ..)
    | (show within _ _ = true; rfl)
    | exact Or.inl (by decide)
    | exact Or.inr (by with_reducible rfl)
    | exact Or.inl ⟨by decide, rfl⟩
    | split
    | with_reducible apply Kept.upd

theorem laterSeen_kept (s : State) (cycle : Nat) : Kept [.peer, .gut] s (laterSeen s cycle) := by
  unfold laterSeen
  try dsimp only
  repeat' first
    | with_reducible apply Kept.refl
    | with_reducible apply Kept.after (mirrorLost_kept ..)
    | (show within _ _ = true; rfl)
    | exact Or.inl (by decide)
    | exact Or.inr (by with_reducible rfl)
    | exact Or.inl ⟨by decide, rfl⟩
    | split
    | with_reducible apply Kept.upd

theorem observeFrame_kept (s : State) (r : RingId) (p : Plane) (hdr : List Byte) : Kept [.lanes, .peer, .gut] s (observeFrame s r p hdr) := by
  unfold observeFrame
  try dsimp only
  repeat' first
    | with_reducible apply Kept.refl
    | with_reducible apply Kept.after (laterSeen_kept ..)
    | with_reducible apply Kept.after (raiseEpoch_kept ..)
    | (show within _ _ = true; rfl)
    | exact Or.inl (by decide)
    | exact Or.inr (by with_reducible rfl)
    | exact Or.inl ⟨by decide, rfl⟩
    | split
    | with_reducible apply Kept.upd

theorem backOff_kept (s : State) (r : RingId) : Kept [.module, .rings, .gut] s (backOff s r) := by
  unfold backOff
  try dsimp only
  repeat' first
    | with_reducible apply Kept.refl
    | with_reducible apply Kept.after (raiseShared_kept ..)
    | (show within _ _ = true; rfl)
    | exact Or.inl (by decide)
    | exact Or.inr (by with_reducible rfl)
    | exact Or.inl ⟨by decide, rfl⟩
    | split
    | with_reducible apply Kept.upd

theorem foreignAt_kept (s : State) (r : RingId) (p : Plane) (frame : List Byte) : Kept [.module, .lanes, .rings, .peer, .gut] s (foreignAt s r p frame) := by
  unfold foreignAt
  try dsimp only
  repeat' first
    | with_reducible apply Kept.refl
    | with_reducible apply Kept.after (backOff_kept ..)
    | with_reducible apply Kept.after (observeFrame_kept ..)
    | with_reducible apply Kept.after (raiseShared_kept ..)
    | (show within _ _ = true; rfl)
    | exact Or.inl (by decide)
    | exact Or.inr (by with_reducible rfl)
    | exact Or.inl ⟨by decide, rfl⟩
    | split
    | with_reducible apply Kept.upd

theorem execForeignMasterFrame_kept (r : RingId) (p : Plane) (frame : List Byte) (s : State) : ∃ t, execForeignMasterFrame r p frame s = .next t ∧ Kept [.module, .lanes, .rings, .peer, .gut] s t := by
  refine ⟨_, rfl, ?_⟩
  repeat' first
    | with_reducible apply Kept.refl
    | with_reducible apply Kept.after (foreignAt_kept ..)
    | (show within _ _ = true; rfl)
    | exact Or.inl (by decide)
    | exact Or.inr (by with_reducible rfl)
    | exact Or.inl ⟨by decide, rfl⟩
    | split
    | with_reducible apply Kept.upd

theorem execRingRelay_kept (r : RingId) (p : Plane) (frame : List Byte) (s : State) : ∃ t, execRingRelay r p frame s = .next t ∧ Kept [.lanes, .rings, .peer, .gut] s t := by
  refine ⟨_, rfl, ?_⟩
  repeat' first
    | with_reducible apply Kept.refl
    | with_reducible apply Kept.after (observeFrame_kept ..)
    | with_reducible apply Kept.after (planeMod_kept ..)
    | with_reducible apply Kept.after (relaySend_kept ..)
    | (show within _ _ = true; rfl)
    | exact Or.inl (by decide)
    | exact Or.inr (by with_reducible rfl)
    | exact Or.inl ⟨by decide, rfl⟩
    | split
    | with_reducible apply Kept.upd

theorem execRelayedLaunch_kept (r : RingId) (p : Plane) (frame : List Byte) (s : State) : ∃ t, execRelayedLaunch r p frame s = .next t ∧ Kept [.rings] s t := by
  refine ⟨_, rfl, ?_⟩
  repeat' first
    | with_reducible apply Kept.refl
    | with_reducible apply Kept.after (planeMod_kept ..)
    | (show within _ _ = true; rfl)
    | exact Or.inl (by decide)
    | exact Or.inr (by with_reducible rfl)
    | exact Or.inl ⟨by decide, rfl⟩
    | split
    | with_reducible apply Kept.upd

theorem handSlot_kept (w : RingSlot) (s : State) (l : Lane) : Kept [.lanes, .rings] s (handSlot w s l) := by
  unfold handSlot
  try dsimp only
  repeat' first
    | with_reducible apply Kept.refl
    | with_reducible apply Kept.after (onLane_kept ..)
    | (show within _ _ = true; rfl)
    | exact Or.inl (by decide)
    | exact Or.inr (by with_reducible rfl)
    | exact Or.inl ⟨by decide, rfl⟩
    | split
    | with_reducible apply Kept.upd

theorem takeSlot_kept (isG : Bool) (s : State) (w : RingSlot) : Kept [.lanes, .agr, .rings] s (takeSlot isG s w) := by
  unfold takeSlot
  try dsimp only
  repeat' first
    | with_reducible apply Kept.refl
    | with_reducible apply Kept.after (handSlot_kept ..)
    | with_reducible apply Kept.after (lateSection_kept ..)
    | with_reducible refine Kept.step ?_ (Kept.foldl (ps := [.lanes, .agr, .rings]) (fun _ _ => ?_) _ _) rfl
    | (show within _ _ = true; rfl)
    | exact Or.inl (by decide)
    | exact Or.inr (by with_reducible rfl)
    | exact Or.inl ⟨by decide, rfl⟩
    | split
    | with_reducible apply Kept.upd

theorem judgeStatus_kept (s : State) (r : RingId) (p : Plane) (ws : List RingSlot) : Kept [.module, .rings, .gut] s (judgeStatus s r p ws) := by
  unfold judgeStatus
  try dsimp only
  repeat' first
    | with_reducible apply Kept.refl
    | with_reducible apply Kept.after (backOff_kept ..)
    | with_reducible apply Kept.after (planeMod_kept ..)
    | (show within _ _ = true; rfl)
    | exact Or.inl (by decide)
    | exact Or.inr (by with_reducible rfl)
    | exact Or.inl ⟨by decide, rfl⟩
    | split
    | with_reducible apply Kept.upd

theorem returnAt_kept (s : State) (r : RingId) (p : Plane) (frame : List Byte) (atNs : Nat) : Kept [.module, .lanes, .agr, .rings, .gut] s (returnAt s r p frame atNs) := by
  unfold returnAt
  try dsimp only
  repeat' first
    | with_reducible apply Kept.refl
    | with_reducible apply Kept.after (judgeStatus_kept ..)
    | with_reducible apply Kept.after (takeSlot_kept ..)
    | with_reducible apply Kept.after (planeMod_kept ..)
    | with_reducible apply Kept.after (raiseShared_kept ..)
    | with_reducible refine Kept.step ?_ (Kept.foldl (ps := [.module, .lanes, .agr, .rings, .gut]) (fun _ _ => ?_) _ _) rfl
    | (show within _ _ = true; rfl)
    | exact Or.inl (by decide)
    | exact Or.inr (by with_reducible rfl)
    | exact Or.inl ⟨by decide, rfl⟩
    | split
    | with_reducible apply Kept.upd

theorem execRingSectionArrival_kept (r : RingId) (p : Plane) (frame : List Byte) (atNs : Nat) (s : State) : ∃ t, execRingSectionArrival r p frame atNs s = .next t ∧ Kept [.time, .supply, .module, .lanes, .agr, .rings, .peer, .gut] s t := by
  refine ⟨_, rfl, ?_⟩
  repeat' first
    | with_reducible apply Kept.refl
    | with_reducible apply Kept.after (returnAt_kept ..)
    | with_reducible apply Kept.after (foreignAt_kept ..)
    | with_reducible apply Kept.after (advanceTo_kept ..)
    | (show within _ _ = true; rfl)
    | exact Or.inl (by decide)
    | exact Or.inr (by with_reducible rfl)
    | exact Or.inl ⟨by decide, rfl⟩
    | split
    | with_reducible apply Kept.upd

theorem statsOf_kept (l : Lane) (c : PlaneCount) (s : State) (p : Plane) : Kept [.gut] s (statsOf l c s p) := by
  unfold statsOf
  try dsimp only
  repeat' first
    | with_reducible apply Kept.refl
    | with_reducible apply Kept.after (raiseLane_kept ..)
    | (show within _ _ = true; rfl)
    | exact Or.inl (by decide)
    | exact Or.inr (by with_reducible rfl)
    | exact Or.inl ⟨by decide, rfl⟩
    | split
    | with_reducible apply Kept.upd

theorem planeStatsOf_kept (s : State) (l : Lane) : Kept [.lanes, .gut] s (planeStatsOf s l) := by
  unfold planeStatsOf
  try dsimp only
  repeat' first
    | with_reducible apply Kept.refl
    | with_reducible apply Kept.after (statsOf_kept ..)
    | with_reducible apply Kept.after (onLane_kept ..)
    | with_reducible refine Kept.step ?_ (Kept.foldl (ps := [.lanes, .gut]) (fun _ _ => ?_) _ _) rfl
    | (show within _ _ = true; rfl)
    | exact Or.inl (by decide)
    | exact Or.inr (by with_reducible rfl)
    | exact Or.inl ⟨by decide, rfl⟩
    | split
    | with_reducible apply Kept.upd

theorem planeStatsAt_kept (s : State) : Kept [.lanes, .agr, .gut] s (planeStatsAt s) := by
  unfold planeStatsAt
  try dsimp only
  repeat' first
    | with_reducible apply Kept.refl
    | with_reducible apply Kept.after (planeStatsOf_kept ..)
    | with_reducible refine Kept.step ?_ (Kept.foldl (ps := [.lanes, .agr, .gut]) (fun _ _ => ?_) _ _) rfl
    | (show within _ _ = true; rfl)
    | exact Or.inl (by decide)
    | exact Or.inr (by with_reducible rfl)
    | exact Or.inl ⟨by decide, rfl⟩
    | split
    | with_reducible apply Kept.upd

theorem execPlaneStats_kept (s : State) : ∃ t, execPlaneStats s = .next t ∧ Kept [.lanes, .agr, .gut] s t := by
  refine ⟨_, rfl, ?_⟩
  repeat' first
    | with_reducible apply Kept.refl
    | with_reducible apply Kept.after (planeStatsAt_kept ..)
    | (show within _ _ = true; rfl)
    | exact Or.inl (by decide)
    | exact Or.inr (by with_reducible rfl)
    | exact Or.inl ⟨by decide, rfl⟩
    | split
    | with_reducible apply Kept.upd

theorem sfpLost_kept (s : State) (r : RingId) (p : Plane) : Kept [.rings, .gut] s (sfpLost s r p) := by
  unfold sfpLost
  try dsimp only
  repeat' first
    | with_reducible apply Kept.refl
    | with_reducible apply Kept.after (planeMod_kept ..)
    | with_reducible apply Kept.after (raiseShared_kept ..)
    | (show within _ _ = true; rfl)
    | exact Or.inl (by decide)
    | exact Or.inr (by with_reducible rfl)
    | exact Or.inl ⟨by decide, rfl⟩
    | split
    | with_reducible apply Kept.upd

theorem execRingSfpInsertion_kept (r : RingId) (p : Plane) (kind : SfpKind) (s : State) : ∃ t, execRingSfpInsertion r p kind s = .next t ∧ Kept [.rings, .gut] s t := by
  refine ⟨_, rfl, ?_⟩
  repeat' first
    | with_reducible apply Kept.refl
    | with_reducible apply Kept.after (sfpLost_kept ..)
    | with_reducible apply Kept.after (planeMod_kept ..)
    | with_reducible apply Kept.after (raiseHub_kept ..)
    | (show within _ _ = true; rfl)
    | exact Or.inl (by decide)
    | exact Or.inr (by with_reducible rfl)
    | exact Or.inl ⟨by decide, rfl⟩
    | split
    | with_reducible apply Kept.upd

theorem execSfpDiagRead_kept (r : RingId) (p : Plane) (rxPower txPower temp : Half) (s : State) : ∃ t, execSfpDiagRead r p rxPower txPower temp s = .next t ∧ Kept [.rings] s t := by
  refine ⟨_, rfl, ?_⟩
  repeat' first
    | with_reducible apply Kept.refl
    | with_reducible apply Kept.after (planeMod_kept ..)
    | (show within _ _ = true; rfl)
    | exact Or.inl (by decide)
    | exact Or.inr (by with_reducible rfl)
    | exact Or.inl ⟨by decide, rfl⟩
    | split
    | with_reducible apply Kept.upd

theorem discoverAt_kept (s : State) : Kept [.time, .supply, .rings, .peer] s (discoverAt s) := by
  unfold discoverAt
  try dsimp only
  repeat' first
    | with_reducible apply Kept.refl
    | with_reducible apply Kept.after (planeMod_kept ..)
    | with_reducible apply Kept.after (relaySend_kept ..)
    | with_reducible apply Kept.after (advanceTo_kept ..)
    | with_reducible refine Kept.step ?_ (Kept.foldl (ps := [.time, .supply, .rings, .peer]) (fun _ _ => ?_) _ _) rfl
    | (show within _ _ = true; rfl)
    | exact Or.inl (by decide)
    | exact Or.inr (by with_reducible rfl)
    | exact Or.inl ⟨by decide, rfl⟩
    | split
    | with_reducible apply Kept.upd

theorem execDiscoverLaunch_kept (s : State) : ∃ t, execDiscoverLaunch s = .next t ∧ Kept [.time, .supply, .rings, .peer] s t := by
  refine ⟨_, rfl, ?_⟩
  repeat' first
    | with_reducible apply Kept.refl
    | with_reducible apply Kept.after (discoverAt_kept ..)
    | (show within _ _ = true; rfl)
    | exact Or.inl (by decide)
    | exact Or.inr (by with_reducible rfl)
    | exact Or.inl ⟨by decide, rfl⟩
    | split
    | with_reducible apply Kept.upd

theorem nodesLost_kept (s : State) (r : RingId) : Kept [.rings, .gut] s (nodesLost s r) := by
  unfold nodesLost
  try dsimp only
  repeat' first
    | with_reducible apply Kept.refl
    | with_reducible apply Kept.after (raiseShared_kept ..)
    | with_reducible refine Kept.step ?_ (Kept.foldl (ps := [.rings, .gut]) (fun _ _ => ?_) _ _) rfl
    | (show within _ _ = true; rfl)
    | exact Or.inl (by decide)
    | exact Or.inr (by with_reducible rfl)
    | exact Or.inl ⟨by decide, rfl⟩
    | split
    | with_reducible apply Kept.upd

theorem ringStart_kept (s : State) (r : RingId) (p : Plane) (n : Nat) (acc : List Nat) : Kept [.gut] s (ringStart s r p n acc) := by
  unfold ringStart
  try dsimp only
  repeat' first
    | with_reducible apply Kept.refl
    | with_reducible apply Kept.after (raiseShared_kept ..)
    | with_reducible refine Kept.step ?_ (Kept.foldl (ps := [.gut]) (fun _ _ => ?_) _ _) rfl
    | (show within _ _ = true; rfl)
    | exact Or.inl (by decide)
    | exact Or.inr (by with_reducible rfl)
    | exact Or.inl ⟨by decide, rfl⟩
    | split
    | with_reducible apply Kept.upd

theorem discoveryAlarms_kept (s : State) (r : RingId) (p : Plane) (n : Nat) (started : Bool) (v : RingFinding) : Kept [.gut] s (discoveryAlarms s r p n started v) := by
  unfold discoveryAlarms
  try dsimp only
  repeat' first
    | with_reducible apply Kept.refl
    | with_reducible apply Kept.after (ringStart_kept ..)
    | with_reducible apply Kept.after (raiseShared_kept ..)
    | with_reducible refine Kept.step ?_ (Kept.foldl (ps := [.gut]) (fun _ _ => ?_) _ _) rfl
    | (show within _ _ = true; rfl)
    | exact Or.inl (by decide)
    | exact Or.inr (by with_reducible rfl)
    | exact Or.inl ⟨by decide, rfl⟩
    | split
    | with_reducible apply Kept.upd

theorem discoverReturnAt_kept (s : State) (r : RingId) (p : Plane) (frames : List (List Byte)) (loopNs : Nat) (unbroken : Bool) : Kept [.rings, .gut] s (discoverReturnAt s r p frames loopNs unbroken) := by
  unfold discoverReturnAt
  try dsimp only
  repeat' first
    | with_reducible apply Kept.refl
    | with_reducible apply Kept.after (discoveryAlarms_kept ..)
    | with_reducible apply Kept.after (nodesLost_kept ..)
    | with_reducible apply Kept.after (planeMod_kept ..)
    | (show within _ _ = true; rfl)
    | exact Or.inl (by decide)
    | exact Or.inr (by with_reducible rfl)
    | exact Or.inl ⟨by decide, rfl⟩
    | split
    | with_reducible apply Kept.upd

theorem execDiscoverReturn_kept (r : RingId) (p : Plane) (frames : List (List Byte)) (loopNs : Nat) (unbroken : Bool) (s : State) : ∃ t, execDiscoverReturn r p frames loopNs unbroken s = .next t ∧ Kept [.rings, .gut] s t := by
  refine ⟨_, rfl, ?_⟩
  repeat' first
    | with_reducible apply Kept.refl
    | with_reducible apply Kept.after (discoverReturnAt_kept ..)
    | (show within _ _ = true; rfl)
    | exact Or.inl (by decide)
    | exact Or.inr (by with_reducible rfl)
    | exact Or.inl ⟨by decide, rfl⟩
    | split
    | with_reducible apply Kept.upd

theorem timingAt_kept (s : State) : Kept [.time, .supply, .rings, .peer] s (timingAt s) := by
  unfold timingAt
  try dsimp only
  repeat' first
    | with_reducible apply Kept.refl
    | with_reducible apply Kept.after (relayFrames_kept ..)
    | with_reducible apply Kept.after (planeMod_kept ..)
    | with_reducible apply Kept.after (advanceTo_kept ..)
    | with_reducible refine Kept.step ?_ (Kept.foldl (ps := [.time, .supply, .rings, .peer]) (fun _ _ => ?_) _ _) rfl
    | (show within _ _ = true; rfl)
    | exact Or.inl (by decide)
    | exact Or.inr (by with_reducible rfl)
    | exact Or.inl ⟨by decide, rfl⟩
    | split
    | with_reducible apply Kept.upd

theorem execTimingLaunch_kept (s : State) : ∃ t, execTimingLaunch s = .next t ∧ Kept [.time, .supply, .rings, .peer] s t := by
  refine ⟨_, rfl, ?_⟩
  repeat' first
    | with_reducible apply Kept.refl
    | with_reducible apply Kept.after (timingAt_kept ..)
    | (show within _ _ = true; rfl)
    | exact Or.inl (by decide)
    | exact Or.inr (by with_reducible rfl)
    | exact Or.inl ⟨by decide, rfl⟩
    | split
    | with_reducible apply Kept.upd

theorem execRingTopology_kept (r : RingId) (p : Plane) (s : State) : ∃ t, execRingTopology r p s = .next t ∧ Kept [.rings, .gut] s t := by
  refine ⟨_, rfl, ?_⟩
  repeat' first
    | with_reducible apply Kept.refl
    | with_reducible apply Kept.after (planeMod_kept ..)
    | with_reducible apply Kept.after (raiseShared_kept ..)
    | (show within _ _ = true; rfl)
    | exact Or.inl (by decide)
    | exact Or.inr (by with_reducible rfl)
    | exact Or.inl ⟨by decide, rfl⟩
    | split
    | with_reducible apply Kept.upd

theorem execPeriodicTiming_kept (s : State) : ∃ t, execPeriodicTiming s = .next t ∧ Kept [.rings] s t := by
  refine ⟨_, rfl, ?_⟩
  repeat' first
    | with_reducible apply Kept.refl
    | with_reducible apply Kept.after (planeMod_kept ..)
    | with_reducible refine Kept.step ?_ (Kept.foldl (ps := [.rings]) (fun _ _ => ?_) _ _) rfl
    | (show within _ _ = true; rfl)
    | exact Or.inl (by decide)
    | exact Or.inr (by with_reducible rfl)
    | exact Or.inl ⟨by decide, rfl⟩
    | split
    | with_reducible apply Kept.upd

theorem execPeriodicDiscover_kept (s : State) : ∃ t, execPeriodicDiscover s = .next t ∧ Kept [.rings] s t := by
  refine ⟨_, rfl, ?_⟩
  repeat' first
    | with_reducible apply Kept.refl
    | with_reducible apply Kept.after (planeMod_kept ..)
    | with_reducible refine Kept.step ?_ (Kept.foldl (ps := [.rings]) (fun _ _ => ?_) _ _) rfl
    | (show within _ _ = true; rfl)
    | exact Or.inl (by decide)
    | exact Or.inr (by with_reducible rfl)
    | exact Or.inl ⟨by decide, rfl⟩
    | split
    | with_reducible apply Kept.upd

theorem execPlaneLost_kept (r : RingId) (p : Plane) (s : State) : ∃ t, execPlaneLost r p s = .next t ∧ Kept [.rings, .gut] s t := by
  refine ⟨_, rfl, ?_⟩
  repeat' first
    | with_reducible apply Kept.refl
    | with_reducible apply Kept.after (planeMod_kept ..)
    | with_reducible apply Kept.after (raiseShared_kept ..)
    | (show within _ _ = true; rfl)
    | exact Or.inl (by decide)
    | exact Or.inr (by with_reducible rfl)
    | exact Or.inl ⟨by decide, rfl⟩
    | split
    | with_reducible apply Kept.upd

theorem execPortLinkUp_kept (r : RingId) (p : Plane) (own : Bool) (s : State) : ∃ t, execPortLinkUp r p own s = .next t ∧ Kept [.rings] s t := by
  refine ⟨_, rfl, ?_⟩
  repeat' first
    | with_reducible apply Kept.refl
    | with_reducible apply Kept.after (planeMod_kept ..)
    | (show within _ _ = true; rfl)
    | exact Or.inl (by decide)
    | exact Or.inr (by with_reducible rfl)
    | exact Or.inl ⟨by decide, rfl⟩
    | split
    | with_reducible apply Kept.upd

theorem probeAnswered_kept (r : RingId) (p : Plane) (s : State) : Kept [.rings] s (probeAnswered r p s) := by
  unfold probeAnswered
  try dsimp only
  repeat' first
    | with_reducible apply Kept.refl
    | with_reducible apply Kept.after (planeMod_kept ..)
    | (show within _ _ = true; rfl)
    | exact Or.inl (by decide)
    | exact Or.inr (by with_reducible rfl)
    | exact Or.inl ⟨by decide, rfl⟩
    | split
    | with_reducible apply Kept.upd

theorem probeTaken_kept (r : RingId) (p : Plane) (rttNs : Nat) (s : State) : Kept [.rings, .gut] s (probeTaken r p rttNs s) := by
  unfold probeTaken
  try dsimp only
  repeat' first
    | with_reducible apply Kept.refl
    | with_reducible apply Kept.after (planeMod_kept ..)
    | with_reducible apply Kept.after (raiseShared_kept ..)
    | (show within _ _ = true; rfl)
    | exact Or.inl (by decide)
    | exact Or.inr (by with_reducible rfl)
    | exact Or.inl ⟨by decide, rfl⟩
    | split
    | with_reducible apply Kept.upd

theorem execLinkProbe_kept (r : RingId) (p : Plane) (rttNs : Nat) (s : State) : ∃ t, execLinkProbe r p rttNs s = .next t ∧ Kept [.rings, .gut] s t := by
  refine ⟨_, rfl, ?_⟩
  repeat' first
    | with_reducible apply Kept.refl
    | with_reducible apply Kept.after (probeTaken_kept ..)
    | with_reducible apply Kept.after (probeAnswered_kept ..)
    | (show within _ _ = true; rfl)
    | exact Or.inl (by decide)
    | exact Or.inr (by with_reducible rfl)
    | exact Or.inl ⟨by decide, rfl⟩
    | split
    | with_reducible apply Kept.upd

theorem execIndicateGather_kept (s : State) : ∃ t, execIndicateGather s = .next t ∧ Kept [.time, .supply, .cyc, .rings, .peer] s t := by
  refine ⟨_, rfl, ?_⟩
  repeat' first
    | with_reducible apply Kept.refl
    | with_reducible apply Kept.after (gLaunchAt_kept ..)
    | (show within _ _ = true; rfl)
    | exact Or.inl (by decide)
    | exact Or.inr (by with_reducible rfl)
    | exact Or.inl ⟨by decide, rfl⟩
    | split
    | with_reducible apply Kept.upd

end Sys2Proof.Machine
end

