-- ==== Sys2Proof/Laws/KeptPeer.lean ====
section
/-! SUPPORT. Frame lemmas: which parts of the state each operation of Credits, Peer, Mirror, Claim, Time, GutterPaths may change. -/

set_option linter.unusedTactic false
set_option linter.unreachableTactic false

namespace Sys2Proof.Machine

theorem linkMod_kept (s : State) (l : Plane) (f : PeerLink → PeerLink) : Kept [.peer] s (linkMod s l f) := by
  unfold linkMod
  try dsimp only
  repeat' first
    | with_reducible apply Kept.refl
    | (show within _ _ = true; rfl)
    | exact Or.inl (by decide)
    | exact Or.inr (by with_reducible rfl)
    | exact Or.inl ⟨by decide, rfl⟩
    | split
    | with_reducible apply Kept.upd

theorem leaseSend_kept (s : State) (link : Plane) (m : List Byte) : Kept [.peer] s (leaseSend s link m) := by
  unfold leaseSend
  try dsimp only
  repeat' first
    | with_reducible apply Kept.refl
    | (show within _ _ = true; rfl)
    | exact Or.inl (by decide)
    | exact Or.inr (by with_reducible rfl)
    | exact Or.inl ⟨by decide, rfl⟩
    | split
    | with_reducible apply Kept.upd

theorem leaseBoth_kept (s : State) (ptype cycle : Nat) (pay : List Byte) : Kept [.peer] s (leaseBoth s ptype cycle pay) := by
  unfold leaseBoth
  try dsimp only
  repeat' first
    | with_reducible apply Kept.refl
    | with_reducible apply Kept.after (leaseSend_kept ..)
    | with_reducible apply Kept.after (creditsBack_kept ..)
    | (show within _ _ = true; rfl)
    | exact Or.inl (by decide)
    | exact Or.inr (by with_reducible rfl)
    | exact Or.inl ⟨by decide, rfl⟩
    | split
    | with_reducible apply Kept.upd

theorem pairConflict_kept (s : State) : Kept [.peer, .gut] s (pairConflict s) := by
  unfold pairConflict
  try dsimp only
  repeat' first
    | with_reducible apply Kept.refl
    | with_reducible apply Kept.after (raiseHub_kept ..)
    | (show within _ _ = true; rfl)
    | exact Or.inl (by decide)
    | exact Or.inr (by with_reducible rfl)
    | exact Or.inl ⟨by decide, rfl⟩
    | split
    | with_reducible apply Kept.upd

theorem peerArrive_kept {ps : List Part} (s : State) (m : List Byte) (take : State → State)
    (ht : ∀ r, Kept ps r (take r)) (hw : within [.lanes, .peer, .gut] ps = true) : Kept ps s (peerArrive s m take) := by
  unfold peerArrive
  dsimp only
  have h1 : Kept [.lanes, .peer, .gut] s (raiseEpoch s (pmEpoch m)) := (raiseEpoch_kept ..).mono rfl
  split
  · exact (h1.step (pairConflict_kept ..) rfl).mono hw
  · refine Kept.step (Kept.mono (ps := [.lanes, .peer, .gut]) ?_ hw) (ht _) (by simp [within])
    refine Kept.upd (h1) ?_ ?_ ?_ ?_ ?_ ?_ ?_ ?_ ?_ ?_ ?_ ?_ ?_ <;> first | exact .inl (by decide) | exact .inr rfl | exact .inl ⟨by decide, rfl⟩

theorem leaseArrive_kept {ps : List Part} (s : State) (m : List Byte) (take : State → State) (ht : ∀ r, Kept ps r (take r))
    (hw : within [.lanes, .peer, .gut] ps = true) : Kept ps s (leaseArrive s m take) := by
  unfold leaseArrive
  refine Kept.step (Kept.mono (ps := [.lanes, .peer, .gut]) ?_ hw) (peerArrive_kept _ _ _ ht hw) (by simp [within])
  refine Kept.upd ?_ ?_ ?_ ?_ ?_ ?_ ?_ ?_ ?_ ?_ ?_ ?_ ?_ ?_ <;> first | exact Kept.refl _ _ | exact .inl (by decide) | exact .inr rfl | exact .inl ⟨by decide, rfl⟩

theorem renewOut_kept (s : State) : Kept [.supply, .peer] s (renewOut s) := by
  unfold renewOut
  try dsimp only
  repeat' first
    | with_reducible apply Kept.refl
    | with_reducible apply Kept.after (leaseBoth_kept ..)
    | (show within _ _ = true; rfl)
    | exact Or.inl (by decide)
    | exact Or.inr (by with_reducible rfl)
    | exact Or.inl ⟨by decide, rfl⟩
    | split
    | with_reducible apply Kept.upd

theorem renewAt_kept (s : State) : Kept [.time, .supply, .peer] s (renewAt s) := by
  unfold renewAt
  try dsimp only
  repeat' first
    | with_reducible apply Kept.refl
    | with_reducible apply Kept.after (renewOut_kept ..)
    | with_reducible apply Kept.after (advanceTo_kept ..)
    | (show within _ _ = true; rfl)
    | exact Or.inl (by decide)
    | exact Or.inr (by with_reducible rfl)
    | exact Or.inl ⟨by decide, rfl⟩
    | split
    | with_reducible apply Kept.upd

theorem execRenewRelease_kept (s : State) : ∃ t, execRenewRelease s = .next t ∧ Kept [.time, .supply, .peer] s t := by
  refine ⟨_, rfl, ?_⟩
  repeat' first
    | with_reducible apply Kept.refl
    | with_reducible apply Kept.after (renewAt_kept ..)
    | (show within _ _ = true; rfl)
    | exact Or.inl (by decide)
    | exact Or.inr (by with_reducible rfl)
    | exact Or.inl ⟨by decide, rfl⟩
    | split
    | with_reducible apply Kept.upd

theorem discipline_kept (s : State) (link : Plane) (r : Renew) : Kept [.time, .cyc, .lanes] s (discipline s link r) := by
  unfold discipline
  try dsimp only
  repeat' first
    | with_reducible apply Kept.refl
    | (show within _ _ = true; rfl)
    | exact Or.inl (by decide)
    | exact Or.inr (by with_reducible rfl)
    | exact Or.inl ⟨by decide, rfl⟩
    | split
    | with_reducible apply Kept.upd

theorem abandonRestart_kept (s : State) (h : s.mod.st ≠ .safeStop) : Kept [.supply, .healthy, .mode, .module, .lanes, .host, .peer] s (abandonRestart s) := by
  unfold abandonRestart
  dsimp only
  refine Kept.step ?_ (setState_kept _ _ fun a => absurd a h) rfl
  refine Kept.upd ?_ ?_ ?_ ?_ ?_ ?_ ?_ ?_ ?_ ?_ ?_ ?_ ?_ ?_
  all_goals try first | exact .inl (by decide) | exact .inr rfl | exact .inl ⟨by decide, rfl⟩
  · exact (bootMod_kept ..).mono rfl

theorem fetchHolders_kept (s : State) (r : Renew) : Kept [.peer] s (fetchHolders s r) := by
  unfold fetchHolders
  try dsimp only
  repeat' first
    | with_reducible apply Kept.refl
    | with_reducible apply Kept.after (sendReq_kept ..)
    | (show within _ _ = true; rfl)
    | exact Or.inl (by decide)
    | exact Or.inr (by with_reducible rfl)
    | exact Or.inl ⟨by decide, rfl⟩
    | split
    | with_reducible apply Kept.upd

theorem renewStandby_kept (link : Plane) (r : Renew) (s : State) : Kept [.time, .healthy, .mode, .cyc, .lanes, .host, .peer, .gut] s (renewStandby link r s) := by
  unfold renewStandby
  try dsimp only
  repeat' first
    | with_reducible apply Kept.refl
    | with_reducible apply Kept.after (fetchHolders_kept ..)
    | with_reducible apply Kept.after (discipline_kept ..)
    | with_reducible apply Kept.after (laterSeen_kept ..)
    | with_reducible apply Kept.after (mirrorLost_kept ..)
    | with_reducible apply Kept.after (tryStandby_kept ..)
    | (show within _ _ = true; rfl)
    | exact Or.inl (by decide)
    | exact Or.inr (by with_reducible rfl)
    | exact Or.inl ⟨by decide, rfl⟩
    | split
    | with_reducible apply Kept.upd

theorem renewTake_kept (link : Plane) (m : List Byte) (s : State) : Kept [.time, .supply, .healthy, .mode, .module, .cyc, .lanes, .host, .peer, .gut] s (renewTake link m s) := by
  unfold renewTake
  extract_lets r p s1
  split
  · exact Kept.refl _ _
  · have h1 : Kept [.time, .supply, .healthy, .mode, .module, .cyc, .lanes, .host, .peer, .gut] s s1 := by
      refine Kept.upd (Kept.refl _ _) ?_ ?_ ?_ ?_ ?_ ?_ ?_ ?_ ?_ ?_ ?_ ?_ ?_ <;> first | exact .inl (by decide) | exact .inr rfl | exact .inl ⟨by decide, rfl⟩
    split
    · exact h1.step (renewStandby_kept ..) rfl
    · split
      · rename_i hc
        have hs : s.mod.st ≠ .safeStop := by
          intro e; simp [e] at hc
        exact (h1.step (abandonRestart_kept _ hs) rfl).step (renewStandby_kept ..) rfl
      · exact Kept.refl _ _

theorem execRenewReceive_kept (link : Plane) (msg : List Byte) (s : State) : ∃ t, execRenewReceive link msg s = .next t ∧ Kept [.time, .supply, .healthy, .mode, .module, .cyc, .lanes, .host, .peer, .gut] s t := by
  refine ⟨_, rfl, ?_⟩
  split
  · exact leaseArrive_kept _ _ _ (fun r => (renewTake_kept ..).mono rfl) rfl
  · exact Kept.refl _ _

theorem healthAlarm_kept (s : State) (conds : List Bool) : Kept [.peer, .gut] s (healthAlarm s conds) := by
  unfold healthAlarm
  try dsimp only
  repeat' first
    | with_reducible apply Kept.refl
    | with_reducible apply Kept.after (standbyIncomplete_kept ..)
    | (show within _ _ = true; rfl)
    | exact Or.inl (by decide)
    | exact Or.inr (by with_reducible rfl)
    | exact Or.inl ⟨by decide, rfl⟩
    | split
    | with_reducible apply Kept.upd

theorem beatAt_kept (s : State) : Kept [.time, .supply, .peer, .gut] s (beatAt s) := by
  unfold beatAt
  try dsimp only
  repeat' first
    | with_reducible apply Kept.refl
    | with_reducible apply Kept.after (healthAlarm_kept ..)
    | with_reducible apply Kept.after (leaseBoth_kept ..)
    | with_reducible apply Kept.after (advanceTo_kept ..)
    | (show within _ _ = true; rfl)
    | exact Or.inl (by decide)
    | exact Or.inr (by with_reducible rfl)
    | exact Or.inl ⟨by decide, rfl⟩
    | split
    | with_reducible apply Kept.upd

theorem execBeatSend_kept (s : State) : ∃ t, execBeatSend s = .next t ∧ Kept [.time, .supply, .peer, .gut] s t := by
  refine ⟨_, rfl, ?_⟩
  repeat' first
    | with_reducible apply Kept.refl
    | with_reducible apply Kept.after (beatAt_kept ..)
    | (show within _ _ = true; rfl)
    | exact Or.inl (by decide)
    | exact Or.inr (by with_reducible rfl)
    | exact Or.inl ⟨by decide, rfl⟩
    | split
    | with_reducible apply Kept.upd

theorem beatTake_kept (m : List Byte) (s : State) : Kept [.lanes, .peer, .gut] s (beatTake m s) := by
  unfold beatTake
  try dsimp only
  repeat' first
    | with_reducible apply Kept.refl
    | with_reducible apply Kept.after (healthAlarm_kept ..)
    | with_reducible apply Kept.after (loadDone_kept ..)
    | with_reducible apply Kept.after (raiseHub_kept ..)
    | (show within _ _ = true; rfl)
    | exact Or.inl (by decide)
    | exact Or.inr (by with_reducible rfl)
    | exact Or.inl ⟨by decide, rfl⟩
    | split
    | with_reducible apply Kept.upd

theorem execBeatReceive_kept (link : Plane) (msg : List Byte) (s : State) : ∃ t, execBeatReceive link msg s = .next t ∧ Kept [.lanes, .peer, .gut] s t := by
  refine ⟨_, rfl, ?_⟩
  split
  · exact leaseArrive_kept _ _ _ (fun r => (beatTake_kept ..).mono rfl) rfl
  · exact Kept.refl _ _

theorem execLinkSend_kept (link : Plane) (s : State) : ∃ t, execLinkSend link s = .next t ∧ Kept [.peer] s t := by
  refine ⟨_, rfl, ?_⟩
  repeat' first
    | with_reducible apply Kept.refl
    | with_reducible apply Kept.after (leaseSend_kept ..)
    | with_reducible apply Kept.after (linkMod_kept ..)
    | with_reducible apply Kept.after (creditsBack_kept ..)
    | (show within _ _ = true; rfl)
    | exact Or.inl (by decide)
    | exact Or.inr (by with_reducible rfl)
    | exact Or.inl ⟨by decide, rfl⟩
    | split
    | with_reducible apply Kept.upd

theorem execLinkReceive_kept (link : Plane) (msg : List Byte) (rttNs : Nat) (s : State) :
    ∃ t, execLinkReceive link msg rttNs s = .next t ∧ Kept [.lanes, .peer, .gut] s t := by
  refine ⟨_, rfl, ?_⟩
  split
  · refine leaseArrive_kept _ _ _ (fun r => ?_) rfl
    split
    · exact Kept.refl _ _
    · exact (linkMod_kept ..).mono rfl
  · exact Kept.refl _ _

theorem leaseExpiredAt_kept (s : State) : Kept [.supply, .healthy, .mode, .module, .cyc, .lanes, .rings, .host, .peer, .gut] s (leaseExpiredAt s) := by
  unfold leaseExpiredAt
  try dsimp only
  repeat' first
    | with_reducible apply Kept.refl
    | with_reducible apply Kept.after (enterSafeStop_kept ..)
    | with_reducible apply Kept.after (raiseUl_kept ..)
    | (show within _ _ = true; rfl)
    | exact Or.inl (by decide)
    | exact Or.inr (by with_reducible rfl)
    | exact Or.inl ⟨by decide, rfl⟩
    | split
    | with_reducible apply Kept.upd

theorem execLeaseExpired_kept (s : State) : ∃ t, execLeaseExpired s = .next t ∧ Kept [.supply, .healthy, .mode, .module, .cyc, .lanes, .rings, .host, .peer, .gut] s t := by
  refine ⟨_, rfl, ?_⟩
  repeat' first
    | with_reducible apply Kept.refl
    | with_reducible apply Kept.after (leaseExpiredAt_kept ..)
    | (show within _ _ = true; rfl)
    | exact Or.inl (by decide)
    | exact Or.inr (by with_reducible rfl)
    | exact Or.inl ⟨by decide, rfl⟩
    | split
    | with_reducible apply Kept.upd

theorem execPeerLinkLost_kept (link : Plane) (s : State) : ∃ t, execPeerLinkLost link s = .next t ∧ Kept [.peer, .gut] s t := by
  refine ⟨_, rfl, ?_⟩
  repeat' first
    | with_reducible apply Kept.refl
    | with_reducible apply Kept.after (linkMod_kept ..)
    | with_reducible apply Kept.after (raiseHub_kept ..)
    | (show within _ _ = true; rfl)
    | exact Or.inl (by decide)
    | exact Or.inr (by with_reducible rfl)
    | exact Or.inl ⟨by decide, rfl⟩
    | split
    | with_reducible apply Kept.upd

theorem linksFresh_kept (s : State) : Kept [.peer] s (linksFresh s) := by
  unfold linksFresh
  try dsimp only
  repeat' first
    | with_reducible apply Kept.refl
    | (show within _ _ = true; rfl)
    | exact Or.inl (by decide)
    | exact Or.inr (by with_reducible rfl)
    | exact Or.inl ⟨by decide, rfl⟩
    | split
    | with_reducible apply Kept.upd

theorem execPeerLinkReturn_kept (link : Plane) (s : State) : ∃ t, execPeerLinkReturn link s = .next t ∧ Kept [.peer, .gut] s t := by
  refine ⟨_, rfl, ?_⟩
  repeat' first
    | with_reducible apply Kept.refl
    | with_reducible apply Kept.after (linksFresh_kept ..)
    | with_reducible apply Kept.after (linkMod_kept ..)
    | with_reducible apply Kept.after (raiseHub_kept ..)
    | (show within _ _ = true; rfl)
    | exact Or.inl (by decide)
    | exact Or.inr (by with_reducible rfl)
    | exact Or.inl ⟨by decide, rfl⟩
    | split
    | with_reducible apply Kept.upd

theorem execPeerSfpInsertion_kept (link : Plane) (kind : SfpKind) (s : State) : ∃ t, execPeerSfpInsertion link kind s = .next t ∧ Kept [.peer, .gut] s t := by
  refine ⟨_, rfl, ?_⟩
  repeat' first
    | with_reducible apply Kept.refl
    | with_reducible apply Kept.after (linkMod_kept ..)
    | with_reducible apply Kept.after (raiseHub_kept ..)
    | (show within _ _ = true; rfl)
    | exact Or.inl (by decide)
    | exact Or.inr (by with_reducible rfl)
    | exact Or.inl ⟨by decide, rfl⟩
    | split
    | with_reducible apply Kept.upd

theorem stepNodes_kept (s : State) (y : Yealm) (prevT nowT : DWord) (f : RingId → Nat → Nat → SecAgreed) : Kept [.agr] s (stepNodes s y prevT nowT f) := by
  unfold stepNodes
  try dsimp only
  repeat' first
    | with_reducible apply Kept.refl
    | with_reducible apply Kept.after (fitNodes_kept ..)
    | with_reducible refine Kept.step ?_ (Kept.foldl (ps := [.agr]) (fun _ _ => ?_) _ _) rfl
    | (show within _ _ = true; rfl)
    | exact Or.inl (by decide)
    | exact Or.inr (by with_reducible rfl)
    | exact Or.inl ⟨by decide, rfl⟩
    | split
    | with_reducible apply Kept.upd

theorem mirrorEaves_kept (y : Yealm) (raw : List Byte) (nowT : DWord) (s : State) : Kept [.lanes, .agr] s (mirrorEaves y raw nowT s) := by
  unfold mirrorEaves
  try dsimp only
  repeat' first
    | with_reducible apply Kept.refl
    | (show within _ _ = true; rfl)
    | exact Or.inl (by decide)
    | exact Or.inr (by with_reducible rfl)
    | exact Or.inl ⟨by decide, rfl⟩
    | split
    | with_reducible apply Kept.upd

theorem mirrorHand_kept (c : DWord) (secs : List (Nat × Nat × Nat × Nat × List Byte)) (s : State) : Kept [.lanes, .rings] s (mirrorHand c secs s) := by
  unfold mirrorHand
  try dsimp only
  repeat' first
    | with_reducible apply Kept.refl
    | with_reducible apply Kept.after (handSlot_kept ..)
    | with_reducible refine Kept.step ?_ (Kept.foldl (ps := [.lanes, .rings]) (fun _ _ => ?_) _ _) rfl
    | (show within _ _ = true; rfl)
    | exact Or.inl (by decide)
    | exact Or.inr (by with_reducible rfl)
    | exact Or.inl ⟨by decide, rfl⟩
    | split
    | with_reducible apply Kept.upd

theorem mirrorDrain_kept (s : State) : Kept [.lanes, .rings] s (mirrorDrain s) := by
  unfold mirrorDrain
  try dsimp only
  repeat' first
    | with_reducible apply Kept.refl
    | (show within _ _ = true; rfl)
    | exact Or.inl (by decide)
    | exact Or.inr (by with_reducible rfl)
    | exact Or.inl ⟨by decide, rfl⟩
    | split
    | with_reducible apply Kept.upd

theorem mirrorInputs_kept (secs : List (Nat × Nat × Nat × Nat × List Byte)) (raw : List Byte) (stime : DWord) (s : State) : Kept [.lanes, .agr, .rings] s (mirrorInputs secs raw stime s) := by
  unfold mirrorInputs
  try dsimp only
  repeat' first
    | with_reducible apply Kept.refl
    | with_reducible apply Kept.after (mirrorDrain_kept ..)
    | with_reducible apply Kept.after (mirrorEaves_kept ..)
    | with_reducible apply Kept.after (stepNodes_kept ..)
    | (show within _ _ = true; rfl)
    | exact Or.inl (by decide)
    | exact Or.inr (by with_reducible rfl)
    | exact Or.inl ⟨by decide, rfl⟩
    | split
    | with_reducible apply Kept.upd

theorem mirrorSwitch_kept (s : State) : Kept [.module, .lanes] s (mirrorSwitch s) := by
  unfold mirrorSwitch
  try dsimp only
  repeat' first
    | with_reducible apply Kept.refl
    | with_reducible apply Kept.after (onLanes_kept ..)
    | (show within _ _ = true; rfl)
    | exact Or.inl (by decide)
    | exact Or.inr (by with_reducible rfl)
    | exact Or.inl ⟨by decide, rfl⟩
    | split
    | with_reducible apply Kept.upd

theorem mirrorSnap_kept (c : DWord) (s : State) (l : Lane) : Kept [.lanes, .gut] s (mirrorSnap c s l) := by
  unfold mirrorSnap
  try dsimp only
  repeat' first
    | with_reducible apply Kept.refl
    | with_reducible apply Kept.after (raiseLane_kept ..)
    | with_reducible apply Kept.after (onLane_kept ..)
    | (show within _ _ = true; rfl)
    | exact Or.inl (by decide)
    | exact Or.inr (by with_reducible rfl)
    | exact Or.inl ⟨by decide, rfl⟩
    | split
    | with_reducible apply Kept.upd

theorem applySlice_kept (s : State) (i : Nat) (cells : List (Nat × Byte)) : Kept [.lanes, .peer] s (applySlice s i cells) := by
  unfold applySlice
  try dsimp only
  repeat' first
    | with_reducible apply Kept.refl
    | with_reducible apply Kept.after (onLanes_kept ..)
    | (show within _ _ = true; rfl)
    | exact Or.inl (by decide)
    | exact Or.inr (by with_reducible rfl)
    | exact Or.inl ⟨by decide, rfl⟩
    | split
    | with_reducible apply Kept.upd

theorem applyWaiting_kept (c : DWord) (s : State) : Kept [.lanes, .peer] s (applyWaiting c s) := by
  unfold applyWaiting
  try dsimp only
  repeat' first
    | with_reducible apply Kept.refl
    | with_reducible apply Kept.after (applySlice_kept ..)
    | with_reducible refine Kept.step ?_ (Kept.foldl (ps := [.lanes, .peer]) (fun _ _ => ?_) _ _) rfl
    | (show within _ _ = true; rfl)
    | exact Or.inl (by decide)
    | exact Or.inr (by with_reducible rfl)
    | exact Or.inl ⟨by decide, rfl⟩
    | split
    | with_reducible apply Kept.upd

theorem applyMirror_kept (g : JGroup) (exch : Bool) (s : State) : Kept [.lanes, .peer, .gut] s (applyMirror g exch s) := by
  unfold applyMirror
  try dsimp only
  repeat' first
    | with_reducible apply Kept.refl
    | with_reducible apply Kept.after (applyWaiting_kept ..)
    | with_reducible apply Kept.after (mirrorSnap_kept ..)
    | with_reducible apply Kept.after (onLanes_kept ..)
    | with_reducible refine Kept.step ?_ (Kept.foldl (ps := [.lanes, .peer, .gut]) (fun _ _ => ?_) _ _) rfl
    | (show within _ _ = true; rfl)
    | exact Or.inl (by decide)
    | exact Or.inr (by with_reducible rfl)
    | exact Or.inl ⟨by decide, rfl⟩
    | split
    | with_reducible apply Kept.upd

theorem shadowMismatch_kept (s : State) (c : DWord) (field : Nat) : Kept [.peer, .gut] s (shadowMismatch s c field) := by
  unfold shadowMismatch
  try dsimp only
  repeat' first
    | with_reducible apply Kept.refl
    | with_reducible apply Kept.after (raiseShared_kept ..)
    | (show within _ _ = true; rfl)
    | exact Or.inl (by decide)
    | exact Or.inr (by with_reducible rfl)
    | exact Or.inl ⟨by decide, rfl⟩
    | split
    | with_reducible apply Kept.upd

theorem openShadow_kept (c : DWord) (asns : List DWord) (tasks : List Nat) (stime : DWord) (s : State) :
    Kept [.cyc, .lanes, .agr, .peer] s (openShadow c asns tasks stime s) := by
  unfold openShadow
  extract_lets cmd snap s1
  have h1 : Kept [.cyc, .lanes, .agr, .peer] s s1 := (onLanes_kept ..).mono rfl
  clear_value s1
  refine Kept.upd (h1) ?_ ?_ ?_ ?_ ?_ ?_ ?_ ?_ ?_ ?_ ?_ ?_ ?_ <;> first | exact .inl (by decide) | exact .inr rfl | exact .inl ⟨by decide, rfl⟩

theorem closeShadow_kept (s : State) : Kept [.lanes, .peer] s (closeShadow s) := by
  unfold closeShadow
  try dsimp only
  repeat' first
    | with_reducible apply Kept.refl
    | with_reducible apply Kept.after (onLanes_kept ..)
    | (show within _ _ = true; rfl)
    | exact Or.inl (by decide)
    | exact Or.inr (by with_reducible rfl)
    | exact Or.inl ⟨by decide, rfl⟩
    | split
    | with_reducible apply Kept.upd

theorem mirrorStart_kept (s : State) : Kept [.module, .cyc, .lanes, .agr, .rings, .peer, .gut] s (mirrorStart s) := by
  unfold mirrorStart
  try dsimp only
  repeat' first
    | with_reducible apply Kept.refl
    | with_reducible apply Kept.after (openShadow_kept ..)
    | with_reducible apply Kept.after (applyMirror_kept ..)
    | with_reducible apply Kept.after (mirrorSwitch_kept ..)
    | with_reducible apply Kept.after (mirrorInputs_kept ..)
    | (show within _ _ = true; rfl)
    | exact Or.inl (by decide)
    | exact Or.inr (by with_reducible rfl)
    | exact Or.inl ⟨by decide, rfl⟩
    | split
    | with_reducible apply Kept.upd

theorem applyLate_kept (late : Bool) (s : State) : Kept [.module, .lanes, .peer, .gut] s (applyLate late s) := by
  unfold applyLate
  try dsimp only
  repeat' first
    | with_reducible apply Kept.refl
    | with_reducible apply Kept.after (closeShadow_kept ..)
    | with_reducible apply Kept.after (shadowMismatch_kept ..)
    | with_reducible apply Kept.after (applyMirror_kept ..)
    | with_reducible apply Kept.after (mirrorSwitch_kept ..)
    | (show within _ _ = true; rfl)
    | exact Or.inl (by decide)
    | exact Or.inr (by with_reducible rfl)
    | exact Or.inl ⟨by decide, rfl⟩
    | split
    | with_reducible apply Kept.upd

theorem groupSeen_kept (c : DWord) (recs : List JRec) (s : State) : Kept [.peer, .gut] s (groupSeen c recs s) := by
  unfold groupSeen
  try dsimp only
  repeat' first
    | with_reducible apply Kept.refl
    | with_reducible apply Kept.after (mirrorLost_kept ..)
    | (show within _ _ = true; rfl)
    | exact Or.inl (by decide)
    | exact Or.inr (by with_reducible rfl)
    | exact Or.inl ⟨by decide, rfl⟩
    | split
    | with_reducible apply Kept.upd

theorem groupTake_kept (c : DWord) (recs : List JRec) (s : State) : Kept [.module, .cyc, .lanes, .agr, .rings, .peer, .gut] s (groupTake c recs s) := by
  unfold groupTake
  try dsimp only
  repeat' first
    | with_reducible apply Kept.refl
    | with_reducible apply Kept.after (mirrorStart_kept ..)
    | (show within _ _ = true; rfl)
    | exact Or.inl (by decide)
    | exact Or.inr (by with_reducible rfl)
    | exact Or.inl ⟨by decide, rfl⟩
    | split
    | with_reducible apply Kept.upd

theorem fullArrive_kept (c : DWord) (i : Nat) (cells : List (Nat × Byte)) (s : State) : Kept [.lanes, .peer] s (fullArrive c i cells s) := by
  unfold fullArrive
  try dsimp only
  repeat' first
    | with_reducible apply Kept.refl
    | with_reducible apply Kept.after (applySlice_kept ..)
    | (show within _ _ = true; rfl)
    | exact Or.inl (by decide)
    | exact Or.inr (by with_reducible rfl)
    | exact Or.inl ⟨by decide, rfl⟩
    | split
    | with_reducible apply Kept.upd

theorem ringArrive_kept (planes : List RingMir) (s : State) : Kept [.rings] s (ringArrive planes s) := by
  unfold ringArrive
  try dsimp only
  repeat' first
    | with_reducible apply Kept.refl
    | with_reducible apply Kept.after (planeMod_kept ..)
    | with_reducible refine Kept.step ?_ (Kept.foldl (ps := [.rings]) (fun _ _ => ?_) _ _) rfl
    | (show within _ _ = true; rfl)
    | exact Or.inl (by decide)
    | exact Or.inr (by with_reducible rfl)
    | exact Or.inl ⟨by decide, rfl⟩
    | split
    | with_reducible apply Kept.upd

theorem mirrorTake_kept (c : DWord) (p : MirrorPay) (s : State) : Kept [.module, .cyc, .lanes, .agr, .rings, .peer, .gut] s (mirrorTake c p s) := by
  unfold mirrorTake
  try dsimp only
  repeat' first
    | with_reducible apply Kept.refl
    | with_reducible apply Kept.after (ringArrive_kept ..)
    | with_reducible apply Kept.after (fullArrive_kept ..)
    | with_reducible apply Kept.after (groupTake_kept ..)
    | with_reducible apply Kept.after (mirrorStart_kept ..)
    | with_reducible apply Kept.after (mirrorHand_kept ..)
    | (show within _ _ = true; rfl)
    | exact Or.inl (by decide)
    | exact Or.inr (by with_reducible rfl)
    | exact Or.inl ⟨by decide, rfl⟩
    | split
    | with_reducible apply Kept.upd

theorem mirrorRun_kept (n : Nat) : ∀ s : State, Kept [.module, .cyc, .lanes, .agr, .rings, .peer, .gut] s (mirrorRun n s) := by
  induction n with
  | zero => exact fun s => Kept.refl _ s
  | succ n ih =>
    intro s
    unfold mirrorRun
    split
    · exact Kept.refl _ _
    · refine Kept.step (Kept.step ?_ (mirrorTake_kept ..) rfl) (ih _) rfl
      refine Kept.upd ?_ ?_ ?_ ?_ ?_ ?_ ?_ ?_ ?_ ?_ ?_ ?_ ?_ ?_ <;> first | exact Kept.refl _ _ | exact .inl (by decide) | exact .inr rfl | exact .inl ⟨by decide, rfl⟩

theorem mirrorPump_kept (s : State) : Kept [.module, .cyc, .lanes, .agr, .rings, .peer, .gut] s (mirrorPump s) := by
  unfold mirrorPump
  try dsimp only
  repeat' first
    | with_reducible apply Kept.refl
    | with_reducible apply Kept.after (mirrorRun_kept ..)
    | (show within _ _ = true; rfl)
    | exact Or.inl (by decide)
    | exact Or.inr (by with_reducible rfl)
    | exact Or.inl ⟨by decide, rfl⟩
    | split
    | with_reducible apply Kept.upd

theorem mirrorLate_kept (now : DWord) (s : State) : Kept [.module, .cyc, .lanes, .agr, .rings, .peer, .gut] s (mirrorLate now s) := by
  unfold mirrorLate
  try dsimp only
  repeat' first
    | with_reducible apply Kept.refl
    | with_reducible apply Kept.after (mirrorPump_kept ..)
    | with_reducible apply Kept.after (applyLate_kept ..)
    | (show within _ _ = true; rfl)
    | exact Or.inl (by decide)
    | exact Or.inr (by with_reducible rfl)
    | exact Or.inl ⟨by decide, rfl⟩
    | split
    | with_reducible apply Kept.upd

theorem mirrorFlush_kept (n : Nat) : ∀ s : State, Kept [.module, .cyc, .lanes, .agr, .rings, .peer, .gut] s (mirrorFlush n s) := by
  induction n with
  | zero => exact fun s => Kept.refl _ s
  | succ n ih =>
    intro s
    unfold mirrorFlush
    split
    · exact Kept.step (Kept.step ((applyLate_kept ..).mono rfl) (mirrorPump_kept ..) rfl) (ih _) rfl
    · exact Kept.refl _ _

theorem mirrorArrive_kept (c : DWord) (p : MirrorPay) (s : State) : Kept [.module, .cyc, .lanes, .agr, .rings, .peer, .gut] s (mirrorArrive c p s) := by
  unfold mirrorArrive
  try dsimp only
  repeat' first
    | with_reducible apply Kept.refl
    | with_reducible apply Kept.after (mirrorLate_kept ..)
    | with_reducible apply Kept.after (mirrorPump_kept ..)
    | with_reducible apply Kept.after (groupSeen_kept ..)
    | (show within _ _ = true; rfl)
    | exact Or.inl (by decide)
    | exact Or.inr (by with_reducible rfl)
    | exact Or.inl ⟨by decide, rfl⟩
    | split
    | with_reducible apply Kept.upd

theorem blockJoin_kept (b : MirrorBlk) (s : State) : Kept [.module, .cyc, .lanes, .agr, .rings, .peer, .gut] s (blockJoin b s) := by
  unfold blockJoin
  try dsimp only
  repeat' first
    | with_reducible apply Kept.refl
    | with_reducible apply Kept.after (mirrorArrive_kept ..)
    | (show within _ _ = true; rfl)
    | exact Or.inl (by decide)
    | exact Or.inr (by with_reducible rfl)
    | exact Or.inl ⟨by decide, rfl⟩
    | split
    | with_reducible apply Kept.upd

theorem blockTake_kept (msg : List Byte) (s : State) : Kept [.module, .cyc, .lanes, .agr, .rings, .peer, .gut] s (blockTake msg s) := by
  unfold blockTake
  try dsimp only
  repeat' first
    | with_reducible apply Kept.refl
    | with_reducible apply Kept.after (blockJoin_kept ..)
    | (show within _ _ = true; rfl)
    | exact Or.inl (by decide)
    | exact Or.inr (by with_reducible rfl)
    | exact Or.inl ⟨by decide, rfl⟩
    | split
    | with_reducible apply Kept.upd

theorem execMirrorBlockReceive_kept (link : Plane) (msg : List Byte) (s : State) : ∃ t, execMirrorBlockReceive link msg s = .next t ∧ Kept [.module, .cyc, .lanes, .agr, .rings, .peer, .gut] s t := by
  refine ⟨_, rfl, ?_⟩
  split
  · exact peerArrive_kept _ _ _ (fun r => (blockTake_kept ..).mono rfl) rfl
  · exact Kept.refl _ _

theorem shadowExclude_kept (maj : Majority) (bs : List (Lane × Ballot)) (lost : Quad Bool) (s : State) : Kept [.cyc, .lanes, .gut] s (shadowExclude maj bs lost s) := by
  unfold shadowExclude
  try dsimp only
  repeat' first
    | with_reducible apply Kept.refl
    | with_reducible apply Kept.after (decideExcl_kept ..)
    | with_reducible refine Kept.step ?_ (Kept.foldl (ps := [.cyc, .lanes, .gut]) (fun _ _ => ?_) _ _) rfl
    | (show within _ _ = true; rfl)
    | exact Or.inl (by decide)
    | exact Or.inr (by with_reducible rfl)
    | exact Or.inl ⟨by decide, rfl⟩
    | split
    | with_reducible apply Kept.upd

theorem standbyLanes_kept (maj : Majority) (bs : List (Lane × Ballot)) (s : State) : Kept [.cyc, .lanes] s (standbyLanes maj bs s) := by
  unfold standbyLanes
  try dsimp only
  repeat' first
    | with_reducible apply Kept.refl
    | with_reducible apply Kept.after (startCopy_kept ..)
    | with_reducible apply Kept.after (pickRejoin_kept ..)
    | with_reducible apply Kept.after (onLane_kept ..)
    | with_reducible refine Kept.step ?_ (Kept.foldl (ps := [.cyc, .lanes]) (fun _ _ => ?_) _ _) rfl
    | (show within _ _ = true; rfl)
    | exact Or.inl (by decide)
    | exact Or.inr (by with_reducible rfl)
    | exact Or.inl ⟨by decide, rfl⟩
    | split
    | with_reducible apply Kept.upd

theorem shadowDone_kept (g : JGroup) (res : Word × DWord) (lost : Quad Bool) (s : State) : Kept [.cyc, .lanes, .peer, .gut] s (shadowDone g res lost s) := by
  unfold shadowDone
  try dsimp only
  repeat' first
    | with_reducible apply Kept.refl
    | with_reducible apply Kept.after (standbyLanes_kept ..)
    | with_reducible apply Kept.after (shadowExclude_kept ..)
    | with_reducible apply Kept.after (closeShadow_kept ..)
    | with_reducible apply Kept.after (shadowMismatch_kept ..)
    | with_reducible apply Kept.after (applyMirror_kept ..)
    | with_reducible apply Kept.after (onLanes_kept ..)
    | (show within _ _ = true; rfl)
    | exact Or.inl (by decide)
    | exact Or.inr (by with_reducible rfl)
    | exact Or.inl ⟨by decide, rfl⟩
    | split
    | with_reducible apply Kept.upd

theorem execShadowComputationComplete_kept (lostA lostB lostC lostD : Bool) (s : State) : ∃ t, execShadowComputationComplete lostA lostB lostC lostD s = .next t ∧ Kept [.module, .cyc, .lanes, .agr, .rings, .peer, .gut] s t := by
  refine ⟨_, rfl, ?_⟩
  repeat' first
    | with_reducible apply Kept.refl
    | with_reducible apply Kept.after (shadowDone_kept ..)
    | with_reducible apply Kept.after (mirrorLate_kept ..)
    | with_reducible apply Kept.after (mirrorPump_kept ..)
    | (show within _ _ = true; rfl)
    | exact Or.inl (by decide)
    | exact Or.inr (by with_reducible rfl)
    | exact Or.inl ⟨by decide, rfl⟩
    | split
    | with_reducible apply Kept.upd

theorem ageNodes_kept (y : Yealm) (t : DWord) (n : Nat) : ∀ s : State, Kept [.lanes, .agr] s (ageNodes y t n s) := by
  induction n with
  | zero => exact fun s => Kept.refl _ s
  | succ n ih => intro s; unfold ageNodes; exact Kept.step ((stepNodes_kept ..).mono rfl) (ih _) rfl

theorem claimDeferral_kept (before s : State) : Kept [.lanes] s (claimDeferral before s) := by
  unfold claimDeferral
  try dsimp only
  repeat' first
    | with_reducible apply Kept.refl
    | with_reducible apply Kept.after (indicate_kept ..)
    | (show within _ _ = true; rfl)
    | exact Or.inl (by decide)
    | exact Or.inr (by with_reducible rfl)
    | exact Or.inl ⟨by decide, rfl⟩
    | split
    | with_reducible apply Kept.upd

theorem claimAt_kept (r : Renew) (s : State) : Kept [.time, .supply, .module, .cyc, .lanes, .agr, .rings, .peer, .gut] s (claimAt r s) := by
  unfold claimAt
  try dsimp only
  repeat' first
    | with_reducible apply Kept.refl
    | with_reducible apply Kept.after (claimDeferral_kept ..)
    | with_reducible apply Kept.after (ageNodes_kept ..)
    | with_reducible apply Kept.after (mirrorFlush_kept ..)
    | with_reducible apply Kept.after (newEpoch_kept ..)
    | with_reducible apply Kept.after (raiseShared_kept ..)
    | with_reducible apply Kept.after (onLanes_kept ..)
    | (show within _ _ = true; rfl)
    | exact Or.inl (by decide)
    | exact Or.inr (by with_reducible rfl)
    | exact Or.inl ⟨by decide, rfl⟩
    | split
    | with_reducible apply Kept.upd

theorem execLeaseClaim_kept (s : State) : ∃ t, execLeaseClaim s = .next t ∧ Kept [.time, .supply, .module, .cyc, .lanes, .agr, .rings, .peer, .gut] s t := by
  refine ⟨_, rfl, ?_⟩
  repeat' first
    | with_reducible apply Kept.refl
    | with_reducible apply Kept.after (claimAt_kept ..)
    | (show within _ _ = true; rfl)
    | exact Or.inl (by decide)
    | exact Or.inr (by with_reducible rfl)
    | exact Or.inl ⟨by decide, rfl⟩
    | split
    | with_reducible apply Kept.upd

theorem execPairStartClaim_kept (s : State) : ∃ t, execPairStartClaim s = .next t ∧ Kept [.supply, .module, .lanes, .host, .peer] s t := by
  refine ⟨_, rfl, ?_⟩
  repeat' first
    | with_reducible apply Kept.refl
    | with_reducible apply Kept.after (takeLease_kept ..)
    | with_reducible apply Kept.after (bootMod_kept ..)
    | (show within _ _ = true; rfl)
    | exact Or.inl (by decide)
    | exact Or.inr (by with_reducible rfl)
    | exact Or.inl ⟨by decide, rfl⟩
    | split
    | with_reducible apply Kept.upd

theorem execMasteryTest_kept (s : State) : ∃ t, execMasteryTest s = .next t ∧ Kept [.module, .peer] s t := by
  refine ⟨_, rfl, ?_⟩
  repeat' first
    | with_reducible apply Kept.refl
    | (show within _ _ = true; rfl)
    | exact Or.inl (by decide)
    | exact Or.inr (by with_reducible rfl)
    | exact Or.inl ⟨by decide, rfl⟩
    | split
    | with_reducible apply Kept.upd

theorem reqAnswered_kept (s : State) (q : Word) : Kept [.peer] s (reqAnswered s q) := by
  unfold reqAnswered
  try dsimp only
  repeat' first
    | with_reducible apply Kept.refl
    | (show within _ _ = true; rfl)
    | exact Or.inl (by decide)
    | exact Or.inr (by with_reducible rfl)
    | exact Or.inl ⟨by decide, rfl⟩
    | split
    | with_reducible apply Kept.upd

theorem answerFetch_kept (s : State) (q : Word) (off len : Nat) : Kept [.peer] s (answerFetch s q off len) := by
  unfold answerFetch
  try dsimp only
  repeat' first
    | with_reducible apply Kept.refl
    | with_reducible apply Kept.after (sendResp_kept ..)
    | (show within _ _ = true; rfl)
    | exact Or.inl (by decide)
    | exact Or.inr (by with_reducible rfl)
    | exact Or.inl ⟨by decide, rfl⟩
    | split
    | with_reducible apply Kept.upd

theorem takeFetched_kept (crc : DWord) (s : State) (l : Lane) : Kept [.lanes, .gut] s (takeFetched crc s l) := by
  unfold takeFetched
  try dsimp only
  repeat' first
    | with_reducible apply Kept.refl
    | with_reducible apply Kept.after (refuseImage_kept ..)
    | with_reducible apply Kept.after (onLane_kept ..)
    | (show within _ _ = true; rfl)
    | exact Or.inl (by decide)
    | exact Or.inr (by with_reducible rfl)
    | exact Or.inl ⟨by decide, rfl⟩
    | split
    | with_reducible apply Kept.upd

theorem fetchedAll_kept (r : Renew) (s : State) : Kept [.healthy, .mode, .module, .lanes, .host, .peer, .gut] s (fetchedAll r s) := by
  unfold fetchedAll
  try dsimp only
  repeat' first
    | with_reducible apply Kept.refl
    | with_reducible apply Kept.after (takeFetched_kept ..)
    | with_reducible apply Kept.after (mirrorLost_kept ..)
    | with_reducible apply Kept.after (tryStandby_kept ..)
    | with_reducible apply Kept.after (bootMod_kept ..)
    | with_reducible apply Kept.after (onLanes_kept ..)
    | with_reducible refine Kept.step ?_ (Kept.foldl (ps := [.healthy, .mode, .module, .lanes, .host, .peer, .gut]) (fun _ _ => ?_) _ _) rfl
    | (show within _ _ = true; rfl)
    | exact Or.inl (by decide)
    | exact Or.inr (by with_reducible rfl)
    | exact Or.inl ⟨by decide, rfl⟩
    | split
    | with_reducible apply Kept.upd

theorem fetchPart_kept (off : Nat) (data : List Byte) (last : Bool) (s : State) : Kept [.healthy, .mode, .module, .lanes, .host, .peer, .gut] s (fetchPart off data last s) := by
  unfold fetchPart
  try dsimp only
  repeat' first
    | with_reducible apply Kept.refl
    | with_reducible apply Kept.after (fetchedAll_kept ..)
    | with_reducible apply Kept.after (sendReq_kept ..)
    | (show within _ _ = true; rfl)
    | exact Or.inl (by decide)
    | exact Or.inr (by with_reducible rfl)
    | exact Or.inl ⟨by decide, rfl⟩
    | split
    | with_reducible apply Kept.upd

theorem standbySegment_kept (seq : Word) (new : Bool) (off : Nat) (last : Bool) (data : List Byte) (s : State) : Kept [.lanes, .peer] s (standbySegment seq new off last data s) := by
  unfold standbySegment
  try dsimp only
  repeat' first
    | with_reducible apply Kept.refl
    | with_reducible apply Kept.after (sendResp_kept ..)
    | with_reducible apply Kept.after (onLanes_kept ..)
    | (show within _ _ = true; rfl)
    | exact Or.inl (by decide)
    | exact Or.inr (by with_reducible rfl)
    | exact Or.inl ⟨by decide, rfl⟩
    | split
    | with_reducible apply Kept.upd

theorem requestTake_kept (q : Word) (b : PeerBody) (s : State) : Kept [.healthy, .mode, .module, .lanes, .host, .peer, .gut] s (requestTake q b s) := by
  unfold requestTake
  try dsimp only
  repeat' first
    | with_reducible apply Kept.refl
    | with_reducible apply Kept.after (standbySegment_kept ..)
    | with_reducible apply Kept.after (fetchPart_kept ..)
    | with_reducible apply Kept.after (answerFetch_kept ..)
    | with_reducible apply Kept.after (reqAnswered_kept ..)
    | (show within _ _ = true; rfl)
    | exact Or.inl (by decide)
    | exact Or.inr (by with_reducible rfl)
    | exact Or.inl ⟨by decide, rfl⟩
    | split
    | with_reducible apply Kept.upd

theorem requestArrive_kept (msg : List Byte) (s : State) : Kept [.healthy, .mode, .module, .lanes, .host, .peer, .gut] s (requestArrive msg s) := by
  unfold requestArrive
  try dsimp only
  repeat' first
    | with_reducible apply Kept.refl
    | with_reducible apply Kept.after (requestTake_kept ..)
    | (show within _ _ = true; rfl)
    | exact Or.inl (by decide)
    | exact Or.inr (by with_reducible rfl)
    | exact Or.inl ⟨by decide, rfl⟩
    | split
    | with_reducible apply Kept.upd

theorem execPeerRequestReceive_kept (link : Plane) (msg : List Byte) (s : State) : ∃ t, execPeerRequestReceive link msg s = .next t ∧ Kept [.healthy, .mode, .module, .lanes, .host, .peer, .gut] s t := by
  refine ⟨_, rfl, ?_⟩
  split
  · exact peerArrive_kept _ _ _ (fun r => (requestArrive_kept ..).mono rfl) rfl
  · exact Kept.refl _ _

theorem requestAgain_kept (r : OpenReq) (s : State) : Kept [.peer] s (requestAgain r s) := by
  unfold requestAgain
  try dsimp only
  repeat' first
    | with_reducible apply Kept.refl
    | with_reducible apply Kept.after (reqAnswered_kept ..)
    | with_reducible apply Kept.after (pumpReqs_kept ..)
    | (show within _ _ = true; rfl)
    | exact Or.inl (by decide)
    | exact Or.inr (by with_reducible rfl)
    | exact Or.inl ⟨by decide, rfl⟩
    | split
    | with_reducible apply Kept.upd

theorem execPeerRequestTimeout_kept (s : State) : ∃ t, execPeerRequestTimeout s = .next t ∧ Kept [.peer] s t := by
  refine ⟨_, rfl, ?_⟩
  repeat' first
    | with_reducible apply Kept.refl
    | with_reducible apply Kept.after (requestAgain_kept ..)
    | (show within _ _ = true; rfl)
    | exact Or.inl (by decide)
    | exact Or.inr (by with_reducible rfl)
    | exact Or.inl ⟨by decide, rfl⟩
    | split
    | with_reducible apply Kept.upd

theorem handNext_kept (s : State) (r : Lane) (l : Lane) : Kept [.lanes, .rings] s (handNext s r l) := by
  unfold handNext
  try dsimp only
  repeat' first
    | with_reducible apply Kept.refl
    | with_reducible apply Kept.after (onLane_kept ..)
    | (show within _ _ = true; rfl)
    | exact Or.inl (by decide)
    | exact Or.inr (by with_reducible rfl)
    | exact Or.inl ⟨by decide, rfl⟩
    | split
    | with_reducible apply Kept.upd

theorem handCmd_kept (s : State) (l : Lane) : Kept [.lanes, .host] s (handCmd s l) := by
  unfold handCmd
  try dsimp only
  repeat' first
    | with_reducible apply Kept.refl
    | with_reducible apply Kept.after (onLane_kept ..)
    | (show within _ _ = true; rfl)
    | exact Or.inl (by decide)
    | exact Or.inr (by with_reducible rfl)
    | exact Or.inl ⟨by decide, rfl⟩
    | split
    | with_reducible apply Kept.upd

theorem creditReturnAt_kept (q : QueueId) (s : State) : Kept [.lanes, .agr, .rings, .host, .peer, .gut] s (creditReturnAt q s) := by
  unfold creditReturnAt
  try dsimp only
  repeat' first
    | with_reducible apply Kept.refl
    | with_reducible apply Kept.after (handCmd_kept ..)
    | with_reducible apply Kept.after (handNext_kept ..)
    | with_reducible apply Kept.after (bulkReturn_kept ..)
    | with_reducible apply Kept.after (bulkLeave_kept ..)
    | with_reducible apply Kept.after (reqLeave_kept ..)
    | with_reducible apply Kept.after (mirrorLeave_kept ..)
    | with_reducible apply Kept.after (spillCount_kept ..)
    | with_reducible apply Kept.after (gutDrain_kept ..)
    | with_reducible apply Kept.after (errWrite_kept ..)
    | with_reducible apply Kept.after (onLane_kept ..)
    | (show within _ _ = true; rfl)
    | exact Or.inl (by decide)
    | exact Or.inr (by with_reducible rfl)
    | exact Or.inl ⟨by decide, rfl⟩
    | split
    | with_reducible apply Kept.upd

theorem execCreditReturn_kept (q : QueueId) (s : State) : ∃ t, execCreditReturn q s = .next t ∧ Kept [.lanes, .agr, .rings, .host, .peer, .gut] s t := by
  refine ⟨_, rfl, ?_⟩
  repeat' first
    | with_reducible apply Kept.refl
    | with_reducible apply Kept.after (creditReturnAt_kept ..)
    | (show within _ _ = true; rfl)
    | exact Or.inl (by decide)
    | exact Or.inr (by with_reducible rfl)
    | exact Or.inl ⟨by decide, rfl⟩
    | split
    | with_reducible apply Kept.upd

theorem ptpLost_kept (s : State) : Kept [.time, .gut] s (ptpLost s) := by
  unfold ptpLost
  try dsimp only
  repeat' first
    | with_reducible apply Kept.refl
    | with_reducible apply Kept.after (raiseHub_kept ..)
    | (show within _ _ = true; rfl)
    | exact Or.inl (by decide)
    | exact Or.inr (by with_reducible rfl)
    | exact Or.inl ⟨by decide, rfl⟩
    | split
    | with_reducible apply Kept.upd

theorem ptpSyncAt_kept (ofs : Int) (s : State) : Kept [.time, .gut] s (ptpSyncAt ofs s) := by
  unfold ptpSyncAt
  try dsimp only
  repeat' first
    | with_reducible apply Kept.refl
    | with_reducible apply Kept.after (ptpLost_kept ..)
    | with_reducible apply Kept.after (raiseHub_kept ..)
    | (show within _ _ = true; rfl)
    | exact Or.inl (by decide)
    | exact Or.inr (by with_reducible rfl)
    | exact Or.inl ⟨by decide, rfl⟩
    | split
    | with_reducible apply Kept.upd

theorem execPtpSync_kept (ofsUs : Int) (s : State) : ∃ t, execPtpSync ofsUs s = .next t ∧ Kept [.time, .gut] s t := by
  refine ⟨_, rfl, ?_⟩
  repeat' first
    | with_reducible apply Kept.refl
    | with_reducible apply Kept.after (ptpSyncAt_kept ..)
    | (show within _ _ = true; rfl)
    | exact Or.inl (by decide)
    | exact Or.inr (by with_reducible rfl)
    | exact Or.inl ⟨by decide, rfl⟩
    | split
    | with_reducible apply Kept.upd

theorem execTimeSourceLost_kept (noMaster : Bool) (s : State) : ∃ t, execTimeSourceLost noMaster s = .next t ∧ Kept [.time, .gut] s t := by
  refine ⟨_, rfl, ?_⟩
  repeat' first
    | with_reducible apply Kept.refl
    | with_reducible apply Kept.after (ptpLost_kept ..)
    | (show within _ _ = true; rfl)
    | exact Or.inl (by decide)
    | exact Or.inr (by with_reducible rfl)
    | exact Or.inl ⟨by decide, rfl⟩
    | split
    | with_reducible apply Kept.upd

theorem execPtpAnnounce_kept (m : Announce) (s : State) : ∃ t, execPtpAnnounce m s = .next t ∧ Kept [.time] s t := by
  refine ⟨_, rfl, ?_⟩
  repeat' first
    | with_reducible apply Kept.refl
    | (show within _ _ = true; rfl)
    | exact Or.inl (by decide)
    | exact Or.inr (by with_reducible rfl)
    | exact Or.inl ⟨by decide, rfl⟩
    | split
    | with_reducible apply Kept.upd

theorem execTimeSetHoldover_kept (s : State) : ∃ t, execTimeSetHoldover s = .next t ∧ Kept [.time, .lanes] s t := by
  refine ⟨_, rfl, ?_⟩
  repeat' first
    | with_reducible apply Kept.refl
    | with_reducible apply Kept.after (toHoldover_kept ..)
    | (show within _ _ = true; rfl)
    | exact Or.inl (by decide)
    | exact Or.inr (by with_reducible rfl)
    | exact Or.inl ⟨by decide, rfl⟩
    | split
    | with_reducible apply Kept.upd

theorem windowCheck_kept (counts : Quad Nat) (unread : Quad Bool) (supUs : Nat) (s : State) : Kept [.cyc, .lanes, .gut] s (windowCheck counts unread supUs s) := by
  unfold windowCheck
  try dsimp only
  repeat' first
    | with_reducible apply Kept.refl
    | with_reducible apply Kept.after (raiseShared_kept ..)
    | with_reducible apply Kept.after (onLanes_kept ..)
    | (show within _ _ = true; rfl)
    | exact Or.inl (by decide)
    | exact Or.inr (by with_reducible rfl)
    | exact Or.inl ⟨by decide, rfl⟩
    | split
    | with_reducible apply Kept.upd

theorem execClockWindowCheck_kept (unread : Quad Bool) (supUs : Nat) (s : State) : ∃ t, execClockWindowCheck unread supUs s = .next t ∧ Kept [.cyc, .lanes, .gut] s t := by
  refine ⟨_, rfl, ?_⟩
  repeat' first
    | with_reducible apply Kept.refl
    | with_reducible apply Kept.after (windowCheck_kept ..)
    | (show within _ _ = true; rfl)
    | exact Or.inl (by decide)
    | exact Or.inr (by with_reducible rfl)
    | exact Or.inl ⟨by decide, rfl⟩
    | split
    | with_reducible apply Kept.upd

theorem execGutterRecord_kept (rec : GRecIn) (s : State) : ∃ t, execGutterRecord rec s = .next t ∧ Kept [.gut] s t := by
  refine ⟨_, rfl, ?_⟩
  repeat' first
    | with_reducible apply Kept.refl
    | with_reducible apply Kept.after (gutPut_kept ..)
    | (show within _ _ = true; rfl)
    | exact Or.inl (by decide)
    | exact Or.inr (by with_reducible rfl)
    | exact Or.inl ⟨by decide, rfl⟩
    | split
    | with_reducible apply Kept.upd

theorem markAt_kept (s : State) (p : GPath) (c : GClass) (i : Nat) : Kept [.gut] s (markAt s p c i) := by
  unfold markAt
  try dsimp only
  repeat' first
    | with_reducible apply Kept.refl
    | with_reducible apply Kept.after (gutDrain_kept ..)
    | (show within _ _ = true; rfl)
    | exact Or.inl (by decide)
    | exact Or.inr (by with_reducible rfl)
    | exact Or.inl ⟨by decide, rfl⟩
    | split
    | with_reducible apply Kept.upd

theorem takeEvtq_kept (s : State) (x : GClass × Nat × GRec) : Kept [.host, .gut] s (takeEvtq s x) := by
  unfold takeEvtq
  try dsimp only
  repeat' first
    | with_reducible apply Kept.refl
    | with_reducible apply Kept.after (markAt_kept ..)
    | with_reducible apply Kept.after (ringPut_kept ..)
    | (show within _ _ = true; rfl)
    | exact Or.inl (by decide)
    | exact Or.inr (by with_reducible rfl)
    | exact Or.inl ⟨by decide, rfl⟩
    | split
    | with_reducible apply Kept.upd

theorem takeTrcq_kept (s : State) (x : GClass × Nat × GRec) : Kept [.host, .gut] s (takeTrcq s x) := by
  unfold takeTrcq
  try dsimp only
  repeat' first
    | with_reducible apply Kept.refl
    | with_reducible apply Kept.after (markAt_kept ..)
    | with_reducible apply Kept.after (ringPut_kept ..)
    | (show within _ _ = true; rfl)
    | exact Or.inl (by decide)
    | exact Or.inr (by with_reducible rfl)
    | exact Or.inl ⟨by decide, rfl⟩
    | split
    | with_reducible apply Kept.upd

theorem takeSyslog_kept (s : State) (x : GClass × Nat × GRec) : Kept [.gut] s (takeSyslog s x) := by
  unfold takeSyslog
  try dsimp only
  repeat' first
    | with_reducible apply Kept.refl
    | with_reducible apply Kept.after (markAt_kept ..)
    | (show within _ _ = true; rfl)
    | exact Or.inl (by decide)
    | exact Or.inr (by with_reducible rfl)
    | exact Or.inl ⟨by decide, rfl⟩
    | split
    | with_reducible apply Kept.upd

theorem takeBox_kept (s : State) (l : Lane) (x : GClass × Nat × GRec) : Kept [.lanes, .gut] s (takeBox s l x) := by
  unfold takeBox
  try dsimp only
  repeat' first
    | with_reducible apply Kept.refl
    | with_reducible apply Kept.after (markAt_kept ..)
    | with_reducible apply Kept.after (onLane_kept ..)
    | (show within _ _ = true; rfl)
    | exact Or.inl (by decide)
    | exact Or.inr (by with_reducible rfl)
    | exact Or.inl ⟨by decide, rfl⟩
    | split
    | with_reducible apply Kept.upd

theorem execGutterPathTake_kept (path : GPath) (s : State) : ∃ t, execGutterPathTake path s = .next t ∧ Kept [.lanes, .host, .gut] s t := by
  refine ⟨_, rfl, ?_⟩
  repeat' first
    | with_reducible apply Kept.refl
    | with_reducible apply Kept.after (takeBox_kept ..)
    | with_reducible apply Kept.after (takeSyslog_kept ..)
    | with_reducible apply Kept.after (takeTrcq_kept ..)
    | with_reducible apply Kept.after (takeEvtq_kept ..)
    | (show within _ _ = true; rfl)
    | exact Or.inl (by decide)
    | exact Or.inr (by with_reducible rfl)
    | exact Or.inl ⟨by decide, rfl⟩
    | split
    | with_reducible apply Kept.upd

theorem execSyslogSend_kept (s : State) : ∃ t, execSyslogSend s = .next t ∧ Kept [.gut] s t := by
  refine ⟨_, rfl, ?_⟩
  repeat' first
    | with_reducible apply Kept.refl
    | (show within _ _ = true; rfl)
    | exact Or.inl (by decide)
    | exact Or.inr (by with_reducible rfl)
    | exact Or.inl ⟨by decide, rfl⟩
    | split
    | with_reducible apply Kept.upd

theorem execBlackboxWrite_kept (l : Lane) (s : State) : ∃ t, execBlackboxWrite l s = .next t ∧ Kept [.lanes] s t := by
  refine ⟨_, rfl, ?_⟩
  repeat' first
    | with_reducible apply Kept.refl
    | with_reducible apply Kept.after (onLane_kept ..)
    | (show within _ _ = true; rfl)
    | exact Or.inl (by decide)
    | exact Or.inr (by with_reducible rfl)
    | exact Or.inl ⟨by decide, rfl⟩
    | split
    | with_reducible apply Kept.upd

end Sys2Proof.Machine
end

