-- ==== Sys2Proof/Laws/Memory.lean ====
section
/-! SUPPORT. Memory: reading after writing, and the canonical form that every operation keeps. -/

namespace Sys2Proof.Machine

/-- Every address of the memory lies above a bound. -/
def above (a : Nat) (m : Mem) : Prop := ∀ c ∈ m, a < c.1

theorem memWf_cons (x : Nat) (b : Byte) (m : Mem) : memWf ((x, b) :: m) = true ↔ b ≠ 0 ∧ above x m ∧ memWf m = true := by
  induction m generalizing x b with
  | nil => simp [memWf, above]
  | cons c r ih =>
    obtain ⟨y, d⟩ := c
    simp only [memWf, Bool.and_eq_true, bne_iff_ne, decide_eq_true_eq]
    constructor
    · rintro ⟨h1, h2, h3⟩
      refine ⟨h1, ?_, h3⟩
      intro c hc
      rcases List.mem_cons.mp hc with rfl | hc
      · exact h2
      · exact Nat.lt_trans h2 (((ih y d).mp h3).2.1 c hc)
    · rintro ⟨h1, h2, h3⟩
      exact ⟨h1, h2 _ (List.mem_cons_self ..), h3⟩

theorem memByte_above {a : Nat} {m : Mem} (h : above a m) : memByte m a = 0 := by
  induction m with
  | nil => rfl
  | cons c r ih =>
    obtain ⟨x, b⟩ := c
    have hx : a < x := h (x, b) (List.mem_cons_self ..)
    simp only [memByte, if_neg (Nat.ne_of_gt hx)]
    exact ih fun c hc => h c (List.mem_cons_of_mem _ hc)

theorem mem_memPut {m : Mem} {x : Nat} {b : Byte} {c : Host.Cell} (h : c ∈ memPut m x b) : c ∈ m ∨ c.1 = x := by
  induction m with
  | nil =>
    simp only [memPut] at h
    split at h
    · exact Or.inl h
    · exact Or.inr (by rw [List.mem_singleton] at h; rw [h])
  | cons d r ih =>
    obtain ⟨y, e⟩ := d
    simp only [memPut] at h
    split at h
    · split at h
      · exact Or.inl h
      · rcases List.mem_cons.mp h with rfl | h
        · exact Or.inr rfl
        · exact Or.inl h
    · split at h
      · split at h
        · exact Or.inl (List.mem_cons_of_mem _ h)
        · rcases List.mem_cons.mp h with rfl | h
          · exact Or.inr rfl
          · exact Or.inl (List.mem_cons_of_mem _ h)
      · rcases List.mem_cons.mp h with rfl | h
        · exact Or.inl (List.mem_cons_self ..)
        · exact (ih h).imp (List.mem_cons_of_mem _) id

theorem above_memPut {a : Nat} {m : Mem} (x : Nat) (b : Byte) (h : above a m) (hx : a < x) : above a (memPut m x b) := by
  intro c hc
  rcases mem_memPut hc with hc | hc
  · exact h c hc
  · exact hc ▸ hx

/-- Storing a byte keeps the canonical form. -/
theorem memPut_wf {m : Mem} (a : Nat) (b : Byte) (h : memWf m = true) : memWf (memPut m a b) = true := by
  induction m with
  | nil => simp only [memPut]; split <;> simp_all [memWf]
  | cons c r ih =>
    obtain ⟨x, d⟩ := c
    obtain ⟨h1, h2, h3⟩ := (memWf_cons x d r).mp h
    simp only [memPut]
    split
    · split
      · exact h
      · rename_i hax hb
        refine (memWf_cons ..).mpr ⟨hb, ?_, h⟩
        intro c hc
        rcases List.mem_cons.mp hc with rfl | hc
        · exact hax
        · exact Nat.lt_trans hax (h2 c hc)
    · split
      · rename_i hax
        split
        · exact h3
        · rename_i hb
          subst hax
          exact (memWf_cons ..).mpr ⟨hb, h2, h3⟩
      · rename_i h4 h5
        exact (memWf_cons ..).mpr ⟨h1, above_memPut a b h2 (by omega), ih h3⟩

/-- Storing bytes keeps the canonical form. -/
theorem memWrite_wf (bs : List Byte) : ∀ {m : Mem} (a : Nat), memWf m = true → memWf (memWrite m a bs) = true := by
  induction bs with
  | nil => exact fun _ h => h
  | cons b r ih => exact fun a h => ih (a + 1) (memPut_wf a b h)

theorem memFilter_wf (p : Host.Cell → Bool) {m : Mem} (h : memWf m = true) : memWf (m.filter p) = true := by
  induction m with
  | nil => rfl
  | cons c r ih =>
    obtain ⟨x, d⟩ := c
    obtain ⟨h1, h2, h3⟩ := (memWf_cons x d r).mp h
    simp only [List.filter_cons]
    split
    · exact (memWf_cons ..).mpr ⟨h1, fun c hc => h2 c (List.mem_of_mem_filter hc), ih h3⟩
    · exact ih h3

/-- Clearing keeps the canonical form. -/
theorem memClear_wf {m : Mem} (a n : Nat) (h : memWf m = true) : memWf (memClear m a n) = true := memFilter_wf _ h

theorem memOf_wf (l : List Byte) : memWf (memOf l) = true := memWrite_wf l 0 rfl

theorem memSetNat_wf {m : Mem} (a n v : Nat) (h : memWf m = true) : memWf (memSetNat m a n v) = true := memWrite_wf _ a h

theorem memApply_wf (d : List (Nat × DWord)) : ∀ {m : Mem}, memWf m = true → memWf (memApply m d) = true := by
  induction d with
  | nil => exact fun h => h
  | cons x r ih => exact fun h => ih (memWrite_wf _ _ h)

/-- A byte stored is the byte read there, and every other byte reads as before. -/
theorem memByte_memPut {m : Mem} (a x : Nat) (b : Byte) (h : memWf m = true) :
    memByte (memPut m a b) x = if x = a then b else memByte m x := by
  induction m with
  | nil =>
    by_cases hb : b = 0
    · simp [memPut, hb, memByte]
    · simp only [memPut, if_neg hb, memByte]
      by_cases hx : x = a
      · simp [hx]
      · simp [hx, Ne.symm hx]
  | cons c r ih =>
    obtain ⟨y, d⟩ := c
    obtain ⟨h1, h2, h3⟩ := (memWf_cons y d r).mp h
    have hi := ih h3
    simp only [memPut]
    by_cases hay : a < y
    · rw [if_pos hay]
      by_cases hb : b = 0
      · rw [if_pos hb]
        by_cases hx : x = a
        · subst hx
          rw [if_pos rfl, hb]
          exact memByte_above fun c hc => by
            rcases List.mem_cons.mp hc with rfl | hc
            · exact hay
            · exact Nat.lt_trans hay (h2 c hc)
        · rw [if_neg hx]
      · rw [if_neg hb]
        by_cases hx : x = a
        · subst hx; simp [memByte]
        · simp only [memByte, if_neg (Ne.symm hx), if_neg hx]
    · rw [if_neg hay]
      by_cases he : a = y
      · rw [if_pos he]
        subst he
        by_cases hb : b = 0
        · rw [if_pos hb]
          by_cases hx : x = a
          · subst hx; rw [if_pos rfl, hb]; exact memByte_above h2
          · simp only [memByte, if_neg (Ne.symm hx), if_neg hx]
        · rw [if_neg hb]
          by_cases hx : x = a
          · subst hx; simp [memByte]
          · simp only [memByte, if_neg (Ne.symm hx), if_neg hx]
      · rw [if_neg he]
        simp only [memByte, hi]
        by_cases hx : x = a
        · subst hx; simp [Ne.symm he]
        · simp only [if_neg hx]

/-- Bytes stored are the bytes read there, and every other byte reads as before. -/
theorem memByte_memWrite (bs : List Byte) : ∀ {m : Mem} (a x : Nat), memWf m = true →
    memByte (memWrite m a bs) x = if a ≤ x ∧ x < a + bs.length then bs.getD (x - a) 0 else memByte m x := by
  induction bs with
  | nil => intro m a x _; rw [if_neg (by simp)]; rfl
  | cons b r ih =>
    intro m a x h
    rw [memWrite, ih (a + 1) x (memPut_wf a b h), memByte_memPut a x b h]
    by_cases he : x = a
    · subst he; rw [if_neg (by omega), if_pos rfl, if_pos (by simp)]; simp
    · rw [if_neg he]
      by_cases hi : a + 1 ≤ x ∧ x < a + 1 + r.length
      · rw [if_pos hi, if_pos (by simp only [List.length_cons]; omega), show x - a = (x - (a + 1)) + 1 by omega]; simp
      · rw [if_neg hi, if_neg (by simp only [List.length_cons]; omega)]

theorem memRead_eq (m : Mem) : ∀ (n a : Nat), memRead m a n = (List.range n).map fun i => memByte m (a + i) := by
  intro n
  induction n with
  | zero => intro a; rfl
  | succ k ih =>
    intro a
    rw [memRead, ih, List.range_succ_eq_map, List.map_cons, List.map_map]
    congr 1
    exact List.map_congr_left fun i _ => by simp only [Function.comp]; congr 1; omega

/-- Memory that holds a list of bytes from 0 on reads as that list. -/
theorem memRead_memOf (l : List Byte) : memRead (memOf l) 0 l.length = l := by
  rw [memRead_eq]
  apply List.ext_getElem (by simp)
  intro i h1 h2
  simp only [List.getElem_map, List.getElem_range, Nat.zero_add, memOf]
  rw [memByte_memWrite l 0 i rfl, if_pos ⟨Nat.zero_le i, by omega⟩]
  simp [List.getD, h2]

end Sys2Proof.Machine
end

