-- ==== Sys2Proof/Laws/PerInstr.lean ====
section
/-! SUPPORT. One lemma per command of the family Families: its frame names at least one part of the state, and each part once. -/

namespace Sys2Proof.Laws.Families

/-- The parts that a command may change are named, each once. -/
def Statement (i : Instr) : Prop := i.parts ≠ [] ∧ i.parts.eraseDups = i.parts

theorem commonInstant : ∀ x0 x1, Statement (.commonInstant x0 x1) := fun _ _ => ⟨List.cons_ne_nil _ _, rfl⟩
theorem gFrameLaunch : Statement .gFrameLaunch := ⟨List.cons_ne_nil _ _, rfl⟩
theorem ringSectionArrival : ∀ x0 x1 x2 x3, Statement (.ringSectionArrival x0 x1 x2 x3) := fun _ _ _ _ => ⟨List.cons_ne_nil _ _, rfl⟩
theorem inputClose : Statement .inputClose := ⟨List.cons_ne_nil _ _, rfl⟩
theorem inputAgreement : ∀ x0 x1 x2, Statement (.inputAgreement x0 x1 x2) := fun _ _ _ => ⟨List.cons_ne_nil _ _, rfl⟩
theorem inputDiverge : Statement .inputDiverge := ⟨List.cons_ne_nil _ _, rfl⟩
theorem taskEnd : ∀ x0 x1 x2 x3, Statement (.taskEnd x0 x1 x2 x3) := fun _ _ _ _ => ⟨List.cons_ne_nil _ _, rfl⟩
theorem trussEvaluationComplete : ∀ x0 x1, Statement (.trussEvaluationComplete x0 x1) := fun _ _ => ⟨List.cons_ne_nil _ _, rfl⟩
theorem voteDeadline : Statement .voteDeadline := ⟨List.cons_ne_nil _ _, rfl⟩
theorem ridgeVote : Statement .ridgeVote := ⟨List.cons_ne_nil _ _, rfl⟩
theorem ballotArrival : ∀ x0 x1, Statement (.ballotArrival x0 x1) := fun _ _ => ⟨List.cons_ne_nil _ _, rfl⟩
theorem voteCompleteLimit : Statement .voteCompleteLimit := ⟨List.cons_ne_nil _ _, rfl⟩
theorem setQueuePush : Statement .setQueuePush := ⟨List.cons_ne_nil _ _, rfl⟩
theorem hubForwardItem : ∀ x0, Statement (.hubForwardItem x0) := fun _ => ⟨List.cons_ne_nil _ _, rfl⟩
theorem sFrameLaunch : Statement .sFrameLaunch := ⟨List.cons_ne_nil _ _, rfl⟩
theorem mramWriteComplete : ∀ x0, Statement (.mramWriteComplete x0) := fun _ => ⟨List.cons_ne_nil _ _, rfl⟩
theorem snapshotComplete : ∀ x0, Statement (.snapshotComplete x0) := fun _ => ⟨List.cons_ne_nil _ _, rfl⟩
theorem diagnosticRelease : Statement .diagnosticRelease := ⟨List.cons_ne_nil _ _, rfl⟩
theorem diagnosticEnd : ∀ x0 x1 x2, Statement (.diagnosticEnd x0 x1 x2) := fun _ _ _ => ⟨List.cons_ne_nil _ _, rfl⟩
theorem diagnosticLimit : Statement .diagnosticLimit := ⟨List.cons_ne_nil _ _, rfl⟩
theorem laneSleep : ∀ x0, Statement (.laneSleep x0) := fun _ => ⟨List.cons_ne_nil _ _, rfl⟩
theorem laneWake : ∀ x0, Statement (.laneWake x0) := fun _ => ⟨List.cons_ne_nil _ _, rfl⟩
theorem completionDelivered : Statement .completionDelivered := ⟨List.cons_ne_nil _ _, rfl⟩
theorem creditReturn : ∀ x0, Statement (.creditReturn x0) := fun _ => ⟨List.cons_ne_nil _ _, rfl⟩
theorem lockstepMismatch : ∀ x0 x1, Statement (.lockstepMismatch x0 x1) := fun _ _ => ⟨List.cons_ne_nil _ _, rfl⟩
theorem stopFlit : ∀ x0, Statement (.stopFlit x0) := fun _ => ⟨List.cons_ne_nil _ _, rfl⟩
theorem bistSliceStart : ∀ x0, Statement (.bistSliceStart x0) := fun _ => ⟨List.cons_ne_nil _ _, rfl⟩
theorem bistSliceEnd : ∀ x0 x1, Statement (.bistSliceEnd x0 x1) := fun _ _ => ⟨List.cons_ne_nil _ _, rfl⟩
theorem blockReinitComplete : ∀ x0, Statement (.blockReinitComplete x0) := fun _ => ⟨List.cons_ne_nil _ _, rfl⟩
theorem rotationDue : Statement .rotationDue := ⟨List.cons_ne_nil _ _, rfl⟩
theorem retainedStateCopyReceived : ∀ x0 x1 x2, Statement (.retainedStateCopyReceived x0 x1 x2) := fun _ _ _ => ⟨List.cons_ne_nil _ _, rfl⟩
theorem yealmFetchComplete : ∀ x0 x1, Statement (.yealmFetchComplete x0 x1) := fun _ _ => ⟨List.cons_ne_nil _ _, rfl⟩
theorem debugHalt : ∀ x0, Statement (.debugHalt x0) := fun _ => ⟨List.cons_ne_nil _ _, rfl⟩
theorem debugRelease : ∀ x0, Statement (.debugRelease x0) := fun _ => ⟨List.cons_ne_nil _ _, rfl⟩
theorem digestRecompute : ∀ x0, Statement (.digestRecompute x0) := fun _ => ⟨List.cons_ne_nil _ _, rfl⟩
theorem sramScrub : ∀ x0 x1 x2, Statement (.sramScrub x0 x1 x2) := fun _ _ _ => ⟨List.cons_ne_nil _ _, rfl⟩
theorem eccCorrected : ∀ x0 x1, Statement (.eccCorrected x0 x1) := fun _ _ => ⟨List.cons_ne_nil _ _, rfl⟩
theorem eccUncorrectable : ∀ x0, Statement (.eccUncorrectable x0) := fun _ => ⟨List.cons_ne_nil _ _, rfl⟩
theorem trussStats : Statement .trussStats := ⟨List.cons_ne_nil _ _, rfl⟩
theorem planeStats : Statement .planeStats := ⟨List.cons_ne_nil _ _, rfl⟩
theorem routeSet : ∀ x0, Statement (.routeSet x0) := fun _ => ⟨List.cons_ne_nil _ _, rfl⟩
theorem routeCancel : ∀ x0, Statement (.routeCancel x0) := fun _ => ⟨List.cons_ne_nil _ _, rfl⟩
theorem pointMove : ∀ x0, Statement (.pointMove x0) := fun _ => ⟨List.cons_ne_nil _ _, rfl⟩
theorem signalRestore : ∀ x0, Statement (.signalRestore x0) := fun _ => ⟨List.cons_ne_nil _ _, rfl⟩
theorem block : ∀ x0, Statement (.block x0) := fun _ => ⟨List.cons_ne_nil _ _, rfl⟩
theorem unblock : ∀ x0, Statement (.unblock x0) := fun _ => ⟨List.cons_ne_nil _ _, rfl⟩
theorem auxReleaseRequest : ∀ x0, Statement (.auxReleaseRequest x0) := fun _ => ⟨List.cons_ne_nil _ _, rfl⟩
theorem auxReleaseConfirm : ∀ x0, Statement (.auxReleaseConfirm x0) := fun _ => ⟨List.cons_ne_nil _ _, rfl⟩
theorem restartReleaseRequest : ∀ x0, Statement (.restartReleaseRequest x0) := fun _ => ⟨List.cons_ne_nil _ _, rfl⟩
theorem restartReleaseConfirm : ∀ x0, Statement (.restartReleaseConfirm x0) := fun _ => ⟨List.cons_ne_nil _ _, rfl⟩
theorem timeSet : ∀ x0, Statement (.timeSet x0) := fun _ => ⟨List.cons_ne_nil _ _, rfl⟩
theorem imageLoad : ∀ x0, Statement (.imageLoad x0) := fun _ => ⟨List.cons_ne_nil _ _, rfl⟩
theorem imageExchange : ∀ x0, Statement (.imageExchange x0) := fun _ => ⟨List.cons_ne_nil _ _, rfl⟩
theorem rotateNow : ∀ x0, Statement (.rotateNow x0) := fun _ => ⟨List.cons_ne_nil _ _, rfl⟩
theorem shutdown : ∀ x0, Statement (.shutdown x0) := fun _ => ⟨List.cons_ne_nil _ _, rfl⟩
theorem journalRead : ∀ x0, Statement (.journalRead x0) := fun _ => ⟨List.cons_ne_nil _ _, rfl⟩
theorem commandExpiry : ∀ x0, Statement (.commandExpiry x0) := fun _ => ⟨List.cons_ne_nil _ _, rfl⟩
theorem requestLapse : Statement .requestLapse := ⟨List.cons_ne_nil _ _, rfl⟩
theorem journalStall : Statement .journalStall := ⟨List.cons_ne_nil _ _, rfl⟩
theorem hostFetch : Statement .hostFetch := ⟨List.cons_ne_nil _ _, rfl⟩
theorem xfrqInSegment : ∀ x0 x1, Statement (.xfrqInSegment x0 x1) := fun _ _ => ⟨List.cons_ne_nil _ _, rfl⟩
theorem transferTimeout : Statement .transferTimeout := ⟨List.cons_ne_nil _ _, rfl⟩
theorem yealmVerified : ∀ x0, Statement (.yealmVerified x0) := fun _ => ⟨List.cons_ne_nil _ _, rfl⟩
theorem journalReadSegment : ∀ x0, Statement (.journalReadSegment x0) := fun _ => ⟨List.cons_ne_nil _ _, rfl⟩
theorem inputInjectionSegment : ∀ x0 x1, Statement (.inputInjectionSegment x0 x1) := fun _ _ => ⟨List.cons_ne_nil _ _, rfl⟩
theorem exchangeBoundary : Statement .exchangeBoundary := ⟨List.cons_ne_nil _ _, rfl⟩
theorem exchangeCopyComplete : ∀ x0, Statement (.exchangeCopyComplete x0) := fun _ => ⟨List.cons_ne_nil _ _, rfl⟩
theorem exchangeReloadComplete : Statement .exchangeReloadComplete := ⟨List.cons_ne_nil _ _, rfl⟩
theorem restartDecision : Statement .restartDecision := ⟨List.cons_ne_nil _ _, rfl⟩
theorem restartLockExpiry : ∀ x0, Statement (.restartLockExpiry x0) := fun _ => ⟨List.cons_ne_nil _ _, rfl⟩
theorem ringSfpInsertion : ∀ x0 x1 x2, Statement (.ringSfpInsertion x0 x1 x2) := fun _ _ _ => ⟨List.cons_ne_nil _ _, rfl⟩
theorem sfpDiagRead : ∀ x0 x1 x2 x3 x4, Statement (.sfpDiagRead x0 x1 x2 x3 x4) := fun _ _ _ _ _ => ⟨List.cons_ne_nil _ _, rfl⟩
theorem discoverLaunch : Statement .discoverLaunch := ⟨List.cons_ne_nil _ _, rfl⟩
theorem discoverReturn : ∀ x0 x1 x2 x3 x4, Statement (.discoverReturn x0 x1 x2 x3 x4) := fun _ _ _ _ _ => ⟨List.cons_ne_nil _ _, rfl⟩
theorem timingLaunch : Statement .timingLaunch := ⟨List.cons_ne_nil _ _, rfl⟩
theorem ringTopology : ∀ x0 x1, Statement (.ringTopology x0 x1) := fun _ _ => ⟨List.cons_ne_nil _ _, rfl⟩
theorem periodicTiming : Statement .periodicTiming := ⟨List.cons_ne_nil _ _, rfl⟩
theorem periodicDiscover : Statement .periodicDiscover := ⟨List.cons_ne_nil _ _, rfl⟩
theorem planeLost : ∀ x0 x1, Statement (.planeLost x0 x1) := fun _ _ => ⟨List.cons_ne_nil _ _, rfl⟩
theorem portLinkUp : ∀ x0 x1 x2, Statement (.portLinkUp x0 x1 x2) := fun _ _ _ => ⟨List.cons_ne_nil _ _, rfl⟩
theorem foreignMasterFrame : ∀ x0 x1 x2, Statement (.foreignMasterFrame x0 x1 x2) := fun _ _ _ => ⟨List.cons_ne_nil _ _, rfl⟩
theorem ringRelay : ∀ x0 x1 x2, Statement (.ringRelay x0 x1 x2) := fun _ _ _ => ⟨List.cons_ne_nil _ _, rfl⟩
theorem relayedLaunch : ∀ x0 x1 x2, Statement (.relayedLaunch x0 x1 x2) := fun _ _ _ => ⟨List.cons_ne_nil _ _, rfl⟩
theorem lFrameSend : ∀ x0, Statement (.lFrameSend x0) := fun _ => ⟨List.cons_ne_nil _ _, rfl⟩
theorem lFrameReceive : ∀ x0 x1, Statement (.lFrameReceive x0 x1) := fun _ _ => ⟨List.cons_ne_nil _ _, rfl⟩
theorem eFrameReceive : ∀ x0 x1 x2, Statement (.eFrameReceive x0 x1 x2) := fun _ _ _ => ⟨List.cons_ne_nil _ _, rfl⟩
theorem battenReceiverTimeout : ∀ x0, Statement (.battenReceiverTimeout x0) := fun _ => ⟨List.cons_ne_nil _ _, rfl⟩
theorem battenDeadline : ∀ x0, Statement (.battenDeadline x0) := fun _ => ⟨List.cons_ne_nil _ _, rfl⟩
theorem eavesCommonInstant : ∀ x0 x1, Statement (.eavesCommonInstant x0 x1) := fun _ _ => ⟨List.cons_ne_nil _ _, rfl⟩
theorem eavesConfigInForce : Statement .eavesConfigInForce := ⟨List.cons_ne_nil _ _, rfl⟩
theorem eavesWindowEnd : ∀ x0 x1, Statement (.eavesWindowEnd x0 x1) := fun _ _ => ⟨List.cons_ne_nil _ _, rfl⟩
theorem filterChange : ∀ x0 x1, Statement (.filterChange x0 x1) := fun _ _ => ⟨List.cons_ne_nil _ _, rfl⟩
theorem inputFaultSet : ∀ x0 x1, Statement (.inputFaultSet x0 x1) := fun _ _ => ⟨List.cons_ne_nil _ _, rfl⟩
theorem inputFaultClear : ∀ x0 x1, Statement (.inputFaultClear x0 x1) := fun _ _ => ⟨List.cons_ne_nil _ _, rfl⟩
theorem sourceFaultSet : ∀ x0 x1, Statement (.sourceFaultSet x0 x1) := fun _ _ => ⟨List.cons_ne_nil _ _, rfl⟩
theorem sourceFaultClear : ∀ x0 x1, Statement (.sourceFaultClear x0 x1) := fun _ _ => ⟨List.cons_ne_nil _ _, rfl⟩
theorem discTimerExpiry : ∀ x0 x1, Statement (.discTimerExpiry x0 x1) := fun _ _ => ⟨List.cons_ne_nil _ _, rfl⟩
theorem discClear : ∀ x0 x1, Statement (.discClear x0 x1) := fun _ _ => ⟨List.cons_ne_nil _ _, rfl⟩
theorem counterGateEnd : ∀ x0 x1 x2 x3, Statement (.counterGateEnd x0 x1 x2 x3) := fun _ _ _ _ => ⟨List.cons_ne_nil _ _, rfl⟩
theorem readbackReading : ∀ x0, Statement (.readbackReading x0) := fun _ => ⟨List.cons_ne_nil _ _, rfl⟩
theorem testPulseStart : ∀ x0, Statement (.testPulseStart x0) := fun _ => ⟨List.cons_ne_nil _ _, rfl⟩
theorem testPulseEnd : ∀ x0 x1 x2, Statement (.testPulseEnd x0 x1 x2) := fun _ _ _ => ⟨List.cons_ne_nil _ _, rfl⟩
theorem crossWindowEnd : Statement .crossWindowEnd := ⟨List.cons_ne_nil _ _, rfl⟩
theorem outputTrip : ∀ x0, Statement (.outputTrip x0) := fun _ => ⟨List.cons_ne_nil _ _, rfl⟩
theorem tripRetry : ∀ x0, Statement (.tripRetry x0) := fun _ => ⟨List.cons_ne_nil _ _, rfl⟩
theorem retryCountReset : ∀ x0, Statement (.retryCountReset x0) := fun _ => ⟨List.cons_ne_nil _ _, rfl⟩
theorem fieldSupplyLow : ∀ x0, Statement (.fieldSupplyLow x0) := fun _ => ⟨List.cons_ne_nil _ _, rfl⟩
theorem fieldSupplyRecover : ∀ x0, Statement (.fieldSupplyRecover x0) := fun _ => ⟨List.cons_ne_nil _ _, rfl⟩
theorem fieldSupplyCut : ∀ x0, Statement (.fieldSupplyCut x0) := fun _ => ⟨List.cons_ne_nil _ _, rfl⟩
theorem cutClear : ∀ x0, Statement (.cutClear x0) := fun _ => ⟨List.cons_ne_nil _ _, rfl⟩
theorem hpctlOpen : Statement .hpctlOpen := ⟨List.cons_ne_nil _ _, rfl⟩
theorem hpctlClose : Statement .hpctlClose := ⟨List.cons_ne_nil _ _, rfl⟩
theorem quiesceComplete : Statement .quiesceComplete := ⟨List.cons_ne_nil _ _, rfl⟩
theorem doorbell : ∀ x0 x1 x2, Statement (.doorbell x0 x1 x2) := fun _ _ _ => ⟨List.cons_ne_nil _ _, rfl⟩
theorem qctlWrite : ∀ x0 x1, Statement (.qctlWrite x0 x1) := fun _ _ => ⟨List.cons_ne_nil _ _, rfl⟩
theorem msixSend : ∀ x0, Statement (.msixSend x0) := fun _ => ⟨List.cons_ne_nil _ _, rfl⟩
theorem msixUnmask : ∀ x0, Statement (.msixUnmask x0) := fun _ => ⟨List.cons_ne_nil _ _, rfl⟩
theorem unsupportedRequest : ∀ x0 x1, Statement (.unsupportedRequest x0 x1) := fun _ _ => ⟨List.cons_ne_nil _ _, rfl⟩
theorem poisonedRequest : ∀ x0, Statement (.poisonedRequest x0) := fun _ => ⟨List.cons_ne_nil _ _, rfl⟩
theorem bar0ReadTimeout : ∀ x0, Statement (.bar0ReadTimeout x0) := fun _ => ⟨List.cons_ne_nil _ _, rfl⟩
theorem postedWriteFail : ∀ x0, Statement (.postedWriteFail x0) := fun _ => ⟨List.cons_ne_nil _ _, rfl⟩
theorem moduleRequestFail : ∀ x0 x1, Statement (.moduleRequestFail x0 x1) := fun _ _ => ⟨List.cons_ne_nil _ _, rfl⟩
theorem errstatClear : ∀ x0 x1, Statement (.errstatClear x0 x1) := fun _ _ => ⟨List.cons_ne_nil _ _, rfl⟩
theorem pairLoRead : ∀ x0, Statement (.pairLoRead x0) := fun _ => ⟨List.cons_ne_nil _ _, rfl⟩
theorem bootoptSplit : ∀ x0, Statement (.bootoptSplit x0) := fun _ => ⟨List.cons_ne_nil _ _, rfl⟩
theorem bootoptLoad : ∀ x0, Statement (.bootoptLoad x0) := fun _ => ⟨List.cons_ne_nil _ _, rfl⟩
theorem bootoptActivate : ∀ x0, Statement (.bootoptActivate x0) := fun _ => ⟨List.cons_ne_nil _ _, rfl⟩
theorem timecfgSrc : ∀ x0, Statement (.timecfgSrc x0) := fun _ => ⟨List.cons_ne_nil _ _, rfl⟩
theorem timecfgDomain : ∀ x0, Statement (.timecfgDomain x0) := fun _ => ⟨List.cons_ne_nil _ _, rfl⟩
theorem timecfgUtcOfs : ∀ x0, Statement (.timecfgUtcOfs x0) := fun _ => ⟨List.cons_ne_nil _ _, rfl⟩
theorem maintPortWrite : ∀ x0 x1, Statement (.maintPortWrite x0 x1) := fun _ _ => ⟨List.cons_ne_nil _ _, rfl⟩
theorem registerWrite : ∀ x0 x1 x2, Statement (.registerWrite x0 x1 x2) := fun _ _ _ => ⟨List.cons_ne_nil _ _, rfl⟩
theorem perst : Statement .perst := ⟨List.cons_ne_nil _ _, rfl⟩
theorem renewRelease : Statement .renewRelease := ⟨List.cons_ne_nil _ _, rfl⟩
theorem renewReceive : ∀ x0 x1, Statement (.renewReceive x0 x1) := fun _ _ => ⟨List.cons_ne_nil _ _, rfl⟩
theorem beatSend : Statement .beatSend := ⟨List.cons_ne_nil _ _, rfl⟩
theorem beatReceive : ∀ x0 x1, Statement (.beatReceive x0 x1) := fun _ _ => ⟨List.cons_ne_nil _ _, rfl⟩
theorem linkSend : ∀ x0, Statement (.linkSend x0) := fun _ => ⟨List.cons_ne_nil _ _, rfl⟩
theorem linkReceive : ∀ x0 x1 x2, Statement (.linkReceive x0 x1 x2) := fun _ _ _ => ⟨List.cons_ne_nil _ _, rfl⟩
theorem leaseExpired : Statement .leaseExpired := ⟨List.cons_ne_nil _ _, rfl⟩
theorem leaseClaim : Statement .leaseClaim := ⟨List.cons_ne_nil _ _, rfl⟩
theorem pairStartClaim : Statement .pairStartClaim := ⟨List.cons_ne_nil _ _, rfl⟩
theorem masteryTest : Statement .masteryTest := ⟨List.cons_ne_nil _ _, rfl⟩
theorem peerLinkLost : ∀ x0, Statement (.peerLinkLost x0) := fun _ => ⟨List.cons_ne_nil _ _, rfl⟩
theorem peerLinkReturn : ∀ x0, Statement (.peerLinkReturn x0) := fun _ => ⟨List.cons_ne_nil _ _, rfl⟩
theorem peerSfpInsertion : ∀ x0 x1, Statement (.peerSfpInsertion x0 x1) := fun _ _ => ⟨List.cons_ne_nil _ _, rfl⟩
theorem mirrorBlockReceive : ∀ x0 x1, Statement (.mirrorBlockReceive x0 x1) := fun _ _ => ⟨List.cons_ne_nil _ _, rfl⟩
theorem shadowComputationComplete : ∀ x0 x1 x2 x3, Statement (.shadowComputationComplete x0 x1 x2 x3) := fun _ _ _ _ => ⟨List.cons_ne_nil _ _, rfl⟩
theorem peerRequestReceive : ∀ x0 x1, Statement (.peerRequestReceive x0 x1) := fun _ _ => ⟨List.cons_ne_nil _ _, rfl⟩
theorem peerRequestTimeout : Statement .peerRequestTimeout := ⟨List.cons_ne_nil _ _, rfl⟩
theorem ptpSync : ∀ x0, Statement (.ptpSync x0) := fun _ => ⟨List.cons_ne_nil _ _, rfl⟩
theorem timeSourceLost : ∀ x0, Statement (.timeSourceLost x0) := fun _ => ⟨List.cons_ne_nil _ _, rfl⟩
theorem timeSetHoldover : Statement .timeSetHoldover := ⟨List.cons_ne_nil _ _, rfl⟩
theorem clockWindowCheck : ∀ x0 x1, Statement (.clockWindowCheck x0 x1) := fun _ _ => ⟨List.cons_ne_nil _ _, rfl⟩
theorem supplyStart : ∀ x0 x1, Statement (.supplyStart x0 x1) := fun _ _ => ⟨List.cons_ne_nil _ _, rfl⟩
theorem supplyLow : ∀ x0, Statement (.supplyLow x0) := fun _ => ⟨List.cons_ne_nil _ _, rfl⟩
theorem supplyRecovery : ∀ x0 x1, Statement (.supplyRecovery x0 x1) := fun _ _ => ⟨List.cons_ne_nil _ _, rfl⟩
theorem supplyReset : Statement .supplyReset := ⟨List.cons_ne_nil _ _, rfl⟩
theorem rstRelease : ∀ x0, Statement (.rstRelease x0) := fun _ => ⟨List.cons_ne_nil _ _, rfl⟩
theorem resetStuck : Statement .resetStuck := ⟨List.cons_ne_nil _ _, rfl⟩
theorem rstRearm : Statement .rstRearm := ⟨List.cons_ne_nil _ _, rfl⟩
theorem orderlyReset : Statement .orderlyReset := ⟨List.cons_ne_nil _ _, rfl⟩
theorem keyPatternStable : Statement .keyPatternStable := ⟨List.cons_ne_nil _ _, rfl⟩
theorem keyAllOpenTimeout : Statement .keyAllOpenTimeout := ⟨List.cons_ne_nil _ _, rfl⟩
theorem sealChange : Statement .sealChange := ⟨List.cons_ne_nil _ _, rfl⟩
theorem switchSense : ∀ x0, Statement (.switchSense x0) := fun _ => ⟨List.cons_ne_nil _ _, rfl⟩
theorem hubWatchdog : Statement .hubWatchdog := ⟨List.cons_ne_nil _ _, rfl⟩
theorem junctionOvertemp : ∀ x0, Statement (.junctionOvertemp x0) := fun _ => ⟨List.cons_ne_nil _ _, rfl⟩
theorem diesOutOfReset : ∀ x0, Statement (.diesOutOfReset x0) := fun _ => ⟨List.cons_ne_nil _ _, rfl⟩
theorem bootRecordCheck : ∀ x0, Statement (.bootRecordCheck x0) := fun _ => ⟨List.cons_ne_nil _ _, rfl⟩
theorem bootYealmAgreed : Statement .bootYealmAgreed := ⟨List.cons_ne_nil _ _, rfl⟩
theorem ringStartComplete : Statement .ringStartComplete := ⟨List.cons_ne_nil _ _, rfl⟩
theorem indicateGather : Statement .indicateGather := ⟨List.cons_ne_nil _ _, rfl⟩
theorem bootShadowStart : Statement .bootShadowStart := ⟨List.cons_ne_nil _ _, rfl⟩
theorem shutdownBegin : Statement .shutdownBegin := ⟨List.cons_ne_nil _ _, rfl⟩
theorem shutdownDone : Statement .shutdownDone := ⟨List.cons_ne_nil _ _, rfl⟩
theorem mramWriteFault : ∀ x0 x1, Statement (.mramWriteFault x0 x1) := fun _ _ => ⟨List.cons_ne_nil _ _, rfl⟩
theorem mramUncorrectableRead : ∀ x0 x1, Statement (.mramUncorrectableRead x0 x1) := fun _ _ => ⟨List.cons_ne_nil _ _, rfl⟩
theorem gutterRecord : ∀ x0, Statement (.gutterRecord x0) := fun _ => ⟨List.cons_ne_nil _ _, rfl⟩
theorem gutterPathTake : ∀ x0, Statement (.gutterPathTake x0) := fun _ => ⟨List.cons_ne_nil _ _, rfl⟩
theorem syslogSend : Statement .syslogSend := ⟨List.cons_ne_nil _ _, rfl⟩
theorem blackboxWrite : ∀ x0, Statement (.blackboxWrite x0) := fun _ => ⟨List.cons_ne_nil _ _, rfl⟩
theorem cmdqFetch : ∀ x0, Statement (.cmdqFetch x0) := fun _ => ⟨List.cons_ne_nil _ _, rfl⟩
theorem linkProbe : ∀ x0 x1 x2, Statement (.linkProbe x0 x1 x2) := fun _ _ _ => ⟨List.cons_ne_nil _ _, rfl⟩
theorem rstPress : Statement .rstPress := ⟨List.cons_ne_nil _ _, rfl⟩
theorem reserveStoreExhausted : Statement .reserveStoreExhausted := ⟨List.cons_ne_nil _ _, rfl⟩
theorem primaryCellExhausted : Statement .primaryCellExhausted := ⟨List.cons_ne_nil _ _, rfl⟩
theorem hubSramScrub : ∀ x0, Statement (.hubSramScrub x0) := fun _ => ⟨List.cons_ne_nil _ _, rfl⟩
theorem mramCorrectedRead : ∀ x0 x1, Statement (.mramCorrectedRead x0 x1) := fun _ _ => ⟨List.cons_ne_nil _ _, rfl⟩
theorem busMasterEnable : ∀ x0, Statement (.busMasterEnable x0) := fun _ => ⟨List.cons_ne_nil _ _, rfl⟩
theorem powerStateChange : ∀ x0, Statement (.powerStateChange x0) := fun _ => ⟨List.cons_ne_nil _ _, rfl⟩
theorem ptpAnnounce : ∀ x0, Statement (.ptpAnnounce x0) := fun _ => ⟨List.cons_ne_nil _ _, rfl⟩

end Sys2Proof.Laws.Families
end

