-- ==== Sys2Proof/Laws/Raise.lean ====
section
/-! SUPPORT. A Gutter record that is raised changes the Gutter alone (R412): the record operations as equations. -/

namespace Sys2Proof.Machine

theorem Kept.gut_only {s t : State} (h : Kept [.gut] s t) : t = { s with gut := t.gut } := by
  have e := fun p hp => h.frame.rest p hp
  have hu : t.ul = s.ul := by
    have h1 := e .supply (by decide)
    have h2 := e .healthy (by decide)
    simp only [Part.same] at h1 h2
    cases hs : s.ul; cases ht : t.ul
    rw [hs, ht] at h1 h2
    simp_all
  have hm : t.mod = s.mod := by
    have h1 := e .module (by decide)
    have h2 := e .mode (by decide)
    simp only [Part.same] at h1 h2
    cases hs : s.mod; cases ht : t.mod
    rw [hs, ht] at h1 h2
    simp_all
  have hq := h.frame.queue
  have h1 := e .time (by decide)
  have h4 := e .ctl (by decide)
  have h5 := e .cyc (by decide)
  have h6 := e .lanes (by decide)
  have h7 := e .agr (by decide)
  have h8 := e .rings (by decide)
  have h9 := e .eaves (by decide)
  have h10 := e .host (by decide)
  have h11 := e .peer (by decide)
  have h12 := e .hub (by decide)
  simp only [Part.same] at h1 h4 h5 h6 h7 h8 h9 h10 h11 h12
  cases s; cases t
  simp_all

theorem gutPut_eq (s : State) (r : GRec) : gutPut s r = { s with gut := (gutPut s r).gut } := Kept.gut_only (gutPut_kept ..)
@[simp] theorem gutPut_pending (s : State) (r : GRec) : (gutPut s r).pending = s.pending := by rw [gutPut_eq]
@[simp] theorem gutPut_time (s : State) (r : GRec) : (gutPut s r).time = s.time := by rw [gutPut_eq]
@[simp] theorem gutPut_ul (s : State) (r : GRec) : (gutPut s r).ul = s.ul := by rw [gutPut_eq]
@[simp] theorem gutPut_mod (s : State) (r : GRec) : (gutPut s r).mod = s.mod := by rw [gutPut_eq]
@[simp] theorem gutPut_ctl (s : State) (r : GRec) : (gutPut s r).ctl = s.ctl := by rw [gutPut_eq]
@[simp] theorem gutPut_cyc (s : State) (r : GRec) : (gutPut s r).cyc = s.cyc := by rw [gutPut_eq]
@[simp] theorem gutPut_lanes (s : State) (r : GRec) : (gutPut s r).lanes = s.lanes := by rw [gutPut_eq]
@[simp] theorem gutPut_agr (s : State) (r : GRec) : (gutPut s r).agr = s.agr := by rw [gutPut_eq]
@[simp] theorem gutPut_rings (s : State) (r : GRec) : (gutPut s r).rings = s.rings := by rw [gutPut_eq]
@[simp] theorem gutPut_eaves (s : State) (r : GRec) : (gutPut s r).eaves = s.eaves := by rw [gutPut_eq]
@[simp] theorem gutPut_host (s : State) (r : GRec) : (gutPut s r).host = s.host := by rw [gutPut_eq]
@[simp] theorem gutPut_peer (s : State) (r : GRec) : (gutPut s r).peer = s.peer := by rw [gutPut_eq]
@[simp] theorem gutPut_hub (s : State) (r : GRec) : (gutPut s r).hub = s.hub := by rw [gutPut_eq]

theorem gutDrain_eq (s : State) (c : GClass) : gutDrain s c = { s with gut := (gutDrain s c).gut } := Kept.gut_only (gutDrain_kept ..)
@[simp] theorem gutDrain_pending (s : State) (c : GClass) : (gutDrain s c).pending = s.pending := by rw [gutDrain_eq]
@[simp] theorem gutDrain_time (s : State) (c : GClass) : (gutDrain s c).time = s.time := by rw [gutDrain_eq]
@[simp] theorem gutDrain_ul (s : State) (c : GClass) : (gutDrain s c).ul = s.ul := by rw [gutDrain_eq]
@[simp] theorem gutDrain_mod (s : State) (c : GClass) : (gutDrain s c).mod = s.mod := by rw [gutDrain_eq]
@[simp] theorem gutDrain_ctl (s : State) (c : GClass) : (gutDrain s c).ctl = s.ctl := by rw [gutDrain_eq]
@[simp] theorem gutDrain_cyc (s : State) (c : GClass) : (gutDrain s c).cyc = s.cyc := by rw [gutDrain_eq]
@[simp] theorem gutDrain_lanes (s : State) (c : GClass) : (gutDrain s c).lanes = s.lanes := by rw [gutDrain_eq]
@[simp] theorem gutDrain_agr (s : State) (c : GClass) : (gutDrain s c).agr = s.agr := by rw [gutDrain_eq]
@[simp] theorem gutDrain_rings (s : State) (c : GClass) : (gutDrain s c).rings = s.rings := by rw [gutDrain_eq]
@[simp] theorem gutDrain_eaves (s : State) (c : GClass) : (gutDrain s c).eaves = s.eaves := by rw [gutDrain_eq]
@[simp] theorem gutDrain_host (s : State) (c : GClass) : (gutDrain s c).host = s.host := by rw [gutDrain_eq]
@[simp] theorem gutDrain_peer (s : State) (c : GClass) : (gutDrain s c).peer = s.peer := by rw [gutDrain_eq]
@[simp] theorem gutDrain_hub (s : State) (c : GClass) : (gutDrain s c).hub = s.hub := by rw [gutDrain_eq]

theorem raiseShared_eq (s : State) (code : Nat) (args : List Byte) : raiseShared s code args = { s with gut := (raiseShared s code args).gut } := Kept.gut_only (raiseShared_kept ..)
@[simp] theorem raiseShared_pending (s : State) (code : Nat) (args : List Byte) : (raiseShared s code args).pending = s.pending := by rw [raiseShared_eq]
@[simp] theorem raiseShared_time (s : State) (code : Nat) (args : List Byte) : (raiseShared s code args).time = s.time := by rw [raiseShared_eq]
@[simp] theorem raiseShared_ul (s : State) (code : Nat) (args : List Byte) : (raiseShared s code args).ul = s.ul := by rw [raiseShared_eq]
@[simp] theorem raiseShared_mod (s : State) (code : Nat) (args : List Byte) : (raiseShared s code args).mod = s.mod := by rw [raiseShared_eq]
@[simp] theorem raiseShared_ctl (s : State) (code : Nat) (args : List Byte) : (raiseShared s code args).ctl = s.ctl := by rw [raiseShared_eq]
@[simp] theorem raiseShared_cyc (s : State) (code : Nat) (args : List Byte) : (raiseShared s code args).cyc = s.cyc := by rw [raiseShared_eq]
@[simp] theorem raiseShared_lanes (s : State) (code : Nat) (args : List Byte) : (raiseShared s code args).lanes = s.lanes := by rw [raiseShared_eq]
@[simp] theorem raiseShared_agr (s : State) (code : Nat) (args : List Byte) : (raiseShared s code args).agr = s.agr := by rw [raiseShared_eq]
@[simp] theorem raiseShared_rings (s : State) (code : Nat) (args : List Byte) : (raiseShared s code args).rings = s.rings := by rw [raiseShared_eq]
@[simp] theorem raiseShared_eaves (s : State) (code : Nat) (args : List Byte) : (raiseShared s code args).eaves = s.eaves := by rw [raiseShared_eq]
@[simp] theorem raiseShared_host (s : State) (code : Nat) (args : List Byte) : (raiseShared s code args).host = s.host := by rw [raiseShared_eq]
@[simp] theorem raiseShared_peer (s : State) (code : Nat) (args : List Byte) : (raiseShared s code args).peer = s.peer := by rw [raiseShared_eq]
@[simp] theorem raiseShared_hub (s : State) (code : Nat) (args : List Byte) : (raiseShared s code args).hub = s.hub := by rw [raiseShared_eq]

theorem raiseLane_eq (s : State) (l : Lane) (code : Nat) (args : List Byte) : raiseLane s l code args = { s with gut := (raiseLane s l code args).gut } := Kept.gut_only (raiseLane_kept ..)
@[simp] theorem raiseLane_pending (s : State) (l : Lane) (code : Nat) (args : List Byte) : (raiseLane s l code args).pending = s.pending := by rw [raiseLane_eq]
@[simp] theorem raiseLane_time (s : State) (l : Lane) (code : Nat) (args : List Byte) : (raiseLane s l code args).time = s.time := by rw [raiseLane_eq]
@[simp] theorem raiseLane_ul (s : State) (l : Lane) (code : Nat) (args : List Byte) : (raiseLane s l code args).ul = s.ul := by rw [raiseLane_eq]
@[simp] theorem raiseLane_mod (s : State) (l : Lane) (code : Nat) (args : List Byte) : (raiseLane s l code args).mod = s.mod := by rw [raiseLane_eq]
@[simp] theorem raiseLane_ctl (s : State) (l : Lane) (code : Nat) (args : List Byte) : (raiseLane s l code args).ctl = s.ctl := by rw [raiseLane_eq]
@[simp] theorem raiseLane_cyc (s : State) (l : Lane) (code : Nat) (args : List Byte) : (raiseLane s l code args).cyc = s.cyc := by rw [raiseLane_eq]
@[simp] theorem raiseLane_lanes (s : State) (l : Lane) (code : Nat) (args : List Byte) : (raiseLane s l code args).lanes = s.lanes := by rw [raiseLane_eq]
@[simp] theorem raiseLane_agr (s : State) (l : Lane) (code : Nat) (args : List Byte) : (raiseLane s l code args).agr = s.agr := by rw [raiseLane_eq]
@[simp] theorem raiseLane_rings (s : State) (l : Lane) (code : Nat) (args : List Byte) : (raiseLane s l code args).rings = s.rings := by rw [raiseLane_eq]
@[simp] theorem raiseLane_eaves (s : State) (l : Lane) (code : Nat) (args : List Byte) : (raiseLane s l code args).eaves = s.eaves := by rw [raiseLane_eq]
@[simp] theorem raiseLane_host (s : State) (l : Lane) (code : Nat) (args : List Byte) : (raiseLane s l code args).host = s.host := by rw [raiseLane_eq]
@[simp] theorem raiseLane_peer (s : State) (l : Lane) (code : Nat) (args : List Byte) : (raiseLane s l code args).peer = s.peer := by rw [raiseLane_eq]
@[simp] theorem raiseLane_hub (s : State) (l : Lane) (code : Nat) (args : List Byte) : (raiseLane s l code args).hub = s.hub := by rw [raiseLane_eq]

theorem raiseHub_eq (s : State) (code : Nat) (args : List Byte) : raiseHub s code args = { s with gut := (raiseHub s code args).gut } := Kept.gut_only (raiseHub_kept ..)
@[simp] theorem raiseHub_pending (s : State) (code : Nat) (args : List Byte) : (raiseHub s code args).pending = s.pending := by rw [raiseHub_eq]
@[simp] theorem raiseHub_time (s : State) (code : Nat) (args : List Byte) : (raiseHub s code args).time = s.time := by rw [raiseHub_eq]
@[simp] theorem raiseHub_ul (s : State) (code : Nat) (args : List Byte) : (raiseHub s code args).ul = s.ul := by rw [raiseHub_eq]
@[simp] theorem raiseHub_mod (s : State) (code : Nat) (args : List Byte) : (raiseHub s code args).mod = s.mod := by rw [raiseHub_eq]
@[simp] theorem raiseHub_ctl (s : State) (code : Nat) (args : List Byte) : (raiseHub s code args).ctl = s.ctl := by rw [raiseHub_eq]
@[simp] theorem raiseHub_cyc (s : State) (code : Nat) (args : List Byte) : (raiseHub s code args).cyc = s.cyc := by rw [raiseHub_eq]
@[simp] theorem raiseHub_lanes (s : State) (code : Nat) (args : List Byte) : (raiseHub s code args).lanes = s.lanes := by rw [raiseHub_eq]
@[simp] theorem raiseHub_agr (s : State) (code : Nat) (args : List Byte) : (raiseHub s code args).agr = s.agr := by rw [raiseHub_eq]
@[simp] theorem raiseHub_rings (s : State) (code : Nat) (args : List Byte) : (raiseHub s code args).rings = s.rings := by rw [raiseHub_eq]
@[simp] theorem raiseHub_eaves (s : State) (code : Nat) (args : List Byte) : (raiseHub s code args).eaves = s.eaves := by rw [raiseHub_eq]
@[simp] theorem raiseHub_host (s : State) (code : Nat) (args : List Byte) : (raiseHub s code args).host = s.host := by rw [raiseHub_eq]
@[simp] theorem raiseHub_peer (s : State) (code : Nat) (args : List Byte) : (raiseHub s code args).peer = s.peer := by rw [raiseHub_eq]
@[simp] theorem raiseHub_hub (s : State) (code : Nat) (args : List Byte) : (raiseHub s code args).hub = s.hub := by rw [raiseHub_eq]

theorem raiseUl_eq (s : State) (code : Nat) (args : List Byte) : raiseUl s code args = { s with gut := (raiseUl s code args).gut } := Kept.gut_only (raiseUl_kept ..)
@[simp] theorem raiseUl_pending (s : State) (code : Nat) (args : List Byte) : (raiseUl s code args).pending = s.pending := by rw [raiseUl_eq]
@[simp] theorem raiseUl_time (s : State) (code : Nat) (args : List Byte) : (raiseUl s code args).time = s.time := by rw [raiseUl_eq]
@[simp] theorem raiseUl_ul (s : State) (code : Nat) (args : List Byte) : (raiseUl s code args).ul = s.ul := by rw [raiseUl_eq]
@[simp] theorem raiseUl_mod (s : State) (code : Nat) (args : List Byte) : (raiseUl s code args).mod = s.mod := by rw [raiseUl_eq]
@[simp] theorem raiseUl_ctl (s : State) (code : Nat) (args : List Byte) : (raiseUl s code args).ctl = s.ctl := by rw [raiseUl_eq]
@[simp] theorem raiseUl_cyc (s : State) (code : Nat) (args : List Byte) : (raiseUl s code args).cyc = s.cyc := by rw [raiseUl_eq]
@[simp] theorem raiseUl_lanes (s : State) (code : Nat) (args : List Byte) : (raiseUl s code args).lanes = s.lanes := by rw [raiseUl_eq]
@[simp] theorem raiseUl_agr (s : State) (code : Nat) (args : List Byte) : (raiseUl s code args).agr = s.agr := by rw [raiseUl_eq]
@[simp] theorem raiseUl_rings (s : State) (code : Nat) (args : List Byte) : (raiseUl s code args).rings = s.rings := by rw [raiseUl_eq]
@[simp] theorem raiseUl_eaves (s : State) (code : Nat) (args : List Byte) : (raiseUl s code args).eaves = s.eaves := by rw [raiseUl_eq]
@[simp] theorem raiseUl_host (s : State) (code : Nat) (args : List Byte) : (raiseUl s code args).host = s.host := by rw [raiseUl_eq]
@[simp] theorem raiseUl_peer (s : State) (code : Nat) (args : List Byte) : (raiseUl s code args).peer = s.peer := by rw [raiseUl_eq]
@[simp] theorem raiseUl_hub (s : State) (code : Nat) (args : List Byte) : (raiseUl s code args).hub = s.hub := by rw [raiseUl_eq]

theorem raiseEaves_eq (s : State) (code : Nat) (args : List Byte) : raiseEaves s code args = { s with gut := (raiseEaves s code args).gut } := Kept.gut_only (raiseEaves_kept ..)
@[simp] theorem raiseEaves_pending (s : State) (code : Nat) (args : List Byte) : (raiseEaves s code args).pending = s.pending := by rw [raiseEaves_eq]
@[simp] theorem raiseEaves_time (s : State) (code : Nat) (args : List Byte) : (raiseEaves s code args).time = s.time := by rw [raiseEaves_eq]
@[simp] theorem raiseEaves_ul (s : State) (code : Nat) (args : List Byte) : (raiseEaves s code args).ul = s.ul := by rw [raiseEaves_eq]
@[simp] theorem raiseEaves_mod (s : State) (code : Nat) (args : List Byte) : (raiseEaves s code args).mod = s.mod := by rw [raiseEaves_eq]
@[simp] theorem raiseEaves_ctl (s : State) (code : Nat) (args : List Byte) : (raiseEaves s code args).ctl = s.ctl := by rw [raiseEaves_eq]
@[simp] theorem raiseEaves_cyc (s : State) (code : Nat) (args : List Byte) : (raiseEaves s code args).cyc = s.cyc := by rw [raiseEaves_eq]
@[simp] theorem raiseEaves_lanes (s : State) (code : Nat) (args : List Byte) : (raiseEaves s code args).lanes = s.lanes := by rw [raiseEaves_eq]
@[simp] theorem raiseEaves_agr (s : State) (code : Nat) (args : List Byte) : (raiseEaves s code args).agr = s.agr := by rw [raiseEaves_eq]
@[simp] theorem raiseEaves_rings (s : State) (code : Nat) (args : List Byte) : (raiseEaves s code args).rings = s.rings := by rw [raiseEaves_eq]
@[simp] theorem raiseEaves_eaves (s : State) (code : Nat) (args : List Byte) : (raiseEaves s code args).eaves = s.eaves := by rw [raiseEaves_eq]
@[simp] theorem raiseEaves_host (s : State) (code : Nat) (args : List Byte) : (raiseEaves s code args).host = s.host := by rw [raiseEaves_eq]
@[simp] theorem raiseEaves_peer (s : State) (code : Nat) (args : List Byte) : (raiseEaves s code args).peer = s.peer := by rw [raiseEaves_eq]
@[simp] theorem raiseEaves_hub (s : State) (code : Nat) (args : List Byte) : (raiseEaves s code args).hub = s.hub := by rw [raiseEaves_eq]

end Sys2Proof.Machine
end

