-- ==== Sys2Proof/Laws/State.lean ====
section
/-! SUPPORT. What the named updates leave as it was, one lemma per field per update, and what they do to the field they
change. -/

namespace Sys2Proof

/-! ## Quads and pairs -/

@[simp] theorem Quad.get_fill {α : Type} (x : α) (l : Lane) : (Quad.fill x).get l = x := by cases l <;> rfl
@[simp] theorem Quad.get_set_same {α : Type} (q : Quad α) (l : Lane) (x : α) : (q.set l x).get l = x := by cases l <;> rfl
theorem Quad.get_set_other {α : Type} (q : Quad α) (l m : Lane) (x : α) (h : m ≠ l) : (q.set l x).get m = q.get m := by
  cases l <;> cases m <;> first | rfl | exact absurd rfl h
@[simp] theorem Quad.get_map {α β : Type} (f : α → β) (q : Quad α) (l : Lane) : (q.map f).get l = f (q.get l) := by cases l <;> rfl
@[simp] theorem Quad.get_mapL {α β : Type} (f : Lane → α → β) (q : Quad α) (l : Lane) : (q.mapL f).get l = f l (q.get l) := by
  cases l <;> rfl
@[simp] theorem Quad.get_modify_same {α : Type} (q : Quad α) (l : Lane) (f : α → α) : (q.modify l f).get l = f (q.get l) := by
  simp [Quad.modify]
theorem Quad.get_modify_other {α : Type} (q : Quad α) (l m : Lane) (f : α → α) (h : m ≠ l) : (q.modify l f).get m = q.get m := by
  simp [Quad.modify, Quad.get_set_other q l m _ h]
@[simp] theorem Two.get_fill {α : Type} (x : α) (p : Plane) : (Two.fill x).get p = x := by cases p <;> rfl
@[simp] theorem Two.get_set_same {α : Type} (t : Two α) (p : Plane) (x : α) : (t.set p x).get p = x := by cases p <;> rfl
theorem Two.get_set_other {α : Type} (t : Two α) (p r : Plane) (x : α) (h : r ≠ p) : (t.set p x).get r = t.get r := by
  cases p <;> cases r <;> first | rfl | exact absurd rfl h
@[simp] theorem Two.get_modify_same {α : Type} (t : Two α) (p : Plane) (f : α → α) : (t.modify p f).get p = f (t.get p) := by
  simp [Two.modify]
theorem Two.get_modify_other {α : Type} (t : Two α) (p r : Plane) (f : α → α) (h : r ≠ p) : (t.modify p f).get r = t.get r := by
  simp [Two.modify, Two.get_set_other t p r _ h]

namespace Machine

/-! ## The field an update changes -/

@[simp] theorem onLane_same (s : State) (l : Lane) (f : LaneSt → LaneSt) : (onLane s l f).lanes.get l = f (s.lanes.get l) := by
  simp [onLane]
theorem onLane_other (s : State) (l m : Lane) (f : LaneSt → LaneSt) (h : m ≠ l) :
    (onLane s l f).lanes.get m = s.lanes.get m := by simp [onLane, Quad.get_modify_other _ _ _ _ h]
theorem onLanes_in (s : State) (ls : List Lane) (f : Lane → LaneSt → LaneSt) (l : Lane) (h : l ∈ ls) :
    (onLanes s ls f).lanes.get l = f l (s.lanes.get l) := by simp [onLanes, h]
theorem onLanes_out (s : State) (ls : List Lane) (f : Lane → LaneSt → LaneSt) (l : Lane) (h : l ∉ ls) :
    (onLanes s ls f).lanes.get l = s.lanes.get l := by simp [onLanes, h]
@[simp] theorem bootMod_boot (s : State) (f : BootSt → BootSt) : (bootMod s f).mod.boot = f s.mod.boot := rfl
@[simp] theorem bootMod_st (s : State) (f : BootSt → BootSt) : (bootMod s f).mod.st = s.mod.st := rfl

/-! ## The fields it leaves -/

@[simp] theorem onLane_pending (s : State) (l : Lane) (f : LaneSt → LaneSt) : (onLane s l f).pending = s.pending := rfl
@[simp] theorem onLane_time (s : State) (l : Lane) (f : LaneSt → LaneSt) : (onLane s l f).time = s.time := rfl
@[simp] theorem onLane_ul (s : State) (l : Lane) (f : LaneSt → LaneSt) : (onLane s l f).ul = s.ul := rfl
@[simp] theorem onLane_mod (s : State) (l : Lane) (f : LaneSt → LaneSt) : (onLane s l f).mod = s.mod := rfl
@[simp] theorem onLane_ctl (s : State) (l : Lane) (f : LaneSt → LaneSt) : (onLane s l f).ctl = s.ctl := rfl
@[simp] theorem onLane_cyc (s : State) (l : Lane) (f : LaneSt → LaneSt) : (onLane s l f).cyc = s.cyc := rfl
@[simp] theorem onLane_agr (s : State) (l : Lane) (f : LaneSt → LaneSt) : (onLane s l f).agr = s.agr := rfl
@[simp] theorem onLane_rings (s : State) (l : Lane) (f : LaneSt → LaneSt) : (onLane s l f).rings = s.rings := rfl
@[simp] theorem onLane_eaves (s : State) (l : Lane) (f : LaneSt → LaneSt) : (onLane s l f).eaves = s.eaves := rfl
@[simp] theorem onLane_host (s : State) (l : Lane) (f : LaneSt → LaneSt) : (onLane s l f).host = s.host := rfl
@[simp] theorem onLane_peer (s : State) (l : Lane) (f : LaneSt → LaneSt) : (onLane s l f).peer = s.peer := rfl
@[simp] theorem onLane_gut (s : State) (l : Lane) (f : LaneSt → LaneSt) : (onLane s l f).gut = s.gut := rfl
@[simp] theorem onLane_hub (s : State) (l : Lane) (f : LaneSt → LaneSt) : (onLane s l f).hub = s.hub := rfl

@[simp] theorem onLanes_pending (s : State) (ls : List Lane) (f : Lane → LaneSt → LaneSt) : (onLanes s ls f).pending = s.pending := rfl
@[simp] theorem onLanes_time (s : State) (ls : List Lane) (f : Lane → LaneSt → LaneSt) : (onLanes s ls f).time = s.time := rfl
@[simp] theorem onLanes_ul (s : State) (ls : List Lane) (f : Lane → LaneSt → LaneSt) : (onLanes s ls f).ul = s.ul := rfl
@[simp] theorem onLanes_mod (s : State) (ls : List Lane) (f : Lane → LaneSt → LaneSt) : (onLanes s ls f).mod = s.mod := rfl
@[simp] theorem onLanes_ctl (s : State) (ls : List Lane) (f : Lane → LaneSt → LaneSt) : (onLanes s ls f).ctl = s.ctl := rfl
@[simp] theorem onLanes_cyc (s : State) (ls : List Lane) (f : Lane → LaneSt → LaneSt) : (onLanes s ls f).cyc = s.cyc := rfl
@[simp] theorem onLanes_agr (s : State) (ls : List Lane) (f : Lane → LaneSt → LaneSt) : (onLanes s ls f).agr = s.agr := rfl
@[simp] theorem onLanes_rings (s : State) (ls : List Lane) (f : Lane → LaneSt → LaneSt) : (onLanes s ls f).rings = s.rings := rfl
@[simp] theorem onLanes_eaves (s : State) (ls : List Lane) (f : Lane → LaneSt → LaneSt) : (onLanes s ls f).eaves = s.eaves := rfl
@[simp] theorem onLanes_host (s : State) (ls : List Lane) (f : Lane → LaneSt → LaneSt) : (onLanes s ls f).host = s.host := rfl
@[simp] theorem onLanes_peer (s : State) (ls : List Lane) (f : Lane → LaneSt → LaneSt) : (onLanes s ls f).peer = s.peer := rfl
@[simp] theorem onLanes_gut (s : State) (ls : List Lane) (f : Lane → LaneSt → LaneSt) : (onLanes s ls f).gut = s.gut := rfl
@[simp] theorem onLanes_hub (s : State) (ls : List Lane) (f : Lane → LaneSt → LaneSt) : (onLanes s ls f).hub = s.hub := rfl

@[simp] theorem qMod_pending (s : State) (q : Nat) (f : QReg → QReg) : (qMod s q f).pending = s.pending := rfl
@[simp] theorem qMod_time (s : State) (q : Nat) (f : QReg → QReg) : (qMod s q f).time = s.time := rfl
@[simp] theorem qMod_ul (s : State) (q : Nat) (f : QReg → QReg) : (qMod s q f).ul = s.ul := rfl
@[simp] theorem qMod_mod (s : State) (q : Nat) (f : QReg → QReg) : (qMod s q f).mod = s.mod := rfl
@[simp] theorem qMod_ctl (s : State) (q : Nat) (f : QReg → QReg) : (qMod s q f).ctl = s.ctl := rfl
@[simp] theorem qMod_cyc (s : State) (q : Nat) (f : QReg → QReg) : (qMod s q f).cyc = s.cyc := rfl
@[simp] theorem qMod_lanes (s : State) (q : Nat) (f : QReg → QReg) : (qMod s q f).lanes = s.lanes := rfl
@[simp] theorem qMod_agr (s : State) (q : Nat) (f : QReg → QReg) : (qMod s q f).agr = s.agr := rfl
@[simp] theorem qMod_rings (s : State) (q : Nat) (f : QReg → QReg) : (qMod s q f).rings = s.rings := rfl
@[simp] theorem qMod_eaves (s : State) (q : Nat) (f : QReg → QReg) : (qMod s q f).eaves = s.eaves := rfl
@[simp] theorem qMod_peer (s : State) (q : Nat) (f : QReg → QReg) : (qMod s q f).peer = s.peer := rfl
@[simp] theorem qMod_gut (s : State) (q : Nat) (f : QReg → QReg) : (qMod s q f).gut = s.gut := rfl
@[simp] theorem qMod_hub (s : State) (q : Nat) (f : QReg → QReg) : (qMod s q f).hub = s.hub := rfl

@[simp] theorem post_pending (s : State) (w : HostWrite) : (post s w).pending = s.pending := rfl
@[simp] theorem post_time (s : State) (w : HostWrite) : (post s w).time = s.time := rfl
@[simp] theorem post_ul (s : State) (w : HostWrite) : (post s w).ul = s.ul := rfl
@[simp] theorem post_mod (s : State) (w : HostWrite) : (post s w).mod = s.mod := rfl
@[simp] theorem post_ctl (s : State) (w : HostWrite) : (post s w).ctl = s.ctl := rfl
@[simp] theorem post_cyc (s : State) (w : HostWrite) : (post s w).cyc = s.cyc := rfl
@[simp] theorem post_lanes (s : State) (w : HostWrite) : (post s w).lanes = s.lanes := rfl
@[simp] theorem post_agr (s : State) (w : HostWrite) : (post s w).agr = s.agr := rfl
@[simp] theorem post_rings (s : State) (w : HostWrite) : (post s w).rings = s.rings := rfl
@[simp] theorem post_eaves (s : State) (w : HostWrite) : (post s w).eaves = s.eaves := rfl
@[simp] theorem post_peer (s : State) (w : HostWrite) : (post s w).peer = s.peer := rfl
@[simp] theorem post_gut (s : State) (w : HostWrite) : (post s w).gut = s.gut := rfl
@[simp] theorem post_hub (s : State) (w : HostWrite) : (post s w).hub = s.hub := rfl

@[simp] theorem vecRaise_pending (s : State) (v : Nat) : (vecRaise s v).pending = s.pending := rfl
@[simp] theorem vecRaise_time (s : State) (v : Nat) : (vecRaise s v).time = s.time := rfl
@[simp] theorem vecRaise_ul (s : State) (v : Nat) : (vecRaise s v).ul = s.ul := rfl
@[simp] theorem vecRaise_mod (s : State) (v : Nat) : (vecRaise s v).mod = s.mod := rfl
@[simp] theorem vecRaise_ctl (s : State) (v : Nat) : (vecRaise s v).ctl = s.ctl := rfl
@[simp] theorem vecRaise_cyc (s : State) (v : Nat) : (vecRaise s v).cyc = s.cyc := rfl
@[simp] theorem vecRaise_lanes (s : State) (v : Nat) : (vecRaise s v).lanes = s.lanes := rfl
@[simp] theorem vecRaise_agr (s : State) (v : Nat) : (vecRaise s v).agr = s.agr := rfl
@[simp] theorem vecRaise_rings (s : State) (v : Nat) : (vecRaise s v).rings = s.rings := rfl
@[simp] theorem vecRaise_eaves (s : State) (v : Nat) : (vecRaise s v).eaves = s.eaves := rfl
@[simp] theorem vecRaise_peer (s : State) (v : Nat) : (vecRaise s v).peer = s.peer := rfl
@[simp] theorem vecRaise_gut (s : State) (v : Nat) : (vecRaise s v).gut = s.gut := rfl
@[simp] theorem vecRaise_hub (s : State) (v : Nat) : (vecRaise s v).hub = s.hub := rfl

@[simp] theorem planeMod_pending (s : State) (r : RingId) (p : Plane) (f : PlaneHub → PlaneHub) : (planeMod s r p f).pending = s.pending := rfl
@[simp] theorem planeMod_time (s : State) (r : RingId) (p : Plane) (f : PlaneHub → PlaneHub) : (planeMod s r p f).time = s.time := rfl
@[simp] theorem planeMod_ul (s : State) (r : RingId) (p : Plane) (f : PlaneHub → PlaneHub) : (planeMod s r p f).ul = s.ul := rfl
@[simp] theorem planeMod_mod (s : State) (r : RingId) (p : Plane) (f : PlaneHub → PlaneHub) : (planeMod s r p f).mod = s.mod := rfl
@[simp] theorem planeMod_ctl (s : State) (r : RingId) (p : Plane) (f : PlaneHub → PlaneHub) : (planeMod s r p f).ctl = s.ctl := rfl
@[simp] theorem planeMod_cyc (s : State) (r : RingId) (p : Plane) (f : PlaneHub → PlaneHub) : (planeMod s r p f).cyc = s.cyc := rfl
@[simp] theorem planeMod_lanes (s : State) (r : RingId) (p : Plane) (f : PlaneHub → PlaneHub) : (planeMod s r p f).lanes = s.lanes := rfl
@[simp] theorem planeMod_agr (s : State) (r : RingId) (p : Plane) (f : PlaneHub → PlaneHub) : (planeMod s r p f).agr = s.agr := rfl
@[simp] theorem planeMod_eaves (s : State) (r : RingId) (p : Plane) (f : PlaneHub → PlaneHub) : (planeMod s r p f).eaves = s.eaves := rfl
@[simp] theorem planeMod_host (s : State) (r : RingId) (p : Plane) (f : PlaneHub → PlaneHub) : (planeMod s r p f).host = s.host := rfl
@[simp] theorem planeMod_peer (s : State) (r : RingId) (p : Plane) (f : PlaneHub → PlaneHub) : (planeMod s r p f).peer = s.peer := rfl
@[simp] theorem planeMod_gut (s : State) (r : RingId) (p : Plane) (f : PlaneHub → PlaneHub) : (planeMod s r p f).gut = s.gut := rfl
@[simp] theorem planeMod_hub (s : State) (r : RingId) (p : Plane) (f : PlaneHub → PlaneHub) : (planeMod s r p f).hub = s.hub := rfl

@[simp] theorem linkMod_pending (s : State) (l : Plane) (f : PeerLink → PeerLink) : (linkMod s l f).pending = s.pending := rfl
@[simp] theorem linkMod_time (s : State) (l : Plane) (f : PeerLink → PeerLink) : (linkMod s l f).time = s.time := rfl
@[simp] theorem linkMod_ul (s : State) (l : Plane) (f : PeerLink → PeerLink) : (linkMod s l f).ul = s.ul := rfl
@[simp] theorem linkMod_mod (s : State) (l : Plane) (f : PeerLink → PeerLink) : (linkMod s l f).mod = s.mod := rfl
@[simp] theorem linkMod_ctl (s : State) (l : Plane) (f : PeerLink → PeerLink) : (linkMod s l f).ctl = s.ctl := rfl
@[simp] theorem linkMod_cyc (s : State) (l : Plane) (f : PeerLink → PeerLink) : (linkMod s l f).cyc = s.cyc := rfl
@[simp] theorem linkMod_lanes (s : State) (l : Plane) (f : PeerLink → PeerLink) : (linkMod s l f).lanes = s.lanes := rfl
@[simp] theorem linkMod_agr (s : State) (l : Plane) (f : PeerLink → PeerLink) : (linkMod s l f).agr = s.agr := rfl
@[simp] theorem linkMod_rings (s : State) (l : Plane) (f : PeerLink → PeerLink) : (linkMod s l f).rings = s.rings := rfl
@[simp] theorem linkMod_eaves (s : State) (l : Plane) (f : PeerLink → PeerLink) : (linkMod s l f).eaves = s.eaves := rfl
@[simp] theorem linkMod_host (s : State) (l : Plane) (f : PeerLink → PeerLink) : (linkMod s l f).host = s.host := rfl
@[simp] theorem linkMod_gut (s : State) (l : Plane) (f : PeerLink → PeerLink) : (linkMod s l f).gut = s.gut := rfl
@[simp] theorem linkMod_hub (s : State) (l : Plane) (f : PeerLink → PeerLink) : (linkMod s l f).hub = s.hub := rfl

@[simp] theorem bootMod_pending (s : State) (f : BootSt → BootSt) : (bootMod s f).pending = s.pending := rfl
@[simp] theorem bootMod_time (s : State) (f : BootSt → BootSt) : (bootMod s f).time = s.time := rfl
@[simp] theorem bootMod_ul (s : State) (f : BootSt → BootSt) : (bootMod s f).ul = s.ul := rfl
@[simp] theorem bootMod_ctl (s : State) (f : BootSt → BootSt) : (bootMod s f).ctl = s.ctl := rfl
@[simp] theorem bootMod_cyc (s : State) (f : BootSt → BootSt) : (bootMod s f).cyc = s.cyc := rfl
@[simp] theorem bootMod_lanes (s : State) (f : BootSt → BootSt) : (bootMod s f).lanes = s.lanes := rfl
@[simp] theorem bootMod_agr (s : State) (f : BootSt → BootSt) : (bootMod s f).agr = s.agr := rfl
@[simp] theorem bootMod_rings (s : State) (f : BootSt → BootSt) : (bootMod s f).rings = s.rings := rfl
@[simp] theorem bootMod_eaves (s : State) (f : BootSt → BootSt) : (bootMod s f).eaves = s.eaves := rfl
@[simp] theorem bootMod_host (s : State) (f : BootSt → BootSt) : (bootMod s f).host = s.host := rfl
@[simp] theorem bootMod_peer (s : State) (f : BootSt → BootSt) : (bootMod s f).peer = s.peer := rfl
@[simp] theorem bootMod_gut (s : State) (f : BootSt → BootSt) : (bootMod s f).gut = s.gut := rfl
@[simp] theorem bootMod_hub (s : State) (f : BootSt → BootSt) : (bootMod s f).hub = s.hub := rfl

@[simp] theorem chainMod_pending (s : State) (c : Chain) (f : ChainSt → ChainSt) : (chainMod s c f).pending = s.pending := rfl
@[simp] theorem chainMod_time (s : State) (c : Chain) (f : ChainSt → ChainSt) : (chainMod s c f).time = s.time := rfl
@[simp] theorem chainMod_ul (s : State) (c : Chain) (f : ChainSt → ChainSt) : (chainMod s c f).ul = s.ul := rfl
@[simp] theorem chainMod_mod (s : State) (c : Chain) (f : ChainSt → ChainSt) : (chainMod s c f).mod = s.mod := rfl
@[simp] theorem chainMod_ctl (s : State) (c : Chain) (f : ChainSt → ChainSt) : (chainMod s c f).ctl = s.ctl := rfl
@[simp] theorem chainMod_cyc (s : State) (c : Chain) (f : ChainSt → ChainSt) : (chainMod s c f).cyc = s.cyc := rfl
@[simp] theorem chainMod_lanes (s : State) (c : Chain) (f : ChainSt → ChainSt) : (chainMod s c f).lanes = s.lanes := rfl
@[simp] theorem chainMod_agr (s : State) (c : Chain) (f : ChainSt → ChainSt) : (chainMod s c f).agr = s.agr := rfl
@[simp] theorem chainMod_rings (s : State) (c : Chain) (f : ChainSt → ChainSt) : (chainMod s c f).rings = s.rings := rfl
@[simp] theorem chainMod_host (s : State) (c : Chain) (f : ChainSt → ChainSt) : (chainMod s c f).host = s.host := rfl
@[simp] theorem chainMod_peer (s : State) (c : Chain) (f : ChainSt → ChainSt) : (chainMod s c f).peer = s.peer := rfl
@[simp] theorem chainMod_gut (s : State) (c : Chain) (f : ChainSt → ChainSt) : (chainMod s c f).gut = s.gut := rfl
@[simp] theorem chainMod_hub (s : State) (c : Chain) (f : ChainSt → ChainSt) : (chainMod s c f).hub = s.hub := rfl

@[simp] theorem inMod_pending (s : State) (c : Chain) (i : Nat) (f : ChainIn → ChainIn) : (inMod s c i f).pending = s.pending := rfl
@[simp] theorem inMod_time (s : State) (c : Chain) (i : Nat) (f : ChainIn → ChainIn) : (inMod s c i f).time = s.time := rfl
@[simp] theorem inMod_ul (s : State) (c : Chain) (i : Nat) (f : ChainIn → ChainIn) : (inMod s c i f).ul = s.ul := rfl
@[simp] theorem inMod_mod (s : State) (c : Chain) (i : Nat) (f : ChainIn → ChainIn) : (inMod s c i f).mod = s.mod := rfl
@[simp] theorem inMod_ctl (s : State) (c : Chain) (i : Nat) (f : ChainIn → ChainIn) : (inMod s c i f).ctl = s.ctl := rfl
@[simp] theorem inMod_cyc (s : State) (c : Chain) (i : Nat) (f : ChainIn → ChainIn) : (inMod s c i f).cyc = s.cyc := rfl
@[simp] theorem inMod_lanes (s : State) (c : Chain) (i : Nat) (f : ChainIn → ChainIn) : (inMod s c i f).lanes = s.lanes := rfl
@[simp] theorem inMod_agr (s : State) (c : Chain) (i : Nat) (f : ChainIn → ChainIn) : (inMod s c i f).agr = s.agr := rfl
@[simp] theorem inMod_rings (s : State) (c : Chain) (i : Nat) (f : ChainIn → ChainIn) : (inMod s c i f).rings = s.rings := rfl
@[simp] theorem inMod_host (s : State) (c : Chain) (i : Nat) (f : ChainIn → ChainIn) : (inMod s c i f).host = s.host := rfl
@[simp] theorem inMod_peer (s : State) (c : Chain) (i : Nat) (f : ChainIn → ChainIn) : (inMod s c i f).peer = s.peer := rfl
@[simp] theorem inMod_gut (s : State) (c : Chain) (i : Nat) (f : ChainIn → ChainIn) : (inMod s c i f).gut = s.gut := rfl
@[simp] theorem inMod_hub (s : State) (c : Chain) (i : Nat) (f : ChainIn → ChainIn) : (inMod s c i f).hub = s.hub := rfl

@[simp] theorem pairMod_pending (s : State) (c : Chain) (i : Nat) (f : PairSt → PairSt) : (pairMod s c i f).pending = s.pending := rfl
@[simp] theorem pairMod_time (s : State) (c : Chain) (i : Nat) (f : PairSt → PairSt) : (pairMod s c i f).time = s.time := rfl
@[simp] theorem pairMod_ul (s : State) (c : Chain) (i : Nat) (f : PairSt → PairSt) : (pairMod s c i f).ul = s.ul := rfl
@[simp] theorem pairMod_mod (s : State) (c : Chain) (i : Nat) (f : PairSt → PairSt) : (pairMod s c i f).mod = s.mod := rfl
@[simp] theorem pairMod_ctl (s : State) (c : Chain) (i : Nat) (f : PairSt → PairSt) : (pairMod s c i f).ctl = s.ctl := rfl
@[simp] theorem pairMod_cyc (s : State) (c : Chain) (i : Nat) (f : PairSt → PairSt) : (pairMod s c i f).cyc = s.cyc := rfl
@[simp] theorem pairMod_lanes (s : State) (c : Chain) (i : Nat) (f : PairSt → PairSt) : (pairMod s c i f).lanes = s.lanes := rfl
@[simp] theorem pairMod_agr (s : State) (c : Chain) (i : Nat) (f : PairSt → PairSt) : (pairMod s c i f).agr = s.agr := rfl
@[simp] theorem pairMod_rings (s : State) (c : Chain) (i : Nat) (f : PairSt → PairSt) : (pairMod s c i f).rings = s.rings := rfl
@[simp] theorem pairMod_host (s : State) (c : Chain) (i : Nat) (f : PairSt → PairSt) : (pairMod s c i f).host = s.host := rfl
@[simp] theorem pairMod_peer (s : State) (c : Chain) (i : Nat) (f : PairSt → PairSt) : (pairMod s c i f).peer = s.peer := rfl
@[simp] theorem pairMod_gut (s : State) (c : Chain) (i : Nat) (f : PairSt → PairSt) : (pairMod s c i f).gut = s.gut := rfl
@[simp] theorem pairMod_hub (s : State) (c : Chain) (i : Nat) (f : PairSt → PairSt) : (pairMod s c i f).hub = s.hub := rfl

@[simp] theorem bootstatSet_pending (s : State) (i : Nat) : (bootstatSet s i).pending = s.pending := rfl
@[simp] theorem bootstatSet_time (s : State) (i : Nat) : (bootstatSet s i).time = s.time := rfl
@[simp] theorem bootstatSet_ul (s : State) (i : Nat) : (bootstatSet s i).ul = s.ul := rfl
@[simp] theorem bootstatSet_mod (s : State) (i : Nat) : (bootstatSet s i).mod = s.mod := rfl
@[simp] theorem bootstatSet_ctl (s : State) (i : Nat) : (bootstatSet s i).ctl = s.ctl := rfl
@[simp] theorem bootstatSet_cyc (s : State) (i : Nat) : (bootstatSet s i).cyc = s.cyc := rfl
@[simp] theorem bootstatSet_lanes (s : State) (i : Nat) : (bootstatSet s i).lanes = s.lanes := rfl
@[simp] theorem bootstatSet_agr (s : State) (i : Nat) : (bootstatSet s i).agr = s.agr := rfl
@[simp] theorem bootstatSet_rings (s : State) (i : Nat) : (bootstatSet s i).rings = s.rings := rfl
@[simp] theorem bootstatSet_eaves (s : State) (i : Nat) : (bootstatSet s i).eaves = s.eaves := rfl
@[simp] theorem bootstatSet_peer (s : State) (i : Nat) : (bootstatSet s i).peer = s.peer := rfl
@[simp] theorem bootstatSet_gut (s : State) (i : Nat) : (bootstatSet s i).gut = s.gut := rfl
@[simp] theorem bootstatSet_hub (s : State) (i : Nat) : (bootstatSet s i).hub = s.hub := rfl

end Machine

end Sys2Proof
end

