-- ==== Sys2Proof/Tests/Slice0.lean ====
section
/-! SUPPORT. Own tests: the ill-formed commands that WellFormed refuses, a concrete state and operands for the hypotheses of every
statement and of its clauses, and single steps whose results are read from the manual. -/

namespace Sys2Proof.Tests
open Sys2Proof.Machine
set_option Elab.async false

/-! ## Small states -/

/-- A small station image: one ring with one node, one task, the Eaves block with every input pulsed and every output used. -/
def y0 : Yealm :=
  { split := false, instCode := 0, crc64 := 0x1234, program := [],
    truss := { objs := [], routes := [], points := [], sigs := [], tcbOff := 0x10000, tableCrc := 0 }, endpoints := [], objMap := [],
    rings := ⟨{ lenIn := 10, cabling := 0, nodes := [{ nodeId := 7, connId := 9, holdT := 2, lage := 2 }] }, { lenIn := 0, cabling := 0, nodes := [] },
      { lenIn := 0, cabling := 0, nodes := [] }, { lenIn := 0, cabling := 0, nodes := [] }⟩,
    eaves := eCfg, eavesRaw := [], tasks := [{ m := 1, phase := 0, prio := 1, command := true, wcetUs := 100 }], dir := [], decls := [],
    periodMs := 10, rotHours := 6, narea := 2, rlockS := [60, 60] }
where
  /-- Its Eaves configuration. -/
  eCfg : EavesCfg :=
    { ti := 1, ins := (List.range 64).map fun i => { src := 0, mode := if i = 56 then 3 else 1, filt := 4, gate := 0, pair := 1, proof := false, disc := 5 },
      outs := List.replicate 32 { used := true, par := 0, pw := 1, inrush := false, openChk := false }, enable := ⟨true, true⟩, crc := 7 }

/-- A lane of a role, with the small image ACTIVE. -/
def lane (r : Role) : LaneSt :=
  { role := r, checked := true, injectOk := true, clocksOn := true, yealm := some y0,
    mram := { Mram.blank with bank0 := { state := .active, mem := [], size := 0, img := some y0 } } }

/-- The module in VITAL, in two-out-of-three operation with a resting lane, the key in RUN, the lease held, the port open. -/
def vit : State :=
  { State.reset with
    mod := { st := .vital, ycrc := 0x1234, boot := { diesOut := true, checked := true, agreed := true } },
    ul := { State.reset.ul with healthy := true, leaseRun := true },
    ctl := { agreed := true, contacts := 3, pos := some .run, lastValid := some .run, swValid := true, sw := 0x20000 },
    cyc := { k := 7, opened := true, mode := .tooThree, healthy := 4, nextRest := .A },
    lanes := ⟨lane .voting, lane .voting, lane .voting, lane .resting⟩,
    peer := { held := true, epoch := 1 },
    host := { en := true, bme := true, msixEn := true, quiesced := false,
              q := State.reset.host.q.map fun r => { r with en := true } } }

/-- The module in BOOT, out of reset, the start-up check made. -/
def boo : State :=
  { State.reset with
    mod := { st := .boot, ycrc := 0x1234, boot := { diesOut := true, checked := true } }, lanes := Quad.fill (lane .off) }

/-- The module of a pair in STANDBY. -/
def stb : State :=
  { vit with
    mod := { vit.mod with st := .standby }, ul := { vit.ul with healthy := false, leaseRun := false },
    ctl := { vit.ctl with swBoot := 0x80000, sw := 0xA0000 },
    cyc := { vit.cyc with opened := false },
    peer := { vit.peer with held := false, links := Two.fill { sfpOk := true, up := true }, lastGroup := 6 } }

/-- The module of a pair that is active. -/
def act : State :=
  { vit with ctl := { vit.ctl with swBoot := 0x80000, sw := 0xA0000 }, peer := { vit.peer with links := Two.fill { sfpOk := true, up := true } } }

/-- The cycle between input agreement and the vote. -/
def win : State := { vit with cyc := { vit.cyc with closed := true, agreedIn := true } }

/-- A command descriptor's request of the host. -/
def req0 : HostReq := { posted := true, addr := 0, be := 15, bar := 2, len := 1, hdr := zeros 16 }

/-! ## CRCs that the kernel evaluates byte by byte -/

/-- A CRC over bytes on numbers: matching on the running value has the kernel evaluate it before the next byte. -/
def crcRun (w : Nat) (f : BitVec w → Byte → BitVec w) : List Byte → Nat → Nat
  | [], n => n
  | b :: r, 0 => crcRun w f r (f 0 b).toNat
  | b :: r, k + 1 => crcRun w f r (f (BitVec.ofNat w (k + 1)) b).toNat

theorem crcRun_eq (w : Nat) (f : BitVec w → Byte → BitVec w) (l : List Byte) : ∀ n, l.foldl f (BitVec.ofNat w n) = BitVec.ofNat w (crcRun w f l n) := by
  induction l with
  | nil => intro n; cases n <;> rfl
  | cons b r ih =>
    intro n
    have h : ∀ m, BitVec.ofNat w (f (BitVec.ofNat w m) b).toNat = f (BitVec.ofNat w m) b := fun m => by simp
    cases n with
    | zero => rw [List.foldl_cons, ← h 0, ih]; rfl
    | succ k => rw [List.foldl_cons, ← h (k + 1), ih]; rfl

theorem crc16_run (l : List Byte) : crc16 l = BitVec.ofNat 16 (crcRun 16 crcByte16 l 0xFFFF) := crcRun_eq 16 _ l _
theorem crc32c_run (l : List Byte) : crc32c l = ~~~ BitVec.ofNat 32 (crcRun 32 (crcByteR 32 0x82F63B78#32) l 0xFFFFFFFF) :=
  congrArg (~~~ ·) (crcRun_eq 32 _ l _)
theorem crc64xz_run (l : List Byte) : crc64xz l = ~~~ BitVec.ofNat 64 (crcRun 64 (crcByteR 64 0xC96C5795D7870F42#64) l 0xFFFFFFFFFFFFFFFF) :=
  congrArg (~~~ ·) (crcRun_eq 64 _ l _)
/-- The check values of the three CRCs over "123456789" (R142, R160, R270). -/
def digits : List Byte := [0x31, 0x32, 0x33, 0x34, 0x35, 0x36, 0x37, 0x38, 0x39]
theorem test_crc32c : crc32c digits = 0xE3069283 := by rw [crc32c_run]; decide +kernel
theorem test_crc64xz : crc64xz digits = 0x995DC9BBDF1939FA := by rw [crc64xz_run]; decide +kernel
theorem test_crc16 : crc16 digits = 0x29B1 := by rw [crc16_run]; decide +kernel

/-- FIPS 180-4: the digest of the message abc. -/
theorem test_sha : beNat (sha256 [0x61, 0x62, 0x63]) = 0xba7816bf8f01cfea414140de5dae2223b00361a396177a9cb410ff61f20015ad := by decide +kernel
/-- SEC 2: twice the base point of P-256. -/
theorem test_double : ecMul p256G 2 2 = some (0x7CF27B188D034F7E8A52380304B51AC3C08969E277F21B35A60B48FC47669978,
    0x07775510DB8ED040293D9AC69F7430DBBA7DADE63CE982299E04B79D227873D1) := by decide +kernel

/-! ## A small signed station image that passes every check -/

/-- A yealm of 2 376 B made by hand from R142 to R167, R218 and R277: every section packed, no object and no route, one task, the
carry-over block as the only variable, one area; signed under `testKey`. -/
def img : List Byte :=
  [0x31, 0x4D, 0x4C, 0x59, 0x01] ++
  zeros 11 ++
  [0x01, 0x00, 0x00, 0x00, 0x01] ++
  zeros 11 ++
  [0x48, 0x09, 0x00, 0x00, 0x40, 0x05, 0x00, 0x00, 0x0A] ++
  zeros 4 ++
  [0x01, 0x00, 0x00, 0x00, 0x09] ++
  zeros 202 ++
  [0x6D, 0x70, 0x9D, 0xD2, 0x01, 0x00, 0x01, 0x00, 0x00, 0x02] ++
  zeros 10 ++
  [0x02, 0x00, 0x01, 0x00, 0x00, 0x02, 0x00, 0x00, 0x2B] ++
  zeros 4 ++
  [0x01, 0x00, 0x00, 0x03, 0x00, 0x01, 0x00, 0x00, 0x03] ++
  zeros 10 ++
  [0x04, 0x00, 0x01, 0x00, 0x00, 0x03] ++
  zeros 10 ++
  [0x05, 0x00, 0x01, 0x00, 0x00, 0x03, 0x00, 0x00, 0x01, 0x00, 0x00, 0x00, 0x40, 0x00, 0x00, 0x00, 0x06, 0x00, 0x01, 0x00, 0x00, 0x04, 0x00, 0x00, 0x98, 0x01, 0x00, 0x00, 0x00, 0x02, 0x00, 0x00, 0x07, 0x00, 0x01, 0x00, 0x00, 0x06, 0x00, 0x00, 0x0B, 0x00, 0x00, 0x00, 0x10, 0x00, 0x00, 0x00, 0x08, 0x00, 0x01, 0x00, 0x00, 0x07, 0x00, 0x00, 0x08, 0x00, 0x00, 0x00, 0x10, 0x00, 0x00, 0x00, 0x09, 0x00, 0x01, 0x00, 0x00, 0x08] ++
  zeros 10 ++
  [0x0A, 0x00, 0x01, 0x00, 0x00, 0x08, 0x00, 0x00, 0x0A, 0x00, 0x00, 0x00, 0x40] ++
  zeros 99 ++
  [0x04, 0x53, 0x53, 0x52, 0x54, 0x01, 0xA3, 0x00, 0x01, 0x82, 0x00, 0x01, 0x82, 0x00, 0x01, 0x82, 0x00, 0x01, 0x82, 0x00, 0x01, 0x82, 0x00, 0x01, 0x82, 0x00, 0x01, 0x82, 0x00, 0x01, 0xA3, 0x00, 0x01, 0x81, 0x00, 0x01, 0xFF, 0x8D, 0x03, 0x54, 0x40, 0x19, 0xE7] ++
  zeros 213 ++
  [0xBF] ++
  zeros 255 ++
  [0x04, 0x31, 0x56, 0x41, 0x45, 0x01, 0x80, 0x00, 0x0A, 0x81, 0x00, 0x02, 0x85, 0x00, 0x60, 0x80, 0x00, 0x64, 0x80, 0x00, 0x60, 0x82, 0x00, 0x60, 0x80, 0x00, 0x64, 0x80, 0x00, 0x60, 0x82, 0x00, 0x60, 0x80, 0x00, 0x64, 0x80, 0x00, 0x60, 0x82, 0x00, 0x60, 0x80, 0x00, 0x64, 0x80, 0x00, 0x60, 0x82, 0x00, 0x60, 0x80, 0x00, 0x64, 0x80, 0x00, 0x60, 0x82, 0x00, 0x60, 0x80, 0x00, 0x64, 0x80, 0x00, 0x60, 0x82, 0x00, 0x60, 0x80, 0x00, 0x64, 0x80, 0x00, 0x60, 0x82, 0x00, 0x60, 0x80, 0x00, 0x64, 0x80, 0x00, 0x60, 0x82, 0x00, 0x60, 0x80, 0x00, 0x64, 0x80, 0x00, 0x60, 0x82, 0x00, 0x60, 0x80, 0x00, 0x64, 0x80, 0x00, 0x60, 0x82, 0x00, 0x60, 0x80, 0x00, 0x64, 0x80, 0x00, 0x60, 0x82, 0x00, 0x60, 0x80, 0x00, 0x64, 0x80, 0x00, 0x60, 0x82, 0x00, 0x60, 0x80, 0x00, 0x64, 0x80, 0x00, 0x60, 0x82, 0x00, 0x60, 0x80, 0x00, 0x64, 0x80, 0x00, 0x60, 0x82, 0x00, 0x60, 0x80, 0x00, 0x64, 0x80, 0x00, 0x60, 0x82, 0x00, 0x60, 0x80, 0x00, 0x64, 0x80, 0x00, 0x60, 0x82, 0x00, 0x60, 0x80, 0x00, 0x64, 0x80, 0x00, 0x60, 0x82, 0x00, 0x60, 0x80, 0x00, 0x64, 0x80, 0x00, 0x60, 0x82, 0x00, 0x60, 0x80, 0x00, 0x64, 0x80, 0x00, 0x60, 0x82, 0x00, 0x60, 0x80, 0x00, 0x64, 0x80, 0x00, 0x60, 0x82, 0x00, 0x60, 0x80, 0x00, 0x64, 0x80, 0x00, 0x60, 0x82, 0x00, 0x60, 0x80, 0x00, 0x64, 0x80, 0x00, 0x60, 0x82, 0x00, 0x60, 0x80, 0x00, 0x64, 0x80, 0x00, 0x60, 0x82, 0x00, 0x60, 0x80, 0x00, 0x64, 0x80, 0x00, 0x60, 0x82, 0x00, 0x60, 0x80, 0x00, 0x64, 0x80, 0x00, 0x60, 0x82, 0x00, 0x60, 0x80, 0x00, 0x64, 0x80, 0x00, 0x60, 0x82, 0x00, 0x60, 0x80, 0x00, 0x64, 0x80, 0x00, 0x60, 0x82, 0x00, 0x60, 0x80, 0x00, 0x64, 0x80, 0x00, 0x60, 0x82, 0x00, 0x60, 0x80, 0x00, 0x64, 0x80, 0x00, 0x60, 0x82, 0x00, 0x60, 0x80, 0x00, 0x64, 0x80, 0x00, 0x60, 0x82, 0x00, 0x60, 0x80, 0x00, 0x64, 0x80, 0x00, 0x60, 0x82, 0x00, 0x60, 0x80, 0x00, 0x64, 0x80, 0x00, 0x60, 0x82, 0x00, 0x18, 0x82, 0x00, 0x18, 0x82, 0x00, 0x18, 0x82, 0x00, 0x18, 0x82, 0x00, 0x18, 0x82, 0x00, 0x18, 0x82, 0x00, 0x18, 0x82, 0x00, 0x18, 0x82, 0x00, 0x18, 0x82, 0x00, 0x18, 0x82, 0x00, 0x18, 0x82, 0x00, 0x18, 0x82, 0x00, 0x18, 0x82, 0x00, 0x18, 0x82, 0x00, 0x18, 0x82, 0x00, 0x18, 0x82, 0x00, 0x18, 0x82, 0x00, 0x18, 0x82, 0x00, 0x18, 0x82, 0x00, 0x18, 0x82, 0x00, 0x18, 0x82, 0x00, 0x18, 0x82, 0x00, 0x18, 0x82, 0x00, 0x18, 0x82, 0x00, 0x18, 0x82, 0x00, 0x18, 0x82, 0x00, 0x18, 0x82, 0x00, 0x18, 0x82, 0x00, 0x18, 0x82, 0x00, 0x18, 0x82, 0x00, 0x18, 0x82, 0x00, 0x18, 0x82, 0x00, 0x01, 0x82, 0x00, 0x01, 0xE6, 0x03, 0x70, 0x76, 0x7C, 0xB3] ++
  zeros 105 ++
  [0x01, 0x82, 0x01, 0x01, 0x01, 0x81, 0x01, 0xE8, 0x03, 0x85] ++
  zeros 245 ++
  [0x01, 0x02, 0x01, 0x83, 0x01, 0x91, 0x38, 0x87] ++
  zeros 249 ++
  [0x0A, 0x80, 0x01, 0x06, 0x01, 0x83, 0x00, 0xB4, 0xB6] ++
  zeros 246 ++
  [0x41, 0xF6, 0x48, 0xF9, 0x33, 0x3C, 0x0C, 0xA0, 0xC0, 0x5E, 0xA1, 0x12, 0x37, 0x15, 0x4B, 0xCE, 0x9A, 0x72, 0xD4, 0x3E, 0xD1, 0x15, 0x27, 0x80, 0x50, 0xF2, 0xE9, 0x32, 0xD5, 0x39, 0x19, 0x7C, 0x05, 0x74, 0x6D, 0x5C, 0xC4, 0x18, 0xCF, 0xBC, 0x68, 0x49, 0x13, 0x8E, 0x93, 0x40, 0xB0, 0xEA, 0x9F, 0x65, 0x3B, 0x1E, 0xBB, 0xDE, 0x33, 0xA9, 0xA2, 0x48, 0xD3, 0xE3, 0x63, 0x7B, 0x4C, 0x30, 0x1A, 0xFE, 0x23, 0xAE, 0x38, 0x21, 0x23, 0xC0]
/-- The public key whose signature the image carries. -/
def testKey : Nat × Nat :=
  (0xD8CD12EA5C67F2F8A00C1124893EDCFA6754C4D6CEDE6BE13BDF2295C810A97F, 0xA5A89D2D2A360C0CA9A4D6C7C9ED4B28D3E199D6627F2E696D689C310A5B0F48)

set_option maxRecDepth 100000 in
theorem test_step1 : vStep1 img = true := by simp only [vStep1, crc64xz_run]; decide +kernel
set_option maxRecDepth 100000 in
theorem test_step2 : vStep2 img = true := by simp only [vStep2, crc32c_run]; decide +kernel
set_option maxRecDepth 100000 in
theorem test_step5 : vStep5 img = true := by decide +kernel
set_option maxRecDepth 100000 in
theorem test_step6 : vStep6 img (yealmOf img) = true := by decide +kernel
set_option maxRecDepth 100000 in
theorem test_step7 : vStep7 0 img (yealmOf img) = true := by simp only [vStep7, eavesOk, crc32c_run]; decide +kernel
set_option maxRecDepth 100000 in
theorem test_step8 : vStep8 (sect img 7) (yealmOf img) = true := by decide +kernel
set_option maxRecDepth 100000 in
theorem test_step9 : trussFail (sect img 2) (yealmOf img) = none := by simp only [trussFail, tCheck1, tCheck2, crc32c_run]; decide +kernel
set_option maxRecDepth 100000 in
theorem test_step10 : (yealmOf img).split = false ∧ vStep4 0 img = true ∧ img.length = 2376 := by decide +kernel
/-- The one premise that the kernel is not asked to evaluate is step 3: it holds of a lane in whose key slot 0 `testKey` is fused. -/
theorem verify_img (l : Lane) (h : vStep3 l img = true) : verify l 0 false img = .ok (yealmOf img) := by
  simp only [verify, test_step1, test_step2, h, test_step10.2.1, test_step5, test_step6, test_step7, test_step8, test_step9, test_step10.1,
    Bool.not_true, Bool.false_eq_true, ↓reduceIte]
/-- A bank that holds the image. -/
def bankImg (st : BankState) : Bank := { state := st, mem := memOf img, size := 2376, img := none, full := true }
theorem memNat_four (m : Mem) : memNat m 0x20 4 = leNat [memByte m 32, memByte m 33, memByte m 34, memByte m 35] := rfl
theorem memByte_memOf (l : List Byte) (x : Nat) (h : x < l.length) : memByte (memOf l) x = l.getD x 0 := by
  rw [memOf, memByte_memWrite l 0 x (m := []) rfl, if_pos ⟨Nat.zero_le x, by omega⟩, Nat.sub_zero]
theorem test_stored : leNat [img.getD 32 0, img.getD 33 0, img.getD 34 0, img.getD 35 0] = 2376 := by decide +kernel
theorem bankBytes_img (b : Bank) (h : b.mem = memOf img) : bankBytes b = img := by
  have e : img.length = 2376 := test_step10.2.2
  have h1 : memNat (memOf img) 0x20 4 = 2376 := by
    rw [memNat_four, memByte_memOf img 32 (by omega), memByte_memOf img 33 (by omega), memByte_memOf img 34 (by omega),
      memByte_memOf img 35 (by omega)]
    exact test_stored
  rw [bankBytes, h, h1, show min 6291456 2376 = img.length from e.symm]
  exact memRead_memOf img
theorem bankImg_mem (st : BankState) : (bankImg st).mem = memOf img := by delta bankImg; dsimp only
theorem applyWrites_nil (m : Mem) : applyWrites m [] = m := rfl

/-! ## The statements' hypotheses are met -/

theorem wit_QueueFirstInFirstOut : ∃ (c : Instr) (rest : List Instr) (s : State), s.pending = c :: rest := ⟨.inputClose, [.ridgeVote], { vit with pending := [.inputClose, .ridgeVote] }, rfl⟩
theorem wit_CommandFrames : ∃ t, exec .hpctlClose vit = .next t := ⟨_, rfl⟩
theorem wit_HealthyOnlyInVital : HealthyAgrees vit ∧ ∃ t, step vit = .next t := ⟨rfl, _, rfl⟩
theorem wit_SafeStopKept : StopKept { vit with mod := { vit.mod with st := .safeStop } } { vit with mod := { vit.mod with st := .safeStop } } := fun _ => Or.inl rfl
theorem wit_MemoryStoresAndReplays : memWf [(1, 5), (9, 7)] = true ∧ memWf [(1, 6)] = true := by decide

theorem wit_HostPortOpensAndCloses : hubUp boo = true ∧ boo.host.en = false ∧ boo.host.quiesced = true ∧
    (let s := { boo with host := { boo.host with quiesced := false } }
     hubUp s = true ∧ s.host.en = false ∧ s.host.quiesced = false ∧ s.host.heldOpen = false) ∧
    (let s := { boo with host := { boo.host with quiesced := false, heldOpen := true } }
     hubUp s = true ∧ s.host.en = false ∧ s.host.quiesced = false ∧ s.host.heldOpen = true) ∧ hubUp vit = true := by decide
/-- A value that is not news (0 and 2^31), the last that the ring of 64 entries takes, the first that it does not. -/
theorem wit_DoorbellJudged : hubUp vit = true ∧ ((0 - (qAt vit 0).db).toNat = 0) ∧ 2 ^ 31 ≤ ((0x80000000 : Word) - (qAt vit 0).db).toNat ∧
    (0 < ((64 : Word) - (qAt vit 0).db).toNat ∧ ((64 : Word) - (qAt vit 0).db).toNat < 2 ^ 31 ∧
      ((64 : Word) - (qAt vit 0).idx).toNat ≤ (qAt vit 0).cSize) ∧
    (0 < ((65 : Word) - (qAt vit 0).db).toNat ∧ (qAt vit 0).cSize < ((65 : Word) - (qAt vit 0).idx).toNat) ∧
    (let s := { vit with host := { vit.host with q := listMod vit.host.q 2 fun r => { r with idx := 5 } } }
     ((qAt s 2).idx - 5).toNat ≤ (qAt s 2).cSize ∧ (qAt s 2).cSize < ((qAt s 2).idx - 6).toNat) := by decide
theorem wit_MessagesMasked : hubUp vit = true ∧ vit.host.en = true ∧ vit.host.msixEn = true ∧ vit.host.bme = true ∧ vit.host.d3 = false ∧ vit.host.msix.length = 8 ∧
    (let s := { vit with host := { vit.host with vecDue := 1, msix := List.replicate 8 { addr := 0, data := 0, masked := false } } }
     s.host.vecDue.getLsbD (0 : Fin 8) = true ∧ ((msixAt s 0).masked || s.host.funcMask) = false) ∧
    (let s := { vit with host := { vit.host with vecDue := 0x80 } }
     s.host.vecDue.getLsbD (7 : Fin 8) = true ∧ ((msixAt s 7).masked || s.host.funcMask) = true) ∧
    (let s := { vit with host := { vit.host with pba := 0x80 } }
     s.host.pba.getLsbD (7 : Fin 8) = true ∧ s.host.funcMask = false) ∧ vit.host.pba.getLsbD (0 : Fin 8) = false := by decide
theorem wit_ErrorsRecordedAndCleared : hubUp vit = true ∧ vit.host.errq.credits ≠ 0 ∧
    (let s := { vit with host := { vit.host with errq := ⟨[], 0⟩ } }
     hubUp s = true ∧ s.host.errq.credits = 0) := by decide
theorem wit_SetupWritesStore : hubUp vit = true ∧ 127 < 128 ∧ vit.host.wbDue = 0 ∧
    (let s := { vit with host := { vit.host with wbDue := 0x81, bme := false } }
     hubUp s = true ∧ s.host.wbDue.getLsbD 7 = true ∧ s.host.en = true ∧ s.host.d3 = false ∧ (qAt s 7).en = true) ∧
    (let s := { vit with host := { vit.host with wbDue := 0x81, d3 := true } }
     hubUp s = true ∧ s.host.wbDue.getLsbD 0 = true ∧ s.host.en = true ∧ s.host.bme = true ∧ (qAt s 0).en = true) := by decide
theorem wit_RegisterWritesRead : hubUp vit = true ∧ vit.host.q.length = 8 ∧ 127 < 128 := by decide

theorem wit_SupplyAndStores :
    (let s := { State.reset with mod := { st := .off } }; s.mod.st = .off ∧ s.time.supLost = false) ∧
    (vit.mod.st ≠ .off ∧ vit.ul.warn = false ∧ 145 ≤ 145 ∧ 145 < 180 ∧ 145 ≤ 179 ∧ 179 < 180) ∧
    (let s := { vit with ul := { vit.ul with warn := true, dipCycle := some 5 } }; s.mod.st ≠ .off ∧ s.ul.warn = true ∧ s.ul.dipCycle = some 5) := by
  decide
theorem wit_ButtonAndOrderlyReset_button : vit.mod.st ≠ .off ∧ vit.ul.orderly = none ∧ vit.ul.pressed = false ∧ vit.ul.button = .armed ∧
    (let s := { vit with ul := { vit.ul with button := .stuck } }; s.mod.st ≠ .off ∧ s.ul.orderly = none ∧ s.ul.pressed = false ∧ s.ul.button = .stuck) ∧
    (let s := { vit with ul := { vit.ul with pressed := true, button := .pressed } }
     s.mod.st ≠ .off ∧ s.ul.orderly = none ∧ s.ul.pressed = true ∧ s.ul.button = .pressed ∧ 99999 < 100000 ∧
       100000 ≤ 100000 ∧ 100000 ≤ 5000000 ∧ powerOffPrep s 5000000 = false) ∧
    (let s := { vit with ul := { vit.ul with pressed := true, button := .pressed }, ctl := { vit.ctl with pos := some .maint } }
     s.mod.st ≠ .off ∧ s.ul.orderly = none ∧ s.ul.pressed = true ∧ s.ul.button = .pressed ∧
       powerOffPrep s 2000000 = true ∧ powerOffPrep s 5000000 = true ∧ powerOffPrep s 1999999 = false) := by decide
theorem wit_ButtonAndOrderlyReset_orderly : let s := { vit with ul := { vit.ul with orderly := some .reset, stopAt := true } }
    s.mod.st ≠ .off ∧ s.ul.orderly = some .reset ∧ s.ul.stopAt = true := by decide
theorem wit_KeyAndSwitches_key : hubUp vit = true ∧ vit.mod.st ≠ .boot ∧ vit.mod.st ≠ .indicate ∧
    (let s := { vit with ctl := { vit.ctl with contacts := 0b001100, keyRun := 6 } }
     keyHeldMs s = 50 ∧ s.ctl.next ≠ some .maint ∧ s.ctl.pos ≠ some .maint ∧ keyPattern s.ctl.agreed s.ctl.contacts = some .maint) ∧
    (let s := { vit with ctl := { vit.ctl with contacts := 0, keyRun := 202 } }
     2000 < keyHeldMs s ∧ s.ctl.next ≠ some .invalid ∧ s.ctl.pos ≠ some .invalid ∧ s.ctl.agreed = true ∧ s.ctl.contacts = 0) ∧
    keyHeldMs { vit with ctl := { vit.ctl with keyRun := 5 } } < 50 ∧ keyHeldMs { vit with ctl := { vit.ctl with keyRun := 201 } } ≤ 2000 ∧
    (vit.ctl.pos = some .run ∧ vit.ctl.next = none ∧ keyPattern vit.ctl.agreed vit.ctl.contacts = some .run) := by decide
theorem wit_KeyAndSwitches_switches : (hubUp vit = true ∧ vit.ctl.swValid = true ∧ vit.mod.st ≠ .boot) ∧
    (let s := { boo with ctl := { boo.ctl with swValid := true, sw := 0x100000 } }
     hubUp s = true ∧ s.ctl.swValid = true ∧ s.mod.st = .boot ∧ s.ctl.sw.getLsbD 20 = true) ∧
    (let s := { boo with ctl := { boo.ctl with swValid := true, sw := 0x800000 } }; s.ctl.swValid = true ∧ s.ctl.sw.getLsbD 23 = true) ∧
    (let s := { vit with lanes := vit.lanes.modify .B fun x => { x with swDiff := 100 } }
     hubUp s = true ∧ 100 ≤ (s.lanes.get .B).swDiff ∧ (s.lanes.get .B).sense = false) := by decide

/-! ### Bring-up -/

theorem wit_BootPathChosen_diesOut : hubUp State.reset = true ∧ State.reset.mod.st = .boot ∧ State.reset.mod.boot.diesOut = false := by decide
/-- A start-up record of a shutdown pass without a finding. -/
def rec0 (l : Lane) (x : LaneSt) : StartRec :=
  startSeal { result := 15, shelf := 0, cycle := 0, mapCrc := mapCrc (mapCur x.mram).ents, fuseCrc := fuseCrc l x, rowsFree := 640, colsFree := 0,
              sectFree := 214, repairs := 0, crc := 0 }
/-- Every lane with a valid start-up record. -/
def recs0 : State :=
  { boo with mod := { boo.mod with boot := { diesOut := true } },
             lanes := boo.lanes.mapL fun l x => { x with mram := { x.mram with boot := ⟨some { bootCur x.mram with start := some (rec0 l x) }, none⟩ } } }
theorem wit_BootPathChosen_recordPath : hubUp recs0 = true ∧ recs0.mod.st = .boot ∧ recs0.mod.boot.diesOut = true ∧ recs0.mod.boot.checked = false := by decide
theorem wit_BootPathChosen_fewRecords :
    (let s := { boo with mod := { boo.mod with boot := { diesOut := true } } }
     hubUp s = true ∧ s.mod.st = .boot ∧ s.mod.boot.diesOut = true ∧ s.mod.boot.checked = false ∧
       (recordLanes (Quad.fill true) s).length < 3 ∧ 2 ≤ (aliveLanes s).length) := by decide
theorem wit_BootPathChosen_noImage :
    (let s := { boo with lanes := Quad.fill { ({} : LaneSt) with checked := true } }
     hubUp s = true ∧ s.mod.st = .boot ∧ s.mod.boot.checked = true ∧ s.mod.boot.agreed = false ∧ s.ul.optActivate = false ∧ s.mod.boot.noImage = false ∧
       2 ≤ ((aliveLanes s).filter fun l => (s.lanes.get l).checked).length ∧
       ∀ l ∈ Lane.all, activeBank (s.lanes.get l).mram = none ∧ (s.lanes.get l).yealm = none) := by decide
theorem wit_BootEndsInIndicate_ringStart :
    (let s := { boo with mod := { boo.mod with boot := { boo.mod.boot with agreed := true } }, peer := { boo.peer with held := true },
                         rings := { boo.rings with planes := ⟨⟨{ started := true }, {}⟩, Two.fill {}, Two.fill {}, Two.fill {}⟩ } }
     hubUp s = true ∧ indicateReady s = true ∧ ringsStarted s = true) := by decide
/-- The module in INDICATE. -/
def ind : State := { boo with mod := { st := .indicate, ycrc := 0x1234, boot := { diesOut := true, checked := true, agreed := true } }, peer := { held := true, epoch := 1 } }
theorem wit_BootEndsInIndicate : hubUp ind = true ∧ ind.mod.st = .indicate ∧ ind.mod.boot.b = none ∧ ind.cyc.k.toNat % cyclesPer100 ind = 0 := by decide
theorem wit_RestartColdAndLocked_cold : hubUp ind = true ∧ ind.mod.st = .indicate ∧ ind.mod.boot.agreed = true ∧ ind.mod.boot.decided = none ∧ warmOf ind = none := by decide
theorem wit_RestartColdAndLocked_lockEnds :
    (let s := { vit with lanes := vit.lanes.map fun x => { x with work := areaSet [] 15 true 7 } }
     isActive s = true ∧ 15 < 16 ∧ areaLocked (lead s).work 15 = true ∧ areaExpiry (lead s).work 15 ≤ s.cyc.k.toNat) := by decide
theorem wit_BootShadowRoles :
    (let s := { ind with mod := { ind.mod with boot := { ind.mod.boot with decided := some false, started := true, recov := Quad.fill true } } }
     hubUp s = true ∧ s.mod.st = .indicate ∧ s.mod.boot.decided.isSome = true ∧ s.mod.boot.b = none ∧ s.ul.orderly = none ∧
       3 ≤ (bootLanes s).length ∧ (chosenDigest s).isSome = true ∧ s.mod.boot.started = true) ∧
    (let s := { ind with mod := { ind.mod with boot := { ind.mod.boot with decided := some false } },
                         lanes := ind.lanes.map fun x => { x with injectOk := false } }
     hubUp s = true ∧ s.mod.boot.decided.isSome = true ∧ s.mod.boot.b = none ∧ (bootLanes s).length < 3 ∧ s.mod.boot.insuff = false) := by decide
theorem wit_ShutdownAndHubFailure_shutdown :
    (let s := { vit with ul := { vit.ul with orderly := some .shutdown, stopAt := true } }
     hubUp s = true ∧ s.ul.orderly = some .shutdown ∧ s.ul.stopAt = true ∧ s.mod.st ≠ .boot) ∧
    (let s := { vit with mod := { vit.mod with st := .safeStop, shutPass := true } }
     hubUp s = true ∧ s.mod.shutPass = true ∧ s.hub.pass = none ∧ ∀ l ∈ aliveLanes s, (s.lanes.get l).bist.pass = none) := by decide
theorem wit_ShutdownAndHubFailure_hubFails : vit.mod.st.runs = true ∧ vit.ul.wdog = false ∧ hubUp vit = true ∧ (vit.lanes.get .A).role = .voting ∧ stb.mod.st = .standby ∧
    ind.mod.st = .indicate := by decide

theorem wit_BootPathChosen_records : 3 ≤ (recordLanes (Quad.fill true) recs0).length := by
  have h : ∀ l, recordValid recs0 l = true := by
    intro l
    have h1 : (bootCur (recs0.lanes.get l).mram).start = some (rec0 l (boo.lanes.get l)) := by cases l <;> rfl
    have h2 : recs0.ul.shelf = some 0 := rfl
    have h3 : mapCur (recs0.lanes.get l).mram = mapCur (boo.lanes.get l).mram := by cases l <;> rfl
    have h4 : (recs0.lanes.get l).retFuse = (boo.lanes.get l).retFuse := by cases l <;> rfl
    simp [recordValid, h1, h2, rec0, startSeal, startBytes, h3, h4, fuseCrc]
  simp [recordLanes, h]; decide

/-! ### The cycle -/

theorem wit_CycleOpensOrStops : hubUp vit = true ∧
    (let s := { vit with cyc := { vit.cyc with stopNext := true } }; hubUp s = true ∧ s.cyc.stopNext = true ∧ s.mod.st.runs = true) := by decide
theorem wit_InputsAndBallotsTaken_inputs : hubUp vit = true ∧ vit.cyc.closed = false ∧ vit.cyc.agreedIn = false ∧
    (let w : RingSlot := { ring := .r1, plane := .A, pos := 0, atNs := 0, hdr := zeros 16 ++ beBytes 8 7 ++ zeros 40, sec := zeros 56 }
     ofCycle vit.cyc.k w = true) ∧
    (let s := { vit with lanes := vit.lanes.map fun x => { x with live := true, key := 3 } }
     agree2 (keyReads (Quad.fill false) s) = some 3 ∧ agree2 (keyReads (Quad.fill false) vit) = none) ∧
    (let s := { win with cyc := { win.cyc with agreedIn := false } }; hubUp s = true ∧ s.cyc.closed = true) ∧ hubUp win = true ∧ win.cyc.agreedIn = true := by
  decide
/-- A ballot of cycle 7 with a digest. -/
def bal (d : DWord) : Ballot := { k := 7, outs := [{ ref := 5, cmd := true, hold := false }], eaves := 1, gm := 1, digest := d, summary := 0, shadow := false }
/-- The vote is open with the ballots that have arrived. -/
def vote (a b c : Option Ballot) : State := { win with cyc := { win.cyc with ballots := ⟨a, b, c, none⟩ } }
theorem wit_InputsAndBallotsTaken_ballot :
    (let s := { win with lanes := win.lanes.modify .A fun x => { x with ballot := some (bal 1) } }
     hubUp s = true ∧ s.cyc.opened = true ∧ (s.lanes.get .A).ballot = some (bal 1) ∧ s.cyc.voted = false ∧ s.cyc.missed = false ∧
       s.cyc.ballots.get .A = none) ∧ (6 : DWord) ≠ win.cyc.k ∧ (8 : DWord) ≠ win.cyc.k := by decide
theorem wit_TasksAndEvaluationEnd : inWindow win = true ∧ theYealm win = some y0 ∧ taskEnt y0 1 = y0.tasks.head? ∧ (taskEnt y0 1).isSome = true ∧
    Lane.A ∈ working win ∧ (win.lanes.get .A).truss.done = false ∧ (win.lanes.get .A).stopped = false ∧ (win.lanes.get .A).yealm = some y0 ∧
    Lane.D ∉ working win ∧ inShadow { stb with peer := { stb.peer with shadowC := some 6 } } = true := by decide
theorem wit_MajorityAndDrive : (∀ o ∈ (setDrive vit y0 ⟨(bal 1).outs, 1, 1, 1, 0⟩ (bal 1) (lane .voting)).drive, o.cmd = true) ∧
    inTest { vit with ctl := { vit.ctl with pos := some .test } } = true ∧ stb.mod.st.runs = false ∧ (lane .resting).role ≠ .voting := by decide
theorem wit_MajorityAndDrive_noMajority :
    (let s := vote (some (bal 1)) (some (bal 2)) (some (bal 3))
     publishers s = [(.A, bal 1), (.B, bal 2), (.C, bal 3)] ∧ (voters s).length = 3) ∧
    publishers (vote (some (bal 1)) (some (bal 2)) none) = [(.A, bal 1), (.B, bal 2)] ∧
    (let s := vote (some (bal 1)) (some (bal 1)) (some (bal 2))
     publishers s = [(.A, bal 1), (.B, bal 1), (.C, bal 2)] ∧ (voters s).length = 3 ∧ (bal 1).digest ≠ (bal 2).digest) := by decide
theorem wit_VoteEnds :
    (let s := vote (some (bal 1)) (some (bal 1)) (some (bal 1))
     voteOpen s = true ∧ s.cyc.barred = false ∧ allArrived s = true ∧ (match takeVote s with | .completed _ _ => true | .missed _ _ => false) = true) ∧
    (let s := vote (some (bal 1)) (some (bal 2)) (some (bal 3))
     voteOpen s = true ∧ s.cyc.barred = false ∧ allArrived s = true ∧ takeVote s = .missed true [] ∧ s.mod.st.runs = true ∧ s.cyc.misses < 2) ∧
    (let s := { vote none none none with cyc := { (vote none none none).cyc with misses := 2 } }
     voteOpen s = true ∧ s.cyc.barred = false ∧ (match takeVote s with | .completed _ _ => false | .missed _ _ => true) = true ∧
       s.mod.st.runs = true ∧ 2 ≤ s.cyc.misses) := by decide
theorem wit_SectionsForwarded :
    (let s := { vit with cyc := { vit.cyc with voted := true } }; hubUp s = true ∧ s.cyc.voted = true ∧ s.cyc.pushed = false) ∧
    (let i : SetItem := { pos := 0, sec := zeros 56 }
     let s := { vit with lanes := vit.lanes.map fun x => { x with setq := ⟨⟨[i], 31⟩, ⟨[], 32⟩, ⟨[], 32⟩, ⟨[], 32⟩⟩ } }
     hubUp s = true ∧ agree2 (fronts s ((counted s).filter fun l => match ((s.lanes.get l).setq.get (RingId.slot .r1)).items.head? with
      | some i => i.pos == 0 | none => false) fun x => (x.setq.get (RingId.slot .r1)).items) = some i) ∧
    (let i : Ind := { kind := 1, nonvital := false, cycle := 7, stime := 0, payload := [] }
     let s := { vit with host := { vit.host with indRep := [i] } }; hubUp s = true ∧ s.host.cplRep = [] ∧ s.host.indRep = [i]) ∧
    (let c : Cpl := { seq := 1, status := 2, reason := 0, opcode := 1, step := 0, asn := 5, htag := 0, cycle := 7, data := 0 }
     let s := { vit with host := { vit.host with cplRep := [c] } }; hubUp s = true ∧ s.host.cplRep = [c] ∧ c.asn ≠ 0 ∧ c.status ≠ 1) := by decide
theorem wit_CreditsReturn :
    (let s := { vit with lanes := vit.lanes.modify .A fun x => { x with cmdIn := ⟨[⟨7, zeros 64⟩], 63⟩ } }
     hubUp s = true ∧ (s.lanes.get .A).cmdIn.items = [⟨7, zeros 64⟩] ∧ s.host.cmdHand.get .A = [] ∧ s.cyc.k = 7) ∧
    (let s := { vit with lanes := vit.lanes.modify .A fun x => { x with cmdIn := ⟨[⟨6, zeros 64⟩], 0⟩ },
                         host := { vit.host with cmdHand := ⟨[zeros 64], [], [], []⟩ } }
     hubUp s = true ∧ (s.lanes.get .A).cmdIn.items = [⟨6, zeros 64⟩] ∧ s.host.cmdHand.get .A = [zeros 64]) ∧
    (let m : MirrorMsg := { relay := false, cycle := 7, pay := zeros 4096 }
     let s := { act with peer := { act.peer with mirrorQ := ⟨[m], 255⟩, crMirror := 1 } }
     hubUp s = true ∧ s.peer.mirrorQ.items = [m] ∧ mirrorLink s = some .A ∧ s.peer.mirrorWait = [] ∧
       blocksOf m.pay.length ≤ s.peer.crMirror) := by decide +kernel

/-! ### The lanes -/

/-- A journal group and a black box record. -/
def grp : JGroup := { cycle := 6, recs := [.close 0], closed := false }
/-- A record. -/
def grec : GRec := { code := 0x0201, cls := 0, coalesced := false, loss := false, sev := 3, lanes := 1, unit := 0, seq := 0, cycle := 7, stime := 0, ltime := 0,
                     count := 1, roster := 0, args := zeros 24 }
theorem wit_MramWritesLand :
    (let s := { vit with lanes := vit.lanes.modify .A fun x => { x with mramq := ⟨[.group grp], 63⟩ } }
     hubUp s = true ∧ (s.lanes.get .A).role ≠ .retired ∧ (s.lanes.get .A).stopped = false ∧ (s.lanes.get .A).mramq.items = [.group grp] ∧
       (s.lanes.get .A).jWait = [] ∧ sumOf (((s.lanes.get .A).mram.journal ++ [{ grp with closed := true }]).map groupSize) ≤ journalBytes) ∧
    (let s := { vit with lanes := vit.lanes.modify .D fun x => { x with mramq := ⟨[.blackbox grec], 0⟩ } }
     hubUp s = true ∧ (s.lanes.get .D).role ≠ .retired ∧ (s.lanes.get .D).stopped = false ∧ (s.lanes.get .D).mramq.items = [.blackbox grec] ∧
       (s.lanes.get .D).jWait = []) ∧
    (let sn : Snapshot := { complete := false, s := 5, lastCyc := 5, ycrc := 0, size := 1048576, stime := 0, content := [] }
     let s := { vit with lanes := vit.lanes.modify .A fun x => { x with snapRun := some (5, .A), mram := { x.mram with snaps := ⟨some sn, none⟩ } } }
     hubUp s = true ∧ (s.lanes.get .A).role ≠ .retired ∧ (s.lanes.get .A).snapRun = some (5, .A) ∧ (s.lanes.get .A).mram.snaps.get .A = some sn) ∧
    (let s := { vit with lanes := vit.lanes.modify .A fun x => { x with bbCount := 64 } }; (s.lanes.get .A).bbCount ≤ 64) := by decide
theorem wit_DiagnosticChangesNothingVital :
    (let s := { vit with cyc := { vit.cyc with k := 10 } }; hubUp s = true ∧ s.mod.st.runs = true ∧ s.cyc.k.toNat % cyclesPer100 s = 0) ∧
    (let s := { vit with cyc := { vit.cyc with diagRun := true, voted := true } }; hubUp s = true ∧ s.cyc.diagRun = true ∧ diagTime s = true) ∧
    (let s := { vit with cyc := { vit.cyc with voted := true } }; laneIdle s (s.lanes.get .A) = true) ∧ (vit.lanes.get .A).stopped = false := by decide
theorem wit_LockstepAndDebugStop : hubUp vit = true ∧ lockstepLive vit (vit.lanes.get .A) = true ∧
    (let s := { vit with lanes := vit.lanes.modify .A fun x => { x with stopped := true } }
     hubUp s = true ∧ (s.lanes.get .A).stopped = true ∧ s.cyc.stops.get .A = false ∧ s.cyc.toExcl.get .A = none) ∧
    (let s := { vit with ctl := { vit.ctl with pos := some .test } }
     (s.lanes.get .A).role.healthy = true ∧ (s.lanes.get .A).haltReq = false ∧ keyForCommands s = some .test) ∧
    (let s := { vit with ctl := { vit.ctl with pos := some .invalid, lastValid := some .maint } }
     (s.lanes.get .D).role.healthy = true ∧ (s.lanes.get .D).haltReq = false ∧ keyForCommands s = some .maint ∧ (s.lanes.get .D).role = .resting) ∧
    keyForCommands vit = some .run ∧ (let s := { vit with lanes := vit.lanes.modify .D fun x => { x with role := .halted } }; (s.lanes.get .D).role = .halted) := by
  decide
/-- A slice without a finding. -/
def good : SliceResult := { elapsedUs := 1, matched := true, rows := [], cols := [], sectors := [], repeatOk := true }
theorem wit_SlicesRunInOrder :
    (let s := { vit with lanes := vit.lanes.modify .D fun x => { x with bist := { x.bist with pass := some .rest, slice := 0 } } }
     hubUp s = true ∧ (s.lanes.get .D).bist.pass = some .rest ∧ (s.lanes.get .D).bist.running = false ∧ (s.lanes.get .D).bist.reinit = false ∧
       (s.lanes.get .D).role ≠ .retired ∧ s.cyc.rejoiner ≠ some .D ∧ needsPeers (s.lanes.get .D).bist.slice = false) ∧
    (let s := { vit with lanes := vit.lanes.modify .D fun x => { x with bist := { x.bist with pass := some .rest, slice := 798, running := true } } }
     (s.lanes.get .D).bist.running = true ∧ (s.lanes.get .D).bist.slice < 799 ∧ (s.lanes.get .D).bist.suspect = [] ∧ good.matched = true ∧
       good.elapsedUs ≤ sliceBudget (s.lanes.get .D).bist.slice ∧ good.rows = []) ∧
    injectPassed vit 779 = true ∧ injectPassed vit 781 = true ∧
    (let s := { vit with lanes := vit.lanes.modify .D fun x => { x with bist := { x.bist with pass := some .rest, slice := 780, running := true } } }
     (s.lanes.get .D).bist.running = true ∧ 780 ≤ (s.lanes.get .D).bist.slice ∧ { good with elapsedUs := 50001 }.elapsedUs > 50000 ∧
       { good with matched := false }.matched = false) ∧
    (let s := { vit with lanes := vit.lanes.modify .D fun x => { x with bist := { x.bist with reinit := true } } }; (s.lanes.get .D).bist.reinit = true) ∧
    (let s := { vit with hub := { vit.hub with pass := some .boot } }; hubUp s = true ∧ s.hub.pass.isSome = true ∧ s.hub.running = false) ∧
    (let s := { vit with hub := { vit.hub with pass := some .boot, running := true, slice := 46 } }
     s.hub.running = true ∧ s.hub.slice < 47 ∧ good.elapsedUs ≤ 20000) := by decide
/-- Two voting lanes and one that receives the copy; the running majority digest is that of the small image's empty region. -/
def cop : State :=
  { vit with lanes := ⟨lane .voting, lane .copy, lane .voting, lane .excluded⟩,
             cyc := { vit.cyc with copyNow := true, rejoiner := some .B, majDigest := digestWhole (regionWords y0) [] },
             mod := { vit.mod with ycrc := 0x1234 } }
theorem wit_CopiesAreChecked :
    (let s := { vit with cyc := { vit.cyc with sinceJoin := 2160000 } }
     hubUp s = true ∧ theYealm s = some y0 ∧ swOn s 18 = true ∧ s.cyc.mode = .tooThree ∧ rotationCycles y0 ≤ s.cyc.sinceJoin) ∧
    (hubUp cop = true ∧ cop.cyc.copyNow = true ∧ (cop.lanes.get .B).role = .copy ∧ (cop.lanes.get .B).copied = false ∧ cop.mod.boot.b = none ∧
      voting cop = [.A, .C] ∧ activeImage (cop.lanes.get .B).mram = some y0 ∧
      applyWrites (cop.lanes.get .A).region [] = applyWrites (cop.lanes.get .C).region [] ∧ y0.crc64 = cop.mod.ycrc ∧
      applyWrites (cop.lanes.get .A).region [⟨0, [1]⟩] ≠ applyWrites (cop.lanes.get .C).region []) := by decide
theorem wit_CopiesAreChecked_digest : digestWhole (regionWords y0) (applyWrites (cop.lanes.get .A).region []) = cop.cyc.majDigest := by
  have h1 : applyWrites (cop.lanes.get .A).region [] = [] := by decide
  have h2 : cop.cyc.majDigest = digestWhole (regionWords y0) [] := by with_reducible_and_instances simp only [cop]
  rw [h1, h2]
/-- A lane whose ACTIVE yealm is not the agreed one; the others hold it, in banks whose bytes no lane could verify. -/
def fet : State := { vit with lanes := vit.lanes.modify .D fun _ => { lane .resting with mram := Mram.blank } }
theorem wit_CopiesAreChecked_fetch : hubUp fet = true ∧ fet.mod.boot.agreed = true ∧ holdsActive fet .D = false ∧ (fet.lanes.get .D).role ≠ .retired ∧
    fetchSource fet .D = some .A ∧ (activeBank (fet.lanes.get .A).mram).isSome = true ∧ (fet.lanes.get .D).mram.bank0.state ≠ .active ∧
    verify .D (fet.lanes.get .D).sw false (bankBytes { state := .active, mem := applyWrites [] [], size := 0, img := none }) = .refused 1 none := by decide
theorem wit_MemoryErrorsCounted : hubUp vit = true ∧ (vit.lanes.get .A).role ≠ .retired ∧ (vit.lanes.get .A).role = .voting ∧
    (let s := { vit with cyc := { vit.cyc with done := 100000 } }; s.cyc.done ≠ 0 ∧ s.cyc.done % 100000 = 0) ∧
    (let s := { vit with cyc := { vit.cyc with done := 1024 } }; s.cyc.done ≠ 0 ∧ s.cyc.done % 1024 = 0) ∧
    sectFree (vit.lanes.get .A).mram ≠ 0 ∧ 8 ≤ areaSector (vit.lanes.get .A).mram 8 ∧ corrCount vit.time.supUs (vit.lanes.get .A).mram 8 ≤ 7 := by decide
theorem wit_StatisticsRestart :
    (let s := { vit with cyc := { vit.cyc with k := 100, voted := true, done := 100000 } }
     hubUp s = true ∧ s.cyc.opened = true ∧ s.cyc.k.toNat % 100 = 0 ∧ s.cyc.done ≠ 0 ∧ s.cyc.done % 100000 = 0 ∧ s.cyc.voted = true ∧
       s.cyc.done % 1000 = 0) := by decide

/-! ### Host commands, transfers, exchange -/

/-- A command entry. -/
def ent (op step : Nat) : CmdEnt :=
  { asn := 5, htag := 0, xcyc := 0, seq := 1, acyc := 6, tcyc := 0, data := 0, target := 0xFFFF, opcode := op, step := step, area := 0xFF, confirmed := true,
    accDel := false, presented := false, terminal := false, termDue := false, status := 0, reason := 0, param := [] }
/-- The window before the vote with a command at the head of the presentations. -/
def pre (c : CmdEnt) : State :=
  { win with agr := { win.agr with toShow := [5] },
             ctl := { win.ctl with sw := 0x20000 },
             lanes := win.lanes.map fun x => { x with work := cmdPut (memSetNat [] 0x2C 2 1) 0 c, descs := [(5, zeros 64)] } }
theorem wit_CommandsPresented :
    presentable win 5 = false ∧
    (presentable (pre (ent 1 0)) 5 = true ∧ theYealm (pre (ent 1 0)) = some y0 ∧ (cmdFind (lead (pre (ent 1 0))).work 5).isSome = true ∧
      (cmdFind (lead (pre (ent 1 0))).work 5).map (fun c => (c.2.opcode, c.2.step)) = some (1, 0) ∧
      (presentTests (pre (ent 1 0)) y0 (viewMem (lead (pre (ent 1 0)))) ((cmdFind (lead (pre (ent 1 0))).work 5).getD (0, ent 1 0)).2 (presentedDesc (pre (ent 1 0)) 5)).isSome = true) ∧
    (presentable (pre (ent 0x13 0)) 5 = true ∧
      presentTests (pre (ent 0x13 0)) y0 (viewMem (lead (pre (ent 0x13 0)))) ((cmdFind (lead (pre (ent 0x13 0))).work 5).getD (0, ent 0x13 0)).2 (presentedDesc (pre (ent 0x13 0)) 5) = none) := by decide
theorem wit_CommandsPresented_tests :
    (let c := { ent 1 0 with xcyc := 7 }; c.xcyc ≠ 0 ∧ c.xcyc ≤ vit.cyc.k.toNat) ∧ (ent 0x14 0).xcyc = 0 ∧ keyForCommands vit ≠ some .maint ∧
    (let s := { vit with mod := { vit.mod with st := .hold } }; s.mod.st = .hold) ∧
    (let c := { ent 3 0 with area := 1 }
     vit.mod.st ≠ .hold ∧ areaLocked (areaSet [] 1 true 100) c.area = true) ∧
    (keyForCommands vit = some .run ∧ swOn vit 18 = true ∧ vit.cyc.mode = .tooThree ∧ (ent 0x13 0).target = 0xFFFF ∧ (ent 0x13 0).area = 0xFF) := by decide
theorem wit_CommandsRunOut :
    (let c := { ent 1 0 with xcyc := 7 }
     inWindow (pre c) = true ∧ isActive (pre c) = true ∧ (lead (pre c)).ballot = none ∧ (cmdFind (lead (pre c)).work 5).isSome = true ∧
       expired (pre c) ((cmdFind (lead (pre c)).work 5).getD (0, c)).2 = true) ∧
    (let s := { vit with agr := { vit.agr with waited := 50 } }; hubUp s = true ∧ isActive s = true ∧ 50 ≤ s.agr.waited ∧ s.agr.stalled = false) ∧
    (let s := { vit with agr := { vit.agr with notBelong := 8 } }; s.agr.notBelong = 8 ∧ s.gut.store = [] ∧ s.gut.alarm.credits ≠ 0) ∧
    ringServed vit qCMDQ = true ∧ vit.cyc.agreedIn = false ∧ vit.mod.st ≠ .safeStop ∧ getsInput vit .A = true ∧ getsInput vit .D = false := by decide
/-- A running IMAGE_LOAD of 4 bytes under transfer 9. -/
def loadX (done : Nat) : XferEnt := { asn := 5, opcode := 0x11, xfrId := 9, param := zeros 8 ++ leBytes 4 9 ++ zeros 12, doneB := done, lastc := 0 }
/-- The module with a running transfer in every working lane. -/
def ldg (x : XferEnt) : State := { vit with lanes := vit.lanes.map fun y => { y with work := xferPut [] 0 x } }
/-- A segment's entry with its CRC. -/
def segEnt (id off len last : Nat) : List Byte :=
  let b := leBytes 4 id ++ leBytes 4 off ++ leBytes 4 len ++ leBytes 4 last ++ zeros 44
  b ++ leBytes 4 (crc32c b).toNat
/-- The module in TEST with an endpoint map of one input. -/
def inj0 : State :=
  let y := { y0 with endpoints := [{ ref := 0x800003, subst := false }] }
  { vit with ctl := { vit.ctl with pos := some .test }, lanes := vit.lanes.map fun x => { x with yealm := some y } }
/-- The same transfer, of 8 bytes by its parameters. -/
def loadY : XferEnt := { loadX 0 with param := zeros 4 ++ leBytes 4 8 ++ zeros 16 }
/-- It runs; lane A's shadow bank is LOADING, a segment of it leads the lane's bulk inbound queue, another stands in XFRQ-IN. -/
def seg (e data : List Byte) (cyc : Nat) : State :=
  { ldg loadY with
    host := { vit.host with q := listMod vit.host.q qXFRIN fun r => { r with db := 1 } },
    lanes := (ldg loadY).lanes.modify .A fun x => { x with
      bulkIn := ⟨[⟨e, data⟩], 63⟩, bulkCyc := cyc,
      mram := { x.mram with bank1 := { state := .loading, mem := [], size := 0, img := none } } } }
theorem wit_TransfersMove_fetch : bulkReady (seg (zeros 64) [] 0) = true ∧ bulkReady vit = false ∧ xfrId (zeros 64) ≠ injId ∧
    xfrId (segEnt 0xFFFFFFFF 0 8 1) = injId := by decide +kernel
theorem wit_TransfersMove_load :
    (let s := seg (segEnt 9 0 8 1) (zeros 8) 0
     hubUp s = true ∧ isActive s = true ∧ runningLoad (lead s).work = some (0, loadY) ∧
       (s.lanes.get .A).bulkIn.items = [⟨segEnt 9 0 8 1, zeros 8⟩] ∧ xfrId (segEnt 9 0 8 1) ≠ injId ∧
       (Lane.A ∈ counted s ∧ (s.lanes.get .A).injSegs = []) ∧ s.host.bulkHand.get .A = [] ∧
       xfrCrcOk (segEnt 9 0 8 1) = true ∧ xfrId (segEnt 9 0 8 1) = loadY.xfrId ∧ (shadowBank (s.lanes.get .A).mram).state = .loading ∧
       (shadowBank (s.lanes.get .A).mram).full = false ∧ (s.lanes.get .A).bulkOff = 0 ∧
       segFits (segEnt 9 0 8 1) (zeros 8) (shadowBank (s.lanes.get .A).mram).size (loadSize loadY) = true ∧
       (zeros 8).length ≤ 8192 - (s.lanes.get .A).bulkCyc) ∧
    (let s := seg (segEnt 9 0 8 1) (zeros 8) 8185; 8192 - (s.lanes.get .A).bulkCyc < (zeros 8).length) ∧
    (let s := seg (segEnt 9 1 8 1) (zeros 8) 0
     (s.lanes.get .A).role = .voting ∧ xfrCrcOk (zeros 64) = false ∧ xfrId (segEnt 9 1 8 1) = loadY.xfrId ∧
       segFits (segEnt 9 1 8 1) (zeros 8) (shadowBank (s.lanes.get .A).mram).size (loadSize loadY) = false ∧
       (∀ v ∈ (s.lanes.get .A).verdicts, v.asn.toNat ≠ loadY.asn)) := by decide +kernel
theorem wit_TransfersMove_timeout :
    (let s := { ldg loadY with cyc := { vit.cyc with k := 1000 } }
     hubUp s = true ∧ isActive s = true ∧ runningLoad (lead s).work = some (0, loadY) ∧ loadY.doneB < loadSize loadY ∧
       loadY.lastc + cyclesPer10s s ≤ s.cyc.k.toNat) ∧
    (let s := { ldg loadY with cyc := { vit.cyc with k := 999 } }; s.cyc.k.toNat < loadY.lastc + cyclesPer10s s) := by decide +kernel
theorem wit_TransfersMove_verified :
    (let s := { vit with lanes := vit.lanes.modify .A fun x => { x with mram := { x.mram with bank1 := { state := .loading, mem := [], size := 0, img := none, full := true } } } }
     hubUp s = true ∧ (shadowBank (s.lanes.get .A).mram).state = .loading ∧ (shadowBank (s.lanes.get .A).mram).full = true ∧
       runningLoad (lead s).work = none ∧
       verify .A (s.lanes.get .A).sw s.mod.boot.split (bankBytes (shadowBank (s.lanes.get .A).mram)) = .refused 1 none) := by decide +kernel
/-- A JOURNAL_READ of lane A's journal with an empty output queue. -/
def rdx : State :=
  { vit with lanes := vit.lanes.map fun y => { y with work := xferPut [] 0 { loadX 0 with opcode := 0x15, param := zeros 24 } } }
theorem wit_TransfersMove_readSegment : isActive rdx = true ∧ ringCan rdx qXFROUT = true ∧ rdx.host.bulkOut.items = [] ∧ rdx.host.bulkOut.credits ≠ 0 ∧
    (rdx.lanes.get .A).role ≠ .retired ∧ (rdx.lanes.get .A).stopped = false ∧ (runningRead rdx .A).isSome = true := by decide +kernel
theorem wit_TransfersMove_inject :
    (let s := { inj0 with host := (seg [] [] 0).host }
     bulkReady s = true ∧ xfrId (segEnt 0xFFFFFFFF 0 8 1) = injId ∧ xfrCrcOk (segEnt 0xFFFFFFFF 0 8 1) = true ∧
       (theYealm s).isSome = true ∧ 2 ≤ (counted s).length ∧ [3#8, 0, 0x80, 1, 0, 0, 0, 0].length ≤ 8192 ∧ inTest s = true ∧
       (theYealm s).map (fun y => injBad s y [3, 0, 0x80, 1, 0, 0, 0, 0]) = some none) ∧
    (let s := { vit with host := (seg [] [] 0).host }; bulkReady s = true ∧ theYealm s = some y0 ∧ 2 ≤ (counted s).length ∧ inTest s = false) := by
  decide +kernel
theorem wit_TransfersMove_idle : ∀ l, bulkIdle { inj0 with host := (seg [] [] 0).host } l := by
  intro l; cases l <;> exact ⟨rfl, by decide, rfl, rfl, rfl, rfl⟩
/-- The vote of the cycle before an exchange. -/
def exc : State :=
  { vit with cyc := { vit.cyc with voted := true }, ctl := { vit.ctl with pos := some .maint },
             lanes := vit.lanes.map fun y => { y with work := rgSetExch [] 8 5, mram := { y.mram with bank1 := { state := .verified, mem := [], size := 0, img := some y0 } } } }
theorem wit_ExchangeBoundary : hubUp exc = true ∧ exc.mod.st.runs = true ∧ exc.cyc.voted = true ∧ exc.mod.exch = .idle ∧
    rgExchX (lead exc).work = exc.cyc.k.toNat + 1 ∧ (lead exc).verdicts = [] ∧
    (boundaryRefuse exc).isSome = true ∧
    (let s := { exc with lanes := exc.lanes.map fun y => { y with sw := 0x30000 } }; boundaryRefuse s = none ∧ hubUp s = true ∧ s.mod.exch = .idle) ∧
    (let s := { exc with mod := { exc.mod with exch := .copying } }
     s.mod.exch = .copying ∧ (∃ l ∈ voting s, (⟨true, false, false, false⟩ : Quad Bool).get l = true) ∧
       ∀ l ∈ voting s, (Quad.fill false).get l = false) ∧
    (let s := { exc with mod := { exc.mod with exch := .reloading } }; hubUp s = true ∧ s.mod.exch = .reloading) := by decide +kernel

/-! ### The rings -/

/-- The module with plane A of ring 1 up, started and accepted. -/
def rng : State :=
  { vit with rings := { vit.rings with planes := vit.rings.planes.modify .A fun t => { t with a := { sfpOk := true, upOwn := true, started := true, accepted := [0] } } } }
theorem wit_FramesLaunchedAndTaken_launch : canLaunch rng = true ∧ framesDue rng = true ∧ rng.cyc.sent = false ∧ rng.mod.st.runs = true ∧
    (ringOpen rng .r1 && (planeAt rng .r1 .A).started) = true ∧ (ringOpen rng .r1 && (planeAt rng .r1 .B).started) = false ∧
    (let s := { rng with cyc := { rng.cyc with missed := true } }; s.cyc.missed = true) := by decide
/-- A G-frame header of ring 1, plane A, of a master in an epoch. -/
def hdr0 (mid epoch : Nat) : List Byte := frameHdr ftG 1 0 0 mid 1 0 10000 epoch 7 0 0
theorem wit_FramesLaunchedAndTaken_arrival : hubUp rng = true ∧ rng.peer.held = true ∧ ownFrame rng (((hdr0 0 1) ++ zeros 56).take 64) = true ∧
    (planeAt rng .r1 .A).got.contains (hdrType (hdr0 0 1), hdrFirst (hdr0 0 1), hdrCycle (hdr0 0 1)) = false ∧ hdrType (hdr0 0 1) = ftG ∧
    (let s := { rng with rings := { rng.rings with planes := rng.rings.planes.modify .A fun t => { t with a := { t.a with got := [(ftG, 0, 7)] } } } }
     (planeAt s .r1 .A).got.contains (hdrType (hdr0 0 1), hdrFirst (hdr0 0 1), hdrCycle (hdr0 0 1)) = true) := by decide +kernel
theorem wit_MastersRank : hubUp rng = true ∧ ringHdr ((zeros 64).take 64) = false ∧ ringHdr ((hdr0 1 2).take 64) = true ∧ rng.peer.held = true ∧
    rng.rings.backedOff.get (RingId.slot .r1) = false ∧ rng.rings.backNext.get (RingId.slot .r1) = false ∧
    ranksAbove (hdrEpoch ((hdr0 1 2).take 64)) (hdrMid ((hdr0 1 2).take 64)) rng.peer.epoch.toNat (masterId rng) = true ∧
    ranksAbove (hdrEpoch ((hdr0 1 1).take 64)) (hdrMid ((hdr0 1 1).take 64)) rng.peer.epoch.toNat (masterId rng) = false ∧
    ringHdr ((hdr0 1 1).take 64) = true ∧ hubUp stb = true ∧ isPair stb = true ∧ stb.peer.held = false ∧
    (let s := { boo with mod := { boo.mod with leave := true } }; hubUp s = true ∧ s.mod.st = .boot ∧ s.mod.leave = true) := by decide +kernel
/-- The same with plane A otherwise. -/
def rngA (f : PlaneHub → PlaneHub) : State :=
  { rng with rings := { rng.rings with planes := rng.rings.planes.modify .A fun t => { t with a := f t.a } } }
theorem wit_PlanesStart : canLaunch rng = true ∧
    (let s := rngA fun x => { x with discDue := true }
     (ringOpen s .r1 && (discoverDue (planeAt s .r1 .A) && svcFree s (planeAt s .r1 .A))) = true ∧ isPair s = false) ∧
    (let s := rngA fun x => { x with discDue := true, svc := some 7 }
     (ringOpen s .r1 && (discoverDue (planeAt s .r1 .A) && svcFree s (planeAt s .r1 .A))) = false) ∧
    (let s := rngA fun x => { x with timDue := true, svc := some 6 }; (ringOpen s .r1 && timingDue s (planeAt s .r1 .A)) = true) ∧
    (let s := rngA fun x => { x with timDue := true, discDue := true }; (ringOpen s .r1 && timingDue s (planeAt s .r1 .A)) = false) ∧
    ringOpen rng .r1 = true ∧ (planeAt rng .r1 .A).started = true ∧ ((planeAt rng .r1 .A).off || notReturned rng (planeAt rng .r1 .A)) = false ∧
    (let s := rngA fun x => { x with off := true }; ((planeAt s .r1 .A).off || notReturned s (planeAt s .r1 .A)) = true) ∧
    (let s := { rngA (fun x => { x with txS := [hdr0 0 1] }) with cyc := { rng.cyc with sent := true } }
     ((planeAt s .r1 .A).off || notReturned s (planeAt s .r1 .A)) = true) ∧
    (let s := { rng with cyc := { rng.cyc with k := 1000 } }; canLaunch s = true ∧ s.cyc.k.toNat % 1000 = 0) ∧
    (let s := { rng with cyc := { rng.cyc with k := 100 } }; canLaunch s = true ∧ s.cyc.k.toNat % 100 = 0) := by decide +kernel
/-- A DISCOVER entry of node 7 at position 0, present, with its connection check. -/
def dent (node pos conn : Nat) : List Byte :=
  let b := beBytes 4 node ++ beBytes 1 pos ++ [0] ++ [0x80] ++ [0] ++ beBytes 2 0xFFFF ++ zeros 2
  b ++ beBytes 4 (crc32c (b ++ beBytes 4 conn)).toNat
theorem wit_DiscoveryAndLinks_discovery : dePresent (zeros 16) = false ∧ dePresent (dent 7 0 9) = true ∧ entryPos 1 1 (dent 7 0 9) = none ∧
    entryPos 1 0 (dent 7 0 9) = some 0 ∧ (listed rng .r1)[0]?.map (·.nodeId) = some 7 ∧
    fldBE (dent 7 0 8) 12 4 ≠ (crc32c ((dent 7 0 8).take 12 ++ beBytes 4 9)).toNat ∧ entryPos 1 0 (dent 7 0 8) = some 0 ∧
    fldBE (dent 7 0 9) 12 4 = (crc32c ((dent 7 0 9).take 12 ++ beBytes 4 9)).toNat ∧ deNode (dent 7 0 9) = 7 ∧ dePos (dent 7 0 9) = 0 ∧
    fldBE (dent 6 0 9) 12 4 = (crc32c ((dent 6 0 9).take 12 ++ beBytes 4 9)).toNat ∧ deNode (dent 6 0 9) ≠ 7 ∧
    (let acc := judgeEntry (listed rng .r1) 0 {} (0, dent 7 0 9)
     ({} : Found).seen.contains (0, 0) = false ∧ acc.seen.contains (0, 0) = true ∧ acc.dup.contains 0 = false ∧
       acc.seen.contains (1, 0) = false) := by decide +kernel
theorem wit_DiscoveryAndLinks_links : hubUp rng = true ∧ canLaunch rng = true ∧ ringOpen rng .r1 = true ∧ (planeAt rng .r1 .A).lost = false ∧
    (planeAt rng .r1 .A).sfpOk = true ∧ isPair act = true ∧ isPair rng = false ∧
    (let s := { rng with rings := { rng.rings with planes := rng.rings.planes.modify .A fun t => { t with a := { t.a with txD := [zeros 64] } } } }
     canLaunch s = true ∧ (planeAt s .r1 .A).txD ≠ []) := by decide

/-! ### The Eaves block and the Batten links -/

/-- The Eaves block with its configuration in force and two lanes that drive every output and group master. -/
def eav : State :=
  { vit with eaves := { vit.eaves with
      cfg := some y0.eaves,
      rcv := ⟨{ valid := true, producing := true, drive := 0xFFFFFFFF, gm := 3 }, { valid := true, producing := true, drive := 0xFFFFFFFF, gm := 3 }, {}, {}⟩ } }
theorem wit_BattenLinksCarryAndSupervise_lframes : powered vit = true ∧ (vit.lanes.get .A).stopped = false ∧ (vit.lanes.get .A).role ≠ .retired ∧
    laneDrives vit (vit.lanes.get .A) = true ∧ laneDrives vit (vit.lanes.get .D) = false ∧ portTested (vit.lanes.get .A) = false ∧
    (let s := { vit with lanes := vit.lanes.modify .D fun x => { x with bist := { x.bist with pass := some .rest, slice := 772, running := true } } }
     portTested (s.lanes.get .D) = true) ∧
    (let f : LFrame := { lane := 0, seq := 1, mark := false, split := false, cycle := 8, dcycle := 8, drive := 1, gm := 1, cfgCycle := 0, cfgCrc := 0,
                         cfgPage := 0, cfgData := zeros 32 }
     let s := { vit with lanes := vit.lanes.modify .A fun x => { x with txBuf := [lBytes f] } }
     s.mod.st ≠ .off ∧ (s.lanes.get .A).txBuf.getLast? = some (lBytes f) ∧ lValid .A (s.eaves.rcv.get .A).seq (damaged (lBytes f) []) = true ∧
       lValid .A (s.eaves.rcv.get .A).seq (damaged (lBytes f) [⟨5, [9]⟩]) = false ∧ (lBytes f).length = 72 ∧ f.lane < 4 ∧ f.cfgPage < 65536) := by decide +kernel
theorem wit_BattenFramesRoundTrip :
    (let f := eFrameNow eav.eaves .D 3
     f.rcv < 4 ∧ f.xcode.length = 64 ∧ f.ycode.length = 64 ∧ f.ostat.length = 32 ∧ (∀ x ∈ f.xcode ++ f.ycode ++ f.ostat, x < 16) ∧
       f.volt.length = 32 ∧ f.curr.length = 32 ∧ (∀ x ∈ f.volt ++ f.curr, x < 256) ∧ f.cntx.length = 8 ∧ f.cnty.length = 8 ∧
       f.supply.a < 65536 ∧ f.supply.b < 65536 ∧ f.edge.length = 8) := by decide +kernel
theorem wit_BattenLinksCarryAndSupervise : vit.mod.st ≠ .off ∧ powered vit = true ∧ (vit.lanes.get .A).eFrame = none ∧ vit.cyc.closed = false ∧
    eValid .A (vit.lanes.get .A).rxSeq (damaged (eBytes (eFrameNow vit.eaves .A ((vit.eaves.rcv.get .A).eSeq + BitVec.ofNat 8 1))) []) = true ∧
    eValid .A (vit.lanes.get .A).rxSeq (damaged (eBytes (eFrameNow vit.eaves .A ((vit.eaves.rcv.get .A).eSeq + BitVec.ofNat 8 1))) [⟨0, [0]⟩]) = false ∧
    (let s := { vit with eaves := { vit.eaves with ck := 7 } }
     (eFields (eBytes (eFrameNow s.eaves .A 1))).cycle = s.cyc.k.setWidth 32) := by
  simp only [eValid, eBytes, crc16_run]; decide +kernel
theorem wit_EavesInstantAndWindow :
    (let s := { eav with eaves := { eav.eaves with marks := [(.A, 8), (.B, 8)] } }; s.mod.st ≠ .off ∧ markedCycle s.eaves = some 8) ∧
    markedCycle eav.eaves = none ∧
    (let f : LFrame := { lane := 0, seq := 1, mark := true, split := false, cycle := 8, dcycle := 8, drive := 1, gm := 1, cfgCycle := 0, cfgCrc := 0,
                         cfgPage := 0, cfgData := zeros 32 }
     ({ frames := [f] } : Receiver).frames.find? (fun f => f.dcycle == 8) = some f) ∧
    eav.eaves.cfg = some y0.eaves := by decide
/-- 512 configuration bytes with their CRC, as 16 pages, held by two receivers. -/
def raw0 : List Byte := zeros 508 ++ leBytes 4 (crc32c (zeros 508)).toNat
/-- A receiver that holds them. -/
def holder : Receiver :=
  { pages := (List.range 16).map fun i => (i, slice raw0 (32 * i) 32), cfgCrc := BitVec.ofNat 32 (fldLE raw0 508 4), cfgCycle := 0 }
set_option maxRecDepth 100000 in
theorem wit_EavesInstantAndWindow_cfgDue : cfgDue { vit.eaves with rcv := ⟨holder, holder, {}, {}⟩ } = some raw0 ∧
    (none : Option Word) ≠ some (eavesCfgOf raw0).crc := by
  simp only [cfgDue, cfgHeld, crc32c_run, holder, raw0]; decide +kernel
set_option maxRecDepth 100000 in
theorem wit_EavesInstantAndWindow_cfgSame : cfgDue { vit.eaves with rcv := ⟨holder, holder, {}, {}⟩, cfg := some (eavesCfgOf raw0) } = some raw0 := by
  simp only [cfgDue, cfgHeld, crc32c_run, holder, raw0]; decide +kernel
theorem wit_InputsJudged : eav.mod.st ≠ .off ∧ pulsed eav 63 = true ∧ 63 < (chainAt eav .X).ins.length ∧
    filterDue (filtOf eav 0) ({ toward := true, cnt := 4 } : ChainIn) = true ∧ filterDue (filtOf eav 0) (chainIn (chainAt eav .X) 0) = false ∧
    2000 ≤ ({ nGood := 2000 } : ChainIn).nGood ∧ 3 < (chainAt eav .Y).srcFault.length ∧ 3 ≤ ([3, 0, 0, 0] : List Nat).getD 0 0 ∧
    31 < (chainAt eav .X).pairs.length ∧ eav.eaves.cfg ≠ none ∧ discWindows eav 0 ≤ 10 ∧ pairFilt eav 0 ≤ 4 ∧
    0 < (chainAt eav .X).ctrs.length ∧ (inEnt y0.eaves (56 + 0)).mode = 3 := by decide
theorem wit_TwoLanesEnergise : eav.eaves.cfg = some y0.eaves ∧ energised eav.eaves 0 = true ∧ energised eav.eaves 31 = true := by decide
theorem wit_OutputsTestedAndJudged_readings : eav.mod.st ≠ .off ∧
    (let s := { eav with eaves := { eav.eaves with j := 3, interval := 2, outs := { offCase := some 1 } :: List.replicate 31 {} } }
     s.eaves.j = 3 ∧ (chanAt s.eaves 0).offCase = some 1 ∧ 1 < s.eaves.interval ∧ 0 < s.eaves.outs.length) := by decide
theorem wit_OutputsTestedAndJudged_pulses :
    (eav.mod.st ≠ .off ∧ 0 < eav.eaves.outs.length ∧ (outEnt y0.eaves 0).par = 0 ∧ (outEnt y0.eaves 0).used = true ∧ eav.eaves.j = 0 / 8 ∧
      energised eav.eaves 0 = true ∧ netDriven eav.eaves 0 = true ∧ (chanAt eav.eaves 0).changed = false) ∧
    (let s := { eav with eaves := { eav.eaves with j := 3 } }; energised s.eaves 31 = true ∧ s.eaves.j = 31 / 8) ∧
    ({ pulsing := true } : ChanSt).pulsing = true ∧
    (let s := { eav with eaves := groupMod eav.eaves .B fun x => { x with pulsing := true } }; (s.eaves.groups.get .B).pulsing = true) := by decide
/-- The same with every channel, and every group, as given. -/
def eavC (x : ChanSt) (g : GroupSt) : State := { eav with eaves := { eav.eaves with outs := List.replicate 32 x, groups := Two.fill g } }
theorem wit_OutputsProtected : eav.mod.st ≠ .off ∧ energised eav.eaves 31 = true ∧ overCurrent eav.eaves 31 = false ∧
    (let s := eavC { curr := 1501, since := 8000 } {}; energised s.eaves 31 = true ∧ overCurrent s.eaves 31 = true) ∧
    (let s := eavC { latch := .tripped, since := readingsPerS } {}
     (chanAt s.eaves 0).latch = .tripped ∧ readingsPerS ≤ (chanAt s.eaves 0).since ∧ netDriven s.eaves 0 = true) ∧
    (chanAt eav.eaves 0).latch ≠ .tripped ∧ (chanAt (eavC { latch := .tripped, since := 7999 } {}).eaves 0).since < readingsPerS ∧
    (let s := eavC { since := 60 * readingsPerS } {}; energised s.eaves 0 = true ∧ 60 * readingsPerS ≤ (chanAt s.eaves 0).since) ∧
    (let s := eavC { since := 60 * readingsPerS - 1 } {}; (chanAt s.eaves 0).since < 60 * readingsPerS) ∧
    (let s := eavC {} { supply := 191, low := 40 }
     supplyAt s.eaves .A < 192 ∧ (s.eaves.groups.get .A).warn = false ∧ 40 ≤ (s.eaves.groups.get .A).low ∧ (s.eaves.groups.get .A).cut = false) ∧
    (let s := eavC {} { supply := 192, low := 39 }
     192 ≤ supplyAt s.eaves .B ∧ supplyAt s.eaves .B < 197 ∧ (s.eaves.groups.get .B).low < 40) ∧
    (let s := eavC {} { supply := 197, high := readingsPerS }; 197 ≤ supplyAt s.eaves .B ∧ readingsPerS ≤ (s.eaves.groups.get .B).high) ∧
    (eav.eaves.groups.get .B).high < readingsPerS := by decide +kernel

/-! ### The pair, time, the Gutter -/

/-- The other module of the pair, which builds the messages. -/
def oth : State := { stb with ctl := { stb.ctl with swBoot := 0x1080000 }, peer := { stb.peer with epoch := 5 } }
/-- A module of the pair in VITAL with the lease and at least two healthy lanes. -/
def rnw0 : Renew :=
  { epoch := 1, cycle := 20, rtime := 0, periodUs := 10000, incomplete := false, release := false, state := 5, roster := 0, ycrc := 0x1234,
    asnMark := 0, exchX := 0, key := 0 }
/-- A standby in complete health. -/
def ready : State :=
  { stb with mod := { stb.mod with boot := { stb.mod.boot with agreed := true } },
             peer := { stb.peer with mirrorOk := true, shadowOk := true, epoch := 1, planes := 1, renew := some rnw0 } }
theorem wit_LeaseMessagesSent : renews vit = true ∧ isPair vit = false ∧ renews act = true ∧ isPair act = true ∧ stb.peer.held = false ∧
    (agreedRenew (advanceTo act (periodNs act - 50000))).isSome = true ∧
    (let s := { act with lanes := act.lanes.mapL fun l x => { x with k := BitVec.ofNat 64 l.num } }
     renews s = true ∧ agreedRenew (advanceTo s (periodNs s - 50000)) = none) ∧ act.mod.st ≠ .safeStop ∧
    hubUp stb = true ∧ isPair stb = true ∧ stb.mod.st = .standby ∧ linkLive stb .A = true ∧ linkLive stb .B = true ∧ stb.ul.leaseInh = false := by decide +kernel
/-- A RENEW, a BEAT and a LINK of the other module. -/
def mRenew : List Byte := peerMsg oth ptRenew .A 3 21 (zeros 64)
/-- A BEAT. -/
def mBeat : List Byte := peerMsg oth ptBeat .A 3 21 (zeros 64)
/-- A LINK. -/
def mLink (s : State) : List Byte := peerMsg s ptLink .A 3 21 []
theorem wit_LeaseMessagesTaken :
    linkLive stb .A = true ∧ peerValid ptRenew .A mRenew = true ∧ mRenew.length = 100 ∧ stb.peer.held = false ∧ epochKnown stb ≤ pmEpoch mRenew ∧
    pmSender mRenew ≠ masterId stb ∧ stb.peer.seenLease.contains (pmSeq mRenew) = false ∧ linkLive act .A = true ∧ act.peer.held = true ∧ act.mod.st.runs = true ∧
    pmSender mRenew ≠ masterId act ∧ peerValid ptBeat .A mBeat = true ∧ mBeat.length = 100 ∧ epochKnown act ≤ pmEpoch mBeat ∧
    pmSender mBeat ≠ masterId act ∧ act.peer.seenLease.contains (pmSeq mBeat) = false := by
  simp only [peerValid, mRenew, mBeat, peerMsg, withCrcBE, crc32c_run]; decide +kernel
/-- A RENEW with RELEASE that names the cycle under way. -/
def mLast : List Byte := peerMsg oth ptRenew .A 4 21 (zeros 10 ++ [2] ++ zeros 53)
theorem wit_LeaseMessagesTaken_release :
    (let s := { stb with cyc := { stb.cyc with k := 21 } }
     peerValid ptRenew .A mLast = true ∧ mLast.length = 100 ∧ epochKnown s ≤ pmEpoch mLast ∧ pmSender mLast ≠ masterId s ∧
       s.peer.seenLease.contains (pmSeq mLast) = false ∧ (renewOf mLast).release = true ∧ (renewOf mLast).cycle = s.cyc.k) ∧
    (renewOf mRenew).release = false := by
  simp only [peerValid, mLast, mRenew, peerMsg, withCrcBE, crc32c_run]; decide +kernel
theorem wit_LeaseMessagesTaken_link : (linkAt stb .A).rxSeq ≠ pmSeq (mLink oth) ∧
    (linkAt { stb with peer := { stb.peer with links := Two.fill { sfpOk := true, up := true, rxSeq := 3 } } } .A).rxSeq = pmSeq (mLink oth) ∧
    (stb.lanes.get .A).role ≠ .retired ∧ peerValid ptLink .A (mLink oth) = true ∧ pmSender (mLink oth) ≠ masterId stb ∧
    peerValid ptLink .A (mLink stb) = true ∧ pmSender (mLink stb) = masterId stb := by
  simp only [peerValid, mLink, peerMsg, withCrcBE, crc32c_run]; decide +kernel
theorem wit_LeaseChangesHands : vit.mod.st ≠ .off ∧ vit.ul.leaseRun = true ∧ ready.peer.renew = some rnw0 ∧ mayClaim ready rnw0 = true ∧
    ready.peer.groupWait = none ∧ (let s := { ready with peer := { ready.peer with mirrorOk := false } }; s.peer.renew = some rnw0 ∧ mayClaim s rnw0 = false) ∧
    (let s := { stb with mod := { stb.mod with st := .boot, boot := { stb.mod.boot with agreed := true } } }
     hubUp s = true ∧ isPair s = true ∧ s.mod.st = .boot ∧ s.mod.boot.agreed = true ∧ s.mod.boot.split = false ∧ s.mod.boot.swBad = false ∧
       s.peer.held = false ∧ s.peer.conflict = false ∧ s.peer.heard = false) ∧
    (let s := { rng with cyc := { rng.cyc with sent := true }, peer := { rng.peer with claimPlanes := some 1 } }
     hubUp s = true ∧ s.mod.st.runs = true ∧ s.cyc.sent = true ∧ mastersAll s 1 = false ∧ mastersAll s 0 = true) := by decide +kernel
/-- An open request, sent n times. -/
def opr (n : Nat) : OpenReq := { seq := 4, body := .fetch 0 1, sent := n, link := .A }
/-- A response, and a request with a part of an image, of the other module. -/
def mAck : List Byte := peerMsg oth ptResponse .A 4 21 (bodyBytes .segmentAck)
/-- The request. -/
def mPart : List Byte := peerMsg oth ptRequest .A 9 21 (bodyBytes (.segment 0 false [1, 2]))
theorem wit_PeerLinksAndRequests : hubUp stb = true ∧ linkLive stb .A = true ∧ (linkAt stb .A).up = true ∧
    (let s := { stb with peer := { stb.peer with links := Two.fill { sfpOk := true } } }; linkLive s .B = true ∧ (linkAt s .B).up = false) ∧
    (SfpKind.other ≠ .tenGSR) ∧ isPair stb = true ∧ respReserve < stb.peer.reqOut.credits ∧
    (let s := { stb with peer := { stb.peer with openReqs := [opr 0, opr 2] } }
     s.peer.openReqs.find? (fun r => r.sent != 0) = some (opr 2) ∧ (opr 2).sent < 3 ∧ 3 ≤ (opr 3).sent) := by decide +kernel
theorem wit_PeerLinksAndRequests_messages : peerValid ptResponse .A mAck = true ∧ bodyOf (pmPay mAck) = some .segmentAck ∧ pmSender mAck ≠ masterId stb ∧
    peerValid ptRequest .A mPart = true ∧ bodyOf (pmPay mPart) = some (.segment 0 false [1, 2]) ∧ pmSender mPart ≠ masterId stb ∧
    (let s := { stb with peer := { stb.peer with epoch := 5 } }
     linkLive s .A = true ∧ pmEpoch mPart ≤ epochKnown s ∧ s.peer.reqOut.credits ≠ 0 ∧ s.mod.st = .standby ∧
       s.peer.seenReq.contains (pmSeq mPart) = false ∧ partFollows s 0 = true ∧ partFollows s 192 = false ∧
       { s with peer := { s.peer with seenReq := [9] } }.peer.seenReq.contains (pmSeq mPart) = true) := by
  simp only [peerValid, mAck, mPart, peerMsg, withCrcBE, crc32c_run]; decide +kernel
/-- A group of a completed cycle. -/
def grp7 : List JRec := [.delta [], .close 0]
/-- The one block of an item of cycle 7 from the other module. -/
def mItem (p : MirrorPay) (seq : Word) : List Byte :=
  peerMsg { oth with peer := { oth.peer with epoch := 1 } } ptMirror .A seq 7
    (blockBytes p.kind 0 7 (beBytes 4 (itemBytes p).length ++ itemBytes p))
/-- INPUTS and PRESENT of cycle 7. -/
def inp7 : MirrorPay := .inputs [] [] 0 0 0 0
/-- What the standby's computation of the mirrored cycle 7 waits for. -/
def stb7 : State :=
  { stb with peer := { stb.peer with
      mirrorIn := some (7, inp7), mirrorPres := some (7, .present [5] [1]), epoch := 1, seenMirror := [2] } }
/-- The blocks' payloads, as they arrive. -/
def blk7 (p : MirrorPay) : MirrorBlk := blockOf (blockBytes p.kind 0 7 (beBytes 4 (itemBytes p).length ++ itemBytes p))
set_option maxRecDepth 100000 in
theorem wit_MirrorFollowed_message :
    linkLive stb7 .A = true ∧ stb7.mod.st = .standby ∧ peerValid ptMirror .A (mItem (.present [5] [1]) 3) = true ∧
      pmEpoch (mItem (.present [5] [1]) 3) ≤ epochKnown stb7 ∧ pmSender (mItem (.present [5] [1]) 3) ≠ masterId stb7 ∧
      stb7.peer.seenMirror.contains (pmSeq (mItem (.present [5] [1]) 3)) = false ∧
      stb7.peer.seenMirror.contains (pmSeq (mItem (.present [5] [1]) 2)) = true := by
  simp only [peerValid, mItem, peerMsg, withCrcBE, crc32c_run]; decide +kernel
set_option maxRecDepth 100000 in
theorem wit_MirrorFollowed_own : peerValid ptMirror .A (peerMsg stb ptMirror .A 3 7 (zeros 4096)) = true ∧
    pmSender (peerMsg stb ptMirror .A 3 7 (zeros 4096)) = masterId stb := by
  simp only [peerValid, peerMsg, withCrcBE, crc32c_run]; decide +kernel
set_option maxRecDepth 100000 in
/-- Each item is whole with its one block; the first of two blocks completes none. -/
theorem wit_MirrorFollowed_items : ([.present [5] [1], .result 1 2, .group grp7, .group [.close 0]] : List MirrorPay).all (fun p =>
      match joined (keepBlock (blk7 p) []) (blk7 p).kind (blk7 p).cycle with
      | some content => itemOf (blk7 p).kind content == some p && (blk7 p).cycle == 7
      | none => false) = true ∧
    joined (keepBlock (blockOf (blockBytes 0 0 7 (beBytes 4 5000 ++ zeros 5000))) []) 0 7 = none := by decide +kernel
theorem wit_MirrorFollowed_group : stb7.peer.groupWait = none ∧ stb7.peer.mirrorHold = [] ∧ (closeDigest grp7).isSome = true ∧
    stb7.peer.lastGroup + 1 = (7 : DWord) ∧ stb.peer.mirrorIn = none ∧ stb7.peer.mirrorIn = some (7, .inputs [] [] 0 0 0 0) ∧
    stb7.peer.mirrorPres = some (7, .present [5] [1]) ∧ exchangedIn stb7 (mirroredGroup 7 grp7) = false ∧
    hasDelta (mirroredGroup 7 grp7) = true ∧ hasDelta (mirroredGroup 7 [.close 0]) = false ∧ exchangedIn stb (mirroredGroup 7 [.close 0]) = false ∧
    (∀ w ∈ stb.peer.fullWait, w.1 ≠ 7) := by decide +kernel
/-- The computation of the mirrored cycle has ended in every lane. -/
def shd : State :=
  { stb with peer := { stb.peer with groupWait := some (mirroredGroup 7 grp7), result := some (7, 1, 2), shadowC := some 7 },
             lanes := stb.lanes.map fun x => { x with truss := { x.truss with done := true } } }
theorem wit_MirrorFollowed : hubUp shd = true ∧ shd.mod.st = .standby ∧ shd.peer.groupWait = some (mirroredGroup 7 grp7) ∧
    shd.peer.result = some ((mirroredGroup 7 grp7).cycle, (1, 2)) ∧ shd.peer.shadowC = some (mirroredGroup 7 grp7).cycle ∧
    shd.cyc.k.toNat < (mirroredGroup 7 grp7).cycle.toNat + 2 ∧ shd.peer.mirrorHold = [] ∧ shd.peer.fullWait = [] ∧
    (let s := { shd with lanes := stb.lanes }; shadowVote s (shadowBallots s (mirroredGroup 7 grp7) (Quad.fill false)) = none) := by decide +kernel
/-- Three lanes alike form the same ballot, whatever its digest. -/
theorem majority_alike (b : Ballot) : (majority [b, b, b]).isSome = true := by simp [majority, agree2]
theorem wit_MirrorFollowed_vote : (shadowVote shd (shadowBallots shd (mirroredGroup 7 grp7) (Quad.fill false))).isSome = true := by
  have h : ∃ b, shadowBallots shd (mirroredGroup 7 grp7) (Quad.fill false) = [(.A, b), (.B, b), (.C, b)] := ⟨shadowBallot shd (mirroredGroup 7 grp7) (shd.lanes.get .A) y0, rfl⟩
  obtain ⟨b, hb⟩ := h
  rw [hb]; exact majority_alike b
theorem wit_TimeSources : hubUp vit = true ∧ (let m : Announce := ⟨1, false, true, 37⟩; vit.time.gm = none ∧ m.better = false) ∧
    (let s := { vit with time := { vit.time with gm := some 9 } }; let m : Announce := ⟨1, false, true, 37⟩
     s.time.gm ≠ none ∧ s.time.gm ≠ some m.gm) ∧
    (let s := { vit with time := { vit.time with src := false, ref := some 1 } }; s.time.src = false ∧ s.time.ref ≠ none) ∧
    (let s := { vit with cyc := { vit.cyc with window := 100 } }; 100 ≤ s.cyc.window ∧ Quad.fill 0 = s.lanes.map (·.ticks)) ∧ (0 : Int).natAbs ≤ 100 ∧ 1000 < (-1001 : Int).natAbs := by decide
/-- A record of a vital task, as alarm, event or trace. -/
def rec_ (cls : Nat) : GRecIn := { code := 0x0C01, cls := cls, sev := 3, unit := 0, lanes := 7, args := [] }
theorem wit_RecordsQueue : hubUp vit = true ∧ (rec_ 0).unit < 4 ∧ (rec_ 0).sev < 8 ∧ (rec_ 0).code ≠ 0x0882 ∧ vit.gut.store = [] ∧
    vit.gut.alarm.credits ≠ 0 ∧ (vit.lanes.get .A).role ≠ .retired ∧
    (let i := freshItem (mkRec vit 0x0C01 2 3 0 7 []); let s := { vit with gut := { vit.gut with trace := ⟨[i], 0⟩ } }
     s.gut.trace.credits = 0 ∧ ringOn s qTRCQ = true ∧ s.gut.trace.items = i :: []) ∧
    (let i := freshItem (mkRec vit 0x0C01 0 3 0 7 []); let s := { vit with gut := { vit.gut with alarm := ⟨[i], 5⟩ } }
     pathNext s .evtq = some (.alarm, 0, i.rec_) ∧ pathNext s (.blackbox .A) = some (.alarm, 0, i.rec_) ∧ i.evtq = false ∧ queueOf i.rec_ = .alarm) ∧
    (let s := { vit with gut := { vit.gut with budget := 0 } }; s.gut.budget = 0) := by decide +kernel
theorem wit_RecordsQueue_ringCan : (let s := { vit with host := { vit.host with q := vit.host.q.map fun r => { r with cSize := 16 } } }; ringCan s qEVTQ = true) := by decide

/-! ### A yealm that verifies -/

/-- A module in BOOT all of whose lanes hold the image in their active bank. -/
def booImg : State :=
  { boo with lanes := Quad.fill { lane .off with yealm := none, mram := { Mram.blank with bank0 := bankImg .active } } }
theorem wit_YealmIsAgreed (h : ∀ l, vStep3 l img = true) :
    hubUp booImg = true ∧ booImg.mod.st = .boot ∧ booImg.mod.boot.checked = true ∧ booImg.mod.boot.agreed = false ∧ booImg.ul.optActivate = false ∧
      booImg.mod.boot.noImage = false ∧ splitAsked booImg = false ∧ isPair booImg = false ∧
      2 ≤ ((aliveLanes booImg).filter fun l => (booImg.lanes.get l).checked).length ∧
      (∀ l ∈ aliveLanes booImg, ∃ b y, activeBank (booImg.lanes.get l).mram = some b ∧
        verify l (booImg.lanes.get l).sw false (bankBytes b) = .ok y ∧ y.crc64 = (yealmOf img).crc64) := by
  refine ⟨rfl, rfl, rfl, rfl, rfl, rfl, rfl, rfl, by decide, fun l _ => ⟨bankImg .active, yealmOf img, ?_, ?_, rfl⟩⟩
  · cases l <;> rfl
  · rw [bankBytes_img _ (bankImg_mem .active), show (booImg.lanes.get l).sw = 0 by cases l <;> rfl]; exact verify_img l (h l)
/-- The module whose lane A's shadow bank has taken the whole image. -/
def ldgImg : State :=
  { vit with lanes := vit.lanes.modify .A fun x => { x with mram := { x.mram with bank1 := bankImg .loading } } }
theorem wit_TransfersMove_accepted (h : ∀ l, vStep3 l img = true) :
    hubUp ldgImg = true ∧ (shadowBank (ldgImg.lanes.get .A).mram).state = .loading ∧ (shadowBank (ldgImg.lanes.get .A).mram).full = true ∧
      runningLoad (lead ldgImg).work = none ∧ verify .A (ldgImg.lanes.get .A).sw ldgImg.mod.boot.split
        (bankBytes (shadowBank (ldgImg.lanes.get .A).mram)) = .ok (yealmOf img) := by
  refine ⟨rfl, rfl, rfl, by decide, ?_⟩
  rw [show shadowBank (ldgImg.lanes.get .A).mram = bankImg .loading from rfl, bankBytes_img _ (bankImg_mem .loading)]
  exact verify_img .A (h .A)
/-- Lane A holds the image as the agreed yealm, lane D holds none. -/
def fetchImg : State :=
  { fet with mod := { fet.mod with ycrc := (yealmOf img).crc64 },
             lanes := fet.lanes.modify .A fun x => { x with mram := { x.mram with bank0 := { bankImg .active with img := some (yealmOf img) } } } }
set_option maxRecDepth 100000 in
theorem wit_CopiesAreChecked_fetched (h : ∀ l, vStep3 l img = true) :
    hubUp fetchImg = true ∧ fetchImg.mod.boot.agreed = true ∧ holdsActive fetchImg .D = false ∧ (fetchImg.lanes.get .D).role ≠ .retired ∧
      fetchSource fetchImg .D = some .A ∧ activeBank (fetchImg.lanes.get .A).mram = some { bankImg .active with img := some (yealmOf img) } ∧
      (fetchImg.lanes.get .D).mram.bank0.state ≠ .active ∧ verify .D (fetchImg.lanes.get .D).sw fetchImg.mod.boot.split
        (bankBytes { state := .active, mem := applyWrites (bankImg .active).mem [], size := 2376, img := none }) = .ok (yealmOf img) ∧
      (yealmOf img).crc64 = fetchImg.mod.ycrc := by
  refine ⟨rfl, by decide, by decide +kernel, by decide, by decide +kernel, rfl, by decide, ?_, rfl⟩
  rw [applyWrites_nil, bankImg_mem, bankBytes_img { state := .active, mem := memOf img, size := 2376, img := none } (by dsimp only)]
  exact verify_img .D (h .D)

/-! ## Ill-formed commands -/

/-- A request with a header of the wrong length. -/
def badReq : HostReq := { req0 with hdr := zeros 15 }
/-- A record with an operand of each kind out of its range. -/
def badRecs : List GRecIn := [{ rec_ 3 with sev := 0 }, { rec_ 0 with unit := 4 }, { rec_ 0 with args := zeros 25 }, { rec_ 0 with sev := 8 }]
/-- What a task publishes, with one thing out of its range. -/
def badResults : List TaskResult :=
  [⟨[⟨0x020000, true, false⟩], none, [], [], [], []⟩, ⟨[], none, [⟨1048576, [0]⟩], [], [], []⟩, ⟨[], none, [], [], [zeros 47], []⟩,
    ⟨[], none, [], [], [], [rec_ 3]⟩]
/-- A reading of the Eaves block. -/
def meas0 : EavesMeas := { volt := List.replicate 32 0, curr := List.replicate 32 0, elems := List.replicate 32 0, gmElems := Two.fill 0, supply := Two.fill 0 }
/-- A window of one chain. -/
def win0 : ChainWindow := { ins := List.replicate 64 (List.replicate 5 0), srcs := List.replicate 4 (List.replicate 5 0) }
/-! One command, or more, for each check of `Instr.wf`. -/

theorem test_illTasks : (badResults.map (Instr.taskEnd (Quad.fill true) 1 0)).all (fun i => !i.wf) = true := by decide +kernel
theorem test_illRecords : (badRecs.map Instr.gutterRecord).all (fun i => !i.wf) = true := by decide +kernel
theorem test_illSegment : (Instr.xfrqInSegment (zeros 64) (List.replicate 65537 0)).wf = false := by
  simp only [Instr.wf, xferEntryWf, List.length_replicate]; decide
theorem test_ill0 : ([
    .ringSectionArrival .r1 .A (zeros 63) 0, .ringSectionArrival .r1 .A (zeros 65) 0,
    .taskEnd (Quad.fill true) 0 0 ⟨[], none, [], [], [], []⟩, .taskEnd (Quad.fill true) 9 0 ⟨[], none, [], [], [], []⟩,
    .diagnosticEnd (Quad.fill true) [zeros 49] [], .diagnosticEnd (Quad.fill true) [] [rec_ 3],
    .bistSliceEnd .hub ⟨0, true, [(192, 0)], [], [], true⟩, .bistSliceEnd .hub ⟨0, true, [(0, 512)], [], [], true⟩] : List Instr).all (fun i => !i.wf) = true := by decide +kernel
theorem test_ill1 : ([
    .bistSliceEnd .hub ⟨0, true, [], [(0, 1152)], [], true⟩, .bistSliceEnd .hub ⟨0, true, [], [], [4096], true⟩,
    .retainedStateCopyReceived .A [⟨1048576, [0]⟩] [], .retainedStateCopyReceived .A [] [⟨1048576, [0]⟩],
    .sramScrub .A [81920] false, .eccCorrected .A 81920, .xfrqInSegment (zeros 63) [], .inputInjectionSegment (zeros 63) []] : List Instr).all (fun i => !i.wf) = true := by decide +kernel
theorem test_ill2 : ([
    .restartLockExpiry 16, .discoverReturn .r1 .A [zeros 64] 0 true, .foreignMasterFrame .r1 .A (zeros 63),
    .ringRelay .r1 .A (zeros 63), .relayedLaunch .r1 .A (zeros 63), .lFrameReceive .A [⟨72, [0]⟩],
    .eFrameReceive .A 0 [⟨256, [0]⟩], .eavesCommonInstant [] (List.replicate 8 0)] : List Instr).all (fun i => !i.wf) = true := by decide +kernel
theorem test_ill3 : ([
    .eavesCommonInstant (List.replicate 8 0) [], .eavesWindowEnd { win0 with ins := [] } win0,
    .eavesWindowEnd win0 { win0 with srcs := [] }, .filterChange .X 64, .inputFaultSet .X 64, .inputFaultClear .X 64,
    .sourceFaultSet .X 4, .sourceFaultClear .X 4] : List Instr).all (fun i => !i.wf) = true := by decide +kernel
theorem test_ill4 : ([
    .discTimerExpiry .X 32, .discClear .X 32, .counterGateEnd .X 55 0 0, .counterGateEnd .X 64 0 0,
    .readbackReading { meas0 with volt := [] }, .testPulseStart (.chan 32), .testPulseEnd (.chan 32) meas0 (List.replicate 32 0),
    .testPulseEnd (.chan 0) { meas0 with curr := [] } (List.replicate 32 0)] : List Instr).all (fun i => !i.wf) = true := by decide +kernel
theorem test_ill5 : ([
    .testPulseEnd (.chan 0) meas0 [], .outputTrip 32, .tripRetry 32, .retryCountReset 32, .unsupportedRequest .misaligned badReq,
    .poisonedRequest badReq, .bar0ReadTimeout badReq, .postedWriteFail badReq] : List Instr).all (fun i => !i.wf) = true := by decide +kernel
theorem test_ill6 : ([
    .moduleRequestFail .refused badReq, .pairLoRead 0x50C, .maintPortWrite 0x602 0, .maintPortWrite 0x5FC 0,
    .maintPortWrite 0x614 0, .registerWrite .bar0 2 0, .registerWrite .bar0 0x10000 0, .registerWrite .bar4 0x1000 0] : List Instr).all (fun i => !i.wf) = true := by decide +kernel
theorem test_ill7 : ([
    .registerWrite .msixControl 4 0, .doorbell 0 0 badReq, .renewReceive .A (zeros 99), .beatReceive .A (zeros 99),
    .linkReceive .A (zeros 35) 0, .timecfgDomain 128, .mramWriteFault .A 4096, .mramUncorrectableRead .A 4096] : List Instr).all (fun i => !i.wf) = true := by decide +kernel
theorem test_ill8 : ([
    .mramCorrectedRead .A 4096, .cmdqFetch (List.replicate 65 (zeros 64)), .cmdqFetch [zeros 63]] : List Instr).all (fun i => !i.wf) = true := by decide +kernel
/-- The same commands with the operands at the ends of their ranges. -/
def wellFormed : List Instr :=
  [.ringSectionArrival .r1 .A (zeros 64) 0, .ringSectionArrival .r1 .A (zeros 120) 0, .taskEnd (Quad.fill true) 8 0 ⟨[⟨0x01FFFF, true, false⟩], none,
    [⟨1048575, [0]⟩], [], [zeros 48], [rec_ 2]⟩,
    .bistSliceEnd .hub ⟨0, true, [(191, 511)], [(191, 1151)], [4095], true⟩, .sramScrub .A [81919] false, .restartLockExpiry 15,
    .lFrameReceive .A [⟨71, [0]⟩], .eFrameReceive .A 0 [⟨255, [0]⟩], .eavesWindowEnd win0 win0, .counterGateEnd .X 56 0 0, .counterGateEnd .X 63 0 0,
    .readbackReading meas0, .testPulseEnd (.chan 31) meas0 (List.replicate 32 0), .poisonedRequest req0, .pairLoRead 0x518, .maintPortWrite 0x610 0,
    .registerWrite .bar0 0xFFFC 0, .registerWrite .bar4 0xFFC 0, .renewReceive .A (zeros 100), .timecfgDomain 127, .cmdqFetch (List.replicate 64 (zeros 64))]
theorem test_wellFormed : wellFormed.all Instr.wf = true := by decide +kernel

/-! ### Where every command completes: `EveryCommandCompletes`

For every command of the table, and for every form in which its rules name several, a state in which it acts. -/

/-- No offer of station time. -/
def offer0 : StationOffer := ⟨false, 0⟩
/-- A section of ring 1 of cycle 7, as the hub hands it to a lane. -/
def w0 : RingSlot := { ring := .r1, plane := .A, pos := 0, atNs := 0, hdr := zeros 16 ++ beBytes 8 7 ++ zeros 40, sec := zeros 56 }
/-- A completion record. -/
def c0 : Cpl := { seq := 1, status := 2, reason := 0, opcode := 1, step := 0, asn := 5, htag := 0, cycle := 7, data := 0 }
/-- An indication record. -/
def i0 : Ind := { kind := 1, nonvital := false, cycle := 7, stime := 0, payload := zeros 40 }
/-- A module whose completions and indications stand in every queue that they pass. -/
def cpl0 : State :=
  { vit with
      lanes := vit.lanes.map (fun x => { x with cplq := ⟨[c0], 100⟩, indq := ⟨[i0], 100⟩, sentInds := [i0], inds := [i0, i0] }),
      host := { vit.host with cplRep := [c0], indRep := [i0] }, cyc := { vit.cyc with agreedIn := true } }
/-- Channels that are faulty, in discrepancy and about to be judged sound. -/
def eavX : State :=
  { eav with eaves := { eav.eaves with chains := Two.fill { eav.eaves.chains.a with
      ins := List.replicate 64 { toward := true, cnt := 4, nGood := 2000, nConst := 3, nCross := 2, nMid := 41, fConst := true },
      srcBad := [3, 3, 3, 3], srcGood := [2000, 0, 0, 0], srcFault := [true, false, false, false],
      pairs := List.replicate 32 { timer := some 1000, nOff := 4, disc := true } } } }
/-- Records in the alarm queue, the trace queue and the syslog queue. -/
def gutS : State :=
  let i := freshItem (mkRec vit 0x0C01 0 3 0 7 []); let i2 := freshItem (mkRec vit 0x0C01 2 3 0 7 [])
  { vit with gut := { vit.gut with alarm := ⟨[i], 5⟩, trace := ⟨[i2], 7⟩, sysq := [mkRec vit 0x0C01 0 3 0 7 []] } }
/-- An L frame that lane A's Batten port is to send. -/
def lf0 : State :=
  let f : LFrame := { lane := 0, seq := 1, mark := false, split := false, cycle := 8, dcycle := 8, drive := 1, gm := 1, cfgCycle := 0, cfgCrc := 0,
                         cfgPage := 0, cfgData := zeros 32 }
  { vit with lanes := vit.lanes.modify .A fun x => { x with txBuf := [lBytes f] } }
/-- The small yealm with a route and a signal, so that every command names an element of it. -/
def yP : Yealm := { y0 with truss := { y0.truss with
  objs := [{ ObjRec.none_ with type := 1, area := 0 }, { ObjRec.none_ with type := 2, area := 1 }],
  routes := [{ entry := 1, area := 1, path := [], flank := [], overlap := [], conflicts := [], rsId := 0, rsOff := 0x11000 }] } }
/-- Cycle 1 000 of a module that holds the yealm, with a command and its descriptor at the head of the presentations. -/
def preP (c : CmdEnt) (d : List Byte) : State :=
  { win with
    cyc := { win.cyc with k := 1000 }, agr := { win.agr with toShow := [5] }, ctl := { win.ctl with sw := 0x20000 },
    lanes := win.lanes.map fun x => { x with
      yealm := some yP, sw := 0x30000, descs := [(5, d)],
      mram := { x.mram with bank1 := { state := .verified, mem := [], size := 0, img := some yP } },
      work := reqPut (cmdPut (memSetNat [] 0x2C 2 1) 0 c) 0 { asn := 3, rcyc := 100, opcode := c.opcode, area := c.area, target := c.target, tkind := 0, chal := 0 } } }
/-- The descriptor of a CONFIRM, which names its REQUEST (ASN 3) and the time at which it lapses. -/
def refD : List Byte := zeros 24 ++ leBytes 8 3 ++ leBytes 8 1500 ++ zeros 24
/-- A command's entry, presented in cycle 1 000. -/
def entP (op step target area : Nat) : CmdEnt := { ent op step with target := target, area := area, acyc := 1000, param := zeros 28 }
/-- A module in VITAL in which almost every command acts. -/
def most : State :=
  { vit with cyc := { vit.cyc with k := 1000, voted := true, done := 100000, sinceJoin := 2160000, window := 100 }, agr := { vit.agr with waited := 50, notBelong := 8 } }
set_option maxRecDepth 100000 in
theorem wit_EveryCommandCompletes_0 : ([
    .commonInstant (Quad.fill ⟨true, 3, 0x20000, 3⟩) (Quad.fill 0), .gFrameLaunch, .ringSectionArrival .r1 .A (hdr0 0 1 ++ zeros 56) 100,
    .ringSectionArrival .r1 .A (hdr0 0 1 ++ zeros 56) 440000, .inputClose, .inputAgreement (Quad.fill false) (Quad.fill false) offer0, .inputDiverge,
    .setQueuePush, .sFrameLaunch, .diagnosticRelease, .diagnosticLimit, .laneSleep .A, .laneWake .A, .creditReturn (.setQueue .r1 .A),
    .creditReturn (.completion .A), .creditReturn .gutterAlarm, .creditReturn .gutterEvent, .creditReturn .gutterTrace, .lockstepMismatch .A 3, .rotationDue] : List Instr).all (fun c => acts c most) = true := by
  decide +kernel
set_option maxRecDepth 100000 in
theorem wit_EveryCommandCompletes_1 : ([
    .sramScrub .A [5] true, .eccCorrected .A 5, .eccUncorrectable .A, .trussStats, .planeStats, .journalStall, .hostFetch, .ringSfpInsertion .r1 .A .sx,
    .ringSfpInsertion .r1 .A .other, .ringSfpInsertion .r1 .A .empty, .sfpDiagRead .r1 .A 1 2 3, .discoverLaunch, .timingLaunch, .periodicTiming,
    .periodicDiscover, .planeLost .r1 .A, .portLinkUp .r1 .A false, .foreignMasterFrame .r1 .A (hdr0 1 2), .lFrameSend .A, .eFrameReceive .A 0 []] : List Instr).all (fun c => acts c most) = true := by
  decide +kernel
set_option maxRecDepth 100000 in
theorem wit_EveryCommandCompletes_2 : ([
    .battenReceiverTimeout .A, .battenDeadline .A, .eavesWindowEnd win0 win0, .readbackReading meas0,
    .readbackReading { meas0 with volt := List.replicate 32 240, curr := List.replicate 32 10, elems := List.replicate 32 1, gmElems := Two.fill 1, supply := Two.fill 240 },
    .fieldSupplyLow .A, .hpctlClose, .doorbell 0 5 req0, .qctlWrite 3 7, .msixUnmask 7, .msixUnmask 1, .unsupportedRequest .misaligned req0,
    .unsupportedRequest .requestType { req0 with posted := false }, .unsupportedRequest .bar2Read { req0 with posted := false },
    .unsupportedRequest .bar2Write req0, .poisonedRequest req0, .bar0ReadTimeout { req0 with posted := false }, .postedWriteFail req0,
    .moduleRequestFail .refused req0, .moduleRequestFail .timeout req0] : List Instr).all (fun c => acts c most) = true := by
  decide +kernel
set_option maxRecDepth 100000 in
theorem wit_EveryCommandCompletes_3 : ([
    .moduleRequestFail .notDelivered req0, .errstatClear 1 0, .errstatClear 0x101FF 0x10002, .pairLoRead 0x508, .pairLoRead 0x510, .pairLoRead 0x518,
    .bootoptSplit true, .bootoptLoad true, .bootoptActivate true, .timecfgSrc true, .timecfgDomain 100, .timecfgUtcOfs 38, .maintPortWrite 0x600 0xFFFFFFFF,
    .maintPortWrite 0x604 0xFFFFFFFF, .maintPortWrite 0x608 0xFFFFFFFF, .maintPortWrite 0x60C 0xFFFFFFFF, .maintPortWrite 0x610 0xFFFFFFFF,
    .registerWrite .bar0 0x240 0xFFFFFFFF, .registerWrite .bar0 0x3C0 0xFFFFFFFF, .registerWrite .bar4 0x70 0xFFFFFFFF] : List Instr).all (fun c => acts c most) = true := by
  decide +kernel
set_option maxRecDepth 100000 in
theorem wit_EveryCommandCompletes_4 : ([
    .registerWrite .bar4 0x74 0xFFFFFFFF, .registerWrite .bar4 0x78 0xFFFFFFFF, .registerWrite .msixControl 0 0xFFFFFFFF,
    .registerWrite .msixControl 0 0x4000, .registerWrite .deviceControl 0 0x20A0, .registerWrite .deviceControl2 0 5, .registerWrite .aerStatus 0 0xFFFF,
    .registerWrite .linkTrained 0 0x23, .perst, .renewRelease, .leaseExpired, .peerSfpInsertion .A .tenGSR, .peerSfpInsertion .A .sx, .ptpSync 50,
    .ptpSync (-2000), .ptpSync 500, .timeSourceLost true, .timeSourceLost false, .clockWindowCheck (Quad.fill false) 1000000, .supplyLow 150] : List Instr).all (fun c => acts c most) = true := by
  decide +kernel
set_option maxRecDepth 100000 in
theorem wit_EveryCommandCompletes_5 : ([
    .supplyReset, .sealChange, .hubWatchdog, .junctionOvertemp (.lane .A), .junctionOvertemp .hub, .mramWriteFault .A 100, .mramUncorrectableRead .A 100,
    .gutterRecord (rec_ 0), .gutterRecord { rec_ 0 with code := 0x8001 }, .blackboxWrite .A, .cmdqFetch [zeros 64], .linkProbe .r1 .A 100, .rstPress,
    .primaryCellExhausted, .hubSramScrub true, .mramCorrectedRead .A 8, .busMasterEnable true, .busMasterEnable false, .powerStateChange true,
    .powerStateChange false] : List Instr).all (fun c => acts c most) = true := by
  decide +kernel
set_option maxRecDepth 100000 in
theorem wit_EveryCommandCompletes_6 : ([
    .ptpAnnounce ⟨1, true, true, 37⟩] : List Instr).all (fun c => acts c most) = true := by
  decide +kernel
set_option maxRecDepth 100000 in
theorem wit_EveryCommandCompletes_7 : ([
    .taskEnd (Quad.fill true) 1 50 ⟨[⟨5, true, false⟩], some 1, [⟨0, [1]⟩], [], [], [rec_ 0]⟩, .trussEvaluationComplete (Quad.fill true) 50,
    .ringRelay .r1 .A (hdr0 1 2), .relayedLaunch .r1 .A (hdr0 1 2), .renewReceive .A mRenew, .beatSend, .linkSend .A, .linkReceive .A (mLink oth) 100,
    .peerLinkLost .A, .shadowComputationComplete false false true false, .peerRequestReceive .A mAck] : List Instr).all (fun c => acts c shd) = true := by
  decide +kernel
set_option maxRecDepth 100000 in
theorem wit_EveryCommandCompletes_8 : ([
    .filterChange .X 0, .inputFaultSet .X 0, .inputFaultClear .X 0, .sourceFaultSet .X 0, .sourceFaultClear .X 0, .discTimerExpiry .X 0, .discClear .X 0,
    .counterGateEnd .X 56 3 1000000, .testPulseStart (.chan 0)] : List Instr).all (fun c => acts c eavX) = true := by
  decide +kernel
set_option maxRecDepth 100000 in
theorem wit_EveryCommandCompletes_9 : ([
    .voteDeadline, .voteCompleteLimit, .hubForwardItem .completion, .hubForwardItem .indication, .completionDelivered, .creditReturn (.indication .A),
    .requestLapse] : List Instr).all (fun c => acts c cpl0) = true := by
  decide +kernel
set_option maxRecDepth 100000 in
theorem wit_EveryCommandCompletes_10 : ([
    .creditReturn .mirror, .creditReturn (.peerRequest true), .creditReturn (.peerRequest false), .creditReturn (.lease true), .creditReturn (.lease false),
    .beatReceive .A mBeat, .masteryTest] : List Instr).all (fun c => acts c ({ act with peer := { act.peer with mirrorQ := ⟨[{ relay := false, cycle := 7, pay := zeros 4096 }], 255⟩, crMirror := 1, reqOut := ⟨[{ seq := 4, link := .A, body := .segmentAck }], 63⟩, reqIn := ⟨[mAck], 63⟩, leaseOut := [mAck], leaseIn := [mAck], claimPlanes := some 1 }, cyc := { act.cyc with sent := true } })) = true := by
  decide +kernel
set_option maxRecDepth 100000 in
theorem wit_EveryCommandCompletes_11 : ([
    .gutterPathTake .evtq, .gutterPathTake .trcq, .gutterPathTake .syslog, .gutterPathTake (.blackbox .A), .syslogSend] : List Instr).all (fun c => acts c ({ gutS with ul := { gutS.ul with logcfg := 0x02020001, mpip := 1, logdst := 2, mpgw := 1 } })) = true := by
  decide +kernel
set_option maxRecDepth 100000 in
theorem wit_EveryCommandCompletes_12 : ([
    (.debugHalt .D, { vit with ul := { vit.ul with pressed := true, button := .pressed }, ctl := { vit.ctl with pos := some .maint } }),
    (.rstRelease 2000000, { vit with ul := { vit.ul with pressed := true, button := .pressed }, ctl := { vit.ctl with pos := some .maint } }),
    (.rstRelease 200000, { vit with ul := { vit.ul with pressed := true, button := .pressed }, ctl := { vit.ctl with pos := some .maint } }),
    (.resetStuck, { vit with ul := { vit.ul with pressed := true, button := .pressed }, ctl := { vit.ctl with pos := some .maint } }),
    (.restartDecision, ind), (.hpctlOpen, ind), (.indicateGather, ind), (.outputTrip 0, eavC { curr := 1501, since := 480000 } {}),
    (.outputTrip 31, eavC { curr := 1501, since := 480000 } {}), (.retryCountReset 0, eavC { curr := 1501, since := 480000 } {}),
    (.discoverReturn .r1 .A [] 100 true, rngA fun x => { x with off := true, txD := [hdr0 0 1], silent := 3 }),
    (.ringTopology .r1 .A, rngA fun x => { x with off := true, txD := [hdr0 0 1], silent := 3 })] : List (Instr × State)).all (fun p => acts p.1 p.2) = true := by
  decide +kernel
set_option maxRecDepth 100000 in
theorem wit_EveryCommandCompletes_13 : ([
    (.portLinkUp .r1 .A true, rngA fun x => { x with off := true, txD := [hdr0 0 1], silent := 3 }),
    (.testPulseStart (.master .A), { eavC {} { supply := 240 } with eaves := { (eavC {} { supply := 240 }).eaves with j := 4 } }),
    (.testPulseStart (.master .B), { eavC {} { supply := 240 } with eaves := { (eavC {} { supply := 240 }).eaves with j := 4 } }),
    (.fieldSupplyRecover .A, { eavC {} { supply := 240 } with eaves := { (eavC {} { supply := 240 }).eaves with j := 4 } }),
    (.peerLinkReturn .B, { stb with peer := { stb.peer with links := Two.fill { sfpOk := true }, openReqs := [opr 0, opr 2] } }),
    (.peerLinkReturn .A, { stb with peer := { stb.peer with links := Two.fill { sfpOk := true }, openReqs := [opr 0, opr 2] } }),
    (.peerRequestTimeout, { stb with peer := { stb.peer with links := Two.fill { sfpOk := true }, openReqs := [opr 0, opr 2] } }),
    (.testPulseStart (.chan 31), { eav with eaves := { eav.eaves with j := 3, interval := 2, outs := { offCase := some 1, pulsing := true } :: List.replicate 31 {} } }),
    (.testPulseEnd (.chan 0) { meas0 with elems := List.replicate 32 3 } (List.replicate 32 0), { eav with eaves := { eav.eaves with j := 3, interval := 2, outs := { offCase := some 1, pulsing := true } :: List.replicate 31 {} } }),
    (.crossWindowEnd, { eav with eaves := { eav.eaves with j := 3, interval := 2, outs := { offCase := some 1, pulsing := true } :: List.replicate 31 {} } }),
    (.bistSliceEnd (.lane .D) good, { vit with lanes := vit.lanes.modify .D fun x => { x with bist := { x.bist with pass := some .rest, slice := 798, running := true, reinit := true } }, hub := { vit.hub with pass := some .boot, running := true, slice := 46 } }),
    (.bistSliceEnd .hub good, { vit with lanes := vit.lanes.modify .D fun x => { x with bist := { x.bist with pass := some .rest, slice := 798, running := true, reinit := true } }, hub := { vit.hub with pass := some .boot, running := true, slice := 46 } })] : List (Instr × State)).all (fun p => acts p.1 p.2) = true := by
  decide +kernel
set_option maxRecDepth 100000 in
theorem wit_EveryCommandCompletes_14 : ([
    (.blockReinitComplete .D, { vit with lanes := vit.lanes.modify .D fun x => { x with bist := { x.bist with pass := some .rest, slice := 798, running := true, reinit := true } }, hub := { vit.hub with pass := some .boot, running := true, slice := 46 } }),
    (.mramWriteComplete .A, { vit with lanes := vit.lanes.map fun x => { x with mramq := ⟨[.group grp], 63⟩, snapRun := some (5, .A), mram := { x.mram with snaps := ⟨some { complete := false, s := 5, lastCyc := 5, ycrc := 0, size := 64, stime := 0, content := [] }, none⟩ } } }),
    (.mramWriteComplete .D, { vit with lanes := vit.lanes.map fun x => { x with mramq := ⟨[.group grp], 63⟩, snapRun := some (5, .A), mram := { x.mram with snaps := ⟨some { complete := false, s := 5, lastCyc := 5, ycrc := 0, size := 64, stime := 0, content := [] }, none⟩ } } }),
    (.snapshotComplete .A, { vit with lanes := vit.lanes.map fun x => { x with mramq := ⟨[.group grp], 63⟩, snapRun := some (5, .A), mram := { x.mram with snaps := ⟨some { complete := false, s := 5, lastCyc := 5, ycrc := 0, size := 64, stime := 0, content := [] }, none⟩ } } }),
    (.debugHalt .A, { inj0 with host := (seg [] [] 0).host }),
    (.inputInjectionSegment (segEnt 0xFFFFFFFF 0 8 1) [3, 0, 0x80, 1, 0, 0, 0, 0], { inj0 with host := (seg [] [] 0).host }),
    (.supplyStart 500 false, { vit with mod := { vit.mod with st := .off } }), (.reserveStoreExhausted, { vit with mod := { vit.mod with st := .off } }),
    (.creditReturn .bulkOut, { vit with host := { vit.host with errq := ⟨[zeros 64], 0⟩, bulkOut := ⟨[zeros 4096], 3⟩ } }),
    (.creditReturn .errorQueue, { vit with host := { vit.host with errq := ⟨[zeros 64], 0⟩, bulkOut := ⟨[zeros 4096], 3⟩ } }),
    (.supplyRecovery 10 150, { vit with ul := { vit.ul with warn := true, dipCycle := some 5, button := .stuck, wdog := true } }),
    (.rstRearm, { vit with ul := { vit.ul with warn := true, dipCycle := some 5, button := .stuck, wdog := true } })] : List (Instr × State)).all (fun p => acts p.1 p.2) = true := by
  decide +kernel
set_option maxRecDepth 100000 in
theorem wit_EveryCommandCompletes_15 : ([
    (.creditReturn (.commandIntake .A), { vit with lanes := vit.lanes.modify .A fun x => { x with cmdIn := ⟨[⟨7, zeros 64⟩], 63⟩, stopped := true } }),
    (.stopFlit .A, { vit with lanes := vit.lanes.modify .A fun x => { x with cmdIn := ⟨[⟨7, zeros 64⟩], 63⟩, stopped := true } }),
    (.ballotArrival .A 7, { win with lanes := win.lanes.modify .A fun x => { x with ballot := some (bal 1), purlin := Quad.fill ⟨[⟨7, .ballot⟩], 63⟩ } }),
    (.creditReturn (.purlin .B .A), { win with lanes := win.lanes.modify .A fun x => { x with ballot := some (bal 1), purlin := Quad.fill ⟨[⟨7, .ballot⟩], 63⟩ } }),
    (.bistSliceStart (.lane .D), { vit with lanes := vit.lanes.modify .D fun x => { x with bist := { x.bist with pass := some .rest, slice := 0 } }, hub := { vit.hub with pass := some .boot } }),
    (.bistSliceStart .hub, { vit with lanes := vit.lanes.modify .D fun x => { x with bist := { x.bist with pass := some .rest, slice := 0 } }, hub := { vit.hub with pass := some .boot } }),
    (.hubForwardItem (.sect .r1 0), { vit with lanes := vit.lanes.map fun x => { x with setq := ⟨⟨[{ pos := 0, sec := zeros 56 }], 31⟩, ⟨[], 32⟩, ⟨[], 32⟩, ⟨[], 32⟩⟩, ringIn := Quad.fill ⟨[w0], 127⟩ } }),
    (.creditReturn (.ringInput .r1 .A), { vit with lanes := vit.lanes.map fun x => { x with setq := ⟨⟨[{ pos := 0, sec := zeros 56 }], 31⟩, ⟨[], 32⟩, ⟨[], 32⟩, ⟨[], 32⟩⟩, ringIn := Quad.fill ⟨[w0], 127⟩ } }),
    (.yealmFetchComplete .D [], fet), (.journalReadSegment .A, rdx), (.lFrameReceive .A [], lf0), (.leaseClaim, ready)] : List (Instr × State)).all (fun p => acts p.1 p.2) = true := by
  decide +kernel
set_option maxRecDepth 100000 in
theorem wit_EveryCommandCompletes_16 : ([
    (.bootRecordCheck (Quad.fill true), recs0), (.diesOutOfReset (Quad.fill []), State.reset), (.timeSet 5, pre (ent 0x10 0)),
    (.imageLoad 5, pre (ent 0x11 0)), (.rotateNow 5, pre (ent 0x13 0)), (.journalRead 5, pre (ent 0x15 0)), (.routeSet 5, preP (entP 1 0 0 1) refD),
    (.routeCancel 5, preP (entP 2 0 0 1) refD), (.pointMove 5, preP (entP 3 0 0 0) refD), (.signalRestore 5, preP (entP 4 0 1 1) refD),
    (.block 5, preP (entP 5 0 1 1) refD), (.unblock 5, preP (entP 6 0 0 0) refD)] : List (Instr × State)).all (fun p => acts p.1 p.2) = true := by
  decide +kernel
set_option maxRecDepth 100000 in
theorem wit_EveryCommandCompletes_17 : ([
    (.auxReleaseRequest 5, preP (entP 7 1 0 0) refD), (.auxReleaseConfirm 5, preP (entP 7 2 0 0) refD),
    (.restartReleaseRequest 5, preP (entP 8 1 0xFFFF 1) refD), (.restartReleaseConfirm 5, preP (entP 8 2 0xFFFF 1) refD),
    (.commandExpiry 5, pre { ent 1 0 with xcyc := 7 }), (.imageExchange 5, preP (entP 18 0 0xFFFF 0xFF) refD),
    (.fieldSupplyCut .A, eavC {} { supply := 191, low := 40 }), (.tripRetry 0, eavC { latch := .tripped, since := 8000 } {}),
    (.ridgeVote, vote (some (bal 1)) (some (bal 1)) (some (bal 1))), (.transferTimeout, { ldg loadY with cyc := { vit.cyc with k := 1000 } }),
    (.exchangeCopyComplete (Quad.fill false), { exc with mod := { exc.mod with exch := .copying } }),
    (.exchangeReloadComplete, { exc with mod := { exc.mod with exch := .reloading } })] : List (Instr × State)).all (fun p => acts p.1 p.2) = true := by
  decide +kernel
set_option maxRecDepth 100000 in
theorem wit_EveryCommandCompletes_18 : ([
    (.quiesceComplete, { boo with host := { boo.host with quiesced := false } }),
    (.digestRecompute .A, { vit with cyc := { vit.cyc with voted := true, done := 1024 } }),
    (.keyAllOpenTimeout, { vit with ctl := { vit.ctl with contacts := 0, keyRun := 202 } }),
    (.cutClear .A, eavC {} { supply := 197, high := 8000, cut := true, warn := true }),
    (.eavesCommonInstant (List.replicate 8 0) (List.replicate 8 0), { eav with eaves := { eav.eaves with marks := [(.A, 8), (.B, 8)] } }),
    (.exchangeBoundary, { exc with lanes := exc.lanes.map fun y => { y with sw := 0x30000 } }),
    (.keyPatternStable, { vit with ctl := { vit.ctl with contacts := 0b001100, keyRun := 6 } }),
    (.shutdownDone, { vit with mod := { vit.mod with st := .safeStop, shutPass := true } }),
    (.orderlyReset, { vit with ul := { vit.ul with orderly := some .reset, stopAt := true } }),
    (.switchSense .B, { vit with lanes := vit.lanes.modify .B fun x => { x with swDiff := 100 } }),
    (.diagnosticEnd (Quad.fill true) [zeros 48] [rec_ 2], { vit with cyc := { vit.cyc with k := 10, diagRun := true, voted := true } }),
    (.shutdownBegin, { vit with ul := { vit.ul with orderly := some .shutdown, stopAt := true } })] : List (Instr × State)).all (fun p => acts p.1 p.2) = true := by
  decide +kernel
set_option maxRecDepth 100000 in
theorem wit_EveryCommandCompletes_19 : ([
    (.debugRelease .D, { vit with lanes := vit.lanes.modify .D fun x => { x with role := .halted } }),
    (.timeSetHoldover, { vit with time := { vit.time with src := false, ref := some 1, gm := some 9 } }),
    (.restartLockExpiry 15, { vit with lanes := vit.lanes.map fun x => { x with work := areaSet [] 15 true 7 } }),
    (.shutdown 5, { preP (entP 20 0 0xFFFF 0xFF) refD with ctl := { win.ctl with pos := some .maint } }),
    (.doorbell 5 5 req0, { vit with host := { vit.host with q := vit.host.q.map fun r => { r with idx := 5 } } }),
    (.creditReturn (.mramWrite .A), { vit with lanes := vit.lanes.map fun x => { x with mramq := ⟨[.burst grp, .group grp], 3⟩ } }),
    (.creditReturn (.bulkIn .A), { vit with lanes := vit.lanes.modify .A fun x => { x with bulkIn := ⟨[⟨zeros 64, []⟩], 63⟩ } }),
    (.pairStartClaim, { stb with mod := { stb.mod with st := .boot, boot := { stb.mod.boot with agreed := true } } }),
    (.eavesConfigInForce, { eav with eaves := { eav.eaves with marks := [(.A, 8), (.B, 8)], rcv := ⟨holder, holder, {}, {}⟩ } }),
    (.testPulseEnd (.master .A) meas0 (List.replicate 32 0), { eav with eaves := { eav.eaves with groups := Two.fill { pulsing := true, closed := true, supply := 240 } } }),
    (.bootShadowStart, { ind with mod := { ind.mod with boot := { ind.mod.boot with decided := some false, started := true, recov := Quad.fill true } } }),
    (.msixSend 0, { vit with host := { vit.host with vecDue := 0x81, pba := 0x82, wbDue := 0x81, msix := List.replicate 8 { addr := 0, data := 0, masked := false } } })] : List (Instr × State)).all (fun p => acts p.1 p.2) = true := by
  decide +kernel
set_option maxRecDepth 100000 in
theorem wit_EveryCommandCompletes_20 : ([
    (.yealmVerified .A, { vit with lanes := vit.lanes.map fun x => { x with mram := { x.mram with bank1 := { state := .loading, mem := [], size := 0, img := none, full := true } } } }),
    (.xfrqInSegment (segEnt 9 0 8 1) (zeros 8), { seg (segEnt 9 0 8 1) (zeros 8) 0 with lanes := (ldg loadY).lanes.map fun x => { x with mram := { x.mram with bank1 := { state := .loading, mem := [], size := 0, img := none } } } }),
    (.ringStartComplete, { boo with mod := { boo.mod with boot := { boo.mod.boot with agreed := true } }, peer := { boo.peer with held := true }, rings := { boo.rings with planes := ⟨⟨{ started := true }, {}⟩, Two.fill {}, Two.fill {}, Two.fill {}⟩ } })] : List (Instr × State)).all (fun p => acts p.1 p.2) = true := by
  decide +kernel
set_option maxRecDepth 100000 in
theorem wit_EveryCommandCompletes_mirror : acts (.mirrorBlockReceive .A
    (peerMsg { oth with peer := { oth.peer with epoch := 1 } } ptMirror .A 3 7 (blockBytes 0 0 7 (beBytes 4 5000 ++ zeros 5000)))) shd = true := by
  simp only [acts, peerValid, peerMsg, withCrcBE, crc32c_run]; decide +kernel
theorem wit_EveryCommandCompletes_copy : acts (.retainedStateCopyReceived .B [] []) cop = true := by
  have h1 : copySources cop = [.A, .C] := by decide
  have h2 : activeImage (cop.lanes.get .B).mram = some y0 := by decide
  have h : copyGood .B [] [] cop = true := by
    simp only [copyGood, h1, h2, List.headD_cons, wit_CopiesAreChecked_digest, BEq.rfl, Bool.and_true]; decide
  simp only [acts, h]; decide
/-- The module in BOOT whose lanes' banks hold the yealm that it ran. -/
def booSame : State := { booImg with mod := { booImg.mod with ycrc := (yealmOf img).crc64 } }
theorem acts_yealm {s : State} (b1 : hubUp s = true) (b2 : s.mod.st = .boot) (b3 : s.mod.boot.checked = true) (b4 : s.mod.boot.agreed = false)
    (b5 : s.ul.optActivate = false) (b6 : s.mod.boot.noImage = false) (b7 : splitAsked s = false) (b8 : isPair s = false)
    (b9 : 2 ≤ ((aliveLanes s).filter fun l => (s.lanes.get l).checked).length)
    (hv : ∀ l ∈ aliveLanes s, ∃ b y, activeBank (s.lanes.get l).mram = some b ∧ verify l (s.lanes.get l).sw false (bankBytes b) = .ok y ∧
      y.crc64 = s.mod.ycrc) : acts .bootYealmAgreed s = true := by
  simp only [acts, b1, b2, b3, b4, b5, b6, b7, b8, b9, BEq.rfl, Bool.not_false, Bool.and_true, decide_true]
  rw [Bool.true_and, List.all_eq_true]; intro l hl
  obtain ⟨b, y, h1, h2, h3⟩ := hv l hl
  simp only [h1, h2, h3, BEq.rfl]
/-- With a signature that verifies, the yealm is agreed. -/
theorem wit_EveryCommandCompletes_yealm (h : ∀ l, vStep3 l img = true) : acts .bootYealmAgreed booSame = true := by
  refine acts_yealm rfl rfl rfl rfl rfl rfl rfl rfl (by decide) fun l _ => ⟨bankImg .active, yealmOf img, ?_, ?_, rfl⟩
  · cases l <;> rfl
  · rw [bankBytes_img _ (bankImg_mem .active), show (booSame.lanes.get l).sw = 0 by cases l <;> rfl]; exact verify_img l (h l)

/-! ## Single steps with results read from the manual -/

/-- The state that a command answers, where it answers one. -/
def nextOf (c : Instr) (s : State) : Option State := match exec c s with
  | .next t => some t
  | .fault _ => none
  | .refused _ => none
/-- R29: the instant opens cycle 8 after cycle 7, 10 ms later. -/
theorem test_instant : (nextOf (.commonInstant (Quad.fill ⟨true, 3, 0x20000, 3⟩) (Quad.fill 0)) vit).map (fun t => (t.cyc.k, t.time.ckNs)) =
    some (8, 10000000) := by decide +kernel
/-- R93: the third miss in a row is SAFE STOP; HEALTHY opens (R9). -/
theorem test_thirdMiss : (nextOf .voteCompleteLimit { win with cyc := { win.cyc with voting := true, misses := 2 } }).map (fun t => (t.mod.st, t.ul.healthy)) =
    some (.safeStop, false) := by decide +kernel
theorem test_firstMiss : (nextOf .voteCompleteLimit { win with cyc := { win.cyc with voting := true } }).map (fun t => (t.mod.st, t.cyc.misses)) =
    some (.vital, 1) := by decide +kernel
/-- R85: the adopted decisions are counted anew after 100 cycles. -/
theorem test_diverge : (nextOf .inputDiverge { vit with cyc := { vit.cyc with k := 100 }, lanes := vit.lanes.map fun x => { x with adopted := 3 } }).map
    (fun t => ((t.lanes.get .A).adopted, (t.lanes.get .D).adopted)) = some (0, 3) := by decide +kernel
/-- R96, R113: a lane whose halves differ is stopped at once, before the others exclude it. -/
theorem test_lockstep : (nextOf (.lockstepMismatch .B 77) vit).map (fun t => ((t.lanes.get .B).stopped, (t.lanes.get .B).role, (t.lanes.get .C).stopped)) =
    some (true, .voting, false) := by decide +kernel
/-- R115: no debug halt with the key in RUN. -/
theorem test_noHalt : nextOf (.debugHalt .A) vit = some vit := by decide +kernel
/-- R90: an uncorrectable error makes a voting lane withhold its next ballot. -/
theorem test_withhold : (nextOf (.eccUncorrectable .C) vit).map (fun t => ((t.lanes.get .C).withhold, (t.lanes.get .A).withhold)) = some (true, false) := by
  decide +kernel
/-- R406: the first sector that fails is remapped to the first spare of R162: 3 882. -/
theorem test_remap : (nextOf (.mramWriteFault .A 100) vit).map (fun t => (bootCur (t.lanes.get .A).mram).remaps) = some [(100, 3882)] := by decide +kernel
/-- R281, R289: the port closes; a second open waits for QUIESCED. -/
theorem test_close : (nextOf .hpctlClose vit).map (fun t => (t.host.en, ringOn t 0)) = some (false, false) := by decide +kernel
theorem test_openHeld : (nextOf .hpctlOpen { vit with host := { vit.host with en := false } }).map (fun t => (t.host.en, t.host.heldOpen)) =
    some (false, true) := by decide +kernel
/-- R291: a tail five entries ahead of a ring of 16 is taken; one 17 ahead is an error with code 0x0008. -/
theorem test_doorbell : (nextOf (.doorbell 0 5 req0) { vit with host := { vit.host with q := vit.host.q.map fun r => { r with cSize := 16 } } }).map
    (fun t => ((qAt t 0).db, t.host.errcnt)) = some (5, 0) := by decide +kernel
theorem test_doorbellFar : (nextOf (.doorbell 0 17 req0) { vit with host := { vit.host with q := vit.host.q.map fun r => { r with cSize := 16 } } }).map
    (fun t => ((qAt t 0).db, t.host.errcnt, t.host.seen)) = some (0, 1, 0x80) := by decide +kernel
/-- R282: a posted request that is poisoned is code 0x0009. -/
theorem test_poisoned : (nextOf (.poisonedRequest req0) vit).map (fun t => (t.host.seen, t.host.errcnt)) = some (0x100, 1) := by decide +kernel
/-- R452: a 1 clears the bit, a 0 leaves it. -/
theorem test_errstat : (nextOf (.errstatClear 1 0) { vit with host := { vit.host with seen := 3 } }).map (fun t => t.host.seen) = some 2 := by decide +kernel
/-- R453: QBASE is aligned to 4 KiB. -/
theorem test_qbase : (nextOf (.registerWrite .bar0 0x240 0x12345678) vit).map (fun t => readBar0 t 0x240) = some 0x12345000 := by decide +kernel
/-- R455: a masked vector's message waits as its Pending Bit. -/
theorem test_masked : (nextOf (.msixSend 3) { vit with host := { vit.host with vecDue := 8, funcMask := true } }).map
    (fun t => (t.host.pba, t.host.vecDue, t.host.posted)) = some (8, 0, []) := by decide +kernel
/-- R447: PERST clears the error registers and keeps the vital state. -/
theorem test_perst : (nextOf .perst { vit with host := { vit.host with seen := 5, errcnt := 7 } }).map (fun t => (t.host.seen, t.host.errcnt, t.host.en, t.mod.st)) =
    some (0, 0, false, .vital) := by decide +kernel
/-- R374: 17.9 V is below the warning threshold. -/
theorem test_warn : (nextOf (.supplyLow 179) vit).map (fun t => (t.ul.warn, t.ul.dipCycle)) = some (true, some 7) := by decide +kernel
theorem test_supplyReset : (nextOf .supplyReset vit).map (fun t => (t.mod.st, t.ul.healthy, t.ul.leaseRun)) = some (.off, false, false) := by decide +kernel
/-- R376: 0.09 s is no press, 1 s asks for an orderly reset. -/
theorem test_shortPress : (nextOf (.rstRelease 90000) { vit with ul := { vit.ul with pressed := true, button := .pressed } }).map (fun t => t.ul.orderly) =
    some none := by decide +kernel
theorem test_press : (nextOf (.rstRelease 1000000) { vit with ul := { vit.ul with pressed := true, button := .pressed } }).map (fun t => t.ul.orderly) =
    some (some .reset) := by decide +kernel
/-- R379, R461: KEY_MNT_1 and KEY_MNT_2 show MAINT, one contact alone shows INVALID. -/
theorem test_maint : (nextOf .keyPatternStable { vit with ctl := { vit.ctl with contacts := 12, keyRun := 6 } }).map (fun t => t.ctl.next) = some (some .maint) := by decide +kernel
theorem test_oneContact : (nextOf .keyPatternStable { vit with ctl := { vit.ctl with contacts := 4, keyRun := 6 } }).map (fun t => t.ctl.next) = some (some .invalid) := by
  decide +kernel
/-- R331: the lease timer leads to SAFE STOP, without a ring frame. -/
theorem test_lease : (nextOf .leaseExpired vit).map (fun t => (t.mod.st, t.peer.held, t.rings.inhibited)) = some (.safeStop, false, true) := by decide +kernel
/-- R344: with P = 10 ms the first cycle is six cycles after that of the last RENEW. -/
theorem test_claim : (nextOf .leaseClaim ready).map (fun t => (t.peer.held, t.peer.epoch, t.cyc.k)) = some (true, 2, 25) := by decide +kernel
/-- R230: the higher EPOCH ranks above, then the lower MASTER_ID. -/
theorem test_rank : ranksAbove 6 1 5 0 = true ∧ ranksAbove 5 0 5 1 = true ∧ ranksAbove 5 1 5 0 = false := by decide
/-- R271: the L frame of lane C byte by byte, before its CRC. -/
theorem test_lFrame :
    (lBytes { lane := 2, seq := 0x41, mark := true, split := false, cycle := 0x01020304, dcycle := 0x05060708, drive := 0x80000001, gm := 2,
              cfgCycle := 0x0A0B0C0D, cfgCrc := 0x11223344, cfgPage := 0x000F, cfgData := List.replicate 32 0xAA }).take 28 =
      [0xB1, 2, 0x41, 1, 1, 2, 3, 4, 5, 6, 7, 8, 0x80, 0, 0, 1, 2, 0, 0, 0, 0x0A, 0x0B, 0x0C, 0x0D, 0x11, 0x22, 0x33, 0x44] := by decide +kernel
/-- R256: a receiver that goes silent drives nothing. -/
theorem test_receiver : (nextOf (.battenReceiverTimeout .A) eav).map (fun t => ((t.eaves.rcv.get .A).drive, (t.eaves.rcv.get .B).drive)) =
    some (0, 0xFFFFFFFF) := by decide +kernel
/-- R258, R259: a pulse starts on a driven channel at its place in the test interval. -/
theorem test_pulse : (nextOf (.testPulseStart (.chan 0)) eav).map (fun t => ((chanAt t.eaves 0).pulsing, (chanAt t.eaves 1).pulsing)) = some (true, false) := by
  decide +kernel
/-- R369: the change at the TS2 sample of 9 165 us after the instant, in window 18, which is the 19th to end. -/
theorem test_edge : edgeOffset { eav with eaves := { eav.eaves with window := 19, cfg := some { y0.eaves with
    ins := y0.eaves.ins.map fun e => { e with src := 1 } } } } 12 = 9165 := by decide +kernel
/-- R93, R96: with two equal ballots the vote completes and the silent third voter is to be excluded. -/
theorem test_silent : (match takeVote (vote (some (bal 1)) (some (bal 1)) none) with | .completed m o => (m.digest, o) | .missed _ o => (0, o)) =
    (1, [(.C, .fabric, [])]) := by decide
/-- R168: a group cut off by the exclusion stands in the journal without its CLOSE. -/
theorem test_cut : ((exclude 0 { lane .voting with mramq := ⟨[.group { cycle := 7, recs := [.close 0], closed := true, held := false }], 63⟩ }).mram.journal.map
    fun g => (g.cycle, g.closed)) = [(7, false)] := by decide +kernel
/-- R450, R457: a register write keeps the reserved bits of TIMECFG. -/
theorem test_domain : (nextOf (.timecfgDomain 127) vit).map (fun t => bitsAt (readBar0 t 0x500).toNat 15 8) = some 127 := by decide +kernel
/-- R360: 16 offsets in a row within 100 us lock the slave, 15 do not. -/
theorem test_lock : (nextOf (.ptpSync 100) { vit with time := { vit.time with goodSync := 15 } }).map (fun t => t.time.ptpLock) = some true := by decide +kernel
theorem test_noLock : (nextOf (.ptpSync (-100)) { vit with time := { vit.time with goodSync := 14 } }).map (fun t => t.time.ptpLock) = some false := by decide +kernel
/-- R412, R413: an alarm of a lane enters the alarm queue with its SEQ. -/
theorem test_record : (nextOf (.gutterRecord (rec_ 0)) vit).map (fun t => (t.gut.alarm.items.map fun i => i.rec_.code, t.gut.seqA)) =
    some ([0x0C01], vit.gut.seqA + 1) := by decide +kernel
/-- R325: a ring module in a peer cage is named and the port stays off. -/
theorem test_peerSfp : (nextOf (.peerSfpInsertion .B .sx) act).map (fun t => ((linkAt t .B).sfpOk, (linkAt t .A).sfpOk)) = some (false, true) := by decide +kernel
/-- R184: a 1000BASE-SX module brings the ring port into use. -/
theorem test_ringSfp : (nextOf (.ringSfpInsertion .r2 .B .sx) vit).map (fun t => ((planeAt t .r2 .B).sfpOk, (planeAt t .r2 .A).sfpOk)) = some (true, false) := by
  decide +kernel
/-- The queue: the front command is taken; an empty queue idles. -/
theorem test_step : (match step { vit with pending := [.hpctlClose, .perst] } with | .next t => some (t.host.en, t.pending) | .fault _ => none | .refused _ => none) =
    some (false, [.perst]) := by decide +kernel
theorem test_idle : (match step vit with | .next t => some (t.cyc.k, t.mod.st, t.pending) | .fault _ => none | .refused _ => none) = some (7, .vital, []) := by
  decide +kernel
/-- R145, R154: nothing stands between reset and BOOT but the supply. -/
theorem test_start : (nextOf (.supplyStart 0 false) { State.reset with mod := { State.reset.mod with st := .off } }).map (fun t => (t.mod.st, t.peer.held)) =
    some (.boot, false) := by decide +kernel

end Sys2Proof.Tests
end

section
/-! SUPPORT. What any command of the block can do: one of the three that reset the module answers OFF or BOOT with HEALTHY open,
and every other keeps its frame, HEALTHY's agreement with the module state, and SAFE STOP. -/

namespace Sys2Proof

/-- The commands by which the Underlay resets the module (R372, R375, R377). -/
def Instr.resets : Instr → Bool
  | .supplyStart _ _ | .supplyReset | .orderlyReset => true
  | _ => false

namespace Machine

/-! ## The commands that reset the module -/

/-- The module was reset: it is in OFF or in BOOT with HEALTHY open, and the queue of waiting commands stands as it stood. -/
structure ResetTo (s t : State) : Prop where
  queue   : t.pending = s.pending
  healthy : t.ul.healthy = false
  mode    : t.mod.st = .off ∨ t.mod.st = .boot

/-- BOOT begins after a reset of the dies, which has opened HEALTHY (R376, R387). -/
theorem enterBoot_resetTo {s r : State} (hq : r.pending = s.pending) (hh : r.ul.healthy = false) : ResetTo s (enterBoot r) := by
  unfold enterBoot
  dsimp only
  split
  · constructor <;> simp [hq, hh]
  · exact ⟨hq, hh, Or.inr rfl⟩

/-- A command that resets the module does so, or has no effect where the state does not allow it. -/
theorem exec_resets {c : Instr} (h : c.resets = true) (s : State) : ∃ t, exec c s = .next t ∧ (t = s ∨ ResetTo s t) := by
  cases c with
  | supplyStart offUs rstPressed =>
    refine ⟨_, rfl, ?_⟩
    split
    · exact Or.inr (enterBoot_resetTo rfl rfl)
    · exact Or.inl rfl
  | supplyReset =>
    refine ⟨_, rfl, ?_⟩
    split
    · exact Or.inr ⟨rfl, rfl, Or.inl rfl⟩
    · exact Or.inl rfl
  | orderlyReset =>
    refine ⟨_, rfl, ?_⟩
    split
    · exact Or.inr (enterBoot_resetTo rfl rfl)
    · exact Or.inl rfl
  | _ => exact Bool.noConfusion h

/-! ## All other commands -/

/-- Every other command answers a next state and changes no part but its own, each by its own frame lemma. -/
theorem exec_kept {c : Instr} (h : c.resets = false) (s : State) : ∃ t, exec c s = .next t ∧ Kept c.parts s t := by
  cases c with
  | commonInstant => exact execCommonInstant_kept ..
  | gFrameLaunch => exact execGFrameLaunch_kept ..
  | ringSectionArrival => exact execRingSectionArrival_kept ..
  | inputClose => exact execInputClose_kept ..
  | inputAgreement => exact execInputAgreement_kept ..
  | inputDiverge => exact execInputDiverge_kept ..
  | taskEnd => exact execTaskEnd_kept ..
  | trussEvaluationComplete => exact execTrussEvaluationComplete_kept ..
  | voteDeadline => exact execVoteDeadline_kept ..
  | ridgeVote => exact execRidgeVote_kept ..
  | ballotArrival => exact execBallotArrival_kept ..
  | voteCompleteLimit => exact execVoteCompleteLimit_kept ..
  | setQueuePush => exact execSetQueuePush_kept ..
  | hubForwardItem => exact execHubForwardItem_kept ..
  | sFrameLaunch => exact execSFrameLaunch_kept ..
  | mramWriteComplete => exact execMramWriteComplete_kept ..
  | snapshotComplete => exact execSnapshotComplete_kept ..
  | diagnosticRelease => exact execDiagnosticRelease_kept ..
  | diagnosticEnd => exact execDiagnosticEnd_kept ..
  | diagnosticLimit => exact execDiagnosticLimit_kept ..
  | laneSleep => exact execLaneSleep_kept ..
  | laneWake => exact execLaneWake_kept ..
  | completionDelivered => exact execCompletionDelivered_kept ..
  | creditReturn => exact execCreditReturn_kept ..
  | lockstepMismatch => exact execLockstepMismatch_kept ..
  | stopFlit => exact execStopFlit_kept ..
  | bistSliceStart => exact execBistSliceStart_kept ..
  | bistSliceEnd => exact execBistSliceEnd_kept ..
  | blockReinitComplete => exact execBlockReinitComplete_kept ..
  | rotationDue => exact execRotationDue_kept ..
  | retainedStateCopyReceived => exact execRetainedStateCopyReceived_kept ..
  | yealmFetchComplete => exact execYealmFetchComplete_kept ..
  | debugHalt => exact execDebugHalt_kept ..
  | debugRelease => exact execDebugRelease_kept ..
  | digestRecompute => exact execDigestRecompute_kept ..
  | sramScrub => exact execSramScrub_kept ..
  | eccCorrected => exact execEccCorrected_kept ..
  | eccUncorrectable => exact execEccUncorrectable_kept ..
  | trussStats => exact execTrussStats_kept ..
  | planeStats => exact execPlaneStats_kept ..
  | routeSet => exact execRouteSet_kept ..
  | routeCancel => exact execRouteCancel_kept ..
  | pointMove => exact execPointMove_kept ..
  | signalRestore => exact execSignalRestore_kept ..
  | block => exact execBlock_kept ..
  | unblock => exact execUnblock_kept ..
  | auxReleaseRequest => exact execAuxReleaseRequest_kept ..
  | auxReleaseConfirm => exact execAuxReleaseConfirm_kept ..
  | restartReleaseRequest => exact execRestartReleaseRequest_kept ..
  | restartReleaseConfirm => exact execRestartReleaseConfirm_kept ..
  | timeSet => exact execTimeSet_kept ..
  | imageLoad => exact execImageLoad_kept ..
  | imageExchange => exact execImageExchange_kept ..
  | rotateNow => exact execRotateNow_kept ..
  | shutdown => exact execShutdown_kept ..
  | journalRead => exact execJournalRead_kept ..
  | commandExpiry => exact execCommandExpiry_kept ..
  | requestLapse => exact execRequestLapse_kept ..
  | journalStall => exact execJournalStall_kept ..
  | hostFetch => exact execHostFetch_kept ..
  | xfrqInSegment => exact execXfrqInSegment_kept ..
  | transferTimeout => exact execTransferTimeout_kept ..
  | yealmVerified => exact execYealmVerified_kept ..
  | journalReadSegment => exact execJournalReadSegment_kept ..
  | inputInjectionSegment => exact execInputInjectionSegment_kept ..
  | exchangeBoundary => exact execExchangeBoundary_kept ..
  | exchangeCopyComplete => exact execExchangeCopyComplete_kept ..
  | exchangeReloadComplete => exact execExchangeReloadComplete_kept ..
  | restartDecision => exact execRestartDecision_kept ..
  | restartLockExpiry => exact execRestartLockExpiry_kept ..
  | ringSfpInsertion => exact execRingSfpInsertion_kept ..
  | sfpDiagRead => exact execSfpDiagRead_kept ..
  | discoverLaunch => exact execDiscoverLaunch_kept ..
  | discoverReturn => exact execDiscoverReturn_kept ..
  | timingLaunch => exact execTimingLaunch_kept ..
  | ringTopology => exact execRingTopology_kept ..
  | periodicTiming => exact execPeriodicTiming_kept ..
  | periodicDiscover => exact execPeriodicDiscover_kept ..
  | planeLost => exact execPlaneLost_kept ..
  | portLinkUp => exact execPortLinkUp_kept ..
  | foreignMasterFrame => exact execForeignMasterFrame_kept ..
  | ringRelay => exact execRingRelay_kept ..
  | relayedLaunch => exact execRelayedLaunch_kept ..
  | lFrameSend => exact execLFrameSend_kept ..
  | lFrameReceive => exact execLFrameReceive_kept ..
  | eFrameReceive => exact execEFrameReceive_kept ..
  | battenReceiverTimeout => exact execBattenReceiverTimeout_kept ..
  | battenDeadline => exact execBattenDeadline_kept ..
  | eavesCommonInstant => exact execEavesCommonInstant_kept ..
  | eavesConfigInForce => exact execEavesConfigInForce_kept ..
  | eavesWindowEnd => exact execEavesWindowEnd_kept ..
  | filterChange => exact execFilterChange_kept ..
  | inputFaultSet => exact execInputFaultSet_kept ..
  | inputFaultClear => exact execInputFaultClear_kept ..
  | sourceFaultSet => exact execSourceFaultSet_kept ..
  | sourceFaultClear => exact execSourceFaultClear_kept ..
  | discTimerExpiry => exact execDiscTimerExpiry_kept ..
  | discClear => exact execDiscClear_kept ..
  | counterGateEnd => exact execCounterGateEnd_kept ..
  | readbackReading => exact execReadbackReading_kept ..
  | testPulseStart => exact execTestPulseStart_kept ..
  | testPulseEnd => exact execTestPulseEnd_kept ..
  | crossWindowEnd => exact execCrossWindowEnd_kept ..
  | outputTrip => exact execOutputTrip_kept ..
  | tripRetry => exact execTripRetry_kept ..
  | retryCountReset => exact execRetryCountReset_kept ..
  | fieldSupplyLow => exact execFieldSupplyLow_kept ..
  | fieldSupplyRecover => exact execFieldSupplyRecover_kept ..
  | fieldSupplyCut => exact execFieldSupplyCut_kept ..
  | cutClear => exact execCutClear_kept ..
  | hpctlOpen => exact execHpctlOpen_kept ..
  | hpctlClose => exact execHpctlClose_kept ..
  | quiesceComplete => exact execQuiesceComplete_kept ..
  | doorbell => exact execDoorbell_kept ..
  | qctlWrite => exact execQctlWrite_kept ..
  | msixSend => exact execMsixSend_kept ..
  | msixUnmask => exact execMsixUnmask_kept ..
  | unsupportedRequest => exact execUnsupportedRequest_kept ..
  | poisonedRequest => exact execPoisonedRequest_kept ..
  | bar0ReadTimeout => exact execBar0ReadTimeout_kept ..
  | postedWriteFail => exact execPostedWriteFail_kept ..
  | moduleRequestFail => exact execModuleRequestFail_kept ..
  | errstatClear => exact execErrstatClear_kept ..
  | pairLoRead => exact execPairLoRead_kept ..
  | bootoptSplit => exact execBootoptSplit_kept ..
  | bootoptLoad => exact execBootoptLoad_kept ..
  | bootoptActivate => exact execBootoptActivate_kept ..
  | timecfgSrc => exact execTimecfgSrc_kept ..
  | timecfgDomain => exact execTimecfgDomain_kept ..
  | timecfgUtcOfs => exact execTimecfgUtcOfs_kept ..
  | maintPortWrite => exact execMaintPortWrite_kept ..
  | registerWrite => exact execRegisterWrite_kept ..
  | perst => exact execPerst_kept ..
  | renewRelease => exact execRenewRelease_kept ..
  | renewReceive => exact execRenewReceive_kept ..
  | beatSend => exact execBeatSend_kept ..
  | beatReceive => exact execBeatReceive_kept ..
  | linkSend => exact execLinkSend_kept ..
  | linkReceive => exact execLinkReceive_kept ..
  | leaseExpired => exact execLeaseExpired_kept ..
  | leaseClaim => exact execLeaseClaim_kept ..
  | pairStartClaim => exact execPairStartClaim_kept ..
  | masteryTest => exact execMasteryTest_kept ..
  | peerLinkLost => exact execPeerLinkLost_kept ..
  | peerLinkReturn => exact execPeerLinkReturn_kept ..
  | peerSfpInsertion => exact execPeerSfpInsertion_kept ..
  | mirrorBlockReceive => exact execMirrorBlockReceive_kept ..
  | shadowComputationComplete => exact execShadowComputationComplete_kept ..
  | peerRequestReceive => exact execPeerRequestReceive_kept ..
  | peerRequestTimeout => exact execPeerRequestTimeout_kept ..
  | ptpSync => exact execPtpSync_kept ..
  | timeSourceLost => exact execTimeSourceLost_kept ..
  | timeSetHoldover => exact execTimeSetHoldover_kept ..
  | clockWindowCheck => exact execClockWindowCheck_kept ..
  | supplyStart => exact Bool.noConfusion h
  | supplyLow => exact execSupplyLow_kept ..
  | supplyRecovery => exact execSupplyRecovery_kept ..
  | supplyReset => exact Bool.noConfusion h
  | rstRelease => exact execRstRelease_kept ..
  | resetStuck => exact execResetStuck_kept ..
  | rstRearm => exact execRstRearm_kept ..
  | orderlyReset => exact Bool.noConfusion h
  | keyPatternStable => exact execKeyPatternStable_kept ..
  | keyAllOpenTimeout => exact execKeyAllOpenTimeout_kept ..
  | sealChange => exact execSealChange_kept ..
  | switchSense => exact execSwitchSense_kept ..
  | hubWatchdog => exact execHubWatchdog_kept ..
  | junctionOvertemp => exact execJunctionOvertemp_kept ..
  | diesOutOfReset => exact execDiesOutOfReset_kept ..
  | bootRecordCheck => exact execBootRecordCheck_kept ..
  | bootYealmAgreed => exact execBootYealmAgreed_kept ..
  | ringStartComplete => exact execRingStartComplete_kept ..
  | indicateGather => exact execIndicateGather_kept ..
  | bootShadowStart => exact execBootShadowStart_kept ..
  | shutdownBegin => exact execShutdownBegin_kept ..
  | shutdownDone => exact execShutdownDone_kept ..
  | mramWriteFault => exact execMramWriteFault_kept ..
  | mramUncorrectableRead => exact execMramUncorrectableRead_kept ..
  | gutterRecord => exact execGutterRecord_kept ..
  | gutterPathTake => exact execGutterPathTake_kept ..
  | syslogSend => exact execSyslogSend_kept ..
  | blackboxWrite => exact execBlackboxWrite_kept ..
  | cmdqFetch => exact execCmdqFetch_kept ..
  | linkProbe => exact execLinkProbe_kept ..
  | rstPress => exact execRstPress_kept ..
  | reserveStoreExhausted => exact execReserveStoreExhausted_kept ..
  | primaryCellExhausted => exact execPrimaryCellExhausted_kept ..
  | hubSramScrub => exact execHubSramScrub_kept ..
  | mramCorrectedRead => exact execMramCorrectedRead_kept ..
  | busMasterEnable => exact execBusMasterEnable_kept ..
  | powerStateChange => exact execPowerStateChange_kept ..
  | ptpAnnounce => exact execPtpAnnounce_kept ..

/-! ## Any command, any step -/

/-- What a command can do, whichever it is. -/
theorem exec_kept_or_resetTo {c : Instr} {s t : State} (h : exec c s = .next t) : Kept c.parts s t ∨ ResetTo s t := by
  cases hc : c.resets with
  | false =>
    obtain ⟨u, hu, hk⟩ := exec_kept hc s
    cases hu.symm.trans h
    exact Or.inl hk
  | true =>
    obtain ⟨u, hu, he⟩ := exec_resets hc s
    cases hu.symm.trans h
    obtain rfl | hr := he
    · exact Or.inl (Kept.refl _ _)
    · exact Or.inr hr

/-- A step idles on an empty queue, or runs the front command on the state with the queue's rest. -/
theorem step_cases {s t : State} (h : step s = .next t) :
    (s.pending = [] ∧ t = s) ∨ ∃ c rest, s.pending = c :: rest ∧ exec c { s with pending := rest } = .next t := by
  unfold step at h
  split at h
  case h_1 hp => exact Or.inl ⟨hp, (Host.Outcome.next.inj h).symm⟩
  case h_2 c rest hp => exact Or.inr ⟨c, rest, hp, h⟩

/-! ## HEALTHY (R9) -/

theorem healthyState_iff (m : ModState) : healthyState m = true ↔ m = .vital ∨ m = .vitalRestricted := by
  simp [healthyState]

theorem HealthyAgrees.iff {s : State} (h : HealthyAgrees s) :
    s.ul.healthy = true ↔ s.mod.st = .vital ∨ s.mod.st = .vitalRestricted :=
  h ▸ healthyState_iff s.mod.st

/-- After a reset HEALTHY is open, and neither OFF nor BOOT closes it. -/
theorem ResetTo.healthyAgrees {s t : State} (h : ResetTo s t) : HealthyAgrees t := by
  obtain ⟨-, hh, hm | hm⟩ := h <;> simp [HealthyAgrees, healthyState, hh, hm]

theorem exec_healthyAgrees {c : Instr} {s t : State} (ha : HealthyAgrees s) (h : exec c s = .next t) : HealthyAgrees t :=
  (exec_kept_or_resetTo h).elim (fun hk => hk.healthy ha) ResetTo.healthyAgrees

theorem step_healthyAgrees {s t : State} (ha : HealthyAgrees s) (h : step s = .next t) : HealthyAgrees t := by
  obtain ⟨-, rfl⟩ | ⟨c, rest, -, hx⟩ := step_cases h
  · exact ha
  · exact exec_healthyAgrees (s := { s with pending := rest }) ha hx

/-- Settles O4: HEALTHY's agreement with the module state is kept by every step, and read off at its end. -/
theorem healthyOnlyInVital : Obligations.HealthyOnlyInVital := by
  unfold Obligations.HealthyOnlyInVital
  intro s t ha h
  exact (step_healthyAgrees ha h).iff

/-! ## The reset state -/

theorem reset_lane (l : Lane) : State.reset.lanes.get l = {} := Quad.get_fill _ l

/-- Every ring of the host port is disabled with its indices at 0 (R285). -/
theorem qAt_reset (q : Fin 8) : (qAt State.reset q).en = false ∧ (qAt State.reset q).idx = 0 ∧ (qAt State.reset q).db = 0 := by
  revert q
  decide

theorem reset_healthyAgrees : HealthyAgrees State.reset := rfl

/-- Settles O5: the lanes all stand at their defaults, the rings by `qAt_reset`, the rest is the reset state's own fields. -/
theorem resetLeavesBoot : Obligations.ResetLeavesBoot := by
  unfold Obligations.ResetLeavesBoot
  refine ⟨rfl, rfl, reset_healthyAgrees, rfl, fun l => ?_, rfl, qAt_reset, rfl, rfl⟩
  rw [reset_lane]
  exact ⟨rfl, rfl, rfl, rfl, rfl, rfl, rfl, rfl⟩

end Machine
end Sys2Proof
end

section
/-! SUPPORT. The frame of every command. -/

namespace Sys2Proof.Machine

/-- A command that resets the module may change every part (R372, R375, R377). -/
theorem mem_parts_of_resets {c : Instr} (h : c.resets = true) (p : Part) : p ∈ c.parts := by
  cases c with
  | supplyStart | supplyReset | orderlyReset => cases p <;> simp [Instr.parts]
  | _ => exact Bool.noConfusion h

/-- Whichever the command, what it may not change stands: each command by its own frame lemma, a reset because it may change all. -/
theorem exec_frame {c : Instr} {s t : State} (h : exec c s = .next t) : Frame c.parts s t := by
  cases hc : c.resets with
  | false =>
    obtain ⟨u, hu, hk⟩ := exec_kept hc s
    cases hu.symm.trans h
    exact hk.frame
  | true =>
    obtain hk | hr := exec_kept_or_resetTo h
    · exact hk.frame
    · exact ⟨hr.queue, fun p hp => absurd (mem_parts_of_resets hc p) hp⟩

/-- Settles O3. -/
theorem commandFrames : Obligations.CommandFrames := by
  unfold Obligations.CommandFrames
  intro c s t h
  exact exec_frame h

end Sys2Proof.Machine
end

section
/-! SUPPORT. SAFE STOP as an operation (R74, R95, R387), and the two ways into it from outside the vital cycle: the orderly shutdown
(R391, R392, R409) and the failure of the hub (R15, R479). -/

namespace Sys2Proof.Machine

/-! ## The Underlay and the module state as wholes -/

theorem Kept.ul_eq {ps : List Part} {s t : State} (h : Kept ps s t) (hs : Part.supply ∉ ps) (hh : Part.healthy ∉ ps) :
    t.ul = s.ul :=
  congrArg₂ (fun (u : Underlay) b => { u with healthy := b }) (h.frame.rest _ hs) (h.frame.rest _ hh)

theorem Kept.mod_eq {ps : List Part} {s t : State} (h : Kept ps s t) (hm : Part.module ∉ ps) (hs : Part.mode ∉ ps) :
    t.mod = s.mod :=
  congrArg₂ (fun (m : ModSt) st => { m with st := st }) (h.frame.rest _ hm) (h.frame.rest _ hs)

/-! ## Taking a module state -/

/-- An indication is noted in the lanes' indication fields alone (R27, R319). -/
theorem indicate_lane (s : State) (i : Ind) (l : Lane) : noInds ((indicate s i).lanes.get l) = noInds (s.lanes.get l) := by
  unfold indicate
  by_cases hl : l ∈ counted s
  · rw [onLanes_in _ _ _ _ hl]
    split <;> rfl
  · rw [onLanes_out _ _ _ _ hl]

theorem reportState_lane (s : State) (l : Lane) : noInds ((reportState s).lanes.get l) = noInds (s.lanes.get l) := by
  unfold reportState
  dsimp only
  split
  · rfl
  · exact indicate_lane _ _ l

@[simp] theorem setState_self (s : State) : setState s s.mod.st = s := if_pos rfl

theorem setState_of_ne {s : State} {st : ModState} (h : s.mod.st ≠ st) :
    setState s st = reportState (signalState { s with mod := { s.mod with st := st },
                                                      ul := { s.ul with healthy := healthyState st } }) := if_neg h

theorem setState_lane (s : State) (st : ModState) (l : Lane) : noInds ((setState s st).lanes.get l) = noInds (s.lanes.get l) := by
  by_cases h : s.mod.st = st
  · rw [← h, setState_self]
  · rw [setState_of_ne h, reportState_lane]
    exact congrArg (fun q : Quad LaneSt => noInds (q.get l)) ((signalState_kept _).frame.rest .lanes (by decide))

@[simp] theorem setState_mod (s : State) (st : ModState) : (setState s st).mod = { s.mod with st := st } := by
  by_cases h : s.mod.st = st
  · rw [← h, setState_self]
  · rw [setState_of_ne h, (reportState_kept _).mod_eq (by decide) (by decide), (signalState_kept _).mod_eq (by decide) (by decide)]

theorem setState_ul {s : State} {st : ModState} (h : s.mod.st ≠ st) :
    (setState s st).ul = { s.ul with healthy := healthyState st } := by
  rw [setState_of_ne h, (reportState_kept _).ul_eq (by decide) (by decide), (signalState_kept _).ul_eq (by decide) (by decide)]

/-! ## Entering SAFE STOP -/

/-- The lane drives nothing and has no S-frame to send (R74, R95). -/
def undriven (x : LaneSt) : LaneSt := { x with drive := [], driveE := 0, driveG := 0, todo := [], snaps := [] }

theorem enterSafeStop_lane (s : State) (l : Lane) :
    noInds ((enterSafeStop s).lanes.get l) = noInds (undriven (s.lanes.get l)) := by
  unfold enterSafeStop
  rw [setState_lane]
  exact congrArg noInds (Quad.get_map undriven s.lanes l)

/-- Whatever a lane held, in SAFE STOP nothing is driven (R95). -/
theorem enterSafeStop_drive (s : State) (l : Lane) :
    ((enterSafeStop s).lanes.get l).drive = [] ∧ ((enterSafeStop s).lanes.get l).driveE = 0 ∧
      ((enterSafeStop s).lanes.get l).driveG = 0 :=
  have h := enterSafeStop_lane s l
  ⟨congrArg LaneSt.drive h, congrArg LaneSt.driveE h, congrArg LaneSt.driveG h⟩

theorem enterSafeStop_role (s : State) (l : Lane) : ((enterSafeStop s).lanes.get l).role = (s.lanes.get l).role :=
  by simpa only [noInds, undriven] using congrArg LaneSt.role (enterSafeStop_lane s l)

theorem enterSafeStop_mram (s : State) (l : Lane) : ((enterSafeStop s).lanes.get l).mram = (s.lanes.get l).mram :=
  by simpa only [noInds, undriven] using congrArg LaneSt.mram (enterSafeStop_lane s l)

@[simp] theorem enterSafeStop_st (s : State) : (enterSafeStop s).mod.st = .safeStop := by
  simp [enterSafeStop]

@[simp] theorem enterSafeStop_opened (s : State) : (enterSafeStop s).cyc.opened = false :=
  congrArg CycleSt.opened ((setState_kept _ .safeStop fun _ => rfl).frame.rest .cyc (by decide))

@[simp] theorem enterSafeStop_held (s : State) : (enterSafeStop s).peer.held = false :=
  congrArg PeerSt.held ((setState_kept _ .safeStop fun _ => rfl).frame.rest .peer (by decide))

theorem enterSafeStop_ul {s : State} (h : s.mod.st ≠ .safeStop) :
    (enterSafeStop s).ul = { s.ul with leaseRun := false, healthy := false } :=
  setState_ul h

/-! ## The orderly shutdown (R391, R392, R409) -/

theorem exec_shutdownBegin {s : State} (hu : hubUp s = true) (ho : s.ul.orderly = some .shutdown)
    (hw : s.ul.stopAt = true ∨ s.mod.st = .indicate ∨ s.mod.st = .safeStop ∨ s.mod.st = .split) (hb : s.mod.st ≠ .boot) :
    exec .shutdownBegin s = .next (shutdownAt s) := by
  have hn : (s.ul.stopAt || shutAtOnce s.mod.st) = true := by simpa [shutAtOnce, or_assoc] using hw
  exact congrArg _ (if_pos (by simp [hu, ho, hn, hb]))

/-- Each lane stops as SAFE STOP has it, then starts its pass. -/
theorem shutdownAt_lane (s : State) (l : Lane) :
    ∃ r : State, r.lanes = s.lanes ∧ (shutdownAt s).lanes.get l = shutdownPass ((enterSafeStop r).lanes.get l) :=
  ⟨bootMod (raiseShared s 0x0A84 []) fun b => { b with b := none }, raiseShared_lanes .., Quad.get_map ..⟩

theorem shutdownPass_drives (x : LaneSt) :
    (shutdownPass x).drive = x.drive ∧ (shutdownPass x).driveE = x.driveE ∧ (shutdownPass x).driveG = x.driveG := by
  unfold shutdownPass
  split <;> exact ⟨rfl, rfl, rfl⟩

/-- Every lane that is not retired starts its shutdown pass (R391). -/
theorem shutdownPass_pass {x : LaneSt} (h : x.role ≠ .retired) : (shutdownPass x).bist.pass = some .shutdown := by
  simp [shutdownPass, h, startPass]

theorem shutdownAt_drive (s : State) (l : Lane) : ((shutdownAt s).lanes.get l).drive = [] ∧
    ((shutdownAt s).lanes.get l).driveE = 0 ∧ ((shutdownAt s).lanes.get l).driveG = 0 := by
  obtain ⟨r, -, hl⟩ := shutdownAt_lane s l
  obtain ⟨hd, he, hg⟩ := shutdownPass_drives ((enterSafeStop r).lanes.get l)
  obtain ⟨hd', he', hg'⟩ := enterSafeStop_drive r l
  rw [hl]
  exact ⟨hd.trans hd', he.trans he', hg.trans hg'⟩

theorem shutdownAt_pass {s : State} {l : Lane} (h : (s.lanes.get l).role ≠ .retired) :
    ((shutdownAt s).lanes.get l).bist.pass = some .shutdown := by
  obtain ⟨r, hr, hl⟩ := shutdownAt_lane s l
  rw [hl, shutdownPass_pass]
  rwa [enterSafeStop_role, hr]

theorem exec_shutdownDone {s : State} (hu : hubUp s = true) (hp : s.mod.shutPass = true) (hh : s.hub.pass = none)
    (hl : ∀ l ∈ aliveLanes s, (s.lanes.get l).bist.pass = none) : exec .shutdownDone s = .next (shutdownDoneAt s) :=
  congrArg _ (if_pos (by simpa [hu, hp, hh] using hl))

/-- A boot record that is written is the one in force: its generation is the higher (R162). -/
theorem bootCur_bootWrite (m : Mram) (f : BootRec → BootRec) :
    bootCur (bootWrite m f) = { f (bootCur m) with gen := (bootCur m).gen + 1 } := by
  cases ha : m.boot.a with
  | none => cases hb : m.boot.b <;> simp [bootWrite, bootCurIsA, bootCur, ha, hb]
  | some a =>
    cases hb : m.boot.b with
    | none => simp [bootWrite, bootCurIsA, bootCur, ha, hb]
    | some b =>
      by_cases h : a.gen < b.gen
      · simp [bootWrite, bootCurIsA, bootCur, ha, hb, h, Nat.not_le_of_lt h]
      · simp [bootWrite, bootCurIsA, bootCur, ha, hb, h, Nat.le_of_not_lt h]

/-- The lane's start-up record is written at the end of its shutdown pass (R409). -/
def startWritten (s : State) (l : Lane) (x : LaneSt) : LaneSt :=
  { x with mram := bootWrite x.mram fun b => { b with start := some (newStart s l x) },
           record := (newStart s l x).result.toNat % 32 == 15 && s.ul.shelf.isSome }

theorem shutdownDoneAt_lanes (s : State) : (shutdownDoneAt s).lanes = (onLanes s (aliveLanes s) (startWritten s)).lanes := by
  unfold shutdownDoneAt
  dsimp only
  exact ((refreshLanes_kept _).frame.rest .lanes (by decide)).trans (raiseShared_lanes ..)

theorem shutdownDoneAt_mod (s : State) : (shutdownDoneAt s).mod = { s.mod with shutPass := false, shutDone := true } := by
  unfold shutdownDoneAt
  dsimp only
  rw [(refreshLanes_kept _).mod_eq (by decide) (by decide), raiseShared_mod, onLanes_mod]

/-- The record written is the one in force (R162, R409). -/
theorem startWritten_start (s : State) (l : Lane) (x : LaneSt) :
    (bootCur (startWritten s l x).mram).start = some (newStart s l x) :=
  congrArg BootRec.start (bootCur_bootWrite _ _)

/-- Beside its MRAM and RECORD a lane keeps all it held. -/
theorem shutdownDoneAt_lane_rest (s : State) (l : Lane) : { (shutdownDoneAt s).lanes.get l with mram := Mram.blank, record := false } =
    { s.lanes.get l with mram := Mram.blank, record := false } := by
  rw [shutdownDoneAt_lanes]
  by_cases hl : l ∈ aliveLanes s
  · rw [onLanes_in _ _ _ _ hl]
    rfl
  · rw [onLanes_out _ _ _ _ hl]

/-! ## The hub's failure (R15, R479) -/

/-- A lane that is not retired writes HUB_WATCHDOG into its black box (R15). -/
def hubBoxed (s : State) (l : Lane) (x : LaneSt) : LaneSt :=
  if x.role == .retired then x else boxWritten (mkRec s 0x0105 0 2 0 (laneMask [l]) []) x

/-- What the failure of the hub leaves before the module takes SAFE STOP: the black boxes, and the Underlay's watchdog expired. -/
def hubLost (s : State) : State := { s with lanes := s.lanes.mapL (hubBoxed s), ul := { s.ul with wdog := true } }

/-- The states of a module in service or in INDICATE, which the failure of the hub ends (R387). -/
def inService (m : ModState) : Prop := m.runs = true ∨ m = .standby ∨ m = .indicate

theorem inService.ne {m : ModState} (h : inService m) : m ≠ .off ∧ m ≠ .safeStop := by
  cases m <;> simp [inService, ModState.runs] at h ⊢

theorem hubStops_inService {s : State} (h : inService s.mod.st) : hubStops s = enterSafeStop (hubLost s) := by
  unfold hubStops
  dsimp only
  cases hm : s.mod.st with
  | vital | vitalRestricted | hold | standby | indicate => rfl
  | off | boot | safeStop | split => simp [hm, inService, ModState.runs] at h

theorem hubStops_ul {s : State} (h : inService s.mod.st) :
    (hubStops s).ul = { s.ul with wdog := true, leaseRun := false, healthy := false } :=
  (congrArg State.ul (hubStops_inService h)).trans (enterSafeStop_ul (s := hubLost s) h.ne.2)

theorem bootWrite_blackbox (m : Mram) (f : BootRec → BootRec) : (bootWrite m f).blackbox = m.blackbox := by
  unfold bootWrite
  dsimp only
  split <;> rfl

theorem getLast?_lastN_concat {α : Type} {n : Nat} (hn : 0 < n) (l : List α) (a : α) : (lastN n (l ++ [a])).getLast? = some a := by
  have hlen : ¬ (l ++ [a]).length ≤ (l ++ [a]).length - n := by simp; omega
  rw [lastN, List.getLast?_drop, if_neg hlen, List.getLast?_concat]

/-- The newest record of the black box is the one just written (R416). -/
theorem boxWritten_getLast? (r : GRec) (x : LaneSt) :
    ∃ n, (boxWritten r x).mram.blackbox.getLast? = some { r with seq := n } := by
  unfold boxWritten
  dsimp only
  rw [bootWrite_blackbox]
  refine ⟨BitVec.ofNat 32 (bootCur x.mram).bbIndex, ?_⟩
  rw [getLast?_lastN_concat (by omega)]

theorem hubStops_blackbox {s : State} (h : inService s.mod.st) {l : Lane} (hr : (s.lanes.get l).role ≠ .retired) :
    ∃ r, ((hubStops s).lanes.get l).mram.blackbox.getLast? = some r ∧ r.code = 0x0105 := by
  have hl : (hubLost s).lanes.get l = boxWritten (mkRec s 0x0105 0 2 0 (laneMask [l]) []) (s.lanes.get l) := by
    simp [hubLost, hubBoxed, hr]
  obtain ⟨n, hn⟩ := boxWritten_getLast? (mkRec s 0x0105 0 2 0 (laneMask [l]) []) (s.lanes.get l)
  rw [hubStops_inService h, enterSafeStop_mram, hl]
  exact ⟨_, hn, rfl⟩

theorem exec_hubWatchdog {s : State} (h : inService s.mod.st) (hw : s.ul.wdog = false) : exec .hubWatchdog s = .next (hubStops s) :=
  congrArg _ (if_pos (by simp [h.ne.1, hw]))

theorem exec_junctionOvertemp_hub {s : State} (hu : hubUp s = true) :
    exec (.junctionOvertemp .hub) s = .next { hubStops s with ul := { (hubStops s).ul with hubHeld := true } } :=
  congrArg _ (if_pos hu)

theorem exec_junctionOvertemp_lane {s : State} (hu : hubUp s = true) (l : Lane) :
    exec (.junctionOvertemp (.lane l)) s = .next (onLane s l withholdVoter) :=
  congrArg _ (if_pos hu)

/-- Settles O23: the shutdown by `shutdownAt` and `shutdownDoneAt`, the hub's failure by SAFE STOP entered from `hubLost`. -/
theorem shutdownAndHubFailure : Obligations.ShutdownAndHubFailure := by
  unfold Obligations.ShutdownAndHubFailure
  refine ⟨fun s hu => ⟨fun ho hw hb => ?_, fun hp hh hl => ?_⟩, fun s hs => ⟨fun hw => ?_, fun hu => ?_, fun hu l hv => ?_⟩⟩
  · have hx := exec_shutdownBegin hu ho hw hb
    have hsplit : (shutdownAt s).mod.shutSplit = (s.mod.shutSplit || s.mod.st == .split) := rfl
    exact ⟨_, hx, enterSafeStop_st _, rfl, by simp [hsplit], rfl, rfl, enterSafeStop_held _, rfl, enterSafeStop_opened _,
      fun l => ⟨shutdownAt_pass, shutdownAt_drive s l⟩, exec_frame hx⟩
  · have hx := exec_shutdownDone hu hp hh hl
    refine ⟨_, hx, shutdownDoneAt_mod s, fun l ha => ?_, shutdownDoneAt_lane_rest s, exec_frame hx⟩
    rw [shutdownDoneAt_lanes, onLanes_in _ _ _ _ ha, startWritten_start]
  · have hx := exec_hubWatchdog hs hw
    have he := hubStops_inService hs
    have hul := hubStops_ul hs
    refine ⟨_, hx, ?_, ?_, ?_, ?_, ?_, fun l => ?_, fun l => hubStops_blackbox hs, exec_frame hx⟩
    · rw [he, enterSafeStop_st]
    · rw [hul]
    · rw [hul]
    · rw [he, enterSafeStop_held]
    · rw [he, enterSafeStop_opened]
    · rw [he]
      exact enterSafeStop_drive _ l
  · have hx := exec_junctionOvertemp_hub hu
    have he := hubStops_inService hs
    refine ⟨_, hx, ?_, ?_, rfl, ?_, exec_frame hx⟩
    · simp only [he, enterSafeStop_st]
    · simp only [hubStops_ul hs]
    · simp only [he, enterSafeStop_held]
  · refine ⟨_, exec_junctionOvertemp_lane hu l, ?_, fun m hm => onLane_other _ _ _ _ hm, (onLane_kept ..).frame⟩
    simp [withholdVoter, hv]

end Sys2Proof.Machine
end

section
/-! SUPPORT. The return of a credit (R17, R18, R32): the command intake and the mirror class. -/

namespace Sys2Proof.Machine

theorem exec_creditReturn {s : State} (hu : hubUp s = true) (q : QueueId) :
    exec (.creditReturn q) s = .next (creditReturnAt q s) :=
  congrArg _ (if_pos hu)

/-! ## The command intake (R19, R32, R38) -/

@[simp] theorem spillCount_lanes (s : State) (queue inst n : Nat) : (spillCount s queue inst n).lanes = s.lanes :=
  (spillCount_kept s queue inst n).frame.rest .lanes (by decide)

@[simp] theorem spillCount_zero (s : State) (queue inst : Nat) : spillCount s queue inst 0 = s := if_pos rfl

/-- The lane has taken the front descriptor of its intake queue; one of another cycle counts as a boundary spill. -/
def cmdTaken (s : State) (l : Lane) : State :=
  onLane (spillCount s 1 l.num (((s.lanes.get l).cmdIn.items.take 1).countP fun c => c.cycle != s.cyc.k)) l (takeCmdIn s.cyc.k)

theorem creditReturnAt_commandIntake (s : State) (l : Lane) : creditReturnAt (.commandIntake l) s = handCmd (cmdTaken s l) l := rfl

theorem cmdTaken_kept (s : State) (l : Lane) : Kept [.lanes, .gut] s (cmdTaken s l) :=
  ((spillCount_kept ..).mono rfl).step (onLane_kept ..) rfl

theorem cmdTaken_host (s : State) (l : Lane) : (cmdTaken s l).host = s.host := (cmdTaken_kept s l).frame.rest .host (by decide)

theorem cmdTaken_cyc (s : State) (l : Lane) : (cmdTaken s l).cyc = s.cyc := (cmdTaken_kept s l).frame.rest .cyc (by decide)

theorem cmdTaken_same (s : State) (l : Lane) : (cmdTaken s l).lanes.get l = takeCmdIn s.cyc.k (s.lanes.get l) := by
  simp [cmdTaken]

theorem cmdTaken_other (s : State) {l m : Lane} (h : m ≠ l) : (cmdTaken s l).lanes.get m = s.lanes.get m := by
  rw [cmdTaken, onLane_other _ _ _ _ h, spillCount_lanes]

/-- A descriptor of the present cycle is no spill (R32). -/
theorem cmdTaken_gut {s : State} {l : Lane} {d : CmdSlot} {rest : List CmdSlot} (hi : (s.lanes.get l).cmdIn.items = d :: rest)
    (hd : d.cycle = s.cyc.k) : (cmdTaken s l).gut = s.gut := by
  simp [cmdTaken, hi, hd]

/-- The front descriptor enters the lane's buffer if it is of the cycle (R32, R38). -/
theorem takeCmdIn_cmdBuf {k : DWord} {x : LaneSt} {d : CmdSlot} {rest : List CmdSlot} (hi : x.cmdIn.items = d :: rest) :
    (takeCmdIn k x).cmdBuf = x.cmdBuf ++ if d.cycle = k then [d.desc] else [] := by
  by_cases hd : d.cycle = k <;> simp [takeCmdIn, cmdsOf, hi, hd]

/-- Its slot is free, and the credit is back (R17). -/
theorem takeCmdIn_cmdIn {k : DWord} {x : LaneSt} {d : CmdSlot} {rest : List CmdSlot} (hi : x.cmdIn.items = d :: rest) :
    (takeCmdIn k x).cmdIn = ⟨rest, x.cmdIn.credits + 1⟩ := by
  simp [takeCmdIn, CQ.free, hi]

theorem handCmd_nil {s : State} {l : Lane} (h : s.host.cmdHand.get l = []) : handCmd s l = s := by
  simp [handCmd, h]

theorem handCmd_cons {s : State} {l : Lane} {e : List Byte} {w : List (List Byte)} (h : s.host.cmdHand.get l = e :: w)
    (hc : (s.lanes.get l).cmdIn.credits ≠ 0) :
    handCmd s l = { (onLane s l fun x => { x with cmdIn := x.cmdIn.send ⟨s.cyc.k, e⟩ }) with
      host := { s.host with cmdHand := s.host.cmdHand.set l w } } := by
  simp [handCmd, h, hc]

theorem commandIntake_kept (s : State) (l : Lane) : Kept [.lanes, .host, .gut] s (creditReturnAt (.commandIntake l) s) :=
  ((cmdTaken_kept s l).mono rfl).step (handCmd_kept ..) rfl

/-- With nothing waiting the intake has one slot more (R17). -/
theorem commandIntake_idle {s : State} {l : Lane} (hw : s.host.cmdHand.get l = []) :
    creditReturnAt (.commandIntake l) s = cmdTaken s l := by
  rw [creditReturnAt_commandIntake, handCmd_nil (by rwa [cmdTaken_host])]

/-- The oldest waiting descriptor takes the slot of the one taken (R17, R19). -/
theorem commandIntake_handed {s : State} {l : Lane} {d : CmdSlot} {rest : List CmdSlot} {e : List Byte} {w : List (List Byte)}
    (hi : (s.lanes.get l).cmdIn.items = d :: rest) (hw : s.host.cmdHand.get l = e :: w) :
    creditReturnAt (.commandIntake l) s =
      { (onLane (cmdTaken s l) l fun x => { x with cmdIn := x.cmdIn.send ⟨s.cyc.k, e⟩ }) with
        host := { s.host with cmdHand := s.host.cmdHand.set l w } } := by
  have hc : ((cmdTaken s l).lanes.get l).cmdIn.credits ≠ 0 := by simp [cmdTaken_same, takeCmdIn_cmdIn hi]
  rw [creditReturnAt_commandIntake, handCmd_cons (by rwa [cmdTaken_host]) hc, cmdTaken_host, cmdTaken_cyc]

/-! ## The mirror class (R18, R327, R337) -/

/-- The peer links after the front message of the mirror queue has left on a link, before the lanes send on (R326, R337). -/
def mirrorGone (s : State) (m : MirrorMsg) (rest : List MirrorMsg) (link : Plane) : PeerSt :=
  { (creditsBack true s).peer with
    mirrorQ := { items := rest, credits := s.peer.mirrorQ.credits + blocksOf m.pay.length },
    crMirror := s.peer.crMirror - blocksOf m.pay.length, seqMirror := s.peer.seqMirror + 1,
    mirrorSent := peerMsg s (if m.relay then ptRelay else ptMirror) link (s.peer.seqMirror + 1) m.cycle.toNat m.pay,
    mirrorTurn := otherLink link }

theorem mirrorLeave_front {s : State} {m : MirrorMsg} {rest : List MirrorMsg} {link : Plane} (hq : s.peer.mirrorQ.items = m :: rest)
    (hl : mirrorLink s = some link) (hc : blocksOf m.pay.length ≤ s.peer.crMirror) :
    mirrorLeave s = pumpMirror { s with peer := mirrorGone s m rest link } := by
  simp [mirrorLeave, hq, hl, Nat.not_lt.mpr hc, mirrorGone, creditsBack]

/-- While no block waits in the lanes the slots it freed stay free (R17). -/
theorem mirrorGone_queue {s : State} {m : MirrorMsg} {rest : List MirrorMsg} {link : Plane} (h : s.peer.mirrorWait = []) :
    (pumpMirror { s with peer := mirrorGone s m rest link }).peer.mirrorQ =
      ⟨rest, s.peer.mirrorQ.credits + blocksOf m.pay.length⟩ := by
  simp [pumpMirror, CQ.sendAll, mirrorGone, creditsBack, h]

/-- Settles O30: the intake by `commandIntake_idle` and `commandIntake_handed`, the mirror class by `mirrorLeave_front`. -/
theorem creditsReturn : Obligations.CreditsReturn := by
  unfold Obligations.CreditsReturn
  refine fun s hu => ⟨fun l d rest hi hw => ?_, fun l d rest e w hi hw => ?_, fun m rest link hq hl hc => ?_, exec_creditReturn hu _⟩
  · refine ⟨cmdTaken s l, (exec_creditReturn hu _).trans (congrArg _ (commandIntake_idle hw)), ?_, ?_, fun m => cmdTaken_other s,
      cmdTaken_gut hi, (cmdTaken_kept s l).frame⟩
    · rw [cmdTaken_same, takeCmdIn_cmdBuf hi]
    · rw [cmdTaken_same, takeCmdIn_cmdIn hi]
  · have he := commandIntake_handed hi hw
    refine ⟨_, exec_creditReturn hu _, ?_, ?_, ?_, fun hd => ?_, (commandIntake_kept s l).frame⟩
    · simp [he, cmdTaken_same, takeCmdIn_cmdBuf hi]
    · simp [he, cmdTaken_same, takeCmdIn_cmdIn hi, CQ.send]
    · simp [he]
    · simp [he, cmdTaken_gut hi hd]
  · have he := mirrorLeave_front hq hl hc
    have hf := (mirrorLeave_kept s).frame
    rw [he] at hf
    exact ⟨_, (exec_creditReturn hu _).trans (congrArg _ he), mirrorGone_queue, rfl, rfl, Nat.sub_add_cancel hc, rfl, hf⟩

end Sys2Proof.Machine
end

section
/-! SUPPORT. Time that runs on within a cycle, the records that the lanes' work raises, and the diagnostic task with the lanes' sleep
(R46 to R48, R61 to R63). -/

namespace Sys2Proof.Machine

/-! ## What the passing of time leaves (R35, R354) -/

@[simp] theorem advanceTo_cyc (s : State) (n : Nat) : (advanceTo s n).cyc = s.cyc := (advanceTo_kept s n).frame.rest .cyc (by decide)
@[simp] theorem advanceTo_lanes (s : State) (n : Nat) : (advanceTo s n).lanes = s.lanes :=
  (advanceTo_kept s n).frame.rest .lanes (by decide)
@[simp] theorem advanceTo_agr (s : State) (n : Nat) : (advanceTo s n).agr = s.agr := (advanceTo_kept s n).frame.rest .agr (by decide)
@[simp] theorem advanceTo_ctl (s : State) (n : Nat) : (advanceTo s n).ctl = s.ctl := (advanceTo_kept s n).frame.rest .ctl (by decide)
@[simp] theorem advanceTo_rings (s : State) (n : Nat) : (advanceTo s n).rings = s.rings :=
  (advanceTo_kept s n).frame.rest .rings (by decide)
@[simp] theorem advanceTo_peer (s : State) (n : Nat) : (advanceTo s n).peer = s.peer :=
  (advanceTo_kept s n).frame.rest .peer (by decide)
@[simp] theorem advanceTo_mod (s : State) (n : Nat) : (advanceTo s n).mod = s.mod :=
  (advanceTo_kept s n).mod_eq (by decide) (by decide)

/-! ## The indications of a lane (R27) -/

theorem laneInd_noInds (x : LaneSt) (i : Ind) : noInds (laneInd x i) = noInds x := rfl

/-- However many indications a lane forms, it keeps everything else. -/
theorem foldl_laneInd_noInds {α : Type} (f : α → Ind) (ps : List α) (x : LaneSt) :
    noInds (ps.foldl (fun x p => laneInd x (f p)) x) = noInds x := by
  induction ps generalizing x with
  | nil => rfl
  | cons p ps ih => exact (ih _).trans (laneInd_noInds x _)

/-! ## The diagnostic task (R61 to R63) -/

theorem exec_diagnosticRelease {s : State} (hu : hubUp s = true) (hm : s.mod.st.runs = true ∨ s.mod.st = .indicate)
    (hk : s.cyc.k.toNat % cyclesPer100 s = 0) : exec .diagnosticRelease s = .next (diagReleaseAt s) :=
  congrArg _ (if_pos (by simp [hu, hm, hk]))

theorem exec_diagnosticEnd {s : State} (hu : hubUp s = true) (hr : s.cyc.diagRun = true) (ht : diagTime s = true)
    (lanes : Quad Bool) (inds : List (List Byte)) (tr : List GRecIn) :
    exec (.diagnosticEnd lanes inds tr) s = .next (diagEndAt lanes inds tr s) :=
  congrArg _ (if_pos (by simp [hu, hr, ht]))

/-- The release of the diagnostic task after the record of an overrun: its lanes and its cycle. -/
theorem diagReleaseAt_eq (s : State) : ∃ g, diagReleaseAt s =
    { (onLanes s (counted s) fun _ x => { x with diagSnap := some (taskSnap s x 0) }) with
      cyc := { s.cyc with diagRun := true }, gut := g } := by
  unfold diagReleaseAt
  dsimp only
  split
  · rw [raiseShared_eq]
    exact ⟨_, rfl⟩
  · exact ⟨_, rfl⟩

theorem diagReleaseAt_cyc (s : State) : (diagReleaseAt s).cyc = { s.cyc with diagRun := true } := by
  obtain ⟨g, h⟩ := diagReleaseAt_eq s
  rw [h]

theorem diagReleaseAt_lanes (s : State) :
    (diagReleaseAt s).lanes = (onLanes s (counted s) fun _ x => { x with diagSnap := some (taskSnap s x 0) }).lanes := by
  obtain ⟨g, h⟩ := diagReleaseAt_eq s
  rw [h]

/-- Beside its image a lane keeps all it held at a release (R61). -/
theorem diagReleaseAt_lane_rest (s : State) (l : Lane) :
    { (diagReleaseAt s).lanes.get l with diagSnap := none } = { s.lanes.get l with diagSnap := none } := by
  rw [diagReleaseAt_lanes]
  by_cases h : l ∈ counted s
  · rw [onLanes_in _ _ _ _ h]
  · rw [onLanes_out _ _ _ _ h]

/-- The records of a list that a producer hands to the Gutter change the Gutter alone (R422). -/
theorem foldl_gutPut_kept (p : GRecIn → Bool) (f : State → GRecIn → GRec) (rs : List GRecIn) (s : State) :
    Kept [.gut] s (rs.foldl (fun s g => if p g then gutPut s (f s g) else s) s) := by
  refine Kept.foldl (fun s g => ?_) rs s
  split
  · exact gutPut_kept ..
  · exact Kept.refl _ _

/-- The lanes after the end of a run: indications of those that ended it, no image in any (R62, R63). -/
theorem diagEndAt_lanes (lanes : Quad Bool) (inds : List (List Byte)) (tr : List GRecIn) (s : State) :
    (diagEndAt lanes inds tr s).lanes = (onLanes s ((counted s).filter fun l => lanes.get l) fun _ x =>
      inds.foldl (fun x p => laneInd x { mkInd s 0x02 p with nonvital := true }) x).lanes.map
        fun x => { x with diagSnap := none } := by
  unfold diagEndAt
  dsimp only
  congr 1
  split
  · exact (foldl_gutPut_kept _ _ tr _).frame.rest .lanes (by decide)
  · rfl

theorem diagEndAt_cyc (lanes : Quad Bool) (inds : List (List Byte)) (tr : List GRecIn) (s : State) :
    (diagEndAt lanes inds tr s).cyc = { s.cyc with diagRun := false } := by
  unfold diagEndAt
  dsimp only
  refine congrArg (fun c : CycleSt => { c with diagRun := false }) (?_ : State.cyc _ = _)
  split
  · exact (foldl_gutPut_kept _ _ tr _).frame.rest .cyc (by decide)
  · rfl

/-- The run's end changes nothing of a lane but its indications and the image (R63). -/
theorem diagEndAt_lane (lanes : Quad Bool) (inds : List (List Byte)) (tr : List GRecIn) (s : State) (l : Lane) :
    noInds ((diagEndAt lanes inds tr s).lanes.get l) = noInds { s.lanes.get l with diagSnap := none } := by
  have hl : noInds ((onLanes s ((counted s).filter fun l => lanes.get l) fun _ x =>
      inds.foldl (fun x p => laneInd x { mkInd s 0x02 p with nonvital := true }) x).lanes.get l) = noInds (s.lanes.get l) := by
    by_cases h : l ∈ (counted s).filter fun l => lanes.get l
    · rw [onLanes_in _ _ _ _ h, foldl_laneInd_noInds]
    · rw [onLanes_out _ _ _ _ h]
  rw [diagEndAt_lanes, Quad.get_map]
  exact congrArg (fun x : LaneSt => { x with diagSnap := none }) hl

theorem exec_diagnosticLimit {s : State} (hu : hubUp s = true) : exec .diagnosticLimit s =
    .next { advanceTo s (periodNs s - 1500000) with cyc := { (advanceTo s (periodNs s - 1500000)).cyc with diagLim := true } } :=
  congrArg Host.Outcome.next (if_pos hu)

/-! ## Sleep (R48) -/

theorem exec_laneSleep {s : State} (hu : hubUp s = true) {l : Lane} (hi : laneIdle s (s.lanes.get l) = true) :
    exec (.laneSleep l) s = .next (onLane s l fun x => { x with clocksOn := false }) :=
  congrArg _ (if_pos (by simp [hu, hi]))

theorem exec_laneWake {s : State} (hu : hubUp s = true) {l : Lane} (hs : (s.lanes.get l).stopped = false) :
    exec (.laneWake l) s = .next (onLane (advanceTo s (periodNs s - 150000)) l fun x => { x with clocksOn := true }) :=
  congrArg Host.Outcome.next (if_pos (by simp [hu, hs]))

/-- Settles O32: each command by its own lemma above, its frame by the frame of every command. -/
theorem diagnosticChangesNothingVital : Obligations.DiagnosticChangesNothingVital := by
  unfold Obligations.DiagnosticChangesNothingVital
  refine fun s hu => ⟨fun hm hk => ?_, fun hr ht lanes inds tr => ?_, ?_, fun l hi => ?_, fun l hs => ?_⟩
  · have hx := exec_diagnosticRelease hu hm hk
    refine ⟨_, hx, diagReleaseAt_cyc s, fun l hl => ?_, diagReleaseAt_lane_rest s, exec_frame hx⟩
    rw [diagReleaseAt_lanes, onLanes_in _ _ _ _ hl]
  · have hx := exec_diagnosticEnd hu hr ht lanes inds tr
    exact ⟨_, hx, diagEndAt_cyc .., fun l => diagEndAt_lane .., exec_frame hx⟩
  · have hx := exec_diagnosticLimit hu
    exact ⟨_, hx, congrArg (fun c : CycleSt => { c with diagLim := true }) (advanceTo_cyc ..), exec_frame hx⟩
  · have hx := exec_laneSleep hu hi
    exact ⟨_, hx, onLane_same .., fun m hm => onLane_other _ _ _ _ hm, exec_frame hx⟩
  · have hx := exec_laneWake hu hs
    refine ⟨_, hx, ?_, fun m hm => ?_, exec_frame hx⟩
    · rw [onLane_same, advanceTo_lanes]
    · rw [onLane_other _ _ _ _ hm, advanceTo_lanes]

end Sys2Proof.Machine
end

section
/-! SUPPORT. What becomes of a host command beside its presentation (R39, R304, R308, R315, R317): a status decided in a lane, a write
of the runtime, an alarm raised, descriptors fetched. -/

namespace Sys2Proof.Machine

/-! ## A status is decided (R312) -/

/-- A lane that runs the cycle and has decided nothing on the command decides it. -/
theorem decideCmd_new {s : State} {l : Lane} (hl : l ∈ working s) {asn : DWord} (hn : ∀ v ∈ (s.lanes.get l).verdicts, v.asn ≠ asn)
    (status reason data : Nat) : (decideCmd s asn.toNat status reason data false).lanes.get l =
      { s.lanes.get l with verdicts := (s.lanes.get l).verdicts ++ [newVerdict asn (status, reason, data)] } := by
  have hno : ((s.lanes.get l).verdicts.any fun v => v.asn.toNat == asn.toNat) = false := by
    simpa [← BitVec.toNat_inj] using hn
  rw [decideCmd, onLanes_in _ _ _ _ hl, hno]
  simp [newVerdict]

/-- The first decision on a command stands. -/
theorem decideCmd_decided {s : State} {l : Lane} {asn : DWord} (hd : ∃ v ∈ (s.lanes.get l).verdicts, v.asn = asn)
    (status reason data : Nat) (keep : Bool) :
    (decideCmd s asn.toNat status reason data keep).lanes.get l = s.lanes.get l := by
  have hyes : ((s.lanes.get l).verdicts.any fun v => v.asn.toNat == asn.toNat) = true := by
    simpa [← BitVec.toNat_inj] using hd
  by_cases hl : l ∈ working s
  · rw [decideCmd, onLanes_in _ _ _ _ hl, hyes]
    rfl
  · rw [decideCmd, onLanes_out _ _ _ _ hl]

theorem decideCmd_out {s : State} {l : Lane} (hl : l ∉ working s) (asn status reason data : Nat) (keep : Bool) :
    (decideCmd s asn status reason data keep).lanes.get l = s.lanes.get l := by
  rw [decideCmd, onLanes_out _ _ _ _ hl]

/-! ## The runtime writes to the commit log (R70, R89) -/

theorem logWrite_in {s : State} {l : Lane} (hl : l ∈ working s) (f : Mem → Mem) : (logWrite s f).lanes.get l =
    { s.lanes.get l with log := (s.lanes.get l).log ++ logDelta (viewMem (s.lanes.get l)) (f (viewMem (s.lanes.get l))) } := by
  rw [logWrite, onLanes_in _ _ _ _ hl]

theorem logWrite_out {s : State} {l : Lane} (hl : l ∉ working s) (f : Mem → Mem) :
    (logWrite s f).lanes.get l = s.lanes.get l := by
  rw [logWrite, onLanes_out _ _ _ _ hl]

/-- Beside its log a lane keeps all it held. -/
theorem logWrite_rest (s : State) (f : Mem → Mem) (l : Lane) :
    { (logWrite s f).lanes.get l with log := [] } = { s.lanes.get l with log := [] } := by
  by_cases hl : l ∈ working s
  · rw [logWrite_in hl]
  · rw [logWrite_out hl]

/-! ## Expiry, lapse and stall (R308, R315, R317) -/

theorem exec_commandExpiry {s : State} {asn : DWord} {i : Nat} {c : CmdEnt} (hw : inWindow s = true) (ha : isActive s = true)
    (hb : (lead s).ballot = none) (hf : cmdFind (lead s).work asn.toNat = some (i, c)) (he : expired s c = true) :
    exec (.commandExpiry asn) s = .next (decideCmd s asn.toNat stEXPIRED 0 0 false) := by
  refine congrArg Host.Outcome.next ((if_pos (by simp [hw, ha, hb])).trans ?_)
  rw [hf]
  exact if_pos he

theorem exec_requestLapse {s : State} (hw : inWindow s = true) (ha : isActive s = true) (hb : (lead s).ballot = none) :
    exec .requestLapse s =
      .next (logWrite s fun m => (lapsedReqs m s.cyc.k.toNat (cyclesPerS s)).foldl reqClose m) :=
  congrArg Host.Outcome.next (if_pos (by simp [hw, ha, hb]))

theorem exec_journalStall {s : State} (hu : hubUp s = true) (ha : isActive s = true) (hw : 50 ≤ s.agr.waited)
    (hs : s.agr.stalled = false) :
    exec .journalStall s = .next (raiseShared { s with agr := { s.agr with stalled := true } } 0x0702 []) :=
  congrArg Host.Outcome.next (if_pos (by simp [hu, ha, hw, hs]))

/-! ## A position that does not belong (R304) -/

/-- An alarm that finds an empty store and a credit enters its queue with the next SEQ (R413, R417). -/
theorem gutPut_alarm_seqA {s : State} {r : GRec} (hq : queueOf r = .alarm) (hs : s.gut.store = []) (hc : s.gut.alarm.credits ≠ 0) :
    (gutPut s r).gut.seqA = s.gut.seqA + 1 := by
  have hf : flushStore s.gut.store.length s = s := by rw [hs]; rfl
  have hp : gutPut s r = enterQ s r := by simp [gutPut, hq, hf, hc]
  rw [hp, enterQ, hq]
  split <;> rfl

theorem queueOf_mkRec_alarm {s : State} {code : Nat} (hn : BitVec.ofNat 16 code ≠ 0x0882) (sev unit : Nat) (lanes : BitVec 4)
    (args : List Byte) : queueOf (mkRec s code 0 sev unit lanes args) = .alarm := by
  have hc : (mkRec s code 0 sev unit lanes args).code ≠ 0x0882 := hn
  rw [queueOf, if_neg hc]
  rfl

theorem raiseShared_alarm_seqA {s : State} {code : Nat} (hk : codeCls code = 0) (hn : BitVec.ofNat 16 code ≠ 0x0882)
    (hs : s.gut.store = []) (hc : s.gut.alarm.credits ≠ 0) (args : List Byte) :
    (raiseShared s code args).gut.seqA = s.gut.seqA + 1 := by
  rw [raiseShared, raiseRec, hk]
  exact gutPut_alarm_seqA (queueOf_mkRec_alarm hn ..) hs hc

theorem exec_hostFetch_eight {s : State} (hu : hubUp s = true) (hn : s.agr.notBelong = 8) :
    exec .hostFetch s = .next (raiseShared s 0x0701 (argOne ++ arg4 s.agr.notBelongPos.toNat)) :=
  congrArg Host.Outcome.next (if_pos (by simp [hu, hn]))

theorem exec_hostFetch_other {s : State} (hn : s.agr.notBelong ≠ 8) : exec .hostFetch s = .next s :=
  congrArg Host.Outcome.next (if_neg (by simp [hn]))

/-! ## Descriptors are fetched (R19, R39) -/

/-- What a fetch brings to one lane: its descriptors follow what waited in the lane's queue and for it in the hub, in their order,
with the present cycle; nothing else of the lane changes. -/
structure FetchedTo (s t : State) (l : Lane) (ds : List (List Byte)) : Prop where
  all   : (t.lanes.get l).cmdIn.items.map CmdSlot.desc ++ t.host.cmdHand.get l =
    (s.lanes.get l).cmdIn.items.map CmdSlot.desc ++ s.host.cmdHand.get l ++ ds
  front : (s.lanes.get l).cmdIn.items <+: (t.lanes.get l).cmdIn.items
  rest  : { t.lanes.get l with cmdIn := ⟨[], 0⟩ } = { s.lanes.get l with cmdIn := ⟨[], 0⟩ }
  now   : ∀ c ∈ (t.lanes.get l).cmdIn.items, c ∈ (s.lanes.get l).cmdIn.items ∨ c.cycle = s.cyc.k
  cyc   : t.cyc = s.cyc

theorem FetchedTo.of_eq {s t : State} {l : Lane} (hl : t.lanes.get l = s.lanes.get l) (hh : t.host.cmdHand.get l = s.host.cmdHand.get l)
    (hc : t.cyc = s.cyc) : FetchedTo s t l [] :=
  ⟨by rw [hl, hh, List.append_nil], by rw [hl], by rw [hl], fun c h => Or.inl (by rwa [hl] at h), hc⟩

theorem FetchedTo.trans {s r t : State} {l : Lane} {ds es : List (List Byte)} (h : FetchedTo s r l ds) (g : FetchedTo r t l es) :
    FetchedTo s t l (ds ++ es) where
  all := by rw [g.all, h.all, List.append_assoc]
  front := h.front.trans g.front
  rest := g.rest.trans h.rest
  now := fun c hc => (g.now c hc).elim (h.now c) fun hk => Or.inr (by rw [hk, h.cyc])
  cyc := g.cyc.trans h.cyc

/-- One descriptor on its way to one lane. -/
def fetchTo (d : List Byte) (s : State) (l : Lane) : State :=
  if (s.host.cmdHand.get l).isEmpty && (s.lanes.get l).cmdIn.credits != 0 then
    onLane s l fun x => { x with cmdIn := x.cmdIn.send ⟨s.cyc.k, d⟩ }
  else { s with host := { s.host with cmdHand := s.host.cmdHand.set l (s.host.cmdHand.get l ++ [d]) } }

theorem CQ.send_of_credit {α : Type} {q : CQ α} (h : q.credits ≠ 0) (x : α) : q.send x = ⟨q.items ++ [x], q.credits - 1⟩ := if_neg h

theorem fetchTo_same (d : List Byte) (s : State) (l : Lane) : FetchedTo s (fetchTo d s l) l [d] := by
  unfold fetchTo
  split
  case isTrue h =>
    have hh : s.host.cmdHand.get l = [] := by simp at h; exact h.1
    have hc : (s.lanes.get l).cmdIn.credits ≠ 0 := by simp at h; exact h.2
    refine ⟨by simp [CQ.send_of_credit hc, hh], by simp [CQ.send_of_credit hc], by simp, fun c hm => ?_, rfl⟩
    rw [onLane_same, CQ.send_of_credit hc, List.mem_append, List.mem_singleton] at hm
    exact hm.imp id fun e => by rw [e]
  case isFalse => exact ⟨by simp, by simp, rfl, fun c => Or.inl, rfl⟩

theorem fetchTo_other (d : List Byte) (s : State) {l m : Lane} (h : m ≠ l) : FetchedTo s (fetchTo d s l) m [] := by
  unfold fetchTo
  split
  · exact .of_eq (onLane_other _ _ _ _ h) rfl rfl
  · exact .of_eq rfl (Quad.get_set_other _ _ _ _ h) rfl

/-- Each lane that is served gets the descriptor once. -/
theorem foldl_fetchTo (d : List Byte) {ls : List Lane} (hd : ls.Nodup) (s : State) (l : Lane) :
    FetchedTo s (ls.foldl (fetchTo d) s) l (if l ∈ ls then [d] else []) := by
  induction ls generalizing s with
  | nil => exact .of_eq rfl rfl rfl
  | cons m ls ih =>
    obtain ⟨hm, hls⟩ := List.nodup_cons.mp hd
    by_cases h : l = m
    · subst h
      simpa [hm] using (fetchTo_same d s l).trans (ih hls (fetchTo d s l))
    · simpa [h] using (fetchTo_other d s h).trans (ih hls (fetchTo d s m))

theorem fetchOne_fetched (s : State) (d : List Byte) (l : Lane) : FetchedTo s (fetchOne s d) l [d] := by
  have h := foldl_fetchTo d (ls := Lane.all) (by decide) s l
  rwa [if_pos (by cases l <;> decide)] at h

theorem foldl_fetchOne (ds : List (List Byte)) (s : State) (l : Lane) : FetchedTo s (ds.foldl fetchOne s) l ds := by
  induction ds generalizing s with
  | nil => exact .of_eq rfl rfl rfl
  | cons d ds ih => exact (fetchOne_fetched s d l).trans (ih (fetchOne s d))

/-- Of the host port a fetch of descriptors changes what waits in the hub alone. -/
theorem fetchTo_host (d : List Byte) (s : State) (l : Lane) :
    (fetchTo d s l).host = { s.host with cmdHand := (fetchTo d s l).host.cmdHand } := by
  unfold fetchTo
  split <;> rfl

theorem fetchOne_host (s : State) (d : List Byte) : (fetchOne s d).host = { s.host with cmdHand := (fetchOne s d).host.cmdHand } := by
  change (fetchTo d (fetchTo d (fetchTo d (fetchTo d s .A) .B) .C) .D).host =
    { s.host with cmdHand := (fetchTo d (fetchTo d (fetchTo d (fetchTo d s .A) .B) .C) .D).host.cmdHand }
  rw [fetchTo_host d (fetchTo d (fetchTo d (fetchTo d s .A) .B) .C), fetchTo_host d (fetchTo d (fetchTo d s .A) .B),
    fetchTo_host d (fetchTo d s .A), fetchTo_host d s]

theorem foldl_fetchOne_host (ds : List (List Byte)) (s : State) :
    (ds.foldl fetchOne s).host = { s.host with cmdHand := (ds.foldl fetchOne s).host.cmdHand } := by
  induction ds generalizing s with
  | nil => rfl
  | cons d ds ih =>
    rw [List.foldl_cons, ih, fetchOne_host]

theorem exec_cmdqFetch {s : State} (hr : ringServed s qCMDQ = true) (ha : s.cyc.agreedIn = false) (hm : s.mod.st ≠ .safeStop)
    (ds : List (List Byte)) : exec (.cmdqFetch ds) s = .next (cmdqFetchAt ds s) :=
  congrArg Host.Outcome.next (if_pos (by simp [hr, ha, hm]))

/-- How many descriptors the cycle may still fetch (R39). -/
def fetchRoom (s : State) : Nat := min (s.host.fetchLim - s.host.fetched) (cmdqReady s)

theorem cmdqFetchAt_fetched (ds : List (List Byte)) (s : State) (l : Lane) :
    FetchedTo s (cmdqFetchAt ds s) l (ds.take (fetchRoom s)) :=
  have h := foldl_fetchOne (ds.take (fetchRoom s)) (readHost s (entryAddr (qAt s qCMDQ) qCMDQ
    ((qAt s qCMDQ).idx + BitVec.ofNat 32 s.host.fetched)) (64 * (ds.take (fetchRoom s)).length)) l
  ⟨h.all, h.front, h.rest, h.now, h.cyc⟩

theorem cmdqFetchAt_host (ds : List (List Byte)) (s : State) :
    (cmdqFetchAt ds s).host.fetched = s.host.fetched + min (fetchRoom s) ds.length ∧ (cmdqFetchAt ds s).host.q = s.host.q := by
  rw [← List.length_take]
  unfold cmdqFetchAt
  dsimp only
  rw [foldl_fetchOne_host]
  exact ⟨rfl, rfl⟩

/-- Settles O39: a decision by `decideCmd_new`, a lapse by `logWrite_in`, a fetch by what it brings to each lane. -/
theorem commandsRunOut : Obligations.CommandsRunOut := by
  unfold Obligations.CommandsRunOut
  refine fun s => ⟨fun asn i c hw ha hb hf he => ?_, fun hw ha hb => ?_, fun hu ha hw hs => ?_, fun hu => ?_, fun ds hr ha hm => ?_⟩
  · have hx := exec_commandExpiry hw ha hb hf he
    exact ⟨_, hx, fun l hl hn => by rw [decideCmd_new hl hn], fun l _ hd => decideCmd_decided hd .., fun l hl => decideCmd_out hl ..,
      exec_frame hx⟩
  · have hx := exec_requestLapse hw ha hb
    exact ⟨_, hx, fun l hl => by rw [logWrite_in hl], fun l => logWrite_rest .., exec_frame hx⟩
  · have hx := exec_journalStall hu ha hw hs
    exact ⟨_, hx, raiseShared_agr .., exec_frame hx⟩
  · by_cases hn : s.agr.notBelong = 8
    · have hx := exec_hostFetch_eight hu hn
      exact ⟨_, hx, fun h => absurd hn h, fun _ hs hc => raiseShared_alarm_seqA (by decide) (by decide) hs hc _, exec_frame hx⟩
    · have hx := exec_hostFetch_other hn
      exact ⟨_, hx, fun _ => rfl, fun h => absurd h hn, exec_frame hx⟩
  · have hx := exec_cmdqFetch hr ha hm ds
    have hf := cmdqFetchAt_fetched ds s
    obtain ⟨hn, hq⟩ := cmdqFetchAt_host ds s
    exact ⟨_, hx, hn, fun l => (hf l).all, fun l => ⟨(hf l).front, (hf l).rest, (hf l).now⟩, hq, exec_frame hx⟩

end Sys2Proof.Machine
end

section
/-! SUPPORT. The presentation of host commands (R55, R71, R301, R485): what is shown, refused and carried out leaves in the lanes, and
the tests in their order. -/

namespace Sys2Proof.Machine

/-! ## What a presentation may change in a lane -/

/-- A lane but for what it decides, logs and shows to its tasks. -/
def offStage (x : LaneSt) : LaneSt := { x with verdicts := [], log := [], snaps := [] }

/-- The lanes that run the cycle are told by their roles. -/
theorem working_congr {s t : State} (h : ∀ l, (t.lanes.get l).role = (s.lanes.get l).role) : working t = working s := by
  simp only [working, lanesWith, h]

theorem decideCmd_lane (s : State) (asn status reason data : Nat) (keep : Bool) (l : Lane) :
    ∃ vs, (decideCmd s asn status reason data keep).lanes.get l = { s.lanes.get l with verdicts := vs } := by
  by_cases hl : l ∈ working s
  · rw [decideCmd, onLanes_in _ _ _ _ hl]
    split
    · exact ⟨_, rfl⟩
    · exact ⟨_, rfl⟩
  · exact ⟨_, decideCmd_out hl ..⟩

theorem logWrite_lane (s : State) (f : Mem → Mem) (l : Lane) :
    ∃ ws, (logWrite s f).lanes.get l = { s.lanes.get l with log := ws } := by
  by_cases hl : l ∈ working s
  · exact ⟨_, logWrite_in hl f⟩
  · exact ⟨_, logWrite_out hl f⟩

theorem refuseCmd_lane (s : State) (c : CmdEnt) (d : List Byte) (r : Nat × Nat × Nat) (l : Lane) :
    ∃ ws, (refuseCmd s c d r).lanes.get l =
      { (decideCmd s c.asn r.1 r.2.1 r.2.2 false).lanes.get l with log := ws } := by
  unfold refuseCmd
  dsimp only
  split
  · exact logWrite_lane ..
  · exact ⟨_, rfl⟩

/-- A command that passed is decided or logged or neither. -/
theorem carryOut_lane (s : State) (c : CmdEnt) (d : List Byte) (l : Lane) :
    ∃ ws vs, (carryOut s c d).lanes.get l = { s.lanes.get l with log := ws, verdicts := vs } := by
  have hlog (t : State) (f : Mem → Mem) (h : ∃ ws vs, t.lanes.get l = { s.lanes.get l with log := ws, verdicts := vs }) :
      ∃ ws vs, (logWrite t f).lanes.get l = { s.lanes.get l with log := ws, verdicts := vs } := by
    obtain ⟨ws, vs, h⟩ := h
    obtain ⟨us, hu⟩ := logWrite_lane t f l
    exact ⟨us, vs, by rw [hu, h]⟩
  have hdone (t : State) (h : ∃ ws vs, t.lanes.get l = { s.lanes.get l with log := ws, verdicts := vs }) :
      ∃ ws vs, (decideCmd t c.asn stDONE 0 0 false).lanes.get l = { s.lanes.get l with log := ws, verdicts := vs } := by
    obtain ⟨ws, vs, h⟩ := h
    obtain ⟨us, hu⟩ := decideCmd_lane t c.asn stDONE 0 0 false l
    exact ⟨ws, us, by rw [hu, h]⟩
  have hs : ∃ ws vs, s.lanes.get l = { s.lanes.get l with log := ws, verdicts := vs } := ⟨_, _, rfl⟩
  unfold carryOut
  dsimp only
  split
  · exact hdone _ (hlog _ _ hs)
  · split
    · split
      · exact hdone _ (hlog _ _ (hlog _ _ hs))
      · exact hlog _ _ hs
    · split
      · exact hdone _ (hlog _ _ hs)
      · split
        · exact hlog _ _ hs
        · split
          · exact hlog _ _ hs
          · split
            · exact hdone _ hs
            · exact hs

/-! ## A command is shown to the command task (R55, R56) -/

theorem showCmd_in {s : State} {l : Lane} (hl : l ∈ working s) (y : Yealm) (asn : DWord) :
    (showCmd y asn s).lanes.get l = showLane y asn (s.lanes.get l) := onLanes_in _ _ _ _ hl

theorem showCmd_lane (y : Yealm) (asn : DWord) (s : State) (l : Lane) :
    ∃ ns, (showCmd y asn s).lanes.get l = { s.lanes.get l with snaps := ns } := by
  by_cases hl : l ∈ working s
  · exact ⟨_, showCmd_in hl y asn⟩
  · exact ⟨_, onLanes_out _ _ _ _ hl⟩

theorem working_showCmd (y : Yealm) (asn : DWord) (s : State) : working (showCmd y asn s) = working s :=
  working_congr fun l => by
    obtain ⟨ns, h⟩ := showCmd_lane y asn s l
    rw [h]

/-! ## What a command that passed does, row by row (R301) -/

/-- The commands of the station program wait for its decision. -/
theorem carryOut_program {c : CmdEnt} (h : c.opcode ≤ 6) (s : State) (d : List Byte) : carryOut s c d = s := by
  have h7 : c.opcode ≠ 7 := by omega
  have h8 : c.opcode ≠ 8 := by omega
  simp [carryOut, opTwoStep, h7, h8, show c.opcode ≠ 0x10 by omega, show c.opcode ≠ 0x11 by omega, show c.opcode ≠ 0x12 by omega,
    show c.opcode ≠ 0x13 by omega, show c.opcode ≠ 0x14 by omega, show c.opcode ≠ 0x15 by omega]

theorem carryOut_request {c : CmdEnt} (h : opTwoStep c.opcode = true) (h1 : c.step = 1) (s : State) (d : List Byte) :
    carryOut s c d = decideCmd (logWrite s (openReq s.cyc.k.toNat c)) c.asn stDONE 0 0 false := by
  simp [carryOut, h, h1]

theorem carryOut_timeSet {c : CmdEnt} (h : c.opcode = 0x10) (s : State) (d : List Byte) : carryOut s c d =
    decideCmd (logWrite s fun m => rgSetTset m (fldLE (dParam d) 0 8) (fldLE (dParam d) 8 4) c.asn) c.asn stDONE 0 0 false := by
  simp [carryOut, opTwoStep, h]

theorem carryOut_transfer {c : CmdEnt} (h : c.opcode = 0x11 ∨ c.opcode = 0x15) (s : State) (d : List Byte) :
    carryOut s c d = logWrite s (openXfer s.cyc.k.toNat c (dParam d)) := by
  obtain h | h := h <;> simp [carryOut, opTwoStep, h]

theorem carryOut_exchange {c : CmdEnt} (h : c.opcode = 0x12) (s : State) (d : List Byte) :
    carryOut s c d = logWrite s fun m => rgSetExch m (fldLE (dParam d) 0 8) c.asn := by
  simp [carryOut, opTwoStep, h]

theorem carryOut_runtime {c : CmdEnt} (h : c.opcode = 0x13 ∨ c.opcode = 0x14) (s : State) (d : List Byte) :
    carryOut s c d = decideCmd s c.asn stDONE 0 0 false := by
  obtain h | h := h <;> simp [carryOut, opTwoStep, h]

/-! ## The presentation -/

/-- The state with the command gone from the head of the cycle's presentations. -/
def unqueued (s : State) : State := { s with agr := { s.agr with toShow := s.agr.toShow.drop 1 } }

/-- Every row of R301 is the presentation of its opcode and step. -/
theorem exec_presentation {p : (DWord → Instr) × Nat × Nat} (hp : p ∈ presentationRows) (asn : DWord) (s : State) :
    exec (p.1 asn) s = .next (presentCmd p.2.1 p.2.2 asn s) := by
  simp only [presentationRows, List.mem_cons, List.not_mem_nil, or_false] at hp
  rcases hp with rfl | rfl | rfl | rfl | rfl | rfl | rfl | rfl | rfl | rfl | rfl | rfl | rfl | rfl | rfl | rfl <;> rfl

/-- Only the two-step commands have a first step. -/
theorem twoStep_of_row : ∀ p ∈ presentationRows, p.2.2 = 1 → opTwoStep p.2.1 = true := by decide

section
variable {s : State} {asn : DWord} {y : Yealm} {i : Nat} {e : CmdEnt} {op step : Nat}

theorem presentCmd_waits (h : presentable s asn = false) : presentCmd op step asn s = s := by
  simp [presentCmd, h]

theorem presentCmd_refused (hs : presentable s asn = true) (hy : theYealm s = some y)
    (hf : cmdFind (lead s).work asn.toNat = some (i, e)) (ho : e.opcode = op) (he : e.step = step) {r : Nat × Nat × Nat}
    (hr : presentTests s y (viewMem (lead s)) e (presentedDesc s asn) = some r) : presentCmd op step asn s =
      refuseCmd (if r.1 = stREFUSED ∧ 0x10 ≤ op then showCmd y asn (unqueued s) else unqueued s) e (presentedDesc s asn) r := by
  unfold presentedDesc at hr ⊢
  simp [presentCmd, presentAt, hs, hy, hf, ho, he, hr, unqueued]

theorem presentCmd_passed (hs : presentable s asn = true) (hy : theYealm s = some y)
    (hf : cmdFind (lead s).work asn.toNat = some (i, e)) (ho : e.opcode = op) (he : e.step = step)
    (hr : presentTests s y (viewMem (lead s)) e (presentedDesc s asn) = none) : presentCmd op step asn s =
      carryOut (showCmd y asn (unqueued s)) e (presentedDesc s asn) := by
  unfold presentedDesc at hr ⊢
  simp [presentCmd, presentAt, hs, hy, hf, ho, he, hr, unqueued]

end

/-! ## A command that a test refuses -/

section
variable (s : State) (y : Yealm) (asn : DWord) (e : CmdEnt) (d : List Byte) (op : Nat) (r : Nat × Nat × Nat)

/-- What a refusal finds: a refused command of the runtime's own has been shown, any other has not. -/
def refusedAt : State := if r.1 = stREFUSED ∧ 0x10 ≤ op then showCmd y asn (unqueued s) else unqueued s

theorem refusedAt_agr : (refusedAt s y asn op r).agr =
    { s.agr with toShow := s.agr.toShow.drop 1,
                 shown := s.agr.shown ++ if r.1 = stREFUSED ∧ 0x10 ≤ op then [asn] else [] } := by
  unfold refusedAt
  split
  · rfl
  · rw [List.append_nil]
    rfl

theorem refusedAt_lane (l : Lane) : ∃ ns, (refusedAt s y asn op r).lanes.get l = { s.lanes.get l with snaps := ns } := by
  unfold refusedAt
  split
  · exact showCmd_lane y asn (unqueued s) l
  · exact ⟨_, rfl⟩

theorem working_refusedAt : working (refusedAt s y asn op r) = working s :=
  working_congr fun l => by
    obtain ⟨ns, h⟩ := refusedAt_lane s y asn op r l
    rw [h]

theorem refuseCmd_agr (t : State) : (refuseCmd t e d r).agr = t.agr := (refuseCmd_kept t e d r).frame.rest .agr (by decide)

/-- Either way nothing of a lane changes but what it decides, logs and shows (R301). -/
theorem refused_offStage (l : Lane) :
    offStage ((refuseCmd (refusedAt s y asn op r) e d r).lanes.get l) = offStage (s.lanes.get l) := by
  obtain ⟨ws, hw⟩ := refuseCmd_lane (refusedAt s y asn op r) e d r l
  obtain ⟨vs, hv⟩ := decideCmd_lane (refusedAt s y asn op r) e.asn r.1 r.2.1 r.2.2 false l
  obtain ⟨ns, hn⟩ := refusedAt_lane s y asn op r l
  rw [hw, hv, hn]
  rfl

theorem refused_snaps {op : Nat} {r : Nat × Nat × Nat} (h : r.1 ≠ stREFUSED ∨ op < 0x10) (l : Lane) :
    ((refuseCmd (refusedAt s y asn op r) e d r).lanes.get l).snaps = (s.lanes.get l).snaps := by
  obtain ⟨ws, hw⟩ := refuseCmd_lane (refusedAt s y asn op r) e d r l
  obtain ⟨vs, hv⟩ := decideCmd_lane (refusedAt s y asn op r) e.asn r.1 r.2.1 r.2.2 false l
  have hs : refusedAt s y asn op r = unqueued s := if_neg fun ⟨h1, h2⟩ => h.elim (· h1) (Nat.not_lt.mpr h2)
  rw [hw, hv, hs]
  rfl

theorem refused_verdicts {l : Lane} (hl : l ∈ working s) {asn : DWord} (hn : ∀ v ∈ (s.lanes.get l).verdicts, v.asn ≠ asn)
    {e : CmdEnt} (he : e.asn = asn.toNat) : ((refuseCmd (refusedAt s y asn op r) e d r).lanes.get l).verdicts =
      (s.lanes.get l).verdicts ++ [newVerdict asn r] := by
  obtain ⟨ws, hw⟩ := refuseCmd_lane (refusedAt s y asn op r) e d r l
  obtain ⟨ns, hs⟩ := refusedAt_lane s y asn op r l
  have hl' : l ∈ working (refusedAt s y asn op r) := by rwa [working_refusedAt]
  rw [hw, he, decideCmd_new hl' (by rwa [hs]), hs]

end

/-! ## A command that passes -/

section
variable (s : State) (y : Yealm) (asn : DWord) (e : CmdEnt) (d : List Byte)

theorem passed_agr : (carryOut (showCmd y asn (unqueued s)) e d).agr =
    { s.agr with toShow := s.agr.toShow.drop 1, shown := s.agr.shown ++ [asn] } :=
  (carryOut_kept ..).frame.rest .agr (by decide)

theorem passed_offStage (l : Lane) :
    offStage ((carryOut (showCmd y asn (unqueued s)) e d).lanes.get l) = offStage (s.lanes.get l) := by
  obtain ⟨ws, vs, hc⟩ := carryOut_lane (showCmd y asn (unqueued s)) e d l
  obtain ⟨ns, hn⟩ := showCmd_lane y asn (unqueued s) l
  rw [hc, hn]
  rfl

/-- Every working lane shows the command to its command task. -/
theorem passed_snaps {l : Lane} (hl : l ∈ working s) :
    ((carryOut (showCmd y asn (unqueued s)) e d).lanes.get l).snaps = (showLane y asn (s.lanes.get l)).snaps := by
  obtain ⟨ws, vs, hc⟩ := carryOut_lane (showCmd y asn (unqueued s)) e d l
  rw [hc, showCmd_in (s := unqueued s) hl]
  rfl

theorem mem_working_shown {l : Lane} (hl : l ∈ working s) : l ∈ working (showCmd y asn (unqueued s)) := by
  rwa [working_showCmd]

theorem program_lane {e : CmdEnt} (h : e.opcode ≤ 6) (l : Lane) :
    { (carryOut (showCmd y asn (unqueued s)) e d).lanes.get l with snaps := [] } = { s.lanes.get l with snaps := [] } := by
  obtain ⟨ns, hn⟩ := showCmd_lane y asn (unqueued s) l
  rw [carryOut_program h, hn]
  rfl

theorem runtime_verdicts {e : CmdEnt} (h : e.opcode = 0x13 ∨ e.opcode = 0x14) {l : Lane} (hl : l ∈ working s) {asn : DWord}
    (hn : ∀ v ∈ (s.lanes.get l).verdicts, v.asn ≠ asn) (he : e.asn = asn.toNat) :
    ((carryOut (showCmd y asn (unqueued s)) e d).lanes.get l).verdicts =
      (s.lanes.get l).verdicts ++ [newVerdict asn (stDONE, 0, 0)] := by
  have hx := showCmd_in (s := unqueued s) hl y asn
  rw [carryOut_runtime h, he, decideCmd_new (mem_working_shown s y asn hl) (by rw [hx]; exact hn), hx]
  rfl

/-- What the runtime logs of a command, as the lane's region stood before it. -/
theorem shown_log (f : Mem → Mem) {l : Lane} (hl : l ∈ working s) :
    ((logWrite (showCmd y asn (unqueued s)) f).lanes.get l).log =
      (s.lanes.get l).log ++ logDelta (viewMem (s.lanes.get l)) (f (viewMem (s.lanes.get l))) := by
  rw [logWrite_in (mem_working_shown s y asn hl), showCmd_in (s := unqueued s) hl]
  rfl

theorem shown_log_done (f : Mem → Mem) (n : Nat) {l : Lane} (hl : l ∈ working s) :
    ((decideCmd (logWrite (showCmd y asn (unqueued s)) f) n stDONE 0 0 false).lanes.get l).log =
      (s.lanes.get l).log ++ logDelta (viewMem (s.lanes.get l)) (f (viewMem (s.lanes.get l))) := by
  obtain ⟨vs, hv⟩ := decideCmd_lane (logWrite (showCmd y asn (unqueued s)) f) n stDONE 0 0 false l
  rw [hv]
  exact shown_log s y asn f hl

theorem exchange_verdicts {e : CmdEnt} (h : e.opcode = 0x12) {l : Lane} (hl : l ∈ working s) :
    ((carryOut (showCmd y asn (unqueued s)) e d).lanes.get l).verdicts = (s.lanes.get l).verdicts := by
  rw [carryOut_exchange h, logWrite_in (mem_working_shown s y asn hl), showCmd_in (s := unqueued s) hl]
  rfl

end

/-! ## The tests in their order (R485) -/

theorem tExpiry_due {k : Nat} {c : CmdEnt} (h : c.xcyc ≠ 0) (hk : c.xcyc ≤ k) : tExpiry k c = some (stEXPIRED, 0, 0) := by
  simp [tExpiry, h, hk]

theorem tExpiry_none {k : Nat} {c : CmdEnt} (h : c.xcyc = 0 ∨ k < c.xcyc) : tExpiry k c = none := by
  simp only [tExpiry, ite_eq_right_iff, reduceCtorEq, imp_false, Bool.and_eq_true, bne_iff_ne, decide_eq_true_eq]
  omega

section
variable {s : State} {m : Mem} {c : CmdEnt} (y : Yealm) (d : List Byte)

theorem presentTests_expired (h : tExpiry s.cyc.k.toNat c = some (stEXPIRED, 0, 0)) :
    presentTests s y m c d = some (stEXPIRED, 0, 0) := by
  rw [presentTests, h]
  rfl

theorem presentTests_key (h1 : tExpiry s.cyc.k.toNat c = none) (ho : c.opcode = 0x14) (hk : keyForCommands s ≠ some .maint) :
    presentTests s y m c d = some (stREFUSED, 0x10, 0) := by
  simp [presentTests, h1, firstRefuse, tKey, ho, hk, refuse]

theorem presentTests_hold (h1 : tExpiry s.cyc.k.toNat c = none) (hm : s.mod.st = .hold)
    (ho : c.opcode = 0x01 ∨ c.opcode = 0x03 ∨ c.opcode = 0x07) : presentTests s y m c d = some (stREFUSED, 0x13, 0) := by
  obtain ho | ho | ho := ho <;> simp [presentTests, h1, firstRefuse, tKey, tSwitch, tState, tHold, hm, ho, refuse]

theorem presentTests_locked (h1 : tExpiry s.cyc.k.toNat c = none) (hm : s.mod.st ≠ .hold)
    (ho : c.opcode = 0x01 ∨ c.opcode = 0x02 ∨ c.opcode = 0x03 ∨ c.opcode = 0x07) (ht : tTarget y c = none)
    (ha : areaLocked m c.area = true) : presentTests s y m c d = some (stREFUSED, 0x14, 0) := by
  obtain ho | ho | ho | ho := ho <;>
    simp [presentTests, h1, firstRefuse, tKey, tSwitch, tState, tHold, tLocked, hm, ho, ht, ha, refuse]

/-- ROTATE_NOW passes with its key position, its switch and its mode, for the module as a whole. -/
theorem presentTests_rotate (h1 : tExpiry s.cyc.k.toNat c = none) (ho : c.opcode = 0x13)
    (hk : keyForCommands s = some .run ∨ keyForCommands s = some .maint) (hsw : swOn s 18 = true) (hm : s.cyc.mode = .tooThree)
    (ht : c.target = 0xFFFF) (ha : c.area = 0xFF) : presentTests s y m c d = none := by
  have hkey : tKey s 0x13 = none := by obtain hk | hk := hk <;> simp [tKey, hk]
  simp [presentTests, h1, firstRefuse, hkey, tSwitch, tState, tHold, tTarget, tLocked, tBusy, opTwoStep, hsw, hm, ht, ha, ho]

end

/-- Settles O38: a refusal by `refuseCmd` on what was shown, an acceptance by `carryOut` row by row, the tests by their order. -/
theorem commandsPresented : Obligations.CommandsPresented := by
  unfold Obligations.CommandsPresented
  refine ⟨fun p hp asn s => ⟨fun h => ?_, fun y i e hs hy hf ho he => ⟨fun r hr => ?_, fun hr => ?_⟩⟩, fun s y m c d => ⟨fun h hk => ?_, fun hx => ⟨?_, ?_, ?_, ?_⟩⟩⟩
  · rw [exec_presentation hp, presentCmd_waits h]
  · have hx := exec_presentation hp asn s
    have hk := (presentCmd_kept p.2.1 p.2.2 asn s).frame
    rw [presentCmd_refused hs hy hf ho he hr] at hx hk
    exact ⟨_, hx, (refuseCmd_agr ..).trans (refusedAt_agr ..), fun l hl hn ha => refused_verdicts s y _ _ r hl hn ha,
      refused_offStage s y asn e _ _ r, fun h => refused_snaps s y asn e _ h, hk⟩
  · have hx := exec_presentation hp asn s
    have hk := (presentCmd_kept p.2.1 p.2.2 asn s).frame
    rw [presentCmd_passed hs hy hf ho he hr] at hx hk
    refine ⟨_, hx, passed_agr .., passed_offStage s y asn e _, fun l hl => passed_snaps s y asn e _ hl,
      fun h => program_lane s y asn _ (ho ▸ h), fun h l hl hn ha => runtime_verdicts s y _ (ho ▸ h) hl hn ha,
      fun h l hl => ⟨exchange_verdicts s y asn _ (ho.trans h) hl, ?_⟩, fun h l hl => ?_, fun h l hl => ?_, fun h l hl => ?_, hk⟩
    · rw [carryOut_exchange (ho.trans h)]
      exact shown_log s y asn _ hl
    · rw [carryOut_timeSet (ho.trans h)]
      exact shown_log_done s y asn _ _ hl
    · rw [carryOut_transfer (by rwa [ho])]
      exact shown_log s y asn _ hl
    · rw [carryOut_request (ho ▸ twoStep_of_row p hp h) (he.trans h)]
      exact shown_log_done s y asn _ _ hl
  · exact presentTests_expired y d (tExpiry_due h hk)
  · exact presentTests_key y d (tExpiry_none hx)
  · exact presentTests_hold y d (tExpiry_none hx)
  · exact presentTests_locked y d (tExpiry_none hx)
  · exact presentTests_rotate y d (tExpiry_none hx)

end Sys2Proof.Machine
end

section
/-! SUPPORT. What a decided exclusion leaves as it was (R96, R98): the lanes but for the one it calls, the cycle but for the exclusion. -/

namespace Sys2Proof.Machine

/-- What two records share beside the fields that a mask blanks: any field that the mask leaves. -/
theorem field_of_mask {α β : Type} {mask : α → α} {x y : α} (f : α → β) (h : mask y = mask x) (hf : ∀ x, f (mask x) = f x) :
    f y = f x := by
  rw [← hf y, h, hf x]

/-- A lane but for its self-test and its readiness to rejoin, which a call to rejoin changes (R98). -/
def uncalled (x : LaneSt) : LaneSt := { x with bist := {}, rejoinRdy := false, rotJoin := false }

/-- The cycle but for the exclusions decided in it and the lane called to rejoin (R96, R98). -/
def unexcluded (c : CycleSt) : CycleSt := { c with toExcl := Quad.fill none, rejoiner := none }

theorem abandonSlice_uncalled (x : LaneSt) : uncalled (abandonSlice x) = uncalled x := by
  unfold abandonSlice
  split <;> rfl

theorem callResting_lane (s : State) (m : Lane) : uncalled ((callResting s).lanes.get m) = uncalled (s.lanes.get m) := by
  unfold callResting
  split
  · rfl
  next r _ =>
    have hl : uncalled ((onLane s r fun x =>
        { abandonSlice x with rejoinRdy := !x.bist.running && !x.bist.reinit, rotJoin := false }).lanes.get m) =
        uncalled (s.lanes.get m) := by
      by_cases h : m = r
      · subst h
        rw [onLane_same]
        exact abandonSlice_uncalled _
      · rw [onLane_other _ _ _ _ h]
    dsimp only
    split <;> exact hl

theorem callResting_cyc (s : State) : unexcluded (callResting s).cyc = unexcluded s.cyc := by
  unfold callResting
  split
  · rfl
  · dsimp only
    split <;> rfl

theorem decideExcl_lane (s : State) (l : Lane) (c : ExclCause) (more : List Byte) (m : Lane) :
    uncalled ((decideExcl s l c more).lanes.get m) = uncalled (s.lanes.get m) := by
  unfold decideExcl
  dsimp only
  split
  · rfl
  · split
    · rw [callResting_lane]
      split
      · rfl
      · rw [raiseShared_lanes]
    · split
      · rfl
      · rw [raiseShared_lanes]

theorem decideExcl_cyc (s : State) (l : Lane) (c : ExclCause) (more : List Byte) :
    unexcluded (decideExcl s l c more).cyc = unexcluded s.cyc := by
  unfold decideExcl
  dsimp only
  split
  · rfl
  · split
    · rw [callResting_cyc]
      split
      · rfl
      · rw [raiseShared_cyc]
        rfl
    · split
      · rfl
      · rw [raiseShared_cyc]
        rfl

section
variable {α : Type} (lane : α → Lane) (cause : α → ExclCause) (more : α → List Byte)

/-- However many exclusions are decided, in an order. -/
theorem foldl_decideExcl_lane (os : List α) (s : State) (m : Lane) :
    uncalled ((os.foldl (fun s o => decideExcl s (lane o) (cause o) (more o)) s).lanes.get m) = uncalled (s.lanes.get m) := by
  induction os generalizing s with
  | nil => rfl
  | cons o os ih => exact (ih _).trans (decideExcl_lane ..)

theorem foldl_decideExcl_cyc (os : List α) (s : State) :
    unexcluded (os.foldl (fun s o => decideExcl s (lane o) (cause o) (more o)) s).cyc = unexcluded s.cyc := by
  induction os generalizing s with
  | nil => rfl
  | cons o os ih => exact (ih _).trans (decideExcl_cyc ..)

theorem foldl_decideExcl_kept (os : List α) (s : State) :
    Kept [.cyc, .lanes, .gut] s (os.foldl (fun s o => decideExcl s (lane o) (cause o) (more o)) s) :=
  Kept.foldl (fun s o => decideExcl_kept s (lane o) (cause o) (more o)) os s

end

/-- The lanes that count are told by what a call to rejoin leaves (R25). -/
theorem counted_congr {s t : State} (h : ∀ l, uncalled (t.lanes.get l) = uncalled (s.lanes.get l)) (hm : t.mod = s.mod) :
    counted t = counted s := by
  have hrole (l : Lane) : (t.lanes.get l).role = (s.lanes.get l).role := field_of_mask LaneSt.role (h l) fun _ => rfl
  have hchk (l : Lane) : (t.lanes.get l).checked = (s.lanes.get l).checked := field_of_mask LaneSt.checked (h l) fun _ => rfl
  have hmram (l : Lane) : (t.lanes.get l).mram = (s.lanes.get l).mram := field_of_mask LaneSt.mram (h l) fun _ => rfl
  have hready : readyLane t = readyLane s := by
    funext l
    simp only [readyLane, hrole, hchk, hmram, hm]
  have hv : voting t = voting s := by simp only [voting, lanesIn, lanesWith, hrole]
  have hr : readyLanes t = readyLanes s := by simp only [readyLanes, hready]
  rw [counted, counted, hv, hr]

end Sys2Proof.Machine
end

section
/-! SUPPORT. Input close, input agreement and the arrival of a ballot (R31, R32, R36, R38, R67, R84, R87, R93, R379). -/

namespace Sys2Proof.Machine

/-! ## Input close (R36, R38) -/

theorem lateSection_agr (s : State) (w : RingSlot) :
    (lateSection s w).agr = { s.agr with nodes := (lateSection s w).agr.nodes } := by
  unfold lateSection
  split <;> rfl

theorem foldl_lateSection_kept (ws : List RingSlot) (s : State) : Kept [.agr] s (ws.foldl lateSection s) :=
  Kept.foldl lateSection_kept ws s

theorem foldl_lateSection_agr (ws : List RingSlot) (s : State) :
    (ws.foldl lateSection s).agr = { s.agr with nodes := (ws.foldl lateSection s).agr.nodes } := by
  induction ws generalizing s with
  | nil => rfl
  | cons w ws ih => rw [List.foldl_cons, ih, lateSection_agr]

/-- The state at input close once the late sections are counted, before the lanes empty their queues. -/
def lateCounted (s : State) : State := s.rings.hand.toList.flatten.foldl lateSection (drainSpills (advanceTo s 450000))

theorem lateCounted_kept (s : State) : Kept [.time, .supply, .agr, .gut] s (lateCounted s) :=
  (((advanceTo_kept ..).mono rfl).step (drainSpills_kept _) rfl).step (foldl_lateSection_kept ..) rfl

theorem lateCounted_cyc (s : State) : (lateCounted s).cyc = s.cyc := (lateCounted_kept s).frame.rest .cyc (by decide)

theorem lateCounted_lanes (s : State) : (lateCounted s).lanes = s.lanes := (lateCounted_kept s).frame.rest .lanes (by decide)

theorem lateCounted_agr (s : State) : (lateCounted s).agr = { s.agr with nodes := (lateCounted s).agr.nodes } := by
  have h : (drainSpills (advanceTo s 450000)).agr = s.agr :=
    ((drainSpills_kept _).frame.rest .agr (by decide)).trans (advanceTo_agr ..)
  rw [lateCounted, foldl_lateSection_agr, h]

theorem inputCloseAt_cyc (s : State) : (inputCloseAt s).cyc = { s.cyc with closed := true } :=
  congrArg (fun c : CycleSt => { c with closed := true }) (lateCounted_cyc s)

theorem inputCloseAt_lane (s : State) (l : Lane) : (inputCloseAt s).lanes.get l = drainRings s.cyc.k (s.lanes.get l) :=
  (Quad.get_map ..).trans (congrArg (fun q : Quad LaneSt => drainRings s.cyc.k (q.get l)) (lateCounted_lanes s))

theorem inputCloseAt_agr (s : State) : (inputCloseAt s).agr = { s.agr with nodes := (inputCloseAt s).agr.nodes } :=
  lateCounted_agr s

/-- Every section has left the lane's queues (R38). -/
theorem drainRings_items (k : DWord) (x : LaneSt) (r : Lane) : ((drainRings k x).ringIn.get r).items = [] := by
  simp [drainRings, CQ.drain]

/-- Those of the cycle stand in the image buffers (R32, R38). -/
theorem drainRings_ringBuf {k : DWord} {x : LaneSt} {r : Lane} {w : RingSlot} (hw : w ∈ (x.ringIn.get r).items)
    (hk : ofCycle k w = true) : w ∈ (drainRings k x).ringBuf := by
  have hall : w ∈ x.ringIn.a.items ++ x.ringIn.b.items ++ x.ringIn.c.items ++ x.ringIn.d.items := by
    cases r <;> simp_all [Quad.get]
  exact List.mem_append_right _ (List.mem_filter.mpr ⟨hall, hk⟩)

theorem exec_inputClose {s : State} (hu : hubUp s = true) (hc : s.cyc.closed = false) :
    exec .inputClose s = .next (inputCloseAt s) :=
  congrArg Host.Outcome.next (if_pos (by simp [hu, hc]))

theorem exec_inputClose_again {s : State} (hc : s.cyc.closed = true) : exec .inputClose s = .next s :=
  congrArg Host.Outcome.next (if_neg (by simp [hc]))

/-! ## Input agreement (R31, R84, R87) -/

/-- The point that the cycle has reached: its number, its inputs closed, its inputs agreed. -/
def cyclePoint (s : State) : DWord × Bool × Bool := (s.cyc.k, s.cyc.closed, s.cyc.agreedIn)

theorem cyclePoint_eq {s : State} {k : DWord} {c a : Bool} :
    cyclePoint s = (k, c, a) ↔ s.cyc.k = k ∧ s.cyc.closed = c ∧ s.cyc.agreedIn = a := by
  simp only [cyclePoint, Prod.mk.injEq]

theorem cyclePoint_of_kept {ps : List Part} {s t : State} (h : Kept ps s t) (hc : Part.cyc ∉ ps) : cyclePoint t = cyclePoint s :=
  congrArg (fun c : CycleSt => (c.k, c.closed, c.agreedIn)) (h.frame.rest .cyc hc)

/-- Exclusions decided leave the point of the cycle. -/
theorem cyclePoint_of_unexcluded {s t : State} (h : unexcluded t.cyc = unexcluded s.cyc) : cyclePoint t = cyclePoint s :=
  field_of_mask (fun c : CycleSt => (c.k, c.closed, c.agreedIn)) h fun _ => rfl

theorem agreeImage_cyclePoint (s : State) (y : Yealm) (ls : List Lane) (fetchBad : Quad Bool) (prevT nowT : DWord) :
    cyclePoint (agreeImage s y ls fetchBad prevT nowT) = cyclePoint s := by
  unfold agreeImage
  dsimp only
  rw [cyclePoint_of_kept (missedBatten_kept _) (by decide), cyclePoint_of_kept (agreeEaves_kept ..) (by decide),
    cyclePoint_of_unexcluded (foldl_decideExcl_cyc (fun l => l) (fun _ => .fabric) (fun _ => []) ..),
    cyclePoint_of_kept (agreeRings_kept ..) (by decide), cyclePoint_of_kept (fitNodes_kept ..) (by decide)]
  rfl

theorem releaseAll_cyclePoint (s : State) (y : Yealm) : cyclePoint (releaseAll s y) = cyclePoint s := rfl

theorem barred_cyclePoint (s : State) (ts : List Nat) :
    cyclePoint { s with cyc := { s.cyc with barred := true, released := ts } } = cyclePoint s := rfl

theorem agreeInputs_cyclePoint (ls : List Lane) (fetchBad : Quad Bool) (offer : StationOffer) (s : State) :
    cyclePoint (agreeInputs ls fetchBad offer s) = cyclePoint s := by
  have himg (y : Yealm) (p n : DWord) :
      cyclePoint (agreeImage (stationTime s ls offer) y ls fetchBad p n) = cyclePoint s := by
    rw [agreeImage_cyclePoint, cyclePoint_of_kept (stationTime_kept ..) (by decide)]
  unfold agreeInputs
  dsimp only
  split
  · rfl
  · split
    · rfl
    · split
      · rw [himg]
      · split
        · rw [barred_cyclePoint, himg]
        · rw [releaseAll_cyclePoint, himg]

theorem agreeSilent_lane (noReport : Quad Bool) (s : State) (m : Lane) :
    uncalled ((agreeSilent noReport s).lanes.get m) = uncalled (s.lanes.get m) :=
  foldl_decideExcl_lane (fun l => l) (fun _ => .fabric) (fun _ => []) _ s m

theorem agreeSilent_cyc (noReport : Quad Bool) (s : State) : unexcluded (agreeSilent noReport s).cyc = unexcluded s.cyc :=
  foldl_decideExcl_cyc (fun l => l) (fun _ => .fabric) (fun _ => []) _ s

theorem ctl_of_kept {ps : List Part} {s t : State} (h : Kept ps s t) (hc : Part.ctl ∉ ps) : t.ctl = s.ctl := h.frame.rest .ctl hc

theorem agreeSilent_mod (noReport : Quad Bool) (s : State) : (agreeSilent noReport s).mod = s.mod :=
  (agreeSilent_kept ..).mod_eq (by decide) (by decide)

/-- The state with a cycle whose inputs are closed and agreed. -/
def inputsFixed (c : CycleSt) (s : State) : State := { s with cyc := { c with agreedIn := true, closed := true } }

theorem inputsFixed_lanes (c : CycleSt) (s : State) : (inputsFixed c s).lanes = s.lanes := rfl

theorem inputsFixed_mod (c : CycleSt) (s : State) : (inputsFixed c s).mod = s.mod := rfl

theorem agreeSilent_cyclePoint (noReport : Quad Bool) (s : State) : cyclePoint (agreeSilent noReport s) = cyclePoint s :=
  cyclePoint_of_unexcluded (agreeSilent_cyc ..)

theorem inputsFixed_cyclePoint (c : CycleSt) (s : State) : cyclePoint (inputsFixed c s) = (c.k, true, true) := rfl

theorem inputsFixed_ctl (c : CycleSt) (s : State) : (inputsFixed c s).ctl = s.ctl := rfl

/-- The state in which the reports are counted: silent lanes are to be excluded, the inputs are closed (R84). -/
def reported (noReport : Quad Bool) (s : State) : State := agreeSilent noReport (inputsFixed s.cyc (advanceTo s 600000))

theorem reported_lane (noReport : Quad Bool) (s : State) (l : Lane) :
    uncalled ((reported noReport s).lanes.get l) = uncalled (s.lanes.get l) := by
  rw [reported, agreeSilent_lane, inputsFixed_lanes, advanceTo_lanes]

theorem reported_mod (noReport : Quad Bool) (s : State) : (reported noReport s).mod = s.mod := by
  rw [reported, agreeSilent_mod, inputsFixed_mod, advanceTo_mod]

theorem reported_ctl (noReport : Quad Bool) (s : State) : (reported noReport s).ctl = s.ctl := by
  rw [reported, ctl_of_kept (agreeSilent_kept ..) (by decide), inputsFixed_ctl, advanceTo_ctl]

/-- The lanes whose reports count. -/
theorem counted_reported (noReport : Quad Bool) (s : State) : counted (reported noReport s) = counted s :=
  counted_congr (reported_lane noReport s) (reported_mod noReport s)

theorem reported_point (noReport : Quad Bool) (s : State) : cyclePoint (reported noReport s) = (s.cyc.k, true, true) := by
  rw [reported, agreeSilent_cyclePoint, inputsFixed_cyclePoint]

/-- The lanes whose reports count at input agreement. -/
def reporting (noReport : Quad Bool) (s : State) : List Lane := (counted s).filter fun l => !noReport.get l

/-- The state once the cycle number and the sampled patterns are agreed (R31, R84). -/
def numberAgreed (noReport : Quad Bool) (s : State) : State :=
  ctlAgree (cycleAgree (reported noReport s) (reporting noReport s)) (reporting noReport s)

/-- The inputs and the commands of the cycle are agreed, before the indications take its time. -/
def inputsAgreed (noReport fetchBad : Quad Bool) (offer : StationOffer) (s : State) : State :=
  agreeCommands (clearInputs (agreeInputs (reporting noReport s) fetchBad offer (numberAgreed noReport s)))

/-- The waiting indications take the time of the cycle. -/
def indsStamped (s : State) : State := { s with lanes := s.lanes.map (stampInds (s.cyc.k.setWidth 32)) }

theorem inputAgreementAt_eq (noReport fetchBad : Quad Bool) (offer : StationOffer) (s : State) :
    inputAgreementAt noReport fetchBad offer s = agreeReadback (indsStamped (inputsAgreed noReport fetchBad offer s)) := by
  unfold inputAgreementAt inputsAgreed indsStamped numberAgreed reporting
  rw [← counted_reported noReport s]
  unfold reported inputsFixed
  dsimp only

theorem indsStamped_kept (s : State) : Kept [.lanes] s (indsStamped s) :=
  Kept.upd (Kept.refl _ s) (Or.inr rfl) (Or.inr rfl) (Or.inr rfl) (Or.inr rfl) (Or.inr rfl) (Or.inl (by decide)) (Or.inr rfl)
    (Or.inr rfl) (Or.inr rfl) (Or.inr rfl) (Or.inr rfl) (Or.inr rfl) (Or.inr rfl)

/-- The rest of input agreement leaves the number and the key pattern as they were agreed. -/
theorem inputAgreementAt_point (noReport fetchBad : Quad Bool) (offer : StationOffer) (s : State) :
    cyclePoint (inputAgreementAt noReport fetchBad offer s) = cyclePoint (numberAgreed noReport s) := by
  rw [inputAgreementAt_eq, cyclePoint_of_kept (agreeReadback_kept _) (by decide), cyclePoint_of_kept (indsStamped_kept _) (by decide),
    inputsAgreed, cyclePoint_of_kept (agreeCommands_kept _) (by decide), cyclePoint_of_kept (clearInputs_kept _) (by decide),
    agreeInputs_cyclePoint]

theorem inputAgreementAt_ctl (noReport fetchBad : Quad Bool) (offer : StationOffer) (s : State) :
    (inputAgreementAt noReport fetchBad offer s).ctl = (numberAgreed noReport s).ctl := by
  rw [inputAgreementAt_eq, ctl_of_kept (agreeReadback_kept _) (by decide), ctl_of_kept (indsStamped_kept _) (by decide),
    inputsAgreed, ctl_of_kept (agreeCommands_kept _) (by decide), ctl_of_kept (clearInputs_kept _) (by decide),
    ctl_of_kept (agreeInputs_kept ..) (by decide)]

theorem numberAgreed_point (noReport : Quad Bool) (s : State) : cyclePoint (numberAgreed noReport s) =
    ((agree2 ((reporting noReport s).map fun l => (s.lanes.get l).k)).getD s.cyc.k, true, true) := by
  have hk (l : Lane) : ((reported noReport s).lanes.get l).k = (s.lanes.get l).k :=
    field_of_mask LaneSt.k (reported_lane noReport s l) fun _ => rfl
  obtain ⟨hn, hc, ha⟩ := cyclePoint_eq.mp (reported_point noReport s)
  rw [numberAgreed, cyclePoint_of_kept (ctlAgree_kept ..) (by decide)]
  simp only [cyclePoint, cycleAgree, hk, hn, hc, ha]

/-- The key pattern of a state is the one agreed of the reads of another, or its old one that counts as not agreed (R84, R87, R379). -/
structure KeyAgreed (reads : List (BitVec 6)) (old new : Ctl) : Prop where
  agreed   : new.agreed = (agree2 reads).isSome
  contacts : new.contacts = (agree2 reads).getD old.contacts
  run      : new.keyRun = if keyPattern new.agreed new.contacts = keyPattern old.agreed old.contacts then old.keyRun + 1 else 1

/-- The lanes' reads alone are agreed, whatever else the state holds. -/
theorem ctlAgree_keyAgreed {u s : State} (noReport : Quad Bool) (hlive : ∀ l, (u.lanes.get l).live = (s.lanes.get l).live)
    (hkey : ∀ l, (u.lanes.get l).key = (s.lanes.get l).key) (hctl : u.ctl = s.ctl) :
    KeyAgreed (keyReads noReport s) s.ctl (ctlAgree (cycleAgree u (reporting noReport s)) (reporting noReport s)).ctl := by
  constructor <;> simp [ctlAgree, cycleAgree, keySample, keyReads, reporting, hlive, hkey, hctl]

/-- The pattern that two lanes read alike is taken, or the old one stands and counts as not agreed (R84, R87). -/
theorem numberAgreed_ctl (noReport : Quad Bool) (s : State) :
    KeyAgreed (keyReads noReport s) s.ctl (numberAgreed noReport s).ctl :=
  ctlAgree_keyAgreed noReport (fun l => field_of_mask LaneSt.live (reported_lane noReport s l) fun _ => rfl)
    (fun l => field_of_mask LaneSt.key (reported_lane noReport s l) fun _ => rfl) (reported_ctl noReport s)

theorem exec_inputAgreement {s : State} (hu : hubUp s = true) (ha : s.cyc.agreedIn = false) (noReport fetchBad : Quad Bool)
    (offer : StationOffer) :
    exec (.inputAgreement noReport fetchBad offer) s = .next (inputAgreementAt noReport fetchBad offer s) :=
  congrArg Host.Outcome.next (if_pos (by simp [hu, ha]))

theorem exec_inputAgreement_again {s : State} (ha : s.cyc.agreedIn = true) (noReport fetchBad : Quad Bool) (offer : StationOffer) :
    exec (.inputAgreement noReport fetchBad offer) s = .next s :=
  congrArg Host.Outcome.next (if_neg (by simp [ha]))

/-! ## The arrival of a ballot (R32, R67, R93) -/

theorem exec_ballotArrival {s : State} (hu : hubUp s = true) (ho : s.cyc.opened = true) (src : Lane) (k : DWord) :
    exec (.ballotArrival src k) s = .next (ballotArrivalAt src k s) :=
  congrArg Host.Outcome.next (if_pos (by simp [hu, ho]))

theorem ballotTaken_kept (s : State) (bs : Quad (Option Ballot)) : Kept [.cyc] s { s with cyc := { s.cyc with ballots := bs } } :=
  Kept.upd (Kept.refl _ s) (Or.inr rfl) (Or.inr rfl) (Or.inr rfl) (Or.inr rfl) (Or.inl (by decide)) (Or.inr rfl) (Or.inr rfl)
    (Or.inr rfl) (Or.inr rfl) (Or.inr rfl) (Or.inr rfl) (Or.inr rfl) (Or.inr rfl)

theorem ballotArrivalAt_other {s : State} {k : DWord} (h : k ≠ s.cyc.k) (src : Lane) :
    Kept [.gut] s (ballotArrivalAt src k s) := by
  rw [ballotArrivalAt, if_pos (by simpa using h)]
  exact raiseShared_kept ..

theorem ballotArrivalAt_first {s : State} {src : Lane} {b : Ballot} (hb : (s.lanes.get src).ballot = some b)
    (hv : s.cyc.voted = false) (hm : s.cyc.missed = false) (hn : s.cyc.ballots.get src = none) : ballotArrivalAt src s.cyc.k s =
      flitTaken { s with cyc := { s.cyc with ballots := s.cyc.ballots.set src (some b) } } src .ballot := by
  simp [ballotArrivalAt, hb, hv, hm, hn]

/-- The sender's own buffers are not the ones that the flit leaves (R17). -/
theorem flitTaken_sender (s : State) (src : Lane) (kind : FlitKind) :
    (flitTaken s src kind).lanes.get src = s.lanes.get src := by
  simp [flitTaken]

theorem flitTaken_rest (s : State) (src : Lane) (kind : FlitKind) (l : Lane) :
    { (flitTaken s src kind).lanes.get l with purlin := Quad.fill ⟨[], 0⟩ } = { s.lanes.get l with purlin := Quad.fill ⟨[], 0⟩ } := by
  rw [flitTaken, Quad.get_mapL]
  split <;> rfl

/-- Settles O25: input close by the lanes' queues, input agreement by the number and the pattern agreed, a ballot by its cycle. -/
theorem inputsAndBallotsTaken : Obligations.InputsAndBallotsTaken := by
  unfold Obligations.InputsAndBallotsTaken
  refine ⟨fun s hu => ⟨fun hc => ?_, exec_inputClose_again, fun ha noReport fetchBad offer => ?_, exec_inputAgreement_again⟩,
    fun s src hu ho => ⟨fun b hb hv hm hn => ?_, fun k hk => ?_⟩⟩
  · have hx := exec_inputClose hu hc
    refine ⟨_, hx, inputCloseAt_cyc s, fun l r => ?_, fun l => ?_, fun l => by cases l <;> rfl, inputCloseAt_agr s, exec_frame hx⟩
    · rw [inputCloseAt_lane]
      exact ⟨drainRings_items .., fun w hw hk => drainRings_ringBuf hw hk⟩
    · rw [inputCloseAt_lane]
      rfl
  · have hx := exec_inputAgreement hu ha noReport fetchBad offer
    have hp := (inputAgreementAt_point noReport fetchBad offer s).trans (numberAgreed_point noReport s)
    obtain ⟨hk, hc, ha⟩ := cyclePoint_eq.mp hp
    have hctl := numberAgreed_ctl noReport s
    rw [← inputAgreementAt_ctl noReport fetchBad offer] at hctl
    refine ⟨_, hx, ha, hc, (inputAgreementAt_kept ..).mod_eq (by decide) (by decide), hk, hctl.agreed, fun v hv => ?_, fun hv => ?_,
      hctl.run, exec_frame hx⟩
    · rw [hctl.contacts, hv]
      rfl
    · rw [hctl.contacts, hv]
      rfl
  · have hx := exec_ballotArrival hu ho src s.cyc.k
    rw [ballotArrivalAt_first hb hv hm hn] at hx
    refine ⟨_, hx, Quad.get_set_same .., fun l hl => Quad.get_set_other _ _ _ _ hl, flitTaken_sender .., fun l => flitTaken_rest .., rfl, ?_⟩
    exact (((ballotTaken_kept ..).mono rfl).step (flitTaken_kept ..) rfl).frame
  · exact ⟨_, exec_ballotArrival hu ho src k, (ballotArrivalAt_other hk src).frame⟩

end Sys2Proof.Machine
end

section
/-! SUPPORT. The end of a task, of the evaluation and of both (R42, R43, R51, R57, R125, R340). -/

namespace Sys2Proof.Machine

/-! ## A lane publishes (R42) -/

/-- A lane but for its ballot and the link buffers that its neighbours' flits fill: what publishing changes (R17, R42). -/
def unballoted (x : LaneSt) : LaneSt := { x with ballot := none, purlin := Quad.fill ⟨[], 0⟩ }

theorem publish_unballoted (s : State) (x : LaneSt) : unballoted (publish s x) = unballoted x := by
  unfold publish
  split
  · rfl
  · split <;> rfl

theorem flitSent_lane (s : State) (l : Lane) (kind : FlitKind) (m : Lane) :
    ∃ p, (flitSent s l kind).lanes.get m = { s.lanes.get m with purlin := p } := by
  rw [flitSent, Quad.get_mapL]
  split
  · exact ⟨_, rfl⟩
  · exact ⟨_, rfl⟩

theorem flitSent_unballoted (s : State) (l : Lane) (kind : FlitKind) (m : Lane) :
    unballoted ((flitSent s l kind).lanes.get m) = unballoted (s.lanes.get m) := by
  obtain ⟨p, h⟩ := flitSent_lane s l kind m
  rw [h]
  rfl

theorem published_unballoted (s : State) (l m : Lane) :
    unballoted ((s.lanes.set l (publish s (s.lanes.get l))).get m) = unballoted (s.lanes.get m) := by
  by_cases h : m = l
  · rw [h, Quad.get_set_same, publish_unballoted]
  · rw [Quad.get_set_other _ _ _ _ h]

theorem tryPublish_unballoted (s : State) (l m : Lane) :
    unballoted ((tryPublish s l).lanes.get m) = unballoted (s.lanes.get m) := by
  unfold tryPublish
  dsimp only
  split
  · split
    · rw [flitSent_unballoted]
      exact published_unballoted s l m
    · exact published_unballoted s l m
  · rfl

theorem foldl_tryPublish_unballoted (ls : List Lane) (s : State) (m : Lane) :
    unballoted ((ls.foldl tryPublish s).lanes.get m) = unballoted (s.lanes.get m) := by
  induction ls generalizing s with
  | nil => rfl
  | cons l ls ih => exact (ih _).trans (tryPublish_unballoted s l m)

/-! ## The end of a task (R51, R57) -/

/-- The state once the lanes have ended the task, before their records go out and they publish. -/
def taskEnded (lanes : Quad Bool) (task : Nat) (y : Yealm) (e : TaskEnt) (r : TaskResult) (s : State) : State :=
  onLanes s (taskLanes s lanes task) fun _ x => taskEndLane (atCycle s) y task e (mirroredResult s r) x

/-- What follows the lanes' own end: the records of the task, the alarm of an overrun, the ballots. -/
def taskReported (ls : List Lane) (task us : Nat) (e : TaskEnt) (recs : List GRecIn) (s0 s : State) : State :=
  let s2 := if ls.contains (refLane s0) then programRecs s recs else s
  let s3 := if e.wcetUs < us then ls.foldl (fun s l => raiseLane s l 0x0181 (argInst (arg1 task))) s2 else s2
  ls.foldl tryPublish s3

theorem taskEndAt_eq {lanes : Quad Bool} {task us : Nat} {r : TaskResult} {s : State} {y : Yealm} {e : TaskEnt}
    (hy : theYealm s = some y) (he : taskEnt y task = some e) : taskEndAt lanes task us r s =
      taskReported (taskLanes s lanes task) task us e (mirroredResult s r).recs s (taskEnded lanes task y e r s) := by
  simp only [taskEndAt, hy, he]
  rfl

/-- The state in which the lanes publish after the end of a task: only records have gone out. -/
theorem taskReported_eq (ls : List Lane) (task us : Nat) (e : TaskEnt) (recs : List GRecIn) (s0 s : State) :
    ∃ u, Kept [.gut] s u ∧ taskReported ls task us e recs s0 s = ls.foldl tryPublish u := by
  refine ⟨_, ?_, rfl⟩
  have h2 : Kept [.gut] s (if ls.contains (refLane s0) then programRecs s recs else s) := by
    split
    · exact programRecs_kept ..
    · exact Kept.refl ..
  split
  · exact h2.step (Kept.foldl (fun _ _ => raiseLane_kept ..) ..) rfl
  · exact h2

theorem taskReported_kept (ls : List Lane) (task us : Nat) (e : TaskEnt) (recs : List GRecIn) (s0 s : State) :
    Kept [.lanes, .gut] s (taskReported ls task us e recs s0 s) := by
  obtain ⟨u, hk, h⟩ := taskReported_eq ls task us e recs s0 s
  rw [h]
  exact (hk.mono rfl).step (Kept.foldl tryPublish_kept ..) rfl

theorem taskReported_unballoted (ls : List Lane) (task us : Nat) (e : TaskEnt) (recs : List GRecIn) (s0 s : State) (m : Lane) :
    unballoted ((taskReported ls task us e recs s0 s).lanes.get m) = unballoted (s.lanes.get m) := by
  obtain ⟨u, hk, h⟩ := taskReported_eq ls task us e recs s0 s
  rw [h, foldl_tryPublish_unballoted, hk.frame.rest .lanes (by decide)]

/-- The lanes end the task; what follows leaves the rest of them. -/
theorem taskEndAt_unballoted {lanes : Quad Bool} {task us : Nat} {r : TaskResult} {s : State} {y : Yealm} {e : TaskEnt}
    (hy : theYealm s = some y) (he : taskEnt y task = some e) (m : Lane) :
    unballoted ((taskEndAt lanes task us r s).lanes.get m) = unballoted ((taskEnded lanes task y e r s).lanes.get m) := by
  rw [taskEndAt_eq hy he, taskReported_unballoted]

theorem taskEndAt_frame {lanes : Quad Bool} {task us : Nat} {r : TaskResult} {s : State} {y : Yealm} {e : TaskEnt}
    (hy : theYealm s = some y) (he : taskEnt y task = some e) : Frame [.lanes, .gut] s (taskEndAt lanes task us r s) := by
  rw [taskEndAt_eq hy he]
  exact (((onLanes_kept ..).mono rfl).step (taskReported_kept ..) rfl).frame

/-- A lane at the end of a task, before its indications go out. -/
def taskDone (s : State) (y : Yealm) (task : Nat) (e : TaskEnt) (r : TaskResult) (x : LaneSt) : LaneSt :=
  { x with
    todo := x.todo.drop 1, snaps := x.snaps.filter fun n => n.task != task,
    pubNew := mergePub x.pubNew (r.outs.filter fun o => isOutput y o.ref),
    gmNew := match r.gm with | some g => some g | none => x.gmNew,
    log := x.log ++ (r.writes.filter (writeAllowed y task)).map (storedWrite y s.cyc.k.toNat),
    verdicts := if e.command then r.verdicts.foldl (taskVerdict s x) x.verdicts else x.verdicts }

theorem taskEndLane_noInds (s : State) (y : Yealm) (task : Nat) (e : TaskEnt) (r : TaskResult) (x : LaneSt) :
    noInds (taskEndLane s y task e r x) = noInds (taskDone s y task e r x) :=
  foldl_laneInd_noInds ..

/-- Of a mirrored cycle's task only what would go out is dropped (R340). -/
theorem mirroredResult_outs (s : State) (r : TaskResult) : (mirroredResult s r).outs = r.outs := by
  unfold mirroredResult
  split <;> rfl

theorem mirroredResult_writes (s : State) (r : TaskResult) : (mirroredResult s r).writes = r.writes := by
  unfold mirroredResult
  split <;> rfl

section
variable {lanes : Quad Bool} {task us : Nat} {r : TaskResult} {s : State} {y : Yealm} {e : TaskEnt} {α : Type} {f : LaneSt → α}

/-- What a lane that ends the task holds afterwards, beside its ballot, its link buffers and its indications. -/
theorem taskEndAt_field_in (hy : theYealm s = some y) (he : taskEnt y task = some e) (hu : ∀ x, f (unballoted x) = f x)
    (hn : ∀ x, f (noInds x) = f x) {l : Lane} (hl : l ∈ taskLanes s lanes task) :
    f ((taskEndAt lanes task us r s).lanes.get l) = f (taskDone (atCycle s) y task e (mirroredResult s r) (s.lanes.get l)) := by
  rw [field_of_mask f (taskEndAt_unballoted hy he l) hu, taskEnded, onLanes_in _ _ _ _ hl,
    field_of_mask f (taskEndLane_noInds ..) hn]

theorem taskEndAt_field_out (hy : theYealm s = some y) (he : taskEnt y task = some e) (hu : ∀ x, f (unballoted x) = f x)
    {l : Lane} (hl : l ∉ taskLanes s lanes task) : f ((taskEndAt lanes task us r s).lanes.get l) = f (s.lanes.get l) := by
  rw [field_of_mask f (taskEndAt_unballoted hy he l) hu, taskEnded, onLanes_out _ _ _ _ hl]

end

theorem exec_taskEnd {s : State} (hw : inWindow s = true ∨ inShadow s = true) (lanes : Quad Bool) (task us : Nat) (r : TaskResult) :
    exec (.taskEnd lanes task us r) s = .next (taskEndAt lanes task us r s) :=
  congrArg Host.Outcome.next (if_pos (by simpa using hw))

/-! ## The end of the evaluation (R42, R125) -/

/-- The lanes of a set whose evaluation ends now. -/
def evalLanes (s : State) (lanes : Quad Bool) : List Lane :=
  (working s).filter fun l => lanes.get l && !(s.lanes.get l).truss.done && !(s.lanes.get l).stopped

theorem mem_evalLanes {s : State} {lanes : Quad Bool} {l : Lane} : l ∈ evalLanes s lanes ↔
    l ∈ working s ∧ lanes.get l = true ∧ (s.lanes.get l).truss.done = false ∧ (s.lanes.get l).stopped = false := by
  simp [evalLanes, and_assoc]

theorem trussDoneAt_truss (lanes : Quad Bool) (us : Nat) (s : State) (m : Lane) :
    ((trussDoneAt lanes us s).lanes.get m).truss =
      ((onLanes s (evalLanes s lanes) fun _ x => evalLane (atCycle s) us x).lanes.get m).truss :=
  field_of_mask LaneSt.truss (foldl_tryPublish_unballoted ..) fun _ => rfl

theorem trussDoneAt_frame (lanes : Quad Bool) (us : Nat) (s : State) : Frame [.lanes] s (trussDoneAt lanes us s) :=
  ((onLanes_kept ..).step (Kept.foldl tryPublish_kept ..) rfl).frame

theorem evalLane_truss {x : LaneSt} {y : Yealm} (hy : x.yealm = some y) (s : State) (us : Nat) :
    (evalLane s us x).truss = trussEval (trussIn s y x) := by
  simp [evalLane, hy]

theorem exec_trussEvaluationComplete {s : State} (hw : inWindow s = true ∨ inShadow s = true) (lanes : Quad Bool) (us : Nat) :
    exec (.trussEvaluationComplete lanes us) s = .next (trussDoneAt lanes us s) :=
  congrArg Host.Outcome.next (if_pos (by simpa using hw))

/-! ## The vote deadline (R35, R43) -/

/-- The state at the vote deadline, before the ballots that it makes go out. -/
def deadlineReached (s : State) : State :=
  let s1 := advanceTo s (deadlineNs (periodMs s))
  { s1 with lanes := s1.lanes.map (deadlineLane s1), cyc := { s1.cyc with voting := true } }

theorem deadlineReached_lane (s : State) (l : Lane) :
    (deadlineReached s).lanes.get l = deadlineLane (advanceTo s (deadlineNs (periodMs s))) (s.lanes.get l) := by
  simp only [deadlineReached, Quad.get_map, advanceTo_lanes]

theorem voteDeadlineAt_eq (s : State) :
    ∃ ls : List Lane, voteDeadlineAt s = ls.foldl (fun s l => flitSent s l .ballot) (deadlineReached s) := ⟨_, rfl⟩

theorem foldl_flitSent_lane (ls : List Lane) (kind : FlitKind) (s : State) (m : Lane) :
    ∃ p, (ls.foldl (fun s l => flitSent s l kind) s).lanes.get m = { s.lanes.get m with purlin := p } := by
  induction ls generalizing s with
  | nil => exact ⟨_, rfl⟩
  | cons l ls ih =>
    obtain ⟨p, hp⟩ := flitSent_lane s l kind m
    obtain ⟨q, hq⟩ := ih (flitSent s l kind)
    exact ⟨q, hq.trans (by rw [hp])⟩

theorem voteDeadlineAt_lane (s : State) (l : Lane) : ∃ p, (voteDeadlineAt s).lanes.get l =
    { deadlineLane (advanceTo s (deadlineNs (periodMs s))) (s.lanes.get l) with purlin := p } := by
  obtain ⟨ls, h⟩ := voteDeadlineAt_eq s
  rw [h, ← deadlineReached_lane]
  exact foldl_flitSent_lane ..

theorem voteDeadlineAt_cyc (s : State) : (voteDeadlineAt s).cyc = { s.cyc with voting := true } := by
  obtain ⟨ls, h⟩ := voteDeadlineAt_eq s
  rw [h, (Kept.foldl (fun s l => flitSent_kept s l .ballot) ls _).frame.rest .cyc (by decide)]
  simp only [deadlineReached, advanceTo_cyc]

/-- An evaluation that has not ended counts as late; the permits it gave stand (R43). -/
theorem deadlineLane_truss {x : LaneSt} (hx : (x.role == .voting || x.role == .shadow) = true) (s : State) :
    (deadlineLane s x).truss = { x.truss with late := x.truss.late || !x.truss.done } := by
  have hpub (u : LaneSt) : (publish s u).truss = u.truss := field_of_mask LaneSt.truss (publish_unballoted s u) fun _ => rfl
  unfold deadlineLane
  rw [if_pos hx]
  dsimp only
  rw [apply_ite LaneSt.truss, hpub, ite_self]
  by_cases hd : x.truss.done = true
  · have hlate : (x.truss.late || !x.truss.done) = x.truss.late := by simp [hd]
    rw [if_pos hd, hlate]
  · simp [hd]

/-- A lane with a task still to end forms no ballot (R42). -/
theorem deadlineLane_ballot {x : LaneSt} (hx : x.todo ≠ []) (s : State) : (deadlineLane s x).ballot = x.ballot := by
  unfold deadlineLane
  split
  · by_cases hd : x.truss.done <;> simp [hd, hx]
  · rfl

theorem exec_voteDeadline {s : State} (hw : inWindow s = true) : exec .voteDeadline s = .next (voteDeadlineAt s) :=
  congrArg Host.Outcome.next (if_pos hw)

/-- Settles O26: a task ends in its lanes alone (what its writes store is the model's choice, log entry 88), an evaluation gives the
permits, the deadline marks the late ones. -/
theorem tasksAndEvaluationEnd : Obligations.TasksAndEvaluationEnd := by
  unfold Obligations.TasksAndEvaluationEnd
  refine fun s lanes hw => ⟨fun y task e us r hy he => ?_, fun us => ?_, fun hin => ?_⟩
  · refine ⟨_, exec_taskEnd hw lanes task us r, fun l hl => ?_, fun l hl => ?_, taskEndAt_frame hy he⟩
    · rw [taskEndAt_field_in (f := LaneSt.todo) hy he (fun _ => rfl) (fun _ => rfl) hl,
        taskEndAt_field_in (f := LaneSt.pubNew) hy he (fun _ => rfl) (fun _ => rfl) hl,
        taskEndAt_field_in (f := LaneSt.log) hy he (fun _ => rfl) (fun _ => rfl) hl,
        taskEndAt_field_in (f := LaneSt.region) hy he (fun _ => rfl) (fun _ => rfl) hl,
        taskEndAt_field_in (f := LaneSt.drive) hy he (fun _ => rfl) (fun _ => rfl) hl]
      simp [taskDone, mirroredResult_outs, mirroredResult_writes]
    · exact ⟨taskEndAt_field_out (f := LaneSt.todo) hy he (fun _ => rfl) hl,
        taskEndAt_field_out (f := LaneSt.pubNew) hy he (fun _ => rfl) hl,
        taskEndAt_field_out (f := LaneSt.log) hy he (fun _ => rfl) hl,
        taskEndAt_field_out (f := LaneSt.region) hy he (fun _ => rfl) hl⟩
  · refine ⟨_, exec_trussEvaluationComplete hw lanes us, fun l y hl hs hd hp hy => ?_, fun l hl => ?_, trussDoneAt_frame ..⟩
    · rw [trussDoneAt_truss, onLanes_in _ _ _ _ (mem_evalLanes.mpr ⟨hl, hs, hd, hp⟩), evalLane_truss hy]
    · rw [trussDoneAt_truss, onLanes_out _ _ _ _ fun h => hl (mem_evalLanes.mp h).1]
  · have hx := exec_voteDeadline hin
    refine ⟨_, hx, voteDeadlineAt_cyc s, fun l hl => ?_, exec_frame hx⟩
    obtain ⟨p, hp⟩ := voteDeadlineAt_lane s l
    have ht := deadlineLane_truss (List.mem_filter.mp hl).2 (advanceTo s (deadlineNs (periodMs s)))
    rw [hp]
    dsimp only
    rw [ht]
    exact ⟨rfl, rfl, fun hn => deadlineLane_ballot hn _⟩

end Sys2Proof.Machine
end

section
/-! SUPPORT. How a vote ends (R67 to R72, R93): what of the cycle's record each step after it leaves, and what a missed cycle leaves
of a lane. -/

namespace Sys2Proof.Machine

/-! ## The record of the vote -/

/-- The vote's own part of the cycle: its number and how its vote ended, the misses in a row, the SAFE STOP decided. -/
structure VoteRec where
  k         : DWord
  voted     : Bool
  missed    : Bool
  misses    : Nat
  majDigest : DWord
  summary   : DWord
  stopNext  : Bool

/-- That part of a cycle. -/
def voteRec (c : CycleSt) : VoteRec := ⟨c.k, c.voted, c.missed, c.misses, c.majDigest, c.summary, c.stopNext⟩

theorem voteRec_of_kept {ps : List Part} {s t : State} (h : Kept ps s t) (hc : Part.cyc ∉ ps) : voteRec t.cyc = voteRec s.cyc :=
  congrArg voteRec (h.frame.rest .cyc hc)

theorem voteRec_of_unexcluded {c d : CycleSt} (h : unexcluded d = unexcluded c) : voteRec d = voteRec c :=
  field_of_mask voteRec h fun _ => rfl

theorem voteRec_foldl {α : Type} {f : State → α → State} (h : ∀ s x, voteRec (f s x).cyc = voteRec s.cyc) (xs : List α) (s : State) :
    voteRec (xs.foldl f s).cyc = voteRec s.cyc := by
  induction xs generalizing s with
  | nil => rfl
  | cons x xs ih => exact (ih _).trans (h s x)

/-! ## A completed cycle (R44, R93) -/

theorem trussRecords_voteRec (s : State) (y : Yealm) (disc : List Disc) : voteRec (trussRecords s y disc).cyc = voteRec s.cyc := by
  change voteRec (List.foldl _ (List.foldl _ s _) _).cyc = _
  rw [voteRec_foldl fun _ _ => voteRec_of_kept (raiseShared_kept ..) (by decide),
    voteRec_foldl fun _ _ => voteRec_of_kept (raiseShared_kept ..) (by decide)]

theorem commitEffect_voteRec (m : Mem) (vs : List Verdict) (s : State) (c : CmdEnt) :
    voteRec (commitEffect m vs s c).cyc = voteRec s.cyc := by
  unfold commitEffect
  split
  · split
    · split
      · exact voteRec_of_kept (takeTime_kept ..) (by decide)
      · split
        · rfl
        · split <;> rfl
    · split <;> rfl
  · split <;> rfl

theorem commitEffects_voteRec (s : State) (x : LaneSt) : voteRec (commitEffects s x).cyc = voteRec s.cyc := by
  unfold commitEffects
  exact voteRec_foldl (fun t (c : Nat × CmdEnt) => commitEffect_voteRec _ _ t c.2) _ s

/-- The state at the commit, the discrepancies of the cycle reported. -/
def disagreed (s : State) (maj : Majority) : State :=
  match (voters s).find? fun l => match (s.lanes.get l).ballot with | some b => b.summary == maj.summary | none => false with
  | none => s
  | some l =>
    match (s.lanes.get l).yealm with
    | some y => trussRecords s y (laneDisc s y (s.lanes.get l))
    | none => s

/-- The lanes have committed and the commands of the cycle taken effect. -/
def committed (s : State) (maj : Majority) : State :=
  onLanes (match (committers s).head? with | some l => commitEffects (disagreed s maj) (s.lanes.get l) | none => disagreed s maj)
    (committers s) fun _ x => commitLane (disagreed s maj) maj x

/-- The snapshots due have begun. -/
def snapped (s : State) (maj : Majority) : State :=
  if snapDueNow (committed s maj) then (committers s).foldl snapStart (committed s maj)
  else ((committers s).filter fun l =>
    (s.lanes.get l).role == .shadow && (s.lanes.get l).shadowOk == 0 && s.mod.boot.b.isNone).foldl snapStart (committed s maj)

/-- The commit enters the majority; the cycle is voted, the run of misses ended (R44, R67, R93). -/
theorem completeCycle_voteRec (s : State) (maj : Majority) : voteRec (completeCycle s maj).cyc =
    { voteRec s.cyc with voted := true, misses := 0, majDigest := maj.digest, summary := maj.summary } := by
  have h1 : voteRec (disagreed s maj).cyc = voteRec s.cyc := by
    unfold disagreed
    split
    · rfl
    · split
      · exact trussRecords_voteRec ..
      · rfl
  have h2 : voteRec (committed s maj).cyc = voteRec s.cyc := by
    refine (voteRec_of_kept (onLanes_kept ..) (by decide)).trans ?_
    split
    · rw [commitEffects_voteRec, h1]
    · exact h1
  have h3 : voteRec (snapped s maj).cyc = voteRec s.cyc := by
    unfold snapped
    split
    · rw [voteRec_foldl fun _ _ => voteRec_of_kept (snapStart_kept ..) (by decide), h2]
    · rw [voteRec_foldl fun _ _ => voteRec_of_kept (snapStart_kept ..) (by decide), h2]
  rw [← h3]
  rfl

theorem shadowLane_voteRec (maj : Majority) (s : State) (l : Lane) : voteRec (shadowLane maj s l).cyc = voteRec s.cyc := by
  unfold shadowLane
  split
  · rfl
  · split
    · exact voteRec_of_unexcluded (decideExcl_cyc ..)
    · dsimp only
      split <;> rfl

theorem pickRejoin_voteRec (s : State) : voteRec (pickRejoin s).cyc = voteRec s.cyc := by
  unfold pickRejoin
  split
  · rfl
  · split
    · rfl
    · split
      · exact voteRec_of_unexcluded (callResting_cyc _)
      · split <;> rfl

theorem startCopy_voteRec (s : State) : voteRec (startCopy s).cyc = voteRec s.cyc := by
  unfold startCopy
  split
  · rfl
  · dsimp only
    split <;> rfl

theorem afterCommit_voteRec (s : State) (maj : Majority) : voteRec (afterCommit s maj).cyc = voteRec s.cyc := by
  have h1 : voteRec (if s.mod.boot.b.isSome then s else (lanesIn s.lanes .shadow).foldl (shadowLane maj) s).cyc = voteRec s.cyc := by
    split
    · rfl
    · exact voteRec_foldl (shadowLane_voteRec maj) _ s
  have h2 (r : State) : voteRec (if r.mod.st.runs then startCopy (pickRejoin r) else r).cyc = voteRec r.cyc := by
    split
    · rw [startCopy_voteRec, pickRejoin_voteRec]
    · rfl
  have h3 (b : Bool) (r : State) : voteRec (if b then deferExchange r else r).cyc = voteRec r.cyc := by
    split
    · exact voteRec_of_kept (deferExchange_kept _) (by decide)
    · rfl
  rw [afterCommit]
  rw [voteRec_of_kept (refreshLanes_kept _) (by decide), voteRec_of_kept (mirrorCycle_kept _) (by decide), h3, h2, h1]

/-! ## A missed cycle (R70 to R75) -/

/-- What a lane holds of the region and has yet to commit to it. -/
def regionPart (x : LaneSt) : Mem × DWord × List RWrite := (x.region, x.digest, x.log)

theorem queueGroup_regionPart (g : JGroup) (x : LaneSt) : regionPart (queueGroup g x) = regionPart x := by
  unfold queueGroup
  split <;> rfl

/-- A missed cycle leaves the region as it was committed last and drops what was to be committed (R70). -/
theorem missLane_regionPart (s : State) (n : Nat) (x : LaneSt) : regionPart (missLane s n x) = (x.region, x.digest, []) := by
  unfold missLane
  dsimp only
  rw [queueGroup_regionPart]
  split <;> rfl

theorem workWrite_regionPart (f : Mem → Mem) (x : LaneSt) : regionPart (workWrite { x with mapped := none } f) = regionPart x := rfl

theorem deferExchange_regionPart (s : State) (l : Lane) :
    regionPart ((deferExchange s).lanes.get l) = regionPart (s.lanes.get l) := by
  unfold deferExchange
  dsimp only
  rw [field_of_mask regionPart (indicate_lane ..) fun _ => rfl]
  dsimp only
  by_cases h : l ∈ working s
  · rw [onLanes_in _ _ _ _ h, workWrite_regionPart]
  · rw [onLanes_out _ _ _ _ h]

theorem enterSafeStop_regionPart (s : State) (l : Lane) :
    regionPart ((enterSafeStop s).lanes.get l) = regionPart (s.lanes.get l) := by
  rw [field_of_mask regionPart (enterSafeStop_lane s l) fun _ => rfl]
  rfl

/-- The missed cycle entered in the lanes and in the record of the vote. -/
def missEntered (s : State) (stop : Bool) : State :=
  let s1 := onLanes s (working s) fun _ x => missLane s (s.cyc.misses + 1) x
  { s1 with cyc := { s1.cyc with missed := true, voting := true, misses := s.cyc.misses + 1, abandoned := s1.cyc.released,
                                 stopNext := s1.cyc.stopNext || (stop && s1.mod.st.runs) },
            mod := { s1.mod with boot := { s1.mod.boot with
              matched := if s1.mod.boot.b.isSome then Quad.fill false else s1.mod.boot.matched } } }

/-- And an exchange due put off, the mirror told. -/
def missMirrored (s : State) (stop : Bool) : State :=
  mirrorCycle (if exchDueNext (missEntered s stop) && (missEntered s stop).mod.st.runs then deferExchange (missEntered s stop)
    else missEntered s stop)

theorem missCycle_eq (s : State) (stop : Bool) : missCycle s stop =
    if !(missMirrored s stop).mod.st.runs then missMirrored s stop
    else if s.cyc.misses + 1 < 3 then raiseShared (missMirrored s stop) 0x0102 []
    else enterSafeStop (raiseShared (missMirrored s stop) 0x0103 []) := rfl

theorem missMirrored_kept (s : State) (stop : Bool) : Kept [.module, .lanes, .rings, .peer] (missEntered s stop) (missMirrored s stop) := by
  refine Kept.step ?_ (mirrorCycle_kept _) rfl
  split
  · exact (deferExchange_kept _).mono rfl
  · exact Kept.refl ..

theorem missMirrored_st (s : State) (stop : Bool) : (missMirrored s stop).mod.st = s.mod.st :=
  (missMirrored_kept s stop).frame.rest .mode (by decide)

theorem missMirrored_voteRec (s : State) (stop : Bool) : voteRec (missMirrored s stop).cyc =
    { voteRec s.cyc with missed := true, misses := s.cyc.misses + 1, stopNext := s.cyc.stopNext || (stop && s.mod.st.runs) } :=
  voteRec_of_kept (missMirrored_kept s stop) (by decide)

theorem missMirrored_regionPart (s : State) (stop : Bool) {l : Lane} (h : l ∈ working s) :
    regionPart ((missMirrored s stop).lanes.get l) = ((s.lanes.get l).region, (s.lanes.get l).digest, []) := by
  have he : regionPart ((missEntered s stop).lanes.get l) = ((s.lanes.get l).region, (s.lanes.get l).digest, []) := by
    rw [← missLane_regionPart s (s.cyc.misses + 1), ← onLanes_in s (working s) (fun _ x => missLane s (s.cyc.misses + 1) x) l h]
    rfl
  rw [missMirrored, (mirrorCycle_kept _).frame.rest .lanes (by decide), ← he]
  split
  · exact deferExchange_regionPart ..
  · rfl

theorem enterSafeStop_voteRec (s : State) : voteRec (enterSafeStop s).cyc = { voteRec s.cyc with stopNext := false } :=
  congrArg voteRec ((setState_kept _ .safeStop fun _ => rfl).frame.rest .cyc (by decide))

/-- A missed cycle is counted; the digest last voted stands (R70, R71). -/
theorem missCycle_voteRec (s : State) (stop : Bool) : ∃ b, voteRec (missCycle s stop).cyc =
    { voteRec s.cyc with missed := true, misses := s.cyc.misses + 1, stopNext := b } := by
  rw [missCycle_eq]
  split
  · exact ⟨_, missMirrored_voteRec s stop⟩
  · split
    · rw [raiseShared_cyc]
      exact ⟨_, missMirrored_voteRec s stop⟩
    · rw [enterSafeStop_voteRec, raiseShared_cyc, missMirrored_voteRec]
      exact ⟨_, rfl⟩

theorem missCycle_regionPart (s : State) (stop : Bool) {l : Lane} (h : l ∈ working s) :
    regionPart ((missCycle s stop).lanes.get l) = ((s.lanes.get l).region, (s.lanes.get l).digest, []) := by
  rw [← missMirrored_regionPart s stop h, missCycle_eq]
  split
  · rfl
  · split
    · rw [raiseShared_lanes]
    · rw [enterSafeStop_regionPart, raiseShared_lanes]

/-- Up to the second miss in a row the vital cycle goes on (R71, R72). -/
theorem missCycle_early {s : State} (hr : s.mod.st.runs = true) (hn : s.cyc.misses < 2) (stop : Bool) :
    (missCycle s stop).mod.st = s.mod.st ∧ (missCycle s stop).cyc.stopNext = (s.cyc.stopNext || stop) := by
  have hst := missMirrored_st s stop
  have hv := congrArg VoteRec.stopNext (missMirrored_voteRec s stop)
  have hlt : s.cyc.misses + 1 < 3 := by omega
  rw [missCycle_eq, if_neg (by simp [hst, hr]), if_pos hlt, raiseShared_mod, raiseShared_cyc]
  refine ⟨hst, hv.trans ?_⟩
  simp [hr]

/-- The third miss in a row is SAFE STOP at once (R72; log entry 52). -/
theorem missCycle_third {s : State} (hr : s.mod.st.runs = true) (hn : 2 ≤ s.cyc.misses) (stop : Bool) :
    (missCycle s stop).mod.st = .safeStop := by
  have hge : ¬ s.cyc.misses + 1 < 3 := by omega
  rw [missCycle_eq, if_neg (by simp [missMirrored_st, hr]), if_neg hge, enterSafeStop_st]

/-! ## The vote (R93) -/

theorem takeVote_congr {s t : State} (hl : t.lanes = s.lanes) (hc : t.cyc = s.cyc) (hm : t.mod = s.mod) : takeVote t = takeVote s := by
  have hv : voters t = voters s := by rw [voters, voters, voting, voting, hl, hm]
  have hp : publishers t = publishers s := by rw [publishers, publishers, hv, hc]
  have hs : silentVoters t = silentVoters s := by rw [silentVoters, silentVoters, hv, hl, hc]
  rw [takeVote, takeVote, hv, hp, hs]

/-- A lane that the vote finds at fault, its cause and what the alarm names beside it. -/
abbrev AtFault := Lane × ExclCause × List Byte

/-- The state in which a vote that missed ends: the lanes that it found at fault are to be excluded. -/
def faulted (s : State) (out : List AtFault) : State :=
  out.foldl (fun s o => decideExcl s o.1 o.2.1 o.2.2) s

theorem faulted_kept (s : State) (out : List AtFault) : Kept [.cyc, .lanes, .gut] s (faulted s out) :=
  foldl_decideExcl_kept (fun o : AtFault => o.1) (fun o => o.2.1) (fun o => o.2.2) out s

theorem faulted_voteRec (s : State) (out : List AtFault) : voteRec (faulted s out).cyc = voteRec s.cyc :=
  voteRec_of_unexcluded (foldl_decideExcl_cyc (fun o : AtFault => o.1) (fun o => o.2.1) (fun o => o.2.2) out s)

theorem faulted_lane (s : State) (out : List AtFault) (l : Lane) :
    uncalled ((faulted s out).lanes.get l) = uncalled (s.lanes.get l) :=
  foldl_decideExcl_lane (fun o : AtFault => o.1) (fun o => o.2.1) (fun o => o.2.2) out s l

theorem faulted_working (s : State) (out : List AtFault) : working (faulted s out) = working s :=
  working_congr fun l => field_of_mask LaneSt.role (faulted_lane s out l) fun _ => rfl

theorem endVote_completed {s : State} {maj : Majority} {out : List AtFault} (h : takeVote s = .completed maj out) :
    endVote s = afterCommit (completeCycle (faulted (bootMatch s out) out) maj) maj := by
  rw [endVote, h]
  rfl

theorem endVote_missed {s : State} {stop : Bool} {out : List AtFault} (h : takeVote s = .missed stop out) :
    endVote s = missCycle (faulted s out) stop := by
  rw [endVote, h]
  rfl

theorem endVote_completed_voteRec {s : State} {maj : Majority} {out : List AtFault}
    (h : takeVote s = .completed maj out) : voteRec (endVote s).cyc =
      { voteRec s.cyc with voted := true, misses := 0, majDigest := maj.digest, summary := maj.summary } := by
  rw [endVote_completed h, afterCommit_voteRec, completeCycle_voteRec, faulted_voteRec,
    voteRec_of_kept (bootMatch_kept ..) (by decide)]

theorem endVote_completed_st {s : State} {maj : Majority} {out : List AtFault}
    (h : takeVote s = .completed maj out) : (endVote s).mod.st = s.mod.st := by
  rw [endVote_completed h, (afterCommit_kept ..).frame.rest .mode (by decide), (completeCycle_kept ..).frame.rest .mode (by decide),
    (faulted_kept ..).frame.rest .mode (by decide), (bootMatch_kept ..).frame.rest .mode (by decide)]

/-- The two commands that end a vote: the same vote of the same cycle; the limit takes back a withholding that has had its effect. -/
theorem exec_voteEnd {s : State} (ho : voteOpen s = true) (hb : s.cyc.barred = false) {c : Instr}
    (hc : (c = .ridgeVote ∧ allArrived s = true) ∨ c = .voteCompleteLimit) :
    ∃ u t : State, exec c s = .next t ∧ (u.lanes = s.lanes ∧ u.cyc = s.cyc ∧ u.mod = s.mod) ∧ t.cyc = (endVote u).cyc ∧
      t.mod = (endVote u).mod ∧ ∀ l, regionPart (t.lanes.get l) = regionPart ((endVote u).lanes.get l) := by
  obtain ⟨rfl, ha⟩ | rfl := hc
  · exact ⟨s, _, congrArg Host.Outcome.next (if_pos (by simp [ho, hb, ha])), ⟨rfl, rfl, rfl⟩, rfl, rfl, fun _ => rfl⟩
  · have hx : exec .voteCompleteLimit s = .next (voteLimitAt s) := congrArg Host.Outcome.next (if_pos ho)
    have hn : ¬ (advanceTo s (voteLimitNs (periodMs s))).cyc.barred = true := by simp [hb]
    refine ⟨advanceTo s (voteLimitNs (periodMs s)), _, hx, ⟨advanceTo_lanes .., advanceTo_cyc .., advanceTo_mod ..⟩, ?_, ?_, fun l => ?_⟩
    · rw [voteLimitAt, if_neg hn]
    · rw [voteLimitAt, if_neg hn]
    · rw [voteLimitAt, if_neg hn]
      dsimp only
      rw [Quad.get_mapL]
      rfl

/-- Settles O28: the vote's end is read from the record of the vote and from what a missed cycle leaves of the lanes. -/
theorem voteEnds : Obligations.VoteEnds := by
  unfold Obligations.VoteEnds
  intro s ho hb c hc
  obtain ⟨u, t, hx, ⟨hl, hcy, hm⟩, htc, htm, htl⟩ := exec_voteEnd ho hb hc
  have hvote : takeVote u = takeVote s := takeVote_congr hl hcy hm
  have hopen : s.cyc.voted = false ∧ s.cyc.missed = false := by
    simp only [voteOpen, Bool.and_eq_true, Bool.not_eq_true'] at ho
    exact ⟨ho.1.1.2, ho.1.2⟩
  refine ⟨fun maj out h => ⟨t, hx, ?_⟩, fun stop out h => ⟨t, hx, ?_⟩⟩
  · have hr := endVote_completed_voteRec (hvote.trans h)
    have hst := endVote_completed_st (hvote.trans h)
    rw [← htc, hcy] at hr
    rw [← htm, hm] at hst
    exact ⟨congrArg VoteRec.voted hr, (congrArg VoteRec.missed hr).trans hopen.2, congrArg VoteRec.misses hr,
      congrArg VoteRec.majDigest hr, congrArg VoteRec.summary hr, congrArg VoteRec.k hr, hst⟩
  · have he := endVote_missed (hvote.trans h)
    rw [he] at htc htm htl
    have hrec := (faulted_voteRec u out).trans (congrArg voteRec hcy)
    have hmod := ((faulted_kept u out).mod_eq (by decide) (by decide)).trans hm
    have hmiss : (faulted u out).cyc.misses = s.cyc.misses := congrArg VoteRec.misses hrec
    obtain ⟨b, hr⟩ := missCycle_voteRec (faulted u out) stop
    rw [← htc, hrec, hmiss] at hr
    refine ⟨(congrArg VoteRec.voted hr).trans hopen.1, congrArg VoteRec.missed hr, congrArg VoteRec.misses hr,
      congrArg VoteRec.majDigest hr, congrArg VoteRec.k hr, fun l hw => ?_, fun hruns hn => ?_, fun hruns hn => ?_⟩
    · have hwork : l ∈ working (faulted u out) := by
        rw [faulted_working, working_congr (s := s) fun l => by rw [hl]]
        exact hw
      have hlane : uncalled ((faulted u out).lanes.get l) = uncalled (s.lanes.get l) := by rw [faulted_lane, hl]
      have hp := (htl l).trans (missCycle_regionPart (faulted u out) stop hwork)
      rw [field_of_mask LaneSt.region hlane fun _ => rfl, field_of_mask LaneSt.digest hlane fun _ => rfl] at hp
      simpa only [regionPart, Prod.mk.injEq] using hp
    · have hearly := missCycle_early (s := faulted u out) (by rw [hmod]; exact hruns) (by rw [hmiss]; exact hn) stop
      have hstop : (faulted u out).cyc.stopNext = s.cyc.stopNext := congrArg VoteRec.stopNext hrec
      rwa [← htm, ← htc, hmod, hstop] at hearly
    · rw [htm]
      exact missCycle_third (by rw [hmod]; exact hruns) (by rw [hmiss]; exact hn) stop

end Sys2Proof.Machine
end

section
/-! SUPPORT. The common instant: what each of its steps leaves of the cycle's number, of Ck, of what was shown, of a SAFE STOP decided
(R29 to R31). -/

namespace Sys2Proof.Machine

/-! ## What a step of the instant leaves -/

/-- What the opening of a cycle is told by: number, Ck, the commands shown, a SAFE STOP decided, the exclusions decided. -/
structure InstantRec where
  k        : DWord
  ckNs     : DWord
  shown    : List DWord
  stopNext : Bool
  toExcl   : Quad (Option ExclCause)

/-- That of a state. -/
def instantRec (s : State) : InstantRec := ⟨s.cyc.k, s.time.ckNs, s.agr.shown, s.cyc.stopNext, s.cyc.toExcl⟩

/-- But for the exclusions, which the end of a cycle still decides. -/
def InstantRec.excluding (r : InstantRec) : InstantRec := { r with toExcl := Quad.fill none }

/-- But for the SAFE STOP decided, which entering SAFE STOP takes up. -/
def InstantRec.stopping (r : InstantRec) : InstantRec := { r with stopNext := false }

theorem instantRec_of_kept {ps : List Part} {s t : State} (h : Kept ps s t) (ht : Part.time ∉ ps) (hc : Part.cyc ∉ ps)
    (ha : Part.agr ∉ ps) : instantRec t = instantRec s := by
  have htime : t.time = s.time := h.frame.rest .time ht
  have hcyc : t.cyc = s.cyc := h.frame.rest .cyc hc
  have hagr : t.agr = s.agr := h.frame.rest .agr ha
  rw [instantRec, htime, hcyc, hagr]
  rfl

theorem stopNext_of_instantRec {s : State} {r : InstantRec} (h : instantRec s = r) : s.cyc.stopNext = r.stopNext :=
  congrArg InstantRec.stopNext h

theorem raiseShared_instantRec (s : State) (code : Nat) (args : List Byte) : instantRec (raiseShared s code args) = instantRec s :=
  instantRec_of_kept (raiseShared_kept ..) (by decide) (by decide) (by decide)

theorem raiseHub_instantRec (s : State) (code : Nat) (args : List Byte) : instantRec (raiseHub s code args) = instantRec s :=
  instantRec_of_kept (raiseHub_kept ..) (by decide) (by decide) (by decide)

theorem instantRec_foldl {α : Type} {f : State → α → State} (h : ∀ s x, instantRec (f s x) = instantRec s) (xs : List α) (s : State) :
    instantRec (xs.foldl f s) = instantRec s := by
  induction xs generalizing s with
  | nil => rfl
  | cons x xs ih => exact (ih _).trans (h s x)

theorem setState_instantRec (s : State) (st : ModState) : instantRec (setState s st) = instantRec s := by
  by_cases h : s.mod.st = st
  · rw [← h, setState_self]
  · rw [setState_of_ne h, instantRec_of_kept (reportState_kept _) (by decide) (by decide) (by decide),
      instantRec_of_kept (signalState_kept _) (by decide) (by decide) (by decide)]
    rfl

/-! ## The end of a cycle (R20, R32, R64, R79, R251) -/

theorem decideExcl_instantRec (s : State) (l : Lane) (c : ExclCause) (more : List Byte) :
    (instantRec (decideExcl s l c more)).excluding = (instantRec s).excluding := by
  have hcyc := decideExcl_cyc s l c more
  have htime : (decideExcl s l c more).time = s.time := (decideExcl_kept ..).frame.rest .time (by decide)
  have hagr : (decideExcl s l c more).agr = s.agr := (decideExcl_kept ..).frame.rest .agr (by decide)
  have hk : (decideExcl s l c more).cyc.k = s.cyc.k := field_of_mask CycleSt.k hcyc fun _ => rfl
  have hs : (decideExcl s l c more).cyc.stopNext = s.cyc.stopNext := field_of_mask CycleSt.stopNext hcyc fun _ => rfl
  simp only [instantRec, InstantRec.excluding, hk, hs, htime, hagr]

theorem foldl_decideExcl_instantRec (ls : List Lane) (c : ExclCause) (s : State) :
    (instantRec (ls.foldl (fun s l => decideExcl s l c []) s)).excluding = (instantRec s).excluding := by
  induction ls generalizing s with
  | nil => rfl
  | cons l ls ih => exact (ih _).trans (decideExcl_instantRec ..)

/-- The spills of the cycle are reported, the lanes that a Purlin buffer spills of are to be excluded (R23, R64). -/
def spilled (s0 : State) : State :=
  let s := reportAll s0
  let sp := spills s
  let s1 := sp.foldl (fun s x => raiseHub s 0x0101 (argInst (arg1 x.1 ++ arg1 x.2.1) ++ arg2 x.2.2)) s
  (Lane.all.filter fun src => !s.cyc.missed && sp.any fun x => x.1 == 2 && x.2.1 % 4 == src.num && (s.lanes.get src).role == .voting).foldl
    (fun s l => decideExcl s l .fabric []) s1

theorem boundary_eq (s : State) : instantRec (boundary s) = instantRec (spilled s) := rfl

theorem boundary_instantRec (s : State) : (instantRec (boundary s)).excluding = (instantRec s).excluding := by
  rw [boundary_eq, spilled, foldl_decideExcl_instantRec,
    instantRec_foldl fun _ _ => raiseHub_instantRec ..,
    instantRec_of_kept (reportAll_kept _) (by decide) (by decide) (by decide)]

theorem battenMisses_instantRec (s : State) : (instantRec (battenMisses s)).excluding = (instantRec s).excluding := by
  unfold battenMisses
  dsimp only
  split
  · rfl
  · split
    · split
      · rfl
      · exact congrArg InstantRec.excluding (raiseShared_instantRec ..)
    · exact foldl_decideExcl_instantRec ..

theorem stoppedLanes_instantRec (s : State) : (instantRec (stoppedLanes s)).excluding = (instantRec s).excluding :=
  foldl_decideExcl_instantRec ..

theorem endCycle_instantRec (s : State) : (instantRec (endCycle s)).excluding = (instantRec s).excluding := by
  rw [endCycle, stoppedLanes_instantRec, battenMisses_instantRec,
    instantRec_of_kept (mirrorEnd_kept _) (by decide) (by decide) (by decide),
    instantRec_of_kept (journalLate_kept _) (by decide) (by decide) (by decide), boundary_instantRec]

/-- The state in which the effects of the instant begin: time and the number have gone on by one (R29, R31). -/
def atInstant (smp : Quad LaneSample) (strobe : Quad Int) (s : State) : State :=
  orderlyStop (takeSamples smp strobe (countCycle (endCycle (nextCk s))))

theorem countCycle_instantRec (s : State) : (instantRec (countCycle s)).excluding =
    { (instantRec s).excluding with k := (instantRec s).excluding.k + 1 } := rfl

theorem nextCk_instantRec (s : State) :
    instantRec (nextCk s) = { instantRec s with ckNs := s.time.ckNs + BitVec.ofNat 64 (periodNs s) } := by
  have hcyc : (nextCk s).cyc = s.cyc := (nextCk_kept s).frame.rest .cyc (by decide)
  have hagr : (nextCk s).agr = s.agr := (nextCk_kept s).frame.rest .agr (by decide)
  have hck : (nextCk s).time.ckNs = s.time.ckNs + BitVec.ofNat 64 (periodNs s) := by
    unfold nextCk
    dsimp only
  simp only [instantRec, hcyc, hagr, hck]

theorem atInstant_instantRec (smp : Quad LaneSample) (strobe : Quad Int) (s : State) :
    (instantRec (atInstant smp strobe s)).excluding = { (instantRec s).excluding with
      k := (instantRec s).k + 1, ckNs := s.time.ckNs + BitVec.ofNat 64 (periodNs s) } := by
  rw [atInstant, instantRec_of_kept (orderlyStop_kept _) (by decide) (by decide) (by decide),
    instantRec_of_kept (takeSamples_kept ..) (by decide) (by decide) (by decide), countCycle_instantRec, endCycle_instantRec,
    nextCk_instantRec]
  simp only [InstantRec.excluding]

theorem stopNext_of_excluding {s t : State} {k ck : DWord}
    (h : (instantRec t).excluding = { (instantRec s).excluding with k := k, ckNs := ck }) : t.cyc.stopNext = s.cyc.stopNext :=
  congrArg InstantRec.stopNext h

theorem atInstant_st (smp : Quad LaneSample) (strobe : Quad Int) (s : State) : (atInstant smp strobe s).mod.st = s.mod.st := by
  rw [atInstant, (orderlyStop_kept _).frame.rest .mode (by decide), (takeSamples_kept ..).frame.rest .mode (by decide),
    (countCycle_kept _).frame.rest .mode (by decide), (endCycle_kept _).frame.rest .mode (by decide),
    (nextCk_kept _).frame.rest .mode (by decide)]

/-! ## Roles (R96 to R109) -/

/-- The exclusions decided are carried out: none stays due (R96). -/
theorem applyLeaving_instantRec (s : State) : instantRec (applyLeaving s) = (instantRec s).excluding := rfl

theorem applyJoin_instantRec (s : State) : instantRec (applyJoin s) = instantRec s := by
  unfold applyJoin
  split
  · dsimp only
    split <;> rfl
  · rfl

theorem lanesAlarm_instantRec (s : State) : instantRec (lanesAlarm s) = instantRec s := by
  have h : instantRec (if healthyCount s < s.cyc.healthy then
      if healthyCount s = 3 then raiseShared s 0x0207 [] else if healthyCount s = 2 then raiseShared s 0x0208 []
      else if healthyCount s < 2 then raiseShared s 0x0209 [] else s else s) = instantRec s := by
    split
    · split
      · exact raiseShared_instantRec ..
      · split
        · exact raiseShared_instantRec ..
        · split
          · exact raiseShared_instantRec ..
          · rfl
    · rfl
  exact h

/-- The roles as they are taken at the instant, before the votes are counted. -/
def rolesTaken (s : State) : State :=
  lanesAlarm (setMode (standbyRoles (applyJoin (applyShadow (retiredAlarms s (applyLeaving s))))))

theorem roles_eq (s : State) : roles s = checkStandby s.cyc.healthy (checkVotes (rolesTaken s)) := rfl

theorem setMode_instantRec (s : State) : instantRec (setMode s) = instantRec s := rfl

theorem rolesTaken_instantRec (s : State) : instantRec (rolesTaken s) = (instantRec s).excluding := by
  rw [rolesTaken, lanesAlarm_instantRec, setMode_instantRec,
    instantRec_of_kept (standbyRoles_kept _) (by decide) (by decide) (by decide), applyJoin_instantRec,
    instantRec_of_kept (applyShadow_kept _) (by decide) (by decide) (by decide),
    instantRec_of_kept (retiredAlarms_kept ..) (by decide) (by decide) (by decide), applyLeaving_instantRec]

theorem rolesTaken_st (s : State) : (rolesTaken s).mod.st = s.mod.st := by
  rw [rolesTaken, (lanesAlarm_kept _).frame.rest .mode (by decide), (setMode_kept _).frame.rest .mode (by decide),
    (standbyRoles_kept _).frame.rest .mode (by decide), (applyJoin_kept _).frame.rest .mode (by decide),
    (applyShadow_kept _).frame.rest .mode (by decide), (retiredAlarms_kept ..).frame.rest .mode (by decide),
    (applyLeaving_kept _).frame.rest .mode (by decide)]

theorem enterSafeStop_instantRec (s : State) : instantRec (enterSafeStop s) = (instantRec s).stopping :=
  setState_instantRec ..

theorem checkVotes_instantRec (s : State) : (instantRec (checkVotes s)).stopping = (instantRec s).stopping := by
  unfold checkVotes
  split
  · dsimp only
    rw [enterSafeStop_instantRec]
    split
    · rfl
    · rw [raiseShared_instantRec]
      rfl
  · rfl

theorem checkStandby_instantRec (n : Nat) (s : State) : (instantRec (checkStandby n s)).stopping = (instantRec s).stopping := by
  unfold checkStandby
  split
  · rw [enterSafeStop_instantRec]
    rfl
  · rfl

theorem roles_instantRec (s : State) : (instantRec (roles s)).stopping = (instantRec s).excluding.stopping := by
  rw [roles_eq, checkStandby_instantRec, checkVotes_instantRec, rolesTaken_instantRec]

/-! ## The key position (R379 to R384) -/

theorem coldRunning_instantRec (s : State) (k : Nat) : instantRec (coldRunning s k) = instantRec s := by
  have hn (r : State) : instantRec (restartNodes r) = instantRec r := by
    unfold restartNodes
    split <;> rfl
  unfold coldRunning
  dsimp only
  rw [raiseShared_instantRec, hn]
  rfl

/-- A position taken is in force; in RUN the halted lanes are released (R115, R379). -/
def keyTaken (s : State) (p : KeyPos) : State :=
  let s1 := { s with ctl := { s.ctl with pos := some p, next := none, lastValid := if p == .invalid then s.ctl.lastValid else some p } }
  if p == .run then { s1 with lanes := s1.lanes.map fun x => if x.role == .halted then releaseHalted x else x } else s1

/-- Leaving TEST ends the injections and restarts cold (R384). -/
def testLeft (s : State) (p : KeyPos) (wasTest : Bool) (k : Nat) : State :=
  if wasTest && (p == .run || p == .maint) then
    let t := { s with agr := { s.agr with inj := [] } }
    if t.mod.st.runs then setState (coldRunning t k) .vitalRestricted else t
  else s

/-- A move into RUN leaves every pair unproven (R246). -/
def pairsUnproven (s : State) (p : KeyPos) : State :=
  if p == .run then
    let t := onLanes s (working s) fun _ x => workWrite x fun m => rgSetProof m 0
    { t with agr := { t.agr with pairOff := 0 } }
  else s

theorem applyKey_eq (s : State) (k : Nat) : applyKey s k = match s.ctl.next with
    | none => s
    | some p => reportState (pairsUnproven (testLeft (keyTaken s p) p (s.ctl.lastValid == some .test) k) p) := by
  unfold applyKey
  cases s.ctl.next <;> rfl

theorem keyTaken_instantRec (s : State) (p : KeyPos) : instantRec (keyTaken s p) = instantRec s := by
  unfold keyTaken
  dsimp only
  split <;> rfl

theorem testLeft_instantRec (s : State) (p : KeyPos) (w : Bool) (k : Nat) : instantRec (testLeft s p w k) = instantRec s := by
  unfold testLeft
  split
  · dsimp only
    split
    · rw [setState_instantRec, coldRunning_instantRec]
      rfl
    · rfl
  · rfl

theorem pairsUnproven_instantRec (s : State) (p : KeyPos) : instantRec (pairsUnproven s p) = instantRec s := by
  unfold pairsUnproven
  split <;> rfl

theorem applyKey_instantRec (s : State) (k : Nat) : instantRec (applyKey s k) = instantRec s := by
  rw [applyKey_eq]
  split
  · rfl
  · rw [instantRec_of_kept (reportState_kept _) (by decide) (by decide) (by decide), pairsUnproven_instantRec, testLeft_instantRec,
      keyTaken_instantRec]

/-! ## The module state, the time set-up, the boot shadow cycles (R95, R359, R381, R387, R390) -/

theorem applyState_instantRec (s : State) : (instantRec (applyState s)).stopping = (instantRec s).stopping := by
  unfold applyState
  split
  · rw [enterSafeStop_instantRec]
    rfl
  · refine congrArg InstantRec.stopping ?_
    split
    · rfl
    · split
      · dsimp only
        rw [setState_instantRec, raiseShared_instantRec]
        rfl
      · split
        · exact setState_instantRec ..
        · split
          · exact setState_instantRec ..
          · rfl

/-- A source that was lost is reported and a time that was LOCKED held over, before the new set-up is in force (R359). -/
def timeHeldOver (s : State) : State :=
  let s0 := if bitsAt s.ul.timecfg.toNat 14 8 != s.time.domain && s.time.ptpLock then raiseHub s 0x0981 [] else s
  if bitAt s.ul.timecfg.toNat 0 != s.time.src then toHoldover s0 else s0

theorem applyTimecfg_eq (s : State) : ∃ ti, applyTimecfg s = { timeHeldOver s with time := ti } ∧
    ti.ckNs = (timeHeldOver s).time.ckNs := by
  exact ⟨_, rfl, (apply_ite TimeSt.ckNs ..).trans (ite_self _)⟩

theorem timeHeldOver_instantRec (s : State) : instantRec (timeHeldOver s) = instantRec s := by
  have h0 : instantRec (if bitsAt s.ul.timecfg.toNat 14 8 != s.time.domain && s.time.ptpLock then raiseHub s 0x0981 [] else s) =
      instantRec s := by
    split
    · exact raiseHub_instantRec ..
    · rfl
  unfold timeHeldOver
  dsimp only
  rw [← h0]
  split <;> rfl

theorem applyTimecfg_instantRec (s : State) : instantRec (applyTimecfg s) = instantRec s := by
  obtain ⟨ti, h, hck⟩ := applyTimecfg_eq s
  rw [h, ← timeHeldOver_instantRec s]
  simp only [instantRec, hck]

theorem bootJoin_instantRec (s : State) (k : Nat) : instantRec (bootJoin s k) = instantRec s := by
  unfold bootJoin
  split
  · rfl
  · split
    · rfl
    · dsimp only
      split
      · exact raiseShared_instantRec ..
      · rw [setState_instantRec, lanesAlarm_instantRec]
        rfl

/-- The effects of the instant, from the state in which they begin (R30). -/
def effected (k : Nat) (s : State) : State :=
  bootJoin (applyTimecfg (ringBackOff (applyState (applyKey (applyExchange (roles s) k) k)))) k

theorem effected_instantRec (k : Nat) (s : State) : (instantRec (effected k s)).stopping = (instantRec s).excluding.stopping := by
  rw [effected, bootJoin_instantRec, applyTimecfg_instantRec,
    instantRec_of_kept (ringBackOff_kept _) (by decide) (by decide) (by decide), applyState_instantRec, applyKey_instantRec,
    instantRec_of_kept (applyExchange_kept ..) (by decide) (by decide) (by decide), roles_instantRec]

/-- The state in which the next cycle opens. -/
def instantDone (smp : Quad LaneSample) (strobe : Quad Int) (s : State) : State :=
  effected (takeSamples smp strobe (countCycle (endCycle (nextCk s)))).cyc.k.toNat (atInstant smp strobe s)

theorem commonInstant_eq (smp : Quad LaneSample) (strobe : Quad Int) (s : State) : commonInstant smp strobe s =
    reportState (openCycle (signalState (instantDone smp strobe s)) (instantDone smp strobe s).cyc.k) := rfl

/-- The record field by field, of a state in which nothing stays due. -/
theorem fields_of_instantRec {s t : State} {k ck : DWord}
    (h : (instantRec t).stopping = { (instantRec s).excluding.stopping with k := k, ckNs := ck }) :
    t.cyc.k = k ∧ t.time.ckNs = ck ∧ t.agr.shown = s.agr.shown ∧ t.cyc.toExcl = Quad.fill none :=
  ⟨congrArg InstantRec.k h, congrArg InstantRec.ckNs h, congrArg InstantRec.shown h, congrArg InstantRec.toExcl h⟩

theorem instantDone_instantRec (smp : Quad LaneSample) (strobe : Quad Int) (s : State) :
    (instantRec (instantDone smp strobe s)).stopping = { (instantRec s).excluding.stopping with
      k := (instantRec s).k + 1, ckNs := s.time.ckNs + BitVec.ofNat 64 (periodNs s) } := by
  rw [instantDone, effected_instantRec, atInstant_instantRec]
  simp only [InstantRec.stopping, InstantRec.excluding]

/-! ## The cycle as it opens (R31) -/

section
variable (s : State)

theorem opened_cyc (k : DWord) : (reportState (openCycle (signalState s) k)).cyc = (openCycle (signalState s) k).cyc :=
  (reportState_kept _).frame.rest .cyc (by decide)

theorem opened_agr (k : DWord) : (reportState (openCycle (signalState s) k)).agr = (openCycle (signalState s) k).agr :=
  (reportState_kept _).frame.rest .agr (by decide)

theorem opened_time (k : DWord) : (reportState (openCycle (signalState s) k)).time = s.time := by
  rw [(reportState_kept _).frame.rest .time (by decide), (openCycle_kept ..).frame.rest .time (by decide),
    (signalState_kept _).frame.rest .time (by decide)]

theorem signalled_cyc : (signalState s).cyc = s.cyc := (signalState_kept s).frame.rest .cyc (by decide)

theorem signalled_agr : (signalState s).agr = s.agr := (signalState_kept s).frame.rest .agr (by decide)

theorem signalled_lanes : (signalState s).lanes = s.lanes := (signalState_kept s).frame.rest .lanes (by decide)

theorem signalled_st : (signalState s).mod.st = s.mod.st := (signalState_kept s).frame.rest .mode (by decide)

/-- The module state stands while the cycle opens. -/
theorem opened_st (k : DWord) : (reportState (openCycle (signalState s) k)).mod.st = s.mod.st := by
  rw [(reportState_kept _).frame.rest .mode (by decide), (openCycle_kept ..).frame.rest .mode (by decide), signalled_st]

theorem openCycle_toExcl (k : DWord) : (openCycle s k).cyc.toExcl = s.cyc.toExcl := rfl

theorem opened_taken (k : DWord) (l : Lane) : ((reportState (openCycle (signalState s) k)).lanes.get l).taken = [] := by
  rw [field_of_mask LaneSt.taken (reportState_lane ..) fun _ => rfl, openCycle]
  dsimp only
  rw [Quad.get_map]

/-- The commands shown are the cycle's own, but in a standby, which shows those of the mirror (R340). -/
theorem opened_shown (k : DWord) : (reportState (openCycle (signalState s) k)).agr.shown =
    if s.mod.st == .standby then s.agr.shown else [] := by
  rw [opened_agr, openCycle]
  dsimp only
  rw [signalled_st, signalled_agr]

end

/-! ## A SAFE STOP decided (R74, R95) -/

/-- What a lane drives. -/
def driveOf (x : LaneSt) : List OutCmd × BitVec 32 × BitVec 2 := (x.drive, x.driveE, x.driveG)

/-- The module has stopped: HEALTHY goes with SAFE STOP, the lease is not held, nothing is driven. -/
structure Stopped (s : State) : Prop where
  st     : s.mod.st = .safeStop
  agrees : HealthyAgrees s
  held   : s.peer.held = false
  idle   : ∀ l, driveOf (s.lanes.get l) = ([], 0, 0)

/-- A state in which a decided SAFE STOP takes effect at the instant (R95, R387). -/
def mayStop (m : ModState) : Bool := m.runs || m == .indicate || m == .standby || m == .boot

/-- A SAFE STOP is due, or the module has stopped already. -/
def StopSure (s : State) : Prop := (s.cyc.stopNext = true ∧ mayStop s.mod.st = true) ∨ Stopped s

theorem mayStop_iff {m : ModState} : mayStop m = true ↔ m.runs = true ∨ m = .indicate ∨ m = .standby ∨ m = .boot := by
  simp [mayStop, or_assoc]

theorem mayStop_ne {m : ModState} (h : mayStop m = true) : m ≠ .safeStop := by
  rintro rfl
  exact absurd h (by decide)

theorem mayStop_of_runs {m : ModState} (h : m.runs = true) : mayStop m = true := by simp [mayStop, h]

theorem enterSafeStop_stopped {s : State} (h : s.mod.st ≠ .safeStop) : Stopped (enterSafeStop s) where
  st := enterSafeStop_st s
  agrees := by
    rw [HealthyAgrees, enterSafeStop_ul h, enterSafeStop_st]
    rfl
  held := enterSafeStop_held s
  idle l := by
    obtain ⟨h1, h2, h3⟩ := enterSafeStop_drive s l
    rw [driveOf, h1, h2, h3]

/-- A step that keeps the frame of the peer and what the lanes drive leaves a stopped module stopped. -/
theorem Stopped.step {ps : List Part} {s t : State} (g : Stopped s) (h : Kept ps s t) (hp : Part.peer ∉ ps)
    (hd : ∀ l, driveOf (t.lanes.get l) = driveOf (s.lanes.get l)) : Stopped t where
  st := h.safe g.st
  agrees := h.healthy g.agrees
  held := (congrArg PeerSt.held (h.frame.rest .peer hp)).trans g.held
  idle l := (hd l).trans (g.idle l)

theorem rolesTaken_stopNext (s : State) : (rolesTaken s).cyc.stopNext = s.cyc.stopNext :=
  stopNext_of_instantRec (rolesTaken_instantRec s)

theorem checkVotes_stopSure {s : State} (h : StopSure s) : StopSure (checkVotes s) := by
  unfold checkVotes
  split
  next hr =>
    have hruns : s.mod.st.runs = true := (Bool.and_eq_true_iff.mp hr).1
    refine Or.inr (enterSafeStop_stopped ?_)
    have hst : (if healthyCount s < 2 then s else raiseShared s 0x0209 []).mod.st = s.mod.st := by
      split
      · rfl
      · rw [raiseShared_mod]
    rw [hst]
    exact mayStop_ne (mayStop_of_runs hruns)
  · exact h

theorem checkStandby_stopSure {n : Nat} {s : State} (h : StopSure s) : StopSure (checkStandby n s) := by
  unfold checkStandby
  split
  next hr =>
    have hst : s.mod.st = .standby := by simpa using (Bool.and_eq_true_iff.mp (Bool.and_eq_true_iff.mp hr).1).1
    exact Or.inr (enterSafeStop_stopped (by rw [hst]; decide))
  · exact h

theorem roles_stopSure {s : State} (hn : s.cyc.stopNext = true) (hm : mayStop s.mod.st = true) : StopSure (roles s) := by
  rw [roles_eq]
  refine checkStandby_stopSure (checkVotes_stopSure (Or.inl ⟨?_, ?_⟩))
  · rw [rolesTaken_stopNext, hn]
  · rw [rolesTaken_st, hm]

theorem swapLane_driveOf (x : LaneSt) : driveOf (swapLane x) = driveOf x := by
  unfold swapLane
  split <;> rfl

theorem onLanes_driveOf {f : Lane → LaneSt → LaneSt} (hf : ∀ l x, driveOf (f l x) = driveOf x) (s : State) (ls : List Lane) (l : Lane) :
    driveOf ((onLanes s ls f).lanes.get l) = driveOf (s.lanes.get l) := by
  by_cases h : l ∈ ls
  · rw [onLanes_in _ _ _ _ h, hf]
  · rw [onLanes_out _ _ _ _ h]

theorem applyExchange_driveOf (s : State) (k : Nat) (l : Lane) :
    driveOf ((applyExchange s k).lanes.get l) = driveOf (s.lanes.get l) := by
  unfold applyExchange
  split
  · exact onLanes_driveOf (fun _ => swapLane_driveOf) ..
  · rfl

/-! ### A SAFE STOP that is due stays due until it is entered -/

/-- A step under which a SAFE STOP that is due stays due, and a stopped module stopped. -/
structure StopKeeps (s t : State) : Prop where
  next : t.cyc.stopNext = s.cyc.stopNext
  may  : mayStop s.mod.st = true → mayStop t.mod.st = true
  safe : Stopped s → Stopped t

theorem StopKeeps.sure {s t : State} (h : StopKeeps s t) : StopSure s → StopSure t
  | .inl ⟨hn, hm⟩ => .inl ⟨h.next.trans hn, h.may hm⟩
  | .inr g => .inr (h.safe g)

theorem StopKeeps.trans {s t u : State} (h : StopKeeps s t) (g : StopKeeps t u) : StopKeeps s u where
  next := g.next.trans h.next
  may hm := g.may (h.may hm)
  safe hs := g.safe (h.safe hs)

/-- A step of which the frame leaves cycle, module state and peer, and that leaves what the lanes drive. -/
theorem stopKeeps_of_kept {ps : List Part} {s t : State} (h : Kept ps s t) (hc : Part.cyc ∉ ps) (hm : Part.mode ∉ ps)
    (hp : Part.peer ∉ ps) (hd : ∀ l, driveOf (t.lanes.get l) = driveOf (s.lanes.get l)) : StopKeeps s t where
  next := congrArg CycleSt.stopNext (h.frame.rest .cyc hc)
  may hmay := (congrArg mayStop (h.frame.rest .mode hm)).trans hmay
  safe g := g.step h hp hd

theorem applyExchange_stopKeeps (s : State) (k : Nat) : StopKeeps s (applyExchange s k) :=
  stopKeeps_of_kept (applyExchange_kept ..) (by decide) (by decide) (by decide) (applyExchange_driveOf s k)

theorem reportState_stopKeeps (s : State) : StopKeeps s (reportState s) :=
  stopKeeps_of_kept (reportState_kept _) (by decide) (by decide) (by decide) fun l =>
    field_of_mask driveOf (reportState_lane s l) fun _ => rfl

theorem releaseHalted_driveOf (x : LaneSt) :
    driveOf (if x.role == .halted then releaseHalted x else x) = driveOf x := by
  split <;> rfl

theorem keyTaken_kept (s : State) (p : KeyPos) : Kept [.ctl, .lanes] s (keyTaken s p) := by
  unfold keyTaken
  dsimp only
  split
  · exact Kept.upd (Kept.refl _ s) (Or.inr rfl) (Or.inr rfl) (Or.inr rfl) (Or.inl (by decide)) (Or.inr rfl) (Or.inl (by decide))
      (Or.inr rfl) (Or.inr rfl) (Or.inr rfl) (Or.inr rfl) (Or.inr rfl) (Or.inr rfl) (Or.inr rfl)
  · exact Kept.upd (Kept.refl _ s) (Or.inr rfl) (Or.inr rfl) (Or.inr rfl) (Or.inl (by decide)) (Or.inr rfl) (Or.inr rfl)
      (Or.inr rfl) (Or.inr rfl) (Or.inr rfl) (Or.inr rfl) (Or.inr rfl) (Or.inr rfl) (Or.inr rfl)

theorem keyTaken_driveOf (s : State) (p : KeyPos) (l : Lane) :
    driveOf ((keyTaken s p).lanes.get l) = driveOf (s.lanes.get l) := by
  unfold keyTaken
  dsimp only
  split
  · rw [Quad.get_map, releaseHalted_driveOf]
  · rfl

theorem keyTaken_stopKeeps (s : State) (p : KeyPos) : StopKeeps s (keyTaken s p) :=
  stopKeeps_of_kept (keyTaken_kept ..) (by decide) (by decide) (by decide) (keyTaken_driveOf s p)

theorem injectionsEnded_kept (s : State) : Kept [.agr] s { s with agr := { s.agr with inj := [] } } :=
  Kept.upd (Kept.refl _ s) (Or.inr rfl) (Or.inr rfl) (Or.inr rfl) (Or.inr rfl) (Or.inr rfl) (Or.inr rfl) (Or.inl (by decide))
    (Or.inr rfl) (Or.inr rfl) (Or.inr rfl) (Or.inr rfl) (Or.inr rfl) (Or.inr rfl)

/-- A module that runs the vital cycle has not stopped; in VITAL-RESTRICTED a SAFE STOP can still take effect (R387). -/
theorem restarted_stopKeeps {s u : State} (hr : s.mod.st.runs = true)
    (hn : (setState u .vitalRestricted).cyc.stopNext = s.cyc.stopNext) : StopKeeps s (setState u .vitalRestricted) where
  next := hn
  may _ := by
    rw [setState_mod]
    rfl
  safe g := by
    rw [g.st] at hr
    exact absurd hr (by decide)

/-- Where TEST is left a module that runs the vital cycle takes VITAL-RESTRICTED, and no other restarts (R384). -/
theorem testLeft_stopKeeps (s : State) (p : KeyPos) (w : Bool) (k : Nat) : StopKeeps s (testLeft s p w k) := by
  have hnext : (testLeft s p w k).cyc.stopNext = s.cyc.stopNext := stopNext_of_instantRec (testLeft_instantRec s p w k)
  unfold testLeft at hnext ⊢
  split at hnext
  · rw [if_pos ‹_›]
    dsimp only at hnext ⊢
    split at hnext
    next hr =>
      rw [if_pos hr]
      exact restarted_stopKeeps hr hnext
    next hr =>
      rw [if_neg hr]
      exact stopKeeps_of_kept (injectionsEnded_kept s) (by decide) (by decide) (by decide) fun _ => rfl
  · rw [if_neg ‹_›]
    exact ⟨rfl, id, id⟩

theorem unproven_kept (s : State) : Kept [.lanes, .agr] s { s with agr := { s.agr with pairOff := 0 } } :=
  Kept.upd (Kept.refl _ s) (Or.inr rfl) (Or.inr rfl) (Or.inr rfl) (Or.inr rfl) (Or.inr rfl) (Or.inr rfl) (Or.inl (by decide))
    (Or.inr rfl) (Or.inr rfl) (Or.inr rfl) (Or.inr rfl) (Or.inr rfl) (Or.inr rfl)

theorem pairsUnproven_kept (s : State) (p : KeyPos) : Kept [.lanes, .agr] s (pairsUnproven s p) := by
  unfold pairsUnproven
  split
  · exact ((onLanes_kept ..).mono rfl).step (unproven_kept _) rfl
  · exact Kept.refl ..

theorem pairsUnproven_driveOf (s : State) (p : KeyPos) (l : Lane) :
    driveOf ((pairsUnproven s p).lanes.get l) = driveOf (s.lanes.get l) := by
  unfold pairsUnproven
  split
  · refine onLanes_driveOf (fun _ x => ?_) s (working s) l
    rfl
  · rfl

theorem pairsUnproven_stopKeeps (s : State) (p : KeyPos) : StopKeeps s (pairsUnproven s p) :=
  stopKeeps_of_kept (pairsUnproven_kept ..) (by decide) (by decide) (by decide) (pairsUnproven_driveOf s p)

theorem applyKey_stopKeeps (s : State) (k : Nat) : StopKeeps s (applyKey s k) := by
  rw [applyKey_eq]
  split
  · exact ⟨rfl, id, id⟩
  · exact (keyTaken_stopKeeps ..).trans
      ((testLeft_stopKeeps ..).trans ((pairsUnproven_stopKeeps ..).trans (reportState_stopKeeps _)))

/-! ### It is entered, and stays -/

/-- At the module state's turn a SAFE STOP that is due is entered; in SAFE STOP nothing else is (R95, R387). -/
theorem applyState_stopped {s : State} (h : StopSure s) : Stopped (applyState s) := by
  obtain ⟨hn, hm⟩ | g := h
  · have hc : (s.cyc.stopNext && mayStop s.mod.st) = true := by rw [hn, hm]; rfl
    have he : applyState s = enterSafeStop s := if_pos hc
    rw [he]
    exact enterSafeStop_stopped (mayStop_ne hm)
  · have he : applyState s = s := by simp [applyState, g.st, ModState.runs]
    rw [he]
    exact g

theorem toHoldover_driveOf (s : State) (l : Lane) : driveOf ((toHoldover s).lanes.get l) = driveOf (s.lanes.get l) := by
  refine onLanes_driveOf (fun _ x => ?_) ..
  rfl

theorem timeHeldOver_driveOf (s : State) (l : Lane) : driveOf ((timeHeldOver s).lanes.get l) = driveOf (s.lanes.get l) := by
  have h0 : (if bitsAt s.ul.timecfg.toNat 14 8 != s.time.domain && s.time.ptpLock then raiseHub s 0x0981 [] else s).lanes = s.lanes := by
    split
    · rw [raiseHub_lanes]
    · rfl
  unfold timeHeldOver
  dsimp only
  rw [← h0]
  split
  · exact toHoldover_driveOf ..
  · rfl

theorem applyTimecfg_driveOf (s : State) (l : Lane) : driveOf ((applyTimecfg s).lanes.get l) = driveOf (s.lanes.get l) := by
  obtain ⟨ti, h, -⟩ := applyTimecfg_eq s
  rw [h]
  exact timeHeldOver_driveOf s l

/-- No boot shadow cycle's end joins lanes of a stopped module (R390). -/
theorem bootJoin_of_stopped {s : State} (h : s.mod.st = .safeStop) (k : Nat) : bootJoin s k = s := by
  unfold bootJoin
  split
  · rfl
  · exact if_pos (by simp [h])

theorem ringBackOff_stopped {s : State} (h : Stopped s) : Stopped (ringBackOff s) := h.step (ringBackOff_kept s) (by decide) fun _ => rfl

theorem applyTimecfg_stopped {s : State} (h : Stopped s) : Stopped (applyTimecfg s) :=
  h.step (applyTimecfg_kept s) (by decide) (applyTimecfg_driveOf s)

theorem bootJoin_stopped {s : State} (h : Stopped s) (k : Nat) : Stopped (bootJoin s k) := by
  rwa [bootJoin_of_stopped h.st]

/-- With a SAFE STOP due the effects of the instant stop the module (R74, R95). -/
theorem effected_stopped {s : State} (hn : s.cyc.stopNext = true) (hm : mayStop s.mod.st = true) (k : Nat) : Stopped (effected k s) := by
  have hk := ((applyExchange_stopKeeps (roles s) k).trans (applyKey_stopKeeps _ k)).sure (roles_stopSure hn hm)
  exact bootJoin_stopped (applyTimecfg_stopped (ringBackOff_stopped (applyState_stopped hk))) k

theorem openCycle_driveOf (s : State) (k : DWord) (l : Lane) : driveOf ((openCycle s k).lanes.get l) = driveOf (s.lanes.get l) := by
  rw [openCycle]
  dsimp only
  rw [Quad.get_map]
  rfl

/-- A stopped module opens no cycle and stays stopped. -/
theorem Stopped.opened {s : State} (h : Stopped s) (k : DWord) : Stopped (reportState (openCycle (signalState s) k)) := by
  have h1 := h.step (signalState_kept s) (by decide) fun l => by rw [signalled_lanes]
  have h2 := h1.step (openCycle_kept _ k) (by decide) (openCycle_driveOf _ k)
  exact (reportState_stopKeeps _).safe h2

theorem openCycle_opened_of_stopped {s : State} (h : s.mod.st = .safeStop) (k : DWord) : (openCycle s k).cyc.opened = false := by
  have hr : cycleRuns s = false := by simp [cycleRuns, h, ModState.runs]
  rw [openCycle]
  exact hr

theorem exec_commonInstant {s : State} (hu : hubUp s = true) (smp : Quad LaneSample) (strobe : Quad Int) :
    exec (.commonInstant smp strobe) s = .next (commonInstant smp strobe s) :=
  congrArg Host.Outcome.next (if_pos hu)

/-- Settles O24: the cycle opens with what the effects of the instant leave of the number, of Ck and of what was shown; a SAFE STOP
that is due stays due until the module state's turn. -/
theorem cycleOpensOrStops : Obligations.CycleOpensOrStops := by
  unfold Obligations.CycleOpensOrStops
  refine ⟨fun smp strobe s hu => ⟨_, exec_commonInstant hu smp strobe, ?_⟩, fun smp strobe s hu hn hm =>
    ⟨_, exec_commonInstant hu smp strobe, ?_⟩⟩
  · obtain ⟨hk, hck, hshown, hexcl⟩ := fields_of_instantRec (instantDone_instantRec smp strobe s)
    rw [commonInstant_eq]
    generalize instantDone smp strobe s = t at hk hck hshown hexcl ⊢
    rw [opened_cyc, opened_time, opened_shown, opened_st, opened_agr, hk, hck]
    refine ⟨rfl, ?_, rfl, rfl, rfl, rfl, rfl, rfl, rfl, fun l => ⟨?_, ?_⟩, opened_taken _ _, rfl, fun h => ?_, fun h => ?_⟩
    · rw [periodNs]
    · exact Quad.get_fill ..
    · rw [openCycle_toExcl, signalled_cyc, hexcl, Quad.get_fill]
    · rw [if_neg (by simpa using h)]
    · rw [if_pos (by simpa using h), hshown]
  · have hstop : Stopped (instantDone smp strobe s) := by
      refine effected_stopped ?_ ?_ _
      · rw [stopNext_of_excluding (atInstant_instantRec smp strobe s), hn]
      · rw [atInstant_st]
        exact mayStop_iff.mpr hm
    have hopen := hstop.opened (instantDone smp strobe s).cyc.k
    rw [commonInstant_eq]
    refine ⟨hopen.st, ?_, ?_, hopen.held, fun l => ?_⟩
    · rw [hopen.agrees, hopen.st]
      rfl
    · rw [opened_cyc]
      exact openCycle_opened_of_stopped (by rw [signalled_st, hstop.st]) _
    · simpa only [driveOf, Prod.mk.injEq] using hopen.idle l

end Sys2Proof.Machine
end

section
/-! SUPPORT. The ring frame engines' planes, the launches of G-frames and S-frames, the return of a frame (R36, R37, R188, R191, R197,
R217, R234, R235). -/

namespace Sys2Proof.Machine

/-! ## Planes -/

theorem ringSlot_ne {q r : RingId} (h : q ≠ r) : q.slot ≠ r.slot := by
  cases q <;> cases r <;> first | exact absurd rfl h | decide

theorem planeAt_of_planes {s t : State} (h : t.rings.planes = s.rings.planes) (r : RingId) (p : Plane) :
    planeAt t r p = planeAt s r p := by
  rw [planeAt, planeAt, h]

theorem planes_of_kept {ps : List Part} {s t : State} (h : Kept ps s t) (hr : Part.rings ∉ ps) : t.rings.planes = s.rings.planes :=
  congrArg (·.planes) (h.frame.rest .rings hr)

theorem planeAt_planeMod_same (s : State) (r : RingId) (p : Plane) (f : PlaneHub → PlaneHub) :
    planeAt (planeMod s r p f) r p = f (planeAt s r p) := by
  simp [planeAt, planeMod]

theorem planeAt_planeMod_other (s : State) {r q : RingId} {p o : Plane} (h : (q, o) ≠ (r, p)) (f : PlaneHub → PlaneHub) :
    planeAt (planeMod s r p f) q o = planeAt s q o := by
  unfold planeAt planeMod
  dsimp only
  by_cases hq : q = r
  · subst hq
    have ho : o ≠ p := fun e => h (by rw [e])
    rw [Quad.get_modify_same, Two.get_modify_other _ _ _ _ ho]
  · rw [Quad.get_modify_other _ _ _ _ (ringSlot_ne hq)]

theorem mem_planesWith {s : State} {f : PlaneHub → Bool} {r : RingId} {p : Plane} :
    (r, p) ∈ planesWith s f ↔ (ringOpen s r && f (planeAt s r p)) = true := by
  have hall : (r, p) ∈ allPlanes := by cases r <;> cases p <;> decide
  simp [planesWith, hall]

theorem planesWith_nodup (s : State) (f : PlaneHub → Bool) : (planesWith s f).Nodup :=
  List.Nodup.filter _ (by decide)

/-! ## Frames that pass to the other module (R217) -/

/-- A module alone has no other cage (R217). -/
theorem relayFrames_single {s : State} (h : isPair s = false) (x : PlaneHub) (fs : List (List Byte)) : relayFrames s x fs = s := by
  simp [relayFrames, cageOwn, h]

theorem relayFrames_planeAt (s : State) (x : PlaneHub) (fs : List (List Byte)) (r : RingId) (p : Plane) :
    planeAt (relayFrames s x fs) r p = planeAt s r p :=
  planeAt_of_planes (planes_of_kept (relayFrames_kept ..) (by decide)) r p

/-! ## A launch on a list of planes -/

/-- The frames of one plane leave: they stand at the plane, those of the other cage pass on (R188, R217). -/
def launchOn (s : State) (f : RingId × Plane → PlaneHub → PlaneHub) (fs : RingId × Plane → List (List Byte)) (t : State)
    (x : RingId × Plane) : State :=
  relayFrames (planeMod t x.1 x.2 (f x)) (planeAt s x.1 x.2) (fs x)

section
variable (s : State) (f : RingId × Plane → PlaneHub → PlaneHub) (fs : RingId × Plane → List (List Byte))

theorem launchOn_same (t : State) (r : RingId) (p : Plane) : planeAt (launchOn s f fs t (r, p)) r p = f (r, p) (planeAt t r p) := by
  rw [launchOn, relayFrames_planeAt, planeAt_planeMod_same]

theorem launchOn_other (t : State) {r : RingId} {p : Plane} {x : RingId × Plane} (h : (r, p) ≠ x) :
    planeAt (launchOn s f fs t x) r p = planeAt t r p := by
  rw [launchOn, relayFrames_planeAt, planeAt_planeMod_other t h]

theorem foldl_launchOn_out (xs : List (RingId × Plane)) (t : State) {r : RingId} {p : Plane} (h : (r, p) ∉ xs) :
    planeAt (xs.foldl (launchOn s f fs) t) r p = planeAt t r p := by
  induction xs generalizing t with
  | nil => rfl
  | cons x xs ih =>
    obtain ⟨hx, hxs⟩ := not_or.mp (mt List.mem_cons.mpr h)
    exact (ih _ hxs).trans (launchOn_other s f fs t hx)

/-- Every plane of the list takes its frames once. -/
theorem foldl_launchOn_in {xs : List (RingId × Plane)} (hn : xs.Nodup) (t : State) {r : RingId} {p : Plane} (h : (r, p) ∈ xs) :
    planeAt (xs.foldl (launchOn s f fs) t) r p = f (r, p) (planeAt t r p) := by
  induction xs generalizing t with
  | nil => exact absurd h List.not_mem_nil
  | cons x xs ih =>
    obtain ⟨hx, hxs⟩ := List.nodup_cons.mp hn
    rw [List.foldl_cons]
    rcases List.mem_cons.mp h with rfl | hm
    · rw [foldl_launchOn_out s f fs xs _ hx, launchOn_same]
    · have hne : (r, p) ≠ x := fun e => hx (e ▸ hm)
      rw [ih hxs _ hm, launchOn_other s f fs t hne]

theorem launchOn_kept (t : State) (x : RingId × Plane) : Kept [.rings, .peer] t (launchOn s f fs t x) :=
  ((planeMod_kept ..).mono rfl).step (relayFrames_kept ..) rfl

theorem isPair_congr {s t : State} (h : t.ctl = s.ctl) : isPair t = isPair s := by
  simp only [isPair, swBootOn, h]

theorem launchOn_single {t : State} (h : isPair t = false) (x : RingId × Plane) : (launchOn s f fs t x).peer = t.peer := by
  have hp : isPair (planeMod t x.1 x.2 (f x)) = false := h
  rw [launchOn, relayFrames_single hp, planeMod_peer]

theorem foldl_launchOn_single (xs : List (RingId × Plane)) {t : State} (h : isPair t = false) :
    (xs.foldl (launchOn s f fs) t).peer = t.peer := by
  induction xs generalizing t with
  | nil => rfl
  | cons x xs ih =>
    have hp : isPair (launchOn s f fs t x) = false := (isPair_congr (ctl_of_kept (launchOn_kept s f fs t x) (by decide))).trans h
    exact (ih hp).trans (launchOn_single s f fs h x)

end

/-! ## The launches of a cycle (R188, R191, R197, R235) -/

/-- What the G-frames' launch makes of a plane. -/
def gLaunched (s : State) (x : RingId × Plane) (q : PlaneHub) : PlaneHub := planeTick q (gFrames s x.1 x.2)

/-- What the S-frames' launch makes of a plane. -/
def sLaunched (s : State) (x : RingId × Plane) (q : PlaneHub) : PlaneHub := { q with txS := sFrames s x.1 x.2 }

theorem gLaunchAt_eq (s : State) : gLaunchAt s =
    (planesWith s (·.started)).foldl (launchOn s (gLaunched s) fun x => gFrames s x.1 x.2) (advanceTo s 20000) := by
  unfold gLaunchAt
  rfl

/-- The S-frames have left; the cycle does not know of it yet. -/
def sLeft (s : State) : State :=
  (planesWith s (·.started)).foldl (launchOn s (sLaunched s) fun x => sFrames s x.1 x.2) (advanceTo s (sLaunchNs (periodMs s)))

theorem sLaunchAt_eq (s : State) :
    sLaunchAt s = { sLeft s with cyc := { (sLeft s).cyc with sent := true, sCyc := s.cyc.k, sEpoch := s.peer.epoch } } := by
  unfold sLaunchAt
  rfl

theorem sLeft_cyc (s : State) : (sLeft s).cyc = s.cyc := by
  rw [sLeft, (Kept.foldl (launchOn_kept s _ _) _ _).frame.rest .cyc (by decide), advanceTo_cyc]

theorem advanceTo_planeAt (s : State) (n : Nat) (r : RingId) (p : Plane) : planeAt (advanceTo s n) r p = planeAt s r p :=
  planeAt_of_planes (planes_of_kept (advanceTo_kept ..) (by decide)) r p

theorem advanceTo_isPair (s : State) (n : Nat) : isPair (advanceTo s n) = isPair s := isPair_congr (advanceTo_ctl s n)

theorem gLaunchAt_in {s : State} {r : RingId} {p : Plane} (h : (ringOpen s r && (planeAt s r p).started) = true) :
    planeAt (gLaunchAt s) r p = planeTick (planeAt s r p) (gFrames s r p) := by
  rw [gLaunchAt_eq, foldl_launchOn_in _ _ _ (planesWith_nodup ..) _ (mem_planesWith.mpr h), advanceTo_planeAt, gLaunched]

theorem gLaunchAt_out {s : State} {r : RingId} {p : Plane} (h : (ringOpen s r && (planeAt s r p).started) = false) :
    planeAt (gLaunchAt s) r p = planeAt s r p := by
  have hn : (r, p) ∉ planesWith s (·.started) := fun hm => by simp [mem_planesWith.mp hm] at h
  rw [gLaunchAt_eq, foldl_launchOn_out _ _ _ _ _ hn, advanceTo_planeAt]

theorem gLaunchAt_single {s : State} (h : isPair s = false) : (gLaunchAt s).peer = s.peer := by
  rw [gLaunchAt_eq, foldl_launchOn_single _ _ _ _ ((advanceTo_isPair ..).trans h), advanceTo_peer]

theorem sLeft_in {s : State} {r : RingId} {p : Plane} (h : (ringOpen s r && (planeAt s r p).started) = true) :
    planeAt (sLeft s) r p = { planeAt s r p with txS := sFrames s r p } := by
  rw [sLeft, foldl_launchOn_in _ _ _ (planesWith_nodup ..) _ (mem_planesWith.mpr h), advanceTo_planeAt, sLaunched]

theorem sLeft_out {s : State} {r : RingId} {p : Plane} (h : (ringOpen s r && (planeAt s r p).started) = false) :
    planeAt (sLeft s) r p = planeAt s r p := by
  have hn : (r, p) ∉ planesWith s (·.started) := fun hm => by simp [mem_planesWith.mp hm] at h
  rw [sLeft, foldl_launchOn_out _ _ _ _ _ hn, advanceTo_planeAt]

theorem sLaunchAt_planeAt (s : State) (r : RingId) (p : Plane) : planeAt (sLaunchAt s) r p = planeAt (sLeft s) r p := by
  rw [sLaunchAt_eq]
  rfl

theorem sLaunchAt_peer (s : State) : (sLaunchAt s).peer = (sLeft s).peer := by
  rw [sLaunchAt_eq]

theorem sLeft_single {s : State} (h : isPair s = false) : (sLeft s).peer = s.peer := by
  rw [sLeft, foldl_launchOn_single _ _ _ _ ((advanceTo_isPair ..).trans h), advanceTo_peer]

theorem exec_gFrameLaunch {s : State} (hc : canLaunch s = true) (hd : framesDue s = true) :
    exec .gFrameLaunch s = .next (gLaunchAt s) :=
  congrArg Host.Outcome.next (if_pos (by simp [hc, hd]))

theorem exec_sFrameLaunch {s : State} (hc : canLaunch s = true) (hd : framesDue s = true) (hs : s.cyc.sent = false) :
    exec .sFrameLaunch s = .next (sLaunchAt s) :=
  congrArg Host.Outcome.next (if_pos (by simp [hc, hd, hs]))

/-! ### Without new outputs the forwarded sections do not leave (R197) -/

/-- The state with other sections forwarded to the rings. -/
def withFwd (s : State) (fwd : Quad (List SetItem)) : State := { s with rings := { s.rings with fwd := fwd } }

theorem mkFrames_withFwd (s : State) (fwd : Quad (List SetItem)) (ftype : Nat) (r : RingId) (p : Plane) (flags : Nat)
    (body : Nat × Nat → List Byte) (atNs : Nat) (sps : List (Nat × Nat)) :
    mkFrames (withFwd s fwd) ftype r p flags body atNs sps = mkFrames s ftype r p flags body atNs sps := by
  induction sps generalizing atNs with
  | nil => rfl
  | cons sp sps ih => exact congrArg (_ :: ·) (ih _)

theorem sFrames_withFwd {s : State} (h : s.cyc.missed = true ∨ s.mod.st.runs = false) (fwd : Quad (List SetItem)) (r : RingId)
    (p : Plane) : sFrames (withFwd s fwd) r p = sFrames s r p := by
  have hn : (s.cyc.missed || !s.mod.st.runs) = true := by simpa using h
  have hn' : ((withFwd s fwd).cyc.missed || !(withFwd s fwd).mod.st.runs) = true := hn
  unfold sFrames
  dsimp only
  rw [hn, hn', mkFrames_withFwd]
  rfl

/-! ## The return of a frame (R36, R37, R217, R234, R235) -/

theorem otherPlanes_of_planes {r : RingId} {p : Plane} {s t : State} (h : t.rings.planes = s.rings.planes) : otherPlanes r p s t :=
  fun q o _ => planeAt_of_planes h q o

theorem otherPlanes_trans {r : RingId} {p : Plane} {s t u : State} (h : otherPlanes r p s t) (g : otherPlanes r p t u) :
    otherPlanes r p s u :=
  fun q o hne => (g q o hne).trans (h q o hne)

theorem planeMod_otherPlanes (s : State) (r : RingId) (p : Plane) (f : PlaneHub → PlaneHub) : otherPlanes r p s (planeMod s r p f) :=
  fun _ _ hne => planeAt_planeMod_other s hne f

theorem backOff_planes (s : State) (r : RingId) : (backOff s r).rings.planes = s.rings.planes := by
  unfold backOff
  split
  · rfl
  · dsimp only
    split
    · exact congrArg (·.planes) (raiseShared_rings ..)
    · exact congrArg (·.planes) (raiseShared_rings ..)

theorem handSlot_planes (w : RingSlot) (s : State) (l : Lane) : (handSlot w s l).rings.planes = s.rings.planes := by
  unfold handSlot
  split <;> rfl

theorem foldl_handSlot_planes (w : RingSlot) (ls : List Lane) (s : State) :
    (ls.foldl (handSlot w) s).rings.planes = s.rings.planes := by
  induction ls generalizing s with
  | nil => rfl
  | cons l ls ih => exact (ih _).trans (handSlot_planes w s l)

theorem takeSlot_planes (isG : Bool) (s : State) (w : RingSlot) : (takeSlot isG s w).rings.planes = s.rings.planes := by
  unfold takeSlot
  split
  · exact planes_of_kept (lateSection_kept ..) (by decide)
  · exact foldl_handSlot_planes ..

/-- The sections of a frame leave the planes as they stand. -/
theorem foldl_takeSlot_planes (isG : Bool) (ws : List RingSlot) (s : State) :
    (ws.foldl (takeSlot isG) s).rings.planes = s.rings.planes := by
  induction ws generalizing s with
  | nil => rfl
  | cons w ws ih => exact (ih _).trans (takeSlot_planes isG s w)

/-- A G section that comes after input close, or after 0.43 ms of the cycle, is late (R36, R234). -/
theorem takeSlot_late {s : State} {w : RingSlot} (h : s.cyc.closed = true ∨ 430000 < w.atNs) : takeSlot true s w = lateSection s w :=
  if_pos (by simpa using h)

theorem foldl_takeSlot_late {ws : List RingSlot} {s : State} (h : s.cyc.closed = true ∨ ∀ w ∈ ws, 430000 < w.atNs) :
    ws.foldl (takeSlot true) s = ws.foldl lateSection s := by
  induction ws generalizing s with
  | nil => rfl
  | cons w ws ih =>
    have hc : (lateSection s w).cyc = s.cyc := (lateSection_kept ..).frame.rest .cyc (by decide)
    rw [List.foldl_cons, List.foldl_cons, takeSlot_late (h.imp_right fun g => g w List.mem_cons_self)]
    refine ih ?_
    rw [hc]
    exact h.imp_right fun g v hv => g v (List.mem_cons_of_mem _ hv)

/-- The last octet of a section is at the cage after the first of its frame (R198). -/
theorem frameSlots_after {r : RingId} {p : Plane} {atNs : Nat} {frame : List Byte} {w : RingSlot} (h : w ∈ frameSlots r p atNs frame) :
    atNs < w.atNs := by
  obtain ⟨i, -, rfl⟩ := List.mem_map.mp h
  dsimp only
  omega

/-- Whether the nodes take this module for their master is noted at the plane, and nothing else of it (R230). -/
theorem judgeStatus_plane (s : State) (r : RingId) (p : Plane) (ws : List RingSlot) :
    otherPlanes r p s (judgeStatus s r p ws) ∧ ∃ m, planeAt (judgeStatus s r p ws) r p = { planeAt s r p with mastered := m } := by
  have h1 : ∀ b : Bool, otherPlanes r p s (if b then planeMod s r p fun x => { x with mastered := true } else s) ∧
      ∃ m, planeAt (if b then planeMod s r p fun x => { x with mastered := true } else s) r p = { planeAt s r p with mastered := m }
    | true => ⟨planeMod_otherPlanes _ _ _ _, true, planeAt_planeMod_same ..⟩
    | false => ⟨fun _ _ _ => rfl, _, rfl⟩
  have h2 (b : Bool) (u : State) : (if b then backOff u r else u).rings.planes = u.rings.planes := by
    split
    · exact backOff_planes u r
    · rfl
  obtain ⟨hother, m, hm⟩ := h1 ((statusSlots s ws).any fun w => !epochReject (secNflags w.sec))
  exact ⟨otherPlanes_trans hother (otherPlanes_of_planes (h2 _ _)), m, (planeAt_of_planes (h2 _ _) r p).trans hm⟩

/-- The return entered at its plane, and reported where the plane came back (R235). -/
def returnEntered (s : State) (r : RingId) (p : Plane) (frame : List Byte) (atNs : Nat) : State :=
  let s1 := planeMod s r p (returnedFrame s (frame.take 64) frame atNs)
  if (planeAt s r p).returning && hdrType (frame.take 64) == ftG then raiseShared s1 0x0584 (argPlane r p) else s1

/-- The sections of the frame that the lanes may use. -/
def usedSlots (r : RingId) (p : Plane) (frame : List Byte) (atNs : Nat) : List RingSlot :=
  if hdrType (frame.take 64) == ftG || hdrType (frame.take 64) == ftS then frameSlots r p atNs frame else []

/-- The status sections of an S-frame judged. -/
def returnJudged (s : State) (r : RingId) (p : Plane) (frame : List Byte) (atNs : Nat) : State :=
  if hdrType (frame.take 64) == ftS then judgeStatus (returnEntered s r p frame atNs) r p (usedSlots r p frame atNs)
  else returnEntered s r p frame atNs

/-- The copies of frames that a plane has seen are told by type, first position and cycle (R37). -/
def frameKey (frame : List Byte) : Nat × Nat × Nat := (hdrType (frame.take 64), hdrFirst (frame.take 64), hdrCycle (frame.take 64))

theorem returnAt_again {s : State} {r : RingId} {p : Plane} {frame : List Byte} (h : (planeAt s r p).got.contains (frameKey frame) = true)
    (atNs : Nat) : returnAt s r p frame atNs = s := if_pos h

theorem returnAt_first {s : State} {r : RingId} {p : Plane} {frame : List Byte} (h : (planeAt s r p).got.contains (frameKey frame) = false)
    (atNs : Nat) : returnAt s r p frame atNs =
      (usedSlots r p frame atNs).foldl (takeSlot (hdrType (frame.take 64) == ftG)) (returnJudged s r p frame atNs) :=
  if_neg (by simp [frameKey] at h ⊢; exact h)

theorem returnEntered_planes (s : State) (r : RingId) (p : Plane) (frame : List Byte) (atNs : Nat) :
    (returnEntered s r p frame atNs).rings.planes = (planeMod s r p (returnedFrame s (frame.take 64) frame atNs)).rings.planes := by
  unfold returnEntered
  dsimp only
  split
  · rw [raiseShared_rings]
  · rfl

theorem returnEntered_planeAt (s : State) (r : RingId) (p : Plane) (frame : List Byte) (atNs : Nat) :
    planeAt (returnEntered s r p frame atNs) r p = returnedFrame s (frame.take 64) frame atNs (planeAt s r p) := by
  rw [planeAt_of_planes (returnEntered_planes ..), planeAt_planeMod_same]

theorem returnEntered_other (s : State) (r : RingId) (p : Plane) (frame : List Byte) (atNs : Nat) :
    otherPlanes r p s (returnEntered s r p frame atNs) :=
  otherPlanes_trans (planeMod_otherPlanes _ _ _ _) (otherPlanes_of_planes (returnEntered_planes ..))

theorem returnJudged_plane (s : State) (r : RingId) (p : Plane) (frame : List Byte) (atNs : Nat) :
    otherPlanes r p s (returnJudged s r p frame atNs) ∧
      ∃ m, planeAt (returnJudged s r p frame atNs) r p = { returnedFrame s (frame.take 64) frame atNs (planeAt s r p) with mastered := m } := by
  have he := returnEntered_planeAt s r p frame atNs
  have ho := returnEntered_other s r p frame atNs
  unfold returnJudged
  split
  · obtain ⟨hother, m, hm⟩ := judgeStatus_plane (returnEntered s r p frame atNs) r p (usedSlots r p frame atNs)
    exact ⟨otherPlanes_trans ho hother, m, hm.trans (by rw [he])⟩
  · exact ⟨ho, _, he⟩

/-- A first copy is entered at its plane (R37, R235); no other plane hears of it. -/
theorem returnAt_plane {s : State} {r : RingId} {p : Plane} {frame : List Byte} (h : (planeAt s r p).got.contains (frameKey frame) = false)
    (atNs : Nat) : otherPlanes r p s (returnAt s r p frame atNs) ∧
      ∃ m, planeAt (returnAt s r p frame atNs) r p = { returnedFrame s (frame.take 64) frame atNs (planeAt s r p) with mastered := m } := by
  obtain ⟨hother, m, hm⟩ := returnJudged_plane s r p frame atNs
  rw [returnAt_first h]
  exact ⟨otherPlanes_trans hother (otherPlanes_of_planes (foldl_takeSlot_planes ..)), m,
    (planeAt_of_planes (foldl_takeSlot_planes ..) r p).trans hm⟩

theorem returnEntered_cyc (s : State) (r : RingId) (p : Plane) (frame : List Byte) (atNs : Nat) :
    (returnEntered s r p frame atNs).cyc = s.cyc ∧ (returnEntered s r p frame atNs).lanes = s.lanes ∧
      (returnEntered s r p frame atNs).rings.hand = s.rings.hand := by
  unfold returnEntered
  dsimp only
  split
  · rw [raiseShared_cyc, raiseShared_lanes, raiseShared_rings]
    exact ⟨rfl, rfl, rfl⟩
  · exact ⟨rfl, rfl, rfl⟩

/-- Of a G-frame that comes too late no section reaches a lane (R36, R234). -/
theorem returnAt_late {s : State} {r : RingId} {p : Plane} {frame : List Byte} {atNs : Nat}
    (h : (planeAt s r p).got.contains (frameKey frame) = false) (hg : hdrType (frame.take 64) = ftG)
    (hl : s.cyc.closed = true ∨ 430000 ≤ atNs) :
    (returnAt s r p frame atNs).lanes = s.lanes ∧ (returnAt s r p frame atNs).rings.hand = s.rings.hand := by
  obtain ⟨hcyc, hlanes, hhand⟩ := returnEntered_cyc s r p frame atNs
  have hjudged : returnJudged s r p frame atNs = returnEntered s r p frame atNs := if_neg (by rw [hg]; decide)
  have hlate : (returnEntered s r p frame atNs).cyc.closed = true ∨ ∀ w ∈ usedSlots r p frame atNs, 430000 < w.atNs := by
    rw [hcyc]
    refine hl.imp_right fun hat w hw => lt_of_le_of_lt hat (frameSlots_after (r := r) (p := p) (frame := frame) ?_)
    have hused : usedSlots r p frame atNs = frameSlots r p atNs frame := if_pos (by rw [hg]; decide)
    rwa [hused] at hw
  have hisG : (hdrType (frame.take 64) == ftG) = true := by simp [hg]
  have hk := foldl_lateSection_kept (usedSlots r p frame atNs) (returnEntered s r p frame atNs)
  rw [returnAt_first h, hisG, hjudged, foldl_takeSlot_late hlate]
  exact ⟨(hk.frame.rest .lanes (by decide)).trans hlanes, (congrArg (·.hand) (hk.frame.rest .rings (by decide))).trans hhand⟩

theorem exec_ringSectionArrival_own {s : State} (hu : hubUp s = true) (hh : s.peer.held = true) {frame : List Byte}
    (ho : ownFrame s (frame.take 64) = true) (r : RingId) (p : Plane) (atNs : Nat) :
    exec (.ringSectionArrival r p frame atNs) s = .next (returnAt (advanceTo s atNs) r p frame atNs) := by
  have hown : (s.peer.held && ownFrame s (frame.take 64)) = true := by rw [hh, ho]; rfl
  exact congrArg Host.Outcome.next ((if_pos hu).trans (if_pos hown))

/-- Settles O42: a launch by what it makes of each started plane, a return by its plane and by the lateness of its sections. -/
theorem framesLaunchedAndTaken : Obligations.FramesLaunchedAndTaken := by
  unfold Obligations.FramesLaunchedAndTaken
  refine ⟨fun s hc hd => ⟨?_, fun hs => ?_, fun hm fwd r p => sFrames_withFwd hm fwd r p⟩, fun s r p frame atNs hu hh ho =>
    ⟨fun hgot => ?_, fun hgot => ?_⟩⟩
  · have hx := exec_gFrameLaunch hc hd
    exact ⟨_, hx, fun r p h => gLaunchAt_in h, fun r p h => gLaunchAt_out h, gLaunchAt_single, exec_frame hx⟩
  · have hx := exec_sFrameLaunch hc hd hs
    refine ⟨_, hx, fun r p h => (sLaunchAt_planeAt s r p).trans (sLeft_in h),
      fun r p h => (sLaunchAt_planeAt s r p).trans (sLeft_out h), ?_, fun h => (sLaunchAt_peer s).trans (sLeft_single h), exec_frame hx⟩
    rw [sLaunchAt_eq]
    dsimp only
    rw [sLeft_cyc]
  · rw [exec_ringSectionArrival_own hu hh ho, returnAt_again]
    rw [advanceTo_planeAt]
    exact hgot
  · have hx := exec_ringSectionArrival_own hu hh ho r p atNs
    have hfirst : (planeAt (advanceTo s atNs) r p).got.contains (frameKey frame) = false := by
      rw [advanceTo_planeAt]
      exact hgot
    obtain ⟨hother, m, hm⟩ := returnAt_plane hfirst atNs
    refine ⟨_, hx, ?_, ?_, ?_, fun q o hne => (hother q o hne).trans (advanceTo_planeAt ..), fun hg hl => ?_, exec_frame hx⟩
    · rw [hm]
      rfl
    · rw [hm]
      rfl
    · rw [hm, returnedFrame, advanceTo_planeAt]
    · have hlate := returnAt_late hfirst hg (hl.imp_left fun h => by rw [advanceTo_cyc, h])
      rwa [advanceTo_lanes, advanceTo_rings] at hlate

end Sys2Proof.Machine
end

section
/-! SUPPORT. Memory as a whole: memories that read alike are equal, bytes stored are read back, a DELTA replays (R88, R168, R174). -/

namespace Sys2Proof.Machine

/-! ## Canonical memories that read alike are equal -/

theorem memByte_head (x : Nat) (b : Byte) (m : Mem) : memByte ((x, b) :: m) x = b := if_pos rfl

theorem memByte_tail {x a : Nat} (h : a ≠ x) (b : Byte) (m : Mem) : memByte ((x, b) :: m) a = memByte m a := if_neg h.symm

/-- Below its first address a canonical memory holds nothing. -/
theorem memByte_below_head {x y : Nat} {b : Byte} {m : Mem} (h : memWf ((y, b) :: m) = true) (hx : x < y) :
    memByte ((y, b) :: m) x = 0 := by
  obtain ⟨-, habove, -⟩ := (memWf_cons ..).mp h
  rw [memByte_tail hx.ne, memByte_above fun c hc => hx.trans (habove c hc)]

/-- A memory that reads as a canonical one does not begin above it. -/
theorem head_le_of_reads {x y : Nat} {b c : Byte} {m n : Mem} (hm : memWf ((x, b) :: m) = true) (hn : memWf ((y, c) :: n) = true)
    (h : memByte ((x, b) :: m) x = memByte ((y, c) :: n) x) : y ≤ x := by
  obtain ⟨hb, -, -⟩ := (memWf_cons ..).mp hm
  by_contra hlt
  rw [memByte_head, memByte_below_head hn (Nat.lt_of_not_le hlt)] at h
  exact hb h

theorem eq_nil_of_reads {m : Mem} (hm : memWf m = true) (h : ∀ a, memByte m a = 0) : m = [] := by
  cases m with
  | nil => rfl
  | cons c r => exact absurd ((memByte_head ..).symm.trans (h c.1)) ((memWf_cons ..).mp hm).1

theorem mem_ext {m n : Mem} (hm : memWf m = true) (hn : memWf n = true) (h : ∀ a, memByte m a = memByte n a) : m = n := by
  induction m generalizing n with
  | nil => exact (eq_nil_of_reads hn fun a => (h a).symm).symm
  | cons c r ih =>
    cases n with
    | nil => exact eq_nil_of_reads hm h
    | cons d q =>
      obtain ⟨x, b⟩ := c
      obtain ⟨y, e⟩ := d
      obtain rfl : x = y := Nat.le_antisymm (head_le_of_reads hn hm (h y).symm) (head_le_of_reads hm hn (h x))
      obtain ⟨-, hr, hrwf⟩ := (memWf_cons ..).mp hm
      obtain ⟨-, hq, hqwf⟩ := (memWf_cons ..).mp hn
      have hbe : b = e := by simpa only [memByte_head] using h x
      have htail : r = q := ih hrwf hqwf fun a => by
        by_cases ha : a = x
        · rw [ha, memByte_above hr, memByte_above hq]
        · simpa only [memByte_tail ha] using h a
      rw [hbe, htail]

/-! ## Bytes stored are read back -/

theorem memRead_memWrite {m : Mem} (hm : memWf m = true) (a : Nat) (bs : List Byte) :
    memRead (memWrite m a bs) a bs.length = bs := by
  rw [memRead_eq]
  refine List.ext_getElem (by simp) fun i _ hi => ?_
  rw [List.getElem_map, List.getElem_range, memByte_memWrite bs a _ hm, if_pos ⟨Nat.le_add_right .., Nat.add_lt_add_left hi a⟩,
    Nat.add_sub_cancel_left, List.getD_eq_getElem _ _ hi]

/-! ## The 64-bit words of a memory (R88) -/

theorem leBytes_leNat (bs : List Byte) : leBytes bs.length (leNat bs) = bs := by
  induction bs with
  | nil => rfl
  | cons b bs ih =>
    have hb := b.isLt
    have hbyte : BitVec.ofNat 8 (b.toNat + 256 * leNat bs) = b := BitVec.eq_of_toNat_eq (by rw [BitVec.toNat_ofNat]; omega)
    have hrest : (b.toNat + 256 * leNat bs) / 256 = leNat bs := by omega
    rw [leNat, List.length_cons, leBytes, hbyte, hrest, ih]

theorem leNat_lt (bs : List Byte) : leNat bs < 256 ^ bs.length := by
  induction bs with
  | nil => exact Nat.one_pos
  | cons b bs ih =>
    have hb := b.isLt
    rw [leNat, List.length_cons, Nat.pow_succ]
    omega

theorem length_memRead (m : Mem) (a n : Nat) : (memRead m a n).length = n := by simp [memRead_eq]

/-- A word spelt as eight bytes is what the memory holds there. -/
theorem leBytes_memWord (m : Mem) (w : Nat) : leBytes 8 (memWord m w).toNat = memRead m (8 * w) 8 := by
  have hlen := length_memRead m (8 * w) 8
  have hlt : memNat m (8 * w) 8 < 2 ^ 64 := by simpa [hlen, memNat] using leNat_lt (memRead m (8 * w) 8)
  rw [memWord, BitVec.toNat_ofNat, Nat.mod_eq_of_lt hlt, memNat]
  conv_lhs => rw [← hlen]
  exact leBytes_leNat _

/-- A byte as the one of its word. -/
theorem memByte_eq_getD (m : Mem) (x : Nat) : memByte m x = (leBytes 8 (memWord m (x / 8)).toNat).getD (x - 8 * (x / 8)) 0 := by
  have hi : x - 8 * (x / 8) < (memRead m (8 * (x / 8)) 8).length := by rw [length_memRead]; omega
  rw [leBytes_memWord, List.getD_eq_getElem _ _ hi]
  simp only [memRead_eq, List.getElem_map, List.getElem_range]
  congr 1
  omega

theorem exists_cell_of_memByte {m : Mem} {x : Nat} (h : memByte m x ≠ 0) : ∃ c ∈ m, c.1 = x := by
  by_contra hno
  push Not at hno
  induction m with
  | nil => exact h rfl
  | cons c r ih =>
    rw [memByte_tail (hno c List.mem_cons_self).symm] at h
    exact ih h fun d hd => hno d (List.mem_cons_of_mem _ hd)

theorem mem_dedupSorted {l : List Nat} {x : Nat} : x ∈ dedupSorted l ↔ x ∈ l := by
  induction l with
  | nil => rfl
  | cons y r ih =>
    cases r with
    | nil => rfl
    | cons z q =>
      rw [dedupSorted]
      split
      next h => rw [ih, h]; simp
      next => rw [List.mem_cons, ih, List.mem_cons (a := x) (b := y)]

theorem mem_insertUp {x y : Nat} {l : List Nat} : y ∈ insertUp x l ↔ y = x ∨ y ∈ l := by
  induction l with
  | nil => simp [insertUp]
  | cons z r ih =>
    rw [insertUp]
    split
    · exact List.mem_cons
    · split
      next h => rw [h, List.mem_cons, ← or_assoc, or_self]
      next => rw [List.mem_cons, ih, List.mem_cons, or_left_comm]

theorem mem_unionSorted {xs ys : List Nat} {z : Nat} : z ∈ unionSorted xs ys ↔ z ∈ xs ∨ z ∈ ys := by
  induction xs with
  | nil => simp [unionSorted]
  | cons x xs ih => rw [unionSorted, List.foldr_cons, mem_insertUp, ← unionSorted, ih, List.mem_cons, or_assoc]

/-- The word of a byte that is not 0 is one of those listed. -/
theorem div_mem_memWords {m : Mem} {x : Nat} (h : memByte m x ≠ 0) : x / 8 ∈ memWords m := by
  obtain ⟨c, hc, rfl⟩ := exists_cell_of_memByte h
  exact mem_dedupSorted.mpr (List.mem_map_of_mem hc)

/-! ## A DELTA replayed (R168, R174) -/

/-- The words of a memory laid over another: their bytes are those of the first, every other byte stands. -/
theorem memByte_memApply_words (new : Mem) (ws : List Nat) {m : Mem} (hm : memWf m = true) (x : Nat) :
    memByte (memApply m (ws.map fun w => (8 * w, memWord new w))) x = if x / 8 ∈ ws then memByte new x else memByte m x := by
  induction ws generalizing m with
  | nil => rfl
  | cons w ws ih =>
    have hlen : (leBytes 8 (memWord new w).toNat).length = 8 := by rw [leBytes_memWord, length_memRead]
    have hstore : memByte (memWrite m (8 * w) (leBytes 8 (memWord new w).toNat)) x =
        if x / 8 = w then memByte new x else memByte m x := by
      rw [memByte_memWrite _ _ _ hm, hlen]
      by_cases hw : x / 8 = w
      · rw [if_pos (by omega), if_pos hw, memByte_eq_getD new x, hw]
      · rw [if_neg (by omega), if_neg hw]
    rw [List.map_cons, memApply, List.foldl_cons, ← memApply, ih (memWrite_wf _ _ hm), hstore]
    by_cases hws : x / 8 ∈ ws
    · rw [if_pos hws, if_pos (List.mem_cons_of_mem _ hws)]
    · simp only [List.mem_cons, hws, or_false, if_false]

/-- Bytes outside the words of a DELTA are alike in both regions. -/
theorem memByte_eq_of_not_delta {old new : Mem} {x : Nat}
    (h : x / 8 ∉ (unionSorted (memWords old) (memWords new)).filter fun w => memWord old w != memWord new w) :
    memByte old x = memByte new x := by
  rw [List.mem_filter, mem_unionSorted, bne_iff_ne] at h
  by_cases hw : memWord old (x / 8) = memWord new (x / 8)
  · rw [memByte_eq_getD old, memByte_eq_getD new, hw]
  · have hold : memByte old x = 0 := by
      by_contra hne
      exact h ⟨Or.inl (div_mem_memWords hne), hw⟩
    have hnew : memByte new x = 0 := by
      by_contra hne
      exact h ⟨Or.inr (div_mem_memWords hne), hw⟩
    rw [hold, hnew]

theorem memApply_memDelta {old new : Mem} (hold : memWf old = true) (hnew : memWf new = true) :
    memApply old (memDelta old new) = new := by
  refine mem_ext (memApply_wf _ hold) hnew fun x => ?_
  rw [memDelta, memByte_memApply_words new _ hold]
  split
  next => rfl
  next h => exact memByte_eq_of_not_delta h

/-- Settles O8. -/
theorem memoryStoresAndReplays : Obligations.MemoryStoresAndReplays := by
  unfold Obligations.MemoryStoresAndReplays
  exact ⟨fun _ _ => mem_ext, fun m a bs hm => ⟨memWrite_wf bs a hm, fun x => memByte_memWrite bs a x hm, memRead_memWrite hm a bs⟩,
    fun _ _ => memApply_memDelta⟩

end Sys2Proof.Machine
end

section
/-! SUPPORT. Lockstep and debug: a lane that stops itself, its exclusion by the others, the debug halt and its release (R79, R96, R113 to
R115). -/

namespace Sys2Proof.Machine

/-! ## A lockstep mismatch (R79) -/

theorem exec_lockstepMismatch {s : State} (hu : hubUp s = true) {l : Lane} (hl : lockstepLive s (s.lanes.get l) = true) (clk : Word) :
    exec (.lockstepMismatch l clk) s = .next (lockstepAt l clk s) :=
  congrArg _ (if_pos (by simp [hu, hl]))

/-- A flit leaves no copy with its sender (R17). -/
theorem flitSent_sender (s : State) (l : Lane) (kind : FlitKind) : (flitSent s l kind).lanes.get l = s.lanes.get l := by
  rw [flitSent, Quad.get_mapL, if_pos rfl]

/-- In another lane a flit enters the link buffer from its sender alone (R17). -/
theorem flitSent_other (s : State) {l m : Lane} (h : m ≠ l) (kind : FlitKind) : (flitSent s l kind).lanes.get m =
    { s.lanes.get m with purlin := (s.lanes.get m).purlin.modify l fun q => q.send ⟨s.cyc.k, kind⟩ } := by
  rw [flitSent, Quad.get_mapL, if_neg h]

/-- The record that a mismatch leaves in the lane's own black box (R79). -/
def mismatchRec (l : Lane) (clk : Word) (s : State) : GRec :=
  mkRec s 0x0201 0 3 0 (laneMask [l]) (argLane l ++ arg8 s.cyc.k.toNat ++ arg4 clk.toNat)

theorem lockstepAt_lane (l : Lane) (clk : Word) (s : State) : (lockstepAt l clk s).lanes.get l =
    boxWritten (mismatchRec l clk s) { (blockMram (s.lanes.get l)) with stopped := true, clocksOn := false, txBuf := [] } := by
  rw [lockstepAt, flitSent_sender, onLane_same]
  rfl

theorem lockstepAt_other {l m : Lane} (h : m ≠ l) (clk : Word) (s : State) : (lockstepAt l clk s).lanes.get m =
    { s.lanes.get m with purlin := (s.lanes.get m).purlin.modify l fun q => q.send ⟨s.cyc.k, .stop⟩ } := by
  rw [lockstepAt, flitSent_other _ h, onLane_other _ _ _ _ h, onLane_cyc]

theorem exec_lFrameSend_stopped {s : State} {l : Lane} (h : (s.lanes.get l).stopped = true) : exec (.lFrameSend l) s = .next s :=
  congrArg _ (if_neg (by simp [h]))

/-! ## The STOP flit is seen (R96) -/

theorem exec_stopFlit {s : State} (hu : hubUp s = true) {l : Lane} (hl : (s.lanes.get l).stopped = true)
    (hs : s.cyc.stops.get l = false) : exec (.stopFlit l) s = .next (stopFlitAt l s) :=
  congrArg _ (if_pos (by simp [hu, hl, hs]))

theorem callResting_toExcl (s : State) : (callResting s).cyc.toExcl = s.cyc.toExcl := by
  unfold callResting
  split
  · rfl
  · dsimp only
    split <;> rfl

/-- The first cause decided for a lane stands for it (R96). -/
theorem decideExcl_toExcl {s : State} {l : Lane} (h : s.cyc.toExcl.get l = none) (c : ExclCause) (more : List Byte) :
    (decideExcl s l c more).cyc.toExcl = s.cyc.toExcl.set l (some c) := by
  unfold decideExcl
  rw [h]
  dsimp only
  split
  · rw [callResting_toExcl]
    split
    · rfl
    · rw [raiseShared_cyc]
  · split
    · rfl
    · rw [raiseShared_cyc]

theorem stopFlitAt_toExcl {s : State} {l : Lane} (h : s.cyc.toExcl.get l = none) :
    (stopFlitAt l s).cyc.toExcl = s.cyc.toExcl.set l (some .lockstep) := by
  unfold stopFlitAt
  rw [decideExcl_toExcl (by exact h)]
  rfl

theorem stopFlitAt_stops (s : State) (l : Lane) : (stopFlitAt l s).cyc.stops = s.cyc.stops.set l true := by
  unfold stopFlitAt
  exact field_of_mask CycleSt.stops (decideExcl_cyc _ l .lockstep []) fun _ => rfl

/-! ## Debug (R113 to R115) -/

theorem exec_debugHalt {s : State} (hu : hubUp s = true) {l : Lane} (h : haltAllowed s (s.lanes.get l) = true) :
    exec (.debugHalt l) s = .next (onLane s l fun x => { (abandonSlice x) with haltReq := true, clocksOn := false }) :=
  congrArg _ (if_pos (by simp [hu, h]))

theorem exec_debugHalt_refused {s : State} {l : Lane} (h : haltAllowed s (s.lanes.get l) = false) :
    exec (.debugHalt l) s = .next s :=
  congrArg _ (if_neg (by simp [h]))

theorem haltAllowed_of_key {s : State} {x : LaneSt} (hh : x.role.healthy = true) (hr : x.haltReq = false)
    (hk : keyForCommands s = some .test ∨ (keyForCommands s = some .maint ∧ x.role = .resting)) : haltAllowed s x = true := by
  obtain hk | ⟨hk, hx⟩ := hk
  · simp [haltAllowed, hh, hr, hk]
  · simp [haltAllowed, hr, hk, hx, Role.healthy]

theorem haltAllowed_run {s : State} (hk : keyForCommands s = some .run) (x : LaneSt) : haltAllowed s x = false := by
  simp [haltAllowed, hk]

theorem abandonSlice_running (x : LaneSt) : (abandonSlice x).bist.running = false := by
  unfold abandonSlice
  split
  · rfl
  next h => simpa using h

theorem exec_debugRelease {s : State} (hu : hubUp s = true) {l : Lane} (h : (s.lanes.get l).role = .halted) :
    exec (.debugRelease l) s = .next (onLane s l releaseHalted) :=
  congrArg _ (if_pos (by simp [hu, h]))

/-- Settles O33: the mismatch by the lane and its neighbours, the STOP flit by the exclusion decided, the halt by the key. -/
theorem lockstepAndDebugStop : Obligations.LockstepAndDebugStop := by
  unfold Obligations.LockstepAndDebugStop
  refine fun s l hu => ⟨fun hl clk => ?_, exec_lFrameSend_stopped, fun hl hs hn => ?_, fun hh hr hk => ?_,
    fun hk => exec_debugHalt_refused (haltAllowed_run hk _), fun hr => ?_⟩
  · have hx := exec_lockstepMismatch hu hl clk
    refine ⟨_, hx, ?_, ?_, ?_, ?_, ?_, fun m hm => ?_, exec_frame hx⟩
    iterate 4
      rw [lockstepAt_lane]
      rfl
    · obtain ⟨n, hn⟩ := boxWritten_getLast? (mismatchRec l clk s)
        { (blockMram (s.lanes.get l)) with stopped := true, clocksOn := false, txBuf := [] }
      rw [lockstepAt_lane]
      exact ⟨_, hn, rfl⟩
    · rw [lockstepAt_other hm]
      exact ⟨Quad.get_modify_same .., rfl⟩
  · have hx := exec_stopFlit hu hl hs
    refine ⟨_, hx, ?_, ?_, fun m hm => ?_, exec_frame hx⟩
    · rw [stopFlitAt_toExcl hn, Quad.get_set_same]
    · rw [stopFlitAt_stops, Quad.get_set_same]
    · rw [stopFlitAt_toExcl hn, Quad.get_set_other _ _ _ _ hm]
  · have hx := exec_debugHalt hu (haltAllowed_of_key hh hr hk)
    refine ⟨_, hx, ?_, ?_, ?_, fun m hm => onLane_other _ _ _ _ hm, exec_frame hx⟩
    · rw [onLane_same]
    · rw [onLane_same]
    · rw [onLane_same]
      exact abandonSlice_running _
  · have hx := exec_debugRelease hu hr
    refine ⟨_, hx, ?_, ?_, ?_, ?_, ?_, ?_, fun m hm => onLane_other _ _ _ _ hm, exec_frame hx⟩
    all_goals
      rw [onLane_same]
      rfl

end Sys2Proof.Machine
end

section
/-! SUPPORT. The Batten links: the L frame that a lane sends, what the receiver takes, the silence of a receiver, the E frame that a lane
takes (R79, R96, R100, R249, R253, R256, R271 to R275). -/

namespace Sys2Proof.Machine

/-! ## The L frame is sent (R256, R271) -/

theorem exec_lFrameSend {s : State} {l : Lane} (hp : powered s = true) (hs : (s.lanes.get l).stopped = false)
    (hr : (s.lanes.get l).role ≠ .retired) (ht : portTested (s.lanes.get l) = false) : exec (.lFrameSend l) s =
      .next (onLane s l fun x => lSent (lBytes (lFrameNow s l (settleCfg s x))) (settleCfg s x)) :=
  congrArg _ (if_pos (by simp [hp, hs, hr, ht]))

theorem exec_lFrameSend_tested {s : State} {l : Lane} (h : portTested (s.lanes.get l) = true) :
    exec (.lFrameSend l) s = .next s :=
  congrArg _ (if_neg (by simp [h]))

/-- Settling the configuration touches only what of it the lane sends (R276). -/
theorem settleCfg_eq (s : State) (x : LaneSt) :
    ∃ crc k page, settleCfg s x = { x with cfgSent := crc, cfgCycle := k, cfgPage := page } := by
  unfold settleCfg
  dsimp only
  split <;> exact ⟨_, _, _, rfl⟩

/-- The frame that a lane sends next: its configuration settled first. -/
def frameSent (s : State) (l : Lane) : LFrame := lFrameNow s l (settleCfg s (s.lanes.get l))

theorem settleCfg_txSeq (s : State) (x : LaneSt) : (settleCfg s x).txSeq = x.txSeq := by
  obtain ⟨crc, k, page, h⟩ := settleCfg_eq s x
  rw [h]

theorem frameSent_seq (s : State) (l : Lane) : (frameSent s l).seq = (s.lanes.get l).txSeq + 1 :=
  congrArg (· + 1) (settleCfg_txSeq ..)

theorem frameSent_split (s : State) (l : Lane) : (frameSent s l).split = true ↔ s.mod.st = .split := by
  simp [frameSent, lFrameNow]

/-- A lane that drives sends its voted drive with the instant at which it applies (R256, R271). -/
theorem lFrameNow_drives {s : State} {x : LaneSt} (h : laneDrives s x = true) (l : Lane) :
    (lFrameNow s l x).drive = x.driveE ∧ (lFrameNow s l x).gm = x.driveG ∧
      (lFrameNow s l x).dcycle = x.dcycle.setWidth 32 := by
  simp [lFrameNow, h]

theorem lFrameNow_idle {s : State} {x : LaneSt} (h : laneDrives s x = false) (l : Lane) :
    (lFrameNow s l x).drive = 0 ∧ (lFrameNow s l x).gm = 0 := by
  simp [lFrameNow, h]

theorem frameSent_drives {s : State} {l : Lane} (h : laneDrives s (s.lanes.get l) = true) :
    (frameSent s l).drive = (s.lanes.get l).driveE ∧ (frameSent s l).gm = (s.lanes.get l).driveG ∧
      (frameSent s l).dcycle = (s.lanes.get l).dcycle.setWidth 32 := by
  obtain ⟨crc, k, page, hcfg⟩ := settleCfg_eq s (s.lanes.get l)
  rw [frameSent, hcfg]
  exact lFrameNow_drives h l

theorem frameSent_idle {s : State} {l : Lane} (h : laneDrives s (s.lanes.get l) = false) :
    (frameSent s l).drive = 0 ∧ (frameSent s l).gm = 0 := by
  obtain ⟨crc, k, page, hcfg⟩ := settleCfg_eq s (s.lanes.get l)
  rw [frameSent, hcfg]
  exact lFrameNow_idle h l

/-- The newest frame stands last in the transmit buffer (R18). -/
theorem lSent_getLast? (b : List Byte) (x : LaneSt) : (lSent b x).txBuf.getLast? = some b := by
  have hlen : ¬ (x.txBuf ++ [b]).length ≤ x.txBuf.length - 1 := by
    rw [List.length_append, List.length_singleton]
    omega
  rw [lSent, List.getLast?_drop, if_neg hlen, List.getLast?_concat]

theorem lSent_length (b : List Byte) (x : LaneSt) : (lSent b x).txBuf.length ≤ 2 := by
  rw [lSent, List.length_drop, List.length_append, List.length_singleton]
  omega

/-! ## The receiver (R253, R273, R274) -/

theorem rcvMod_same (e : EavesSt) (l : Lane) (f : Receiver → Receiver) : (rcvMod e l f).rcv.get l = f (e.rcv.get l) :=
  Quad.get_modify_same ..

theorem rcvMod_other (e : EavesSt) {l m : Lane} (h : m ≠ l) (f : Receiver → Receiver) :
    (rcvMod e l f).rcv.get m = e.rcv.get m :=
  Quad.get_modify_other _ _ _ _ h

theorem exec_lFrameReceive_valid {s : State} {l : Lane} {b : List Byte} {d : List RWrite} (hs : s.mod.st ≠ .off)
    (hb : (s.lanes.get l).txBuf.getLast? = some b) (hv : lValid l (s.eaves.rcv.get l).seq (damaged b d) = true) :
    exec (.lFrameReceive l d) s =
      .next { (onLane s l fun x => { x with txBuf := [] }) with eaves := takeLAt s.eaves l (lFields (damaged b d)) } := by
  refine congrArg Host.Outcome.next ?_
  rw [hb]
  exact (if_neg hs).trans (if_pos hv)

theorem exec_lFrameReceive_invalid {s : State} {l : Lane} {b : List Byte} {d : List RWrite} (hs : s.mod.st ≠ .off)
    (hb : (s.lanes.get l).txBuf.getLast? = some b) (hv : lValid l (s.eaves.rcv.get l).seq (damaged b d) = false) :
    exec (.lFrameReceive l d) s = .next { (onLane s l fun x => { x with txBuf := [] }) with
      eaves := rcvMod s.eaves l fun r => { r with nValid := 0 } } := by
  refine congrArg Host.Outcome.next ?_
  rw [hb]
  exact (if_neg hs).trans (if_neg (by simp [hv]))

/-- The Eaves block once a receiver has gone silent (R274). -/
def silencedAt (l : Lane) (e : EavesSt) : EavesSt :=
  refreshOuts { (rcvMod e l silentRcv) with marks := e.marks.filter fun m => m.1 != l }

theorem exec_battenReceiverTimeout {s : State} (hs : s.mod.st ≠ .off) (l : Lane) :
    exec (.battenReceiverTimeout l) s = .next { s with eaves := silencedAt l s.eaves } :=
  congrArg _ (if_pos (by simp [hs]))

theorem silencedAt_same (l : Lane) (e : EavesSt) : (silencedAt l e).rcv.get l = silentRcv (e.rcv.get l) := rcvMod_same ..

theorem silencedAt_live (l : Lane) (e : EavesSt) : rcvLive (silencedAt l e) l = false := by
  rw [rcvLive, silencedAt_same]
  rfl

theorem silencedAt_marks {l : Lane} {e : EavesSt} {x : Lane × Word} (h : x ∈ (silencedAt l e).marks) : x.1 ≠ l := by
  simpa using (List.mem_filter.mp h).2

/-! ## The E frame (R249, R272, R273) -/

theorem exec_battenDeadline {s : State} (hp : powered s = true) (l : Lane) :
    exec (.battenDeadline l) s = .next (onLane s l fun x => { x with battenMiss := true, rxSeq := none }) :=
  congrArg _ (if_pos hp)

/-- SEQ of the E frame that arrives behind `n` lost ones (R272). -/
def eSeqAfter (s : State) (l : Lane) (n : Nat) : Byte := (s.eaves.rcv.get l).eSeq + BitVec.ofNat 8 (n + 1)

/-- Its bytes as they arrive. -/
def eArrived (s : State) (l : Lane) (n : Nat) (d : List RWrite) : List Byte :=
  damaged (eBytes (eFrameNow s.eaves l (eSeqAfter s l n))) d

/-- The frame has been sent, whatever the lane makes of it. -/
def eSent (s : State) (l : Lane) (n : Nat) : State :=
  { s with eaves := rcvMod s.eaves l fun r => { r with eSeq := eSeqAfter s l n } }

/-- The lane takes the frame: its port is not under test, and the frame is valid for it (R273, R396). -/
def eTakes (s : State) (l : Lane) (b : List Byte) : Bool :=
  !portTested (s.lanes.get l) && eValid l (s.lanes.get l).rxSeq b

/-- The state once the frame has arrived. -/
def eReceived (s : State) (l : Lane) (n : Nat) (d : List RWrite) : State :=
  if eTakes s l (eArrived s l n d) then
    onLane (eSent s l n) l (takeE (s.cyc.k.setWidth 32) s.cyc.closed (eFields (eArrived s l n d)) (eArrived s l n d))
  else eSent s l n

theorem exec_eFrameReceive {s : State} (hp : powered s = true) (l : Lane) (n : Nat) (d : List RWrite) :
    exec (.eFrameReceive l n d) s = .next (eReceived s l n d) :=
  congrArg _ (if_pos hp)

theorem eReceived_eaves (s : State) (l : Lane) (n : Nat) (d : List RWrite) :
    (eReceived s l n d).eaves = rcvMod s.eaves l fun r => { r with eSeq := eSeqAfter s l n } := by
  unfold eReceived
  split <;> rfl

theorem eReceived_other (s : State) {l m : Lane} (h : m ≠ l) (n : Nat) (d : List RWrite) :
    (eReceived s l n d).lanes.get m = s.lanes.get m := by
  unfold eReceived
  split
  · exact onLane_other _ _ _ _ h
  · rfl

theorem eReceived_untaken {s : State} {l : Lane} {n : Nat} {d : List RWrite} (h : eTakes s l (eArrived s l n d) = false) :
    (eReceived s l n d).lanes = s.lanes := by
  rw [eReceived, if_neg (by simp [h])]
  rfl

theorem eReceived_taken {s : State} {l : Lane} {n : Nat} {d : List RWrite} (h : eTakes s l (eArrived s l n d) = true) :
    (eReceived s l n d).lanes.get l =
      takeE (s.cyc.k.setWidth 32) s.cyc.closed (eFields (eArrived s l n d)) (eArrived s l n d) (s.lanes.get l) := by
  rw [eReceived, if_pos h, onLane_same]
  rfl

/-- The first frame of the cycle that arrives before input close is the lane's sample (R249). -/
theorem takeE_sample {k : Word} {f : EFrame} {x : LaneSt} (he : x.eFrame = none) (hk : f.cycle = k) (raw : List Byte) :
    (takeE k false f raw x).eFrame = some f ∧ (takeE k false f raw x).eRaw = raw := by
  simp [takeE, he, hk]

/-- A lane that has its sample keeps it. -/
theorem takeE_sampled {x : LaneSt} (he : x.eFrame ≠ none) (k : Word) (closed : Bool) (f : EFrame) (raw : List Byte) :
    (takeE k closed f raw x).eFrame = x.eFrame := by
  simp [takeE, he]

/-- Settles O46: the frame sent by `lFrameNow`, the receiver by the frame's validity, the lane's sample by `takeE`. -/
theorem battenLinksCarryAndSupervise : Obligations.BattenLinksCarryAndSupervise := by
  unfold Obligations.BattenLinksCarryAndSupervise
  refine ⟨fun s l => ⟨fun hp hs hr ht => ?_, exec_lFrameSend_tested, fun b d hst hb => ⟨fun hv => ?_, fun hv => ?_⟩⟩,
    fun s l => ⟨fun hst => ?_, fun hp => ?_, fun hp n d => ?_⟩⟩
  · have hx := exec_lFrameSend hp hs hr ht
    refine ⟨_, frameSent s l, hx, ?_, ?_, rfl, frameSent_seq .., rfl, ?_, frameSent_split .., frameSent_drives, frameSent_idle,
      fun m hm => onLane_other _ _ _ _ hm, exec_frame hx⟩
    · rw [onLane_same]
      exact lSent_getLast? ..
    · rw [onLane_same]
      exact lSent_length ..
    · rw [onLane_same]
      exact frameSent_seq s l
  · have hx := exec_lFrameReceive_valid hst hb hv
    exact ⟨_, hx, rcvMod_same .., fun m hm => rcvMod_other _ hm _, rfl, exec_frame hx⟩
  · have hx := exec_lFrameReceive_invalid hst hb hv
    exact ⟨_, hx, onLane_same .., fun m hm => onLane_other _ _ _ _ hm, rcvMod_same .., fun m hm => rcvMod_other _ hm _, exec_frame hx⟩
  · have hx := exec_battenReceiverTimeout hst l
    have hr := silencedAt_same l s.eaves
    refine ⟨_, hx, ?_, ?_, ?_, ?_, ?_, silencedAt_live .., fun m hm => rcvMod_other _ hm _, fun x => silencedAt_marks, exec_frame hx⟩
    all_goals
      rw [hr]
      rfl
  · have hx := exec_battenDeadline hp l
    exact ⟨_, hx, onLane_same .., fun m hm => onLane_other _ _ _ _ hm, exec_frame hx⟩
  · have hx := exec_eFrameReceive hp l n d
    refine ⟨_, hx, ?_, fun m hm => ⟨eReceived_other s hm n d, ?_⟩, ?_, exec_frame hx⟩
    · rw [eReceived_eaves, rcvMod_same]
      rfl
    · rw [eReceived_eaves, rcvMod_other _ hm]
    · rintro b rfl
      refine ⟨fun hv => eReceived_untaken ?_, fun ht => eReceived_untaken ?_, fun ht hv => ?_⟩
      · exact Bool.and_eq_false_iff.mpr (Or.inr hv)
      · exact Bool.and_eq_false_iff.mpr (Or.inl (by simp [ht]))
      · rw [eReceived_taken (Bool.and_eq_true_iff.mpr ⟨by simp [ht], hv⟩)]
        refine ⟨rfl, fun he hc hk => ?_, fun he => takeE_sampled he ..⟩
        rw [hc]
        exact takeE_sample he hk _

end Sys2Proof.Machine
end

section
/-! SUPPORT. Errors of the memories in service: SRAM (R90, R398, R404), the sectors of MRAM and their spares (R162, R405, R406). -/

namespace Sys2Proof.Machine

/-- Of a change of a lane only what it makes of that lane counts. -/
theorem onLane_congr {s : State} {l : Lane} {f g : LaneSt → LaneSt} (h : f (s.lanes.get l) = g (s.lanes.get l)) :
    onLane s l f = onLane s l g := by
  rw [onLane, onLane, Quad.modify, Quad.modify, h]

/-! ## SRAM (R90, R398, R404) -/

theorem exec_eccCorrected {s : State} (hu : hubUp s = true) {l : Lane} (hr : (s.lanes.get l).role ≠ .retired) (row : Nat) :
    exec (.eccCorrected l row) s = .next (onLane s l (rowCorrected s.time.supUs row)) :=
  congrArg _ (if_pos (by simp [hu, hr]))

/-- A corrected error makes no row suspect but its own (R404). -/
theorem rowCorrected_suspect {r row : Nat} (h : r ≠ row) (now : DWord) (x : LaneSt) :
    (rowCorrected now row x).bist.suspect.contains r = x.bist.suspect.contains r := by
  unfold rowCorrected
  dsimp only
  split
  · simp [h]
  · rfl

theorem exec_eccUncorrectable {s : State} (hu : hubUp s = true) (l : Lane) :
    exec (.eccUncorrectable l) s = .next (onLane s l withholdVoter) :=
  congrArg _ (if_pos hu)

theorem withholdVoter_voting {x : LaneSt} (h : x.role = .voting) : withholdVoter x = { x with withhold := true } := by
  simp [withholdVoter, h]

theorem exec_sramScrub {s : State} (hu : hubUp s = true) (hd : s.cyc.done ≠ 0) (hk : s.cyc.done % 100000 = 0) {l : Lane}
    (hv : (s.lanes.get l).role = .voting) (bad : Bool) :
    exec (.sramScrub l [] bad) s = .next (onLane s l fun x => if bad then withholdVoter x else x) :=
  congrArg _ (if_pos (by simp [hu, hd, hk, hv]))

theorem exec_digestRecompute {s : State} (hu : hubUp s = true) (hd : s.cyc.done ≠ 0) (hk : s.cyc.done % 1024 = 0) {l : Lane}
    (hv : (s.lanes.get l).role = .voting) : exec (.digestRecompute l) s =
      .next (onLane s l fun x => { x with digest := digestWhole (laneWords x) x.region }) :=
  congrArg _ (if_pos (by simp [hu, hd, hk, hv]))

theorem exec_hubSramScrub {s : State} (hu : hubUp s = true) (bad : Bool) : exec (.hubSramScrub bad) s = .next { s with
    hub := { s.hub with scrubs := s.hub.scrubs + 1, scrubBad := s.hub.scrubBad + ofFlag bad } } :=
  congrArg _ (if_pos hu)

/-! ## A sector is remapped (R406, R410) -/

theorem voidRecord_record (x : LaneSt) : (voidRecord x).record = false := by
  unfold voidRecord
  split <;> rfl

theorem voidRecord_role (x : LaneSt) : (voidRecord x).role = x.role := by
  unfold voidRecord
  split <;> rfl

theorem voidRecord_remaps (x : LaneSt) : (bootCur (voidRecord x).mram).remaps = (bootCur x.mram).remaps := by
  unfold voidRecord
  split
  · rfl
  · dsimp only
    rw [bootCur_bootWrite]

theorem remapBoth_remaps (m : Mram) (sector spare : Nat) :
    (bootCur (remapBoth m sector spare)).remaps = (bootCur m).remaps ++ [(sector, spare)] := by
  unfold remapBoth
  rw [bootCur_bootWrite, bootCur_bootWrite]
  rfl

/-- The lane once the sector stands in the lowest free spare. -/
def sectorSpared (sector : Nat) (x : LaneSt) : LaneSt :=
  voidRecord { x with mram := { (remapBoth x.mram sector (firstSpare + (bootCur x.mram).remaps.length)) with
    corr := x.mram.corr.filter fun c => c.1 != sector } }

theorem sectorSpared_remaps (sector : Nat) (x : LaneSt) : (bootCur (sectorSpared sector x).mram).remaps =
    (bootCur x.mram).remaps ++ [(sector, 3882 + (bootCur x.mram).remaps.length)] :=
  (voidRecord_remaps _).trans (remapBoth_remaps ..)

/-- While a spare is free a remap changes the lane, and raises records (R407). -/
theorem remapSector_spared {s : State} {l : Lane} (h : sectFree (s.lanes.get l).mram ≠ 0) (sector : Nat) :
    Kept [.gut] (onLane s l (sectorSpared sector)) (remapSector s l sector) := by
  have hlane : (onLane s l fun x => voidRecord { x with mram := { (remapBoth x.mram sector
      (firstSpare + (bootCur (s.lanes.get l).mram).remaps.length)) with corr := x.mram.corr.filter fun c => c.1 != sector } }) =
      onLane s l (sectorSpared sector) := onLane_congr rfl
  unfold remapSector
  dsimp only
  rw [if_neg h, hlane]
  exact ((raiseLane_kept ..).mono rfl).step (sparesLow_kept ..) rfl

theorem exec_mramWriteFault {s : State} (hu : hubUp s = true) {l : Lane} (hr : (s.lanes.get l).role ≠ .retired) (sector : Nat) :
    exec (.mramWriteFault l sector) s = .next (remapSector s l sector) :=
  congrArg _ (if_pos (by simp [hu, hr]))

/-! ## A sector's content is lost (R162, R405) -/

/-- Behind the boot records the loss of a sector leaves them. -/
theorem loseSector_boot {n : Nat} (h : 4 ≤ n) (m : Mram) : (loseSector m n).boot = m.boot := by
  have h2 : ¬ n < 2 := by omega
  have h4 : ¬ n < 4 := by omega
  rw [loseSector, if_neg h2, if_neg h4]
  repeat'
    split
  all_goals rfl

theorem bootCur_congr {m n : Mram} (h : m.boot = n.boot) : bootCur m = bootCur n := by
  simp only [bootCur, h]

/-- The lane without the content of the sector. -/
def sectorDropped (sector : Nat) (x : LaneSt) : LaneSt :=
  { x with mram := loseSector x.mram (areaSector x.mram sector) }

theorem sectorDropped_bootCur {sector : Nat} {x : LaneSt} (h : 8 ≤ areaSector x.mram sector) :
    bootCur (sectorDropped sector x).mram = bootCur x.mram :=
  bootCur_congr (loseSector_boot (by omega) _)

theorem sectorLost_eq (l : Lane) (sector : Nat) (s : State) : ∃ count,
    sectorLost l sector s = boxLoss (remapSector (onLane s l (sectorDropped sector)) l sector) l count := by
  have hlane : (onLane s l fun x => { x with mram := loseSector x.mram (areaSector (s.lanes.get l).mram sector) }) =
      onLane s l (sectorDropped sector) := onLane_congr rfl
  unfold sectorLost
  dsimp only
  rw [hlane]
  exact ⟨_, rfl⟩

theorem exec_mramUncorrectableRead {s : State} (hu : hubUp s = true) {l : Lane} (hr : (s.lanes.get l).role ≠ .retired)
    (sector : Nat) : exec (.mramUncorrectableRead l sector) s = .next (sectorLost l sector s) :=
  congrArg _ (if_pos (by simp [hu, hr]))

/-! ## Corrected reads (R405) -/

/-- One more corrected read counts at most once more. -/
theorem corrCount_append_le (now : DWord) (m : Mram) (sector : Nat) :
    corrCount now { m with corr := m.corr ++ [(sector, now)] } sector ≤ corrCount now m sector + 1 := by
  simp only [corrCount, within24, List.filter_append, List.map_append, List.length_append]
  refine Nat.add_le_add_left ?_ _
  exact (List.length_filter_le ..).trans (by simp)

theorem sectorCorrected_counted {s : State} {l : Lane} {sector : Nat}
    (h : corrCount s.time.supUs (s.lanes.get l).mram sector ≤ 7) : sectorCorrected l sector s =
      onLane s l fun x => { x with mram := { x.mram with corr := x.mram.corr ++ [(sector, s.time.supUs)] } } := by
  have hle := corrCount_append_le s.time.supUs (s.lanes.get l).mram sector
  unfold sectorCorrected
  dsimp only
  rw [onLane_same]
  exact if_neg (Nat.not_lt.mpr (hle.trans (by omega)))

theorem exec_mramCorrectedRead {s : State} (hu : hubUp s = true) {l : Lane} (hr : (s.lanes.get l).role ≠ .retired)
    (sector : Nat) : exec (.mramCorrectedRead l sector) s = .next (sectorCorrected l sector s) :=
  congrArg _ (if_pos (by simp [hu, hr]))

/-! ## What a remap leaves, whatever called for it (R406) -/

/-- Beside the records that it raises a remap changes its lane alone: the sector stands in the next spare, RECORD is clear. -/
structure Remapped (s t : State) (l : Lane) (sector : Nat) : Prop where
  remaps : (bootCur (t.lanes.get l).mram).remaps =
    (bootCur (s.lanes.get l).mram).remaps ++ [(sector, 3882 + (bootCur (s.lanes.get l).mram).remaps.length)]
  record : (t.lanes.get l).record = false
  role   : (t.lanes.get l).role = (s.lanes.get l).role
  others : ∀ m, m ≠ l → t.lanes.get m = s.lanes.get m
  kept   : Kept [.lanes, .gut] s t

theorem remapSector_remapped {s : State} {l : Lane} (h : sectFree (s.lanes.get l).mram ≠ 0) (sector : Nat) :
    Remapped s (remapSector s l sector) l sector := by
  have hk := remapSector_spared h sector
  have hlanes : (remapSector s l sector).lanes = (onLane s l (sectorSpared sector)).lanes := hk.frame.rest .lanes (by decide)
  refine ⟨?_, ?_, ?_, fun m hm => ?_, ((onLane_kept ..).mono rfl).step hk rfl⟩
  · rw [hlanes, onLane_same, sectorSpared_remaps]
  · rw [hlanes, onLane_same]
    exact voidRecord_record _
  · rw [hlanes, onLane_same]
    exact voidRecord_role _
  · rw [hlanes, onLane_other _ _ _ _ hm]

namespace Remapped
variable {s t : State} {l : Lane} {sector : Nat}

/-- A change of the lane before its remap may be left out of the account if it leaves the boot record and the role. -/
theorem of_onLane {f : LaneSt → LaneSt} (h : Remapped (onLane s l f) t l sector)
    (hb : bootCur (f (s.lanes.get l)).mram = bootCur (s.lanes.get l).mram)
    (hr : (f (s.lanes.get l)).role = (s.lanes.get l).role) : Remapped s t l sector := by
  refine ⟨?_, h.record, ?_, fun m hm => ?_, ((onLane_kept s l f).mono rfl).step h.kept rfl⟩
  · rw [h.remaps, onLane_same, hb]
  · rw [h.role, onLane_same, hr]
  · rw [h.others m hm, onLane_other _ _ _ _ hm]

/-- The loss of black box records, where it is told, is a record of its own (R416). -/
theorem with_boxLoss (h : Remapped s t l sector) (count : Nat) : Remapped s (boxLoss t l count) l sector := by
  have hk := boxLoss_kept t l count
  have hlanes : (boxLoss t l count).lanes = t.lanes := hk.frame.rest .lanes (by decide)
  obtain ⟨hremaps, hrecord, hrole, hothers, hkept⟩ := h
  refine ⟨?_, ?_, ?_, ?_, hkept.step hk rfl⟩
  all_goals
    rw [hlanes]
    assumption

/-- The account as the statement gives it. -/
theorem next {c : Instr} (h : Remapped s t l sector) (hx : exec c s = .next t) : ∃ t, exec c s = .next t ∧
    (bootCur (t.lanes.get l).mram).remaps =
      (bootCur (s.lanes.get l).mram).remaps ++ [(sector, 3882 + (bootCur (s.lanes.get l).mram).remaps.length)] ∧
    (t.lanes.get l).record = false ∧ (t.lanes.get l).role = (s.lanes.get l).role ∧
    (∀ m, m ≠ l → t.lanes.get m = s.lanes.get m) ∧ Frame [.lanes, .gut] s t :=
  ⟨t, hx, h.remaps, h.record, h.role, h.others, h.kept.frame⟩

end Remapped

/-- An uncorrectable read remaps the sector whose content it drops, boot records apart (R405). -/
theorem sectorLost_remapped {s : State} {l : Lane} {sector : Nat} (h : sectFree (s.lanes.get l).mram ≠ 0)
    (ha : 8 ≤ areaSector (s.lanes.get l).mram sector) : Remapped s (sectorLost l sector s) l sector := by
  obtain ⟨count, he⟩ := sectorLost_eq l sector s
  have hb := sectorDropped_bootCur ha
  have hf : sectFree ((onLane s l (sectorDropped sector)).lanes.get l).mram ≠ 0 := by
    rwa [onLane_same, sectFree, hb]
  rw [he]
  exact ((remapSector_remapped hf sector).of_onLane hb rfl).with_boxLoss count

/-- Settles O36: SRAM by the lane's own record of it, a failed sector by `Remapped`, a corrected read by its count. -/
theorem memoryErrorsCounted : Obligations.MemoryErrorsCounted := by
  unfold Obligations.MemoryErrorsCounted
  refine fun s l hu => ⟨fun hr row => ?_, fun hv => ?_, fun hd hk hv bad => ?_, fun hd hk hv => ?_, exec_hubSramScrub hu,
    fun hr hfree c sector hc => ?_, fun hr sector hn => ?_⟩
  · have hx := exec_eccCorrected hu hr row
    refine ⟨_, hx, ?_, fun r hne => ?_, ?_, fun m hm => onLane_other _ _ _ _ hm, exec_frame hx⟩
    · rw [onLane_same]
      rfl
    · rw [onLane_same, rowCorrected_suspect hne]
    · rw [onLane_same]
      rfl
  · have hx := exec_eccUncorrectable hu l
    refine ⟨_, hx, ?_, fun m hm => onLane_other _ _ _ _ hm, exec_frame hx⟩
    rw [onLane_same, withholdVoter_voting hv]
  · have hx := exec_sramScrub hu hd hk hv bad
    refine ⟨_, hx, ?_, fun m hm => onLane_other _ _ _ _ hm, exec_frame hx⟩
    rw [onLane_same]
    cases bad with
    | true => rw [if_pos rfl, withholdVoter_voting hv, Bool.or_true]
    | false => rw [if_neg Bool.false_ne_true, Bool.or_false]
  · have hx := exec_digestRecompute hu hd hk hv
    exact ⟨_, hx, onLane_same .., fun m hm => onLane_other _ _ _ _ hm, exec_frame hx⟩
  · obtain rfl | ⟨rfl, harea⟩ := hc
    · exact (remapSector_remapped hfree sector).next (exec_mramWriteFault hu hr sector)
    · exact (sectorLost_remapped hfree harea).next (exec_mramUncorrectableRead hu hr sector)
  · have hx := exec_mramCorrectedRead hu hr sector
    rw [sectorCorrected_counted hn] at hx
    refine ⟨_, hx, ?_, fun m hm => onLane_other _ _ _ _ hm, (onLane_kept ..).frame⟩
    rw [onLane_same]

end Sys2Proof.Machine
end

section
/-! SUPPORT. Counts that every voting lane reports in its turn and starts again (R85, R139, R201). -/

namespace Sys2Proof.Machine

/-! ## The lanes report one after another -/

theorem mem_voting {s : State} {l : Lane} : l ∈ voting s ↔ (s.lanes.get l).role = .voting := by
  have hall : l ∈ Lane.all := by cases l <;> decide
  simp [voting, lanesIn, lanesWith, hall]

theorem onLane_lanes_congr {s t : State} (h : t.lanes = s.lanes) (l : Lane) (g : LaneSt → LaneSt) :
    (onLane t l g).lanes = (onLane s l g).lanes :=
  congrArg (fun q => Quad.modify q l g) h

section
variable {f : State → Lane → State} {g : LaneSt → LaneSt}

/-- Reports that change of the lanes only their own lane, each in the same way whether made once or twice. -/
theorem foldl_reports (hf : ∀ s l, (f s l).lanes = (onLane s l g).lanes) (hg : ∀ x, g (g x) = g x) (ls : List Lane) (s : State)
    (m : Lane) : (ls.foldl f s).lanes.get m = if m ∈ ls then g (s.lanes.get m) else s.lanes.get m := by
  induction ls generalizing s with
  | nil => rfl
  | cons l ls ih =>
    rw [List.foldl_cons, ih, hf]
    by_cases h : m = l
    · rw [h, onLane_same, hg, ite_self, if_pos List.mem_cons_self]
    · simp only [onLane_other _ _ _ _ h, List.mem_cons, h, false_or]

theorem foldl_reports_voting (hf : ∀ s l, (f s l).lanes = (onLane s l g).lanes) (hg : ∀ x, g (g x) = g x) (s : State) (m : Lane) :
    ((voting s).foldl f s).lanes.get m = if (s.lanes.get m).role = .voting then g (s.lanes.get m) else s.lanes.get m := by
  simp only [foldl_reports hf hg, mem_voting]

end

/-! ## Adopted decisions (R85) -/

/-- A lane reports the decisions it adopted. -/
def reportAdopted (s : State) (l : Lane) : State :=
  onLane (raiseLane s l 0x0281 (argLane l ++ arg2 (s.lanes.get l).adopted)) l fun x => { x with adopted := 0 }

theorem reportAdopted_lanes (s : State) (l : Lane) :
    (reportAdopted s l).lanes = (onLane s l fun x => { x with adopted := 0 }).lanes :=
  onLane_lanes_congr (raiseLane_lanes ..) ..

theorem exec_inputDiverge {s : State} (hu : hubUp s = true) (ho : s.cyc.opened = true) (hk : s.cyc.k.toNat % 100 = 0) :
    exec .inputDiverge s = .next (((voting s).filter fun l => (s.lanes.get l).adopted != 0).foldl reportAdopted s) :=
  congrArg _ (if_pos (by simp [hu, ho, hk]))

/-- A lane without adopted decisions reports none, and its count stands at 0 as it is. -/
theorem adopted_restart (s : State) (l : Lane) :
    (((voting s).filter fun l => (s.lanes.get l).adopted != 0).foldl reportAdopted s).lanes.get l =
      if (s.lanes.get l).role = .voting then { s.lanes.get l with adopted := 0 } else s.lanes.get l := by
  rw [foldl_reports reportAdopted_lanes fun _ => rfl]
  simp only [List.mem_filter, mem_voting, bne_iff_ne]
  by_cases hv : (s.lanes.get l).role = .voting
  · by_cases ha : (s.lanes.get l).adopted = 0
    · rw [if_neg (fun h => h.2 ha), if_pos hv, ← ha]
    · rw [if_pos ⟨hv, ha⟩, if_pos hv]
  · rw [if_neg (fun h => hv h.1), if_neg hv]

/-! ## Statistics of the Truss engine and of the planes (R139, R201) -/

theorem exec_trussStats {s : State} (hu : hubUp s = true) (hd : s.cyc.done ≠ 0) (hk : s.cyc.done % 100000 = 0) :
    exec .trussStats s = .next ((voting s).foldl trussStatsLane s) :=
  congrArg _ (if_pos (by simp [hu, hd, hk]))

theorem trussStatsLane_lanes (s : State) (l : Lane) :
    (trussStatsLane s l).lanes = (onLane s l fun x => { x with tstat := {} }).lanes :=
  onLane_lanes_congr (raiseLane_lanes ..) ..

theorem exec_planeStats {s : State} (hu : hubUp s = true) (hv : s.cyc.voted = true) (hk : s.cyc.done % 1000 = 0) :
    exec .planeStats s = .next (planeStatsAt s) :=
  congrArg _ (if_pos (by simp [hu, hv, hk]))

theorem planeStatsOf_lanes (s : State) (l : Lane) :
    (planeStatsOf s l).lanes = (onLane s l fun x => { x with planeCnt := [] }).lanes := by
  have hk : Kept [.gut] s ((s.lanes.get l).planeCnt.foldl (fun t c => statsOf l c (statsOf l c t .A) .B) s) :=
    Kept.foldl (fun t c => (statsOf_kept l c t .A).step (statsOf_kept ..) rfl) ..
  exact onLane_lanes_congr (hk.frame.rest .lanes (by decide)) ..

/-- Of the nodes the late counts start again; the rest of the agreed image stands (R201). -/
theorem planeStatsAt_agr (s : State) : (planeStatsAt s).agr =
    { s.agr with nodes := s.agr.nodes.map fun ns => ns.map fun n => { n with late := 0 } } := by
  have hk : Kept [.lanes, .gut] s ((voting s).foldl planeStatsOf s) := Kept.foldl planeStatsOf_kept ..
  have hagr : ((voting s).foldl planeStatsOf s).agr = s.agr := hk.frame.rest .agr (by decide)
  unfold planeStatsAt
  dsimp only
  rw [hagr]

/-- Settles O37: each command by the reports of the voting lanes. -/
theorem statisticsRestart : Obligations.StatisticsRestart := by
  unfold Obligations.StatisticsRestart
  refine ⟨fun s hu ho hk => ?_, fun s hu => ⟨fun hd hk => ?_, fun hv hk => ?_⟩⟩
  · have hx := exec_inputDiverge hu ho hk
    exact ⟨_, hx, adopted_restart s, exec_frame hx⟩
  · have hx := exec_trussStats hu hd hk
    exact ⟨_, hx, foldl_reports_voting trussStatsLane_lanes (fun _ => rfl) s, exec_frame hx⟩
  · have hx := exec_planeStats hu hv hk
    have hagr := planeStatsAt_agr s
    refine ⟨_, hx, foldl_reports_voting planeStatsOf_lanes (fun _ => rfl) s, fun r => ?_, ?_, exec_frame hx⟩
    · rw [hagr, Quad.get_map]
    · rw [hagr]

end Sys2Proof.Machine
end

section
/-! SUPPORT. Rotation, the retained-state copy and the fetched yealm (R101, R103 to R107, R161). -/

namespace Sys2Proof.Machine

/-! ## Rotation is due (R101) -/

theorem exec_rotationDue {s : State} (hu : hubUp s = true) {y : Yealm} (hy : theYealm s = some y) (hw : swOn s 18 = true)
    (hm : s.cyc.mode = .tooThree) (hp : rotationCycles y ≤ s.cyc.sinceJoin) :
    exec .rotationDue s = .next { s with cyc := { s.cyc with rotDue := true } } := by
  refine congrArg Host.Outcome.next ((if_pos hu).trans ?_)
  rw [hy]
  exact if_pos (by simp [hw, hm, hp])

/-! ## The retained-state copy (R104, R105) -/

/-- The cycle in which the copy is sent (R104); the boot shadow cycles send it again (R390). -/
def copyTurn (s : State) : State := { s with cyc := { s.cyc with copyNow := s.mod.boot.b.isSome } }

theorem copyTurn_kept (s : State) : Kept [.cyc] s (copyTurn s) :=
  Kept.upd (Kept.refl _ s) (Or.inr rfl) (Or.inr rfl) (Or.inr rfl) (Or.inr rfl) (Or.inl (by decide)) (Or.inr rfl) (Or.inr rfl)
    (Or.inr rfl) (Or.inr rfl) (Or.inr rfl) (Or.inr rfl) (Or.inr rfl) (Or.inr rfl)

theorem exec_retainedStateCopyReceived {s : State} (hu : hubUp s = true) (hn : s.cyc.copyNow = true) {l : Lane}
    (hr : (s.lanes.get l).role = .copy) (hc : (s.lanes.get l).copied = false) (d1 d2 : List RWrite) :
    exec (.retainedStateCopyReceived l d1 d2) s = .next (copyReceived l d1 d2 (copyTurn s)) :=
  congrArg _ (if_pos (by simp [hu, hn, hr, hc]))

/-- Two voting lanes send the copy (R104). -/
theorem copySources_voting {s : State} (hb : s.mod.boot.b = none) : copySources s = voting s := by
  simp [copySources, hb]

section
variable {s : State} {l a b : Lane} {y : Yealm} {d1 d2 : List RWrite}

/-- Alike in both copies, with the majority digest and the agreed yealm: the copy is taken (R105). -/
theorem copyReceived_alike (hs : copySources s = [a, b]) (hy : activeImage (s.lanes.get l).mram = some y)
    (he : applyWrites (s.lanes.get a).region d1 = applyWrites (s.lanes.get b).region d2)
    (hd : digestWhole (regionWords y) (applyWrites (s.lanes.get a).region d1) = s.cyc.majDigest) (hc : y.crc64 = s.mod.ycrc) :
    copyReceived l d1 d2 s = onLane s l (takeCopy (s.lanes.get a) y (applyWrites (s.lanes.get a).region d1)) := by
  rw [copyReceived, hs, hy]
  exact if_pos (by simp [← he, hd, hc])

theorem copyReceived_unlike (hs : copySources s = [a, b]) (hy : activeImage (s.lanes.get l).mram = some y)
    (he : applyWrites (s.lanes.get a).region d1 ≠ applyWrites (s.lanes.get b).region d2) :
    copyReceived l d1 d2 s = copyFailed s l := by
  rw [copyReceived, hs, hy]
  exact if_neg (by simp [he])

end

/-- A failed copy is counted; what else it may bring about is the exclusion of the lane that rejoins (R105). -/
theorem copyFailed_lane (s : State) (l : Lane) :
    uncalled ((copyFailed s l).lanes.get l) = uncalled { s.lanes.get l with copyFails := (s.lanes.get l).copyFails + 1 } := by
  unfold copyFailed
  dsimp only
  split
  · rw [decideExcl_lane, onLane_same]
  · rw [onLane_same]

/-! ## The fetched yealm (R105, R161, R163) -/

/-- The bank as fetched from another lane's: its bytes, not verified yet. -/
def fetchedBank (b : Bank) (d : List RWrite) : Bank := { state := .active, mem := applyWrites b.mem d, size := b.size, img := none }

/-- The bank that a fetch fills is the one the active image is read from (R163). -/
theorem activeImage_setActive {m : Mram} (h : m.bank0.state ≠ .active ∨ m.bank1.state ≠ .active) {k : Bank} (hk : k.state = .active) :
    activeImage (setActive m k) = k.img := by
  by_cases h1 : m.bank1.state = .active
  · have h0 : m.bank0.state ≠ .active := h.resolve_right fun hn => hn h1
    simp [setActive, activeImage, h0, h1, hk]
  · simp [setActive, activeImage, h1, hk]

section
variable {s : State} {l src : Lane} {b : Bank} {d : List RWrite}

theorem exec_yealmFetchComplete (hu : hubUp s = true) (ha : s.mod.boot.agreed = true) (hh : holdsActive s l = false)
    (hr : (s.lanes.get l).role ≠ .retired) (hs : fetchSource s l = some src) (d : List RWrite) :
    exec (.yealmFetchComplete l d) s = .next (fetchDone l src d s) := by
  refine congrArg Host.Outcome.next ((if_pos (by simp [hu, ha, hh, hr])).trans ?_)
  rw [hs]

theorem fetchDone_verified (hb : activeBank (s.lanes.get src).mram = some b) {y : Yealm}
    (hv : verify l (s.lanes.get l).sw s.mod.boot.split (bankBytes (fetchedBank b d)) = .ok y) (hc : y.crc64 = s.mod.ycrc) :
    fetchDone l src d s = onLane s l fun x =>
      { x with fetchFails := 0, mram := setActive x.mram { (fetchedBank b d) with img := some y } } := by
  rw [fetchedBank] at hv
  simp only [fetchDone, hb, hv, hc, if_true]
  rfl

/-- A fetch that failed: counted, with what was fetched left in the bank (R105). -/
def fetchMissed (b : Bank) (d : List RWrite) (x : LaneSt) : LaneSt :=
  { x with fetchFails := x.fetchFails + 1, mram := setActive x.mram (fetchedBank b d) }

/-- A yealm that fails its checks: beside the alarms the fetch is counted as failed, and the third may end the rejoin (R105, R161). -/
theorem fetchDone_refused (hb : activeBank (s.lanes.get src).mram = some b) {n : Nat} {tt : Option (Nat × Nat)}
    (hv : verify l (s.lanes.get l).sw s.mod.boot.split (bankBytes (fetchedBank b d)) = .refused n tt) :
    fetchDone l src d s = onLane (refuseImage s l n tt) l (fetchMissed b d) ∨
      fetchDone l src d s = decideExcl (onLane (refuseImage s l n tt) l (fetchMissed b d)) l .rejoin [] := by
  rw [fetchedBank] at hv
  simp only [fetchDone, hb, hv]
  split
  · exact Or.inr rfl
  · exact Or.inl rfl

theorem fetchDone_refused_lane (hb : activeBank (s.lanes.get src).mram = some b) {n : Nat} {tt : Option (Nat × Nat)}
    (hv : verify l (s.lanes.get l).sw s.mod.boot.split (bankBytes (fetchedBank b d)) = .refused n tt) :
    uncalled ((fetchDone l src d s).lanes.get l) = uncalled (fetchMissed b d (s.lanes.get l)) := by
  have hlanes : (refuseImage s l n tt).lanes = s.lanes := (refuseImage_kept ..).frame.rest .lanes (by decide)
  obtain h | h := fetchDone_refused hb hv
  · rw [h, onLane_same, hlanes]
  · rw [h, decideExcl_lane, onLane_same, hlanes]

end

/-- Settles O35: the copy by whether both arrive alike, the fetch by what `verify` answers. -/
theorem copiesAreChecked : Obligations.CopiesAreChecked := by
  unfold Obligations.CopiesAreChecked
  refine fun s l hu => ⟨fun y => exec_rotationDue hu, fun a b y d1 d2 hn hr hc hb hv hy => ?_, fun src b d ha hh hr hs hb hbank => ?_⟩
  · have hx := exec_retainedStateCopyReceived hu hn hr hc d1 d2
    have hsrc : copySources (copyTurn s) = [a, b] := (copySources_voting hb).trans hv
    refine ⟨fun he hd hcrc => ?_, fun he => ?_⟩
    · rw [copyReceived_alike hsrc hy he hd hcrc] at hx
      refine ⟨_, hx, ?_, ?_, ?_, ?_, ?_, fun m hm => onLane_other _ _ _ _ hm,
        (((copyTurn_kept s).mono rfl).step (onLane_kept ..) rfl).frame⟩
      · rw [onLane_same]
        rfl
      · rw [onLane_same]
        rfl
      · rw [onLane_same]
        exact hd
      · rw [onLane_same]
        rfl
      · rw [onLane_same]
        exact hr
    · rw [copyReceived_unlike hsrc hy he] at hx
      have hl := copyFailed_lane (copyTurn s) l
      have hcopied := field_of_mask LaneSt.copied hl fun _ => rfl
      have hregion := field_of_mask LaneSt.region hl fun _ => rfl
      have hfails := field_of_mask LaneSt.copyFails hl fun _ => rfl
      exact ⟨_, hx, hcopied.trans hc, hregion, hfails, exec_frame hx⟩
  · have hx := exec_yealmFetchComplete hu ha hh hr hs d
    refine ⟨fun y hv hcrc => ?_, fun n tt hv => ?_⟩
    · rw [fetchDone_verified hb hv hcrc] at hx
      refine ⟨_, hx, ?_, ?_, fun m hm => onLane_other _ _ _ _ hm, (onLane_kept ..).frame⟩
      · rw [onLane_same]
      · rw [holdsActive, onLane_same]
        dsimp only
        rw [activeImage_setActive hbank rfl]
        exact beq_iff_eq.mpr hcrc
    · have hfails := field_of_mask LaneSt.fetchFails (fetchDone_refused_lane hb hv) fun _ => rfl
      exact ⟨_, hx, hfails, exec_frame hx⟩

end Sys2Proof.Machine
end

section
/-! SUPPORT. The supply, the reserve store and the primary cell (R366, R372 to R375, R409). -/

namespace Sys2Proof.Machine

/-- The Underlay refreshes its own Status readback copies and nothing else of the host port (R449). -/
theorem refreshUl_noReadback (s : State) : noReadback (refreshUl s).host = noReadback s.host := rfl

section
variable {s : State}

/-! ## The supply comes (R366, R372) -/

theorem exec_supplyStart (ho : s.mod.st = .off) (us : Nat) (pressed : Bool) :
    exec (.supplyStart us pressed) s = .next (supplyStartAt us pressed s) :=
  congrArg _ (if_pos (by simp [ho]))

/-- A button that is not pressed is armed when BOOT begins (R376). -/
theorem enterBoot_released (h : s.ul.pressed = false) : enterBoot s =
    { s with mod := { s.mod with st := .boot }, ul := { s.ul with diesHeld := false, button := .armed } } :=
  if_neg (by simp [h])

/-- The state whose dies are reset when the supply is back after `us`, the reserve store having kept supervisor time (R366). -/
def suppliedAgain (us : Nat) (s : State) : State :=
  { s with
    time := { s.time with supUs := s.time.supUs + BitVec.ofNat 64 us },
    ul := { s.ul with bus := 190, reserve := true, pressed := false, shelf := s.ul.shelf.map (· + us / 60000000) },
    eaves := {} }

theorem supplyStartAt_reserve (hl : s.time.supLost = false) (us : Nat) :
    supplyStartAt us false s = enterBoot (moduleReset true (suppliedAgain us s)) := by
  simp [supplyStartAt, suppliedAgain, hl]

/-! ## Dips (R372 to R374) -/

/-- A bus that falls below 18.0 V and not below 14.5 V. -/
theorem exec_supplyLow (ho : s.mod.st ≠ .off) (hw : s.ul.warn = false) {b : Nat} (h1 : 145 ≤ b) (h2 : b < 180) :
    exec (.supplyLow b) s =
      .next (refreshUl (raiseUl { s with ul := { s.ul with bus := b, warn := true, dipCycle := some s.cyc.k } } 0x0A81 [])) :=
  congrArg _ ((if_pos (by simp [ho, h1, h2])).trans (if_neg (by simp [hw])))

theorem exec_supplyRecovery (ho : s.mod.st ≠ .off) (hw : s.ul.warn = true) {k : DWord} (hk : s.ul.dipCycle = some k) (us bus : Nat) :
    exec (.supplyRecovery us bus) s = .next (refreshUl
      { s with ul := { s.ul with bus := 185, warn := false, dipCycle := none, dips := s.ul.dips ++ [(k, us, bus)] } }) := by
  change execSupplyRecovery us bus s = _
  rw [execSupplyRecovery, hk]
  exact congrArg _ (if_pos (by simp [ho, hw]))

/-! ## The supply goes (R366, R375, R409) -/

theorem exec_supplyReset (ho : s.mod.st ≠ .off) : exec .supplyReset s = .next (supplyResetAt s) :=
  congrArg _ (if_pos (by simpa using ho))

theorem supplyResetAt_lane (s : State) (l : Lane) : (supplyResetAt s).lanes.get l = laneReset true (s.lanes.get l) :=
  Quad.get_map ..

theorem exec_reserveStoreExhausted (ho : s.mod.st = .off) : exec .reserveStoreExhausted s = .next { s with
    time := { s.time with supUs := 0, supLost := true }, ul := { s.ul with reserve := false, lastCk := none } } :=
  congrArg _ (if_pos (by simp [ho]))

end

/-- Settles O16: the start by the reset of the dies that it makes, a dip by its two ends, the loss of the supply lane by lane. -/
theorem supplyAndStores : Obligations.SupplyAndStores := by
  unfold Obligations.SupplyAndStores
  refine ⟨fun s => ⟨fun ho hl us => ?_, fun ho hw b h1 h2 => ?_, fun k ho hw hk us bus => ?_, fun ho => ?_⟩,
    fun s => ⟨exec_reserveStoreExhausted, rfl⟩⟩
  · have hx := exec_supplyStart ho us false
    rw [supplyStartAt_reserve hl, enterBoot_released rfl] at hx
    exact ⟨_, hx, rfl, rfl, rfl, rfl, rfl, rfl, rfl, rfl, rfl⟩
  · have hx := exec_supplyLow ho hw h1 h2
    refine ⟨_, hx, raiseUl_ul .., ?_, exec_frame hx⟩
    rw [refreshUl_noReadback, raiseUl_host]
  · have hx := exec_supplyRecovery ho hw hk us bus
    exact ⟨_, hx, rfl, refreshUl_noReadback _, exec_frame hx⟩
  · refine ⟨_, exec_supplyReset ho, rfl, rfl, rfl, rfl, fun l => ?_, rfl⟩
    rw [supplyResetAt_lane]
    exact ⟨rfl, rfl, rfl⟩

end Sys2Proof.Machine
end

section
/-! SUPPORT. The yealm agreed in BOOT, and the way into INDICATE (R161, R163, R322, R387 to R390). -/

namespace Sys2Proof.Machine

/-! ## Agreement of reports that are all alike (R25) -/

theorem agree2_alike {α : Type} [DecidableEq α] {xs : List α} {c : α} (h : ∀ x ∈ xs, x = c) (hn : 2 ≤ xs.length) :
    agree2 xs = some c := by
  obtain ⟨n, hlen⟩ : ∃ n, xs.length = n + 2 := ⟨xs.length - 2, by omega⟩
  have hrep : xs = c :: List.replicate (n + 1) c := by rw [List.eq_replicate_of_mem h, hlen, List.replicate_succ]
  have hfind : xs.find? (fun x => 2 ≤ xs.count x) = some c := by
    rw [hrep, List.find?_cons_of_pos]
    simp
  rw [agree2, hfind]
  exact if_pos (List.all_eq_true.mpr fun x hx => by simp [h x hx])

/-! ## The lanes verify their ACTIVE yealms again (R161, R163) -/

/-- A lane but for what a verification of its ACTIVE yealm may change. -/
def unverified (x : LaneSt) : LaneSt :=
  { x with yealm := none, mram := { x.mram with bank0 := Bank.blank, bank1 := Bank.blank } }

theorem setActive_unverified (x : LaneSt) (y : Option Yealm) (b : Bank) :
    unverified { x with yealm := y, mram := setActive x.mram b } = unverified x := by
  unfold setActive
  split <;> rfl

/-- The lane's ACTIVE yealm passes the checks, and it has this CRC-64. -/
def verifiesTo (s : State) (c : DWord) (l : Lane) : Prop :=
  ∃ b y, activeBank (s.lanes.get l).mram = some b ∧
    verify l (s.lanes.get l).sw s.mod.boot.split (bankBytes b) = .ok y ∧ y.crc64 = c

section
variable {s : State} {l m : Lane}

theorem verifyActive_none (h : activeBank (s.lanes.get l).mram = none) : verifyActive s l = s := by
  rw [verifyActive, h]

theorem verifyActive_ok {b : Bank} {y : Yealm} (hb : activeBank (s.lanes.get l).mram = some b)
    (hv : verify l (s.lanes.get l).sw s.mod.boot.split (bankBytes b) = .ok y) : verifyActive s l =
      onLane s l fun x => { x with yealm := some y, mram := setActive x.mram { b with img := some y } } := by
  simp only [verifyActive, hb, hv]

theorem verifyActive_refused {b : Bank} {n : Nat} {tt : Option (Nat × Nat)} (hb : activeBank (s.lanes.get l).mram = some b)
    (hv : verify l (s.lanes.get l).sw s.mod.boot.split (bankBytes b) = .refused n tt) : verifyActive s l =
      refuseImage (onLane s l fun x => { x with yealm := none, mram := setActive x.mram { b with img := none } }) l n tt := by
  simp only [verifyActive, hb, hv]

theorem refuseImage_lanes (s : State) (l : Lane) (n : Nat) (tt : Option (Nat × Nat)) : (refuseImage s l n tt).lanes = s.lanes :=
  (refuseImage_kept ..).frame.rest .lanes (by decide)

/-- A verification changes its own lane alone, and of that the yealm and the bank it was read from. -/
theorem verifyActive_lane (s : State) (l : Lane) : ∃ f : LaneSt → LaneSt,
    (verifyActive s l).lanes = (onLane s l f).lanes ∧ ∀ x, unverified (f x) = unverified x := by
  cases hb : activeBank (s.lanes.get l).mram with
  | none =>
    rw [verifyActive_none hb]
    refine ⟨id, ?_, fun _ => rfl⟩
    cases l <;> rfl
  | some b =>
    cases hv : verify l (s.lanes.get l).sw s.mod.boot.split (bankBytes b) with
    | ok y =>
      rw [verifyActive_ok hb hv]
      exact ⟨_, rfl, fun x => setActive_unverified ..⟩
    | refused n tt =>
      rw [verifyActive_refused hb hv]
      exact ⟨_, refuseImage_lanes .., fun x => setActive_unverified ..⟩

theorem verifyActive_other (h : m ≠ l) : (verifyActive s l).lanes.get m = s.lanes.get m := by
  obtain ⟨f, hf, -⟩ := verifyActive_lane s l
  rw [hf, onLane_other _ _ _ _ h]

theorem verifyActive_unverified (s : State) (l m : Lane) :
    unverified ((verifyActive s l).lanes.get m) = unverified (s.lanes.get m) := by
  obtain ⟨f, hf, hu⟩ := verifyActive_lane s l
  rw [hf]
  by_cases h : m = l
  · rw [h, onLane_same, hu]
  · rw [onLane_other _ _ _ _ h]

theorem verifyActive_mod (s : State) (l : Lane) : (verifyActive s l).mod = s.mod :=
  (verifyActive_kept s l).mod_eq (by decide) (by decide)

theorem foldl_verifyActive_none (ls : List Lane) (h : ∀ l, activeBank (s.lanes.get l).mram = none) :
    ls.foldl verifyActive s = s := by
  induction ls with
  | nil => rfl
  | cons l ls ih => rw [List.foldl_cons, verifyActive_none (h l), ih]

theorem foldl_verifyActive_unverified (ls : List Lane) (s : State) (m : Lane) :
    unverified ((ls.foldl verifyActive s).lanes.get m) = unverified (s.lanes.get m) := by
  induction ls generalizing s with
  | nil => rfl
  | cons l ls ih => exact (ih _).trans (verifyActive_unverified s l m)

theorem foldl_verifyActive_out {ls : List Lane} (h : m ∉ ls) (s : State) :
    (ls.foldl verifyActive s).lanes.get m = s.lanes.get m := by
  induction ls generalizing s with
  | nil => rfl
  | cons l ls ih =>
    obtain ⟨hl, hls⟩ := not_or.mp (mt List.mem_cons.mpr h)
    rw [List.foldl_cons, ih hls, verifyActive_other hl]

/-- Each lane verifies its own yealm, whatever the others find. -/
theorem foldl_verifyActive_crc {c : DWord} {ls : List Lane} (hd : ls.Nodup) (hl : l ∈ ls) (h : verifiesTo s c l) :
    ((ls.foldl verifyActive s).lanes.get l).yealm.map Yealm.crc64 = some c := by
  induction ls generalizing s with
  | nil => exact absurd hl List.not_mem_nil
  | cons m ls ih =>
    obtain ⟨hm, hls⟩ := List.nodup_cons.mp hd
    rw [List.foldl_cons]
    by_cases he : l = m
    · subst he
      obtain ⟨b, y, hb, hv, hc⟩ := h
      rw [foldl_verifyActive_out hm, verifyActive_ok hb hv, onLane_same]
      exact congrArg some hc
    · refine ih hls ((List.mem_cons.mp hl).resolve_left he) ?_
      rwa [verifiesTo, verifyActive_other he, verifyActive_mod]

end

/-! ## BOOT_YEALM_AGREED (R163, R322, R389) -/

/-- The state in which the yealm is agreed: the conditions of SPLIT are noted (R116). -/
def splitNoted (s : State) : State := bootMod s fun b => { b with split := splitAsked s }

/-- Every lane that is not retired has verified its ACTIVE yealm. -/
def yealmsVerified (s : State) : State := (aliveLanes s).foldl verifyActive (splitNoted s)

/-- The CRC-64 values of the yealms that the lanes past the start-up check hold. -/
def heldCrcs (s : State) : List DWord :=
  ((aliveLanes s).filter fun l => (s.lanes.get l).checked).filterMap fun l => (s.lanes.get l).yealm.map (·.crc64)

/-- What follows the lanes' reports: the yealm agreed, or NO_IMAGE. -/
def agreedOrNot (agreed : Option DWord) (s : State) : State :=
  match agreed with
  | some c => yealmAgreed c s
  | none => noImageAt s

section
variable {s : State}

theorem exec_bootYealmAgreed (hu : hubUp s = true) (hs : s.mod.st = .boot) (hc : s.mod.boot.checked = true)
    (ha : s.mod.boot.agreed = false) (ho : s.ul.optActivate = false)
    (hl : 2 ≤ ((aliveLanes s).filter fun l => (s.lanes.get l).checked).length) :
    exec .bootYealmAgreed s = .next (yealmAgreedAt s) :=
  congrArg _ (if_pos (by simp [hu, hs, hc, ha, ho, hl]))

theorem activate_unasked (ho : s.ul.optActivate = false) : activate s = s := if_neg (by simp [ho])

/-- Without a wanted activation the lanes verify what they hold. -/
theorem verified_unasked (ho : s.ul.optActivate = false) (hn : s.mod.boot.noImage = false) :
    (if s.mod.boot.noImage then s else activate (splitNoted s)) = splitNoted s := by
  rw [hn, activate_unasked (s := splitNoted s) ho]
  rfl

theorem yealmAgreedAt_eq (ho : s.ul.optActivate = false) (hn : s.mod.boot.noImage = false) :
    yealmAgreedAt s = agreedOrNot (agree2 (heldCrcs (yealmsVerified s))) (yealmsVerified s) := by
  have h0 := verified_unasked ho hn
  unfold splitNoted at h0
  unfold yealmAgreedAt
  dsimp only
  rw [h0]
  rfl

/-! ### No lane holds an ACTIVE yealm -/

/-- NO_IMAGE is raised once (R389). -/
theorem noImageAt_first (h : s.mod.boot.noImage = false) : noImageAt s =
    bootstatSet (bootMod (raiseShared s 0x0403 []) fun b => { b with noImage := true }) 4 :=
  if_neg (by simp [h])

theorem yealmsVerified_none (h : ∀ l, activeBank (s.lanes.get l).mram = none) : yealmsVerified s = splitNoted s :=
  foldl_verifyActive_none (s := splitNoted s) _ h

theorem heldCrcs_none (h : ∀ l, (s.lanes.get l).yealm = none) : heldCrcs s = [] := by
  simp [heldCrcs, h]

/-! ### Every lane verifies a yealm of one CRC-64 -/

theorem yealmsVerified_kept (s : State) : Kept [.module, .lanes, .gut] s (yealmsVerified s) :=
  ((bootMod_kept ..).mono rfl).step (Kept.foldl verifyActive_kept ..) rfl

theorem yealmsVerified_mod (s : State) : (yealmsVerified s).mod = (splitNoted s).mod :=
  (Kept.foldl verifyActive_kept ..).mod_eq (by decide) (by decide)

theorem yealmsVerified_unverified (s : State) (l : Lane) :
    unverified ((yealmsVerified s).lanes.get l) = unverified (s.lanes.get l) :=
  foldl_verifyActive_unverified _ (splitNoted s) l

theorem aliveLanes_congr {s t : State} (h : ∀ l, (t.lanes.get l).role = (s.lanes.get l).role) : aliveLanes t = aliveLanes s := by
  simp only [aliveLanes, lanesWith, h]

theorem aliveLanes_nodup (s : State) : (aliveLanes s).Nodup := List.Nodup.filter _ (by decide)

theorem yealmsVerified_crc {c : DWord} (hs : splitAsked s = false) {l : Lane} (hl : l ∈ aliveLanes s)
    (hv : ∃ b y, activeBank (s.lanes.get l).mram = some b ∧
      verify l (s.lanes.get l).sw false (bankBytes b) = .ok y ∧ y.crc64 = c) :
    ((yealmsVerified s).lanes.get l).yealm.map Yealm.crc64 = some c := by
  rw [← hs] at hv
  exact foldl_verifyActive_crc (s := splitNoted s) (aliveLanes_nodup s) hl hv

/-- The lanes past the start-up check then agree that CRC-64 (R25, R163). -/
theorem agree2_heldCrcs {c : DWord} (hl : 2 ≤ ((aliveLanes s).filter fun l => (s.lanes.get l).checked).length)
    (hv : ∀ l ∈ aliveLanes s, ((yealmsVerified s).lanes.get l).yealm.map Yealm.crc64 = some c) :
    agree2 (heldCrcs (yealmsVerified s)) = some c := by
  have hm := yealmsVerified_unverified s
  have halive := aliveLanes_congr fun l => field_of_mask LaneSt.role (hm l) fun _ => rfl
  have hchk (l : Lane) : ((yealmsVerified s).lanes.get l).checked = (s.lanes.get l).checked :=
    field_of_mask LaneSt.checked (hm l) fun _ => rfl
  have hcrcs : heldCrcs (yealmsVerified s) = ((aliveLanes s).filter fun l => (s.lanes.get l).checked).map fun _ => c := by
    simp only [heldCrcs, halive, hchk]
    rw [← List.filterMap_eq_map]
    exact List.filterMap_congr fun l h => hv l (List.mem_of_mem_filter h)
  rw [hcrcs]
  exact agree2_alike (by simp) (by simpa using hl)

/-! ### A module alone takes the lease (R322, R332) -/

/-- The agreement noted: the lanes keep the yealm of that CRC-64 alone, and NO_IMAGE stands no longer. -/
def crcAgreed (c : DWord) (s : State) : State :=
  { s with
    mod := { s.mod with ycrc := c, boot := { s.mod.boot with agreed := true, noImage := false } }
    host := { s.host with bootstat := s.host.bootstat &&& 0b01111 }
    lanes := s.lanes.map fun x =>
      { x with yealm := match x.yealm with | some y => if y.crc64 = c then some y else none | none => none } }

theorem yealmAgreed_alone (hs : s.mod.boot.split = false) (hp : isPair s = false) (c : DWord) :
    yealmAgreed c s = takeLease (crcAgreed c s) := by
  have h1 : ¬ (crcAgreed c s).mod.boot.split = true := ne_true_of_eq_false hs
  have h2 : ¬ isPair (crcAgreed c s) = true := ne_true_of_eq_false hp
  exact (if_neg h1).trans (if_neg h2)

theorem crcAgreed_unverified (c : DWord) (s : State) (l : Lane) :
    unverified ((crcAgreed c s).lanes.get l) = unverified (s.lanes.get l) := by
  rw [crcAgreed, Quad.get_map]
  rfl

theorem crcAgreed_yealm {c : DWord} {l : Lane} (h : (s.lanes.get l).yealm.map Yealm.crc64 = some c) :
    ((crcAgreed c s).lanes.get l).yealm = (s.lanes.get l).yealm := by
  obtain ⟨y, hy, hc⟩ := Option.map_eq_some_iff.mp h
  rw [crcAgreed, Quad.get_map, hy]
  exact if_pos hc

theorem takeLease_lane (s : State) (l : Lane) : ∃ m, (takeLease s).lanes.get l = { s.lanes.get l with mram := m } := by
  have h : (takeLease s).lanes.get l = if (s.lanes.get l).role == .retired then s.lanes.get l else
      { s.lanes.get l with mram := bootWrite (s.lanes.get l).mram fun b => { b with epoch := epochAfter (epochKnown s) } } :=
    Quad.get_map ..
  rw [h]
  split
  · exact ⟨_, rfl⟩
  · exact ⟨_, rfl⟩

theorem epochKnown_congr {s t : State} (he : t.peer.epoch = s.peer.epoch)
    (hb : ∀ l, (t.lanes.get l).mram.boot = (s.lanes.get l).mram.boot) : epochKnown t = epochKnown s := by
  have h (l : Lane) : bootCur (t.lanes.get l).mram = bootCur (s.lanes.get l).mram := bootCur_congr (hb l)
  have ha := h .A
  have hb := h .B
  have hc := h .C
  have hd := h .D
  simp only [Quad.get] at ha hb hc hd
  simp only [epochKnown, he, Quad.toList, List.map_cons, List.map_nil, ha, hb, hc, hd]

/-- The boot records, and with them the highest epoch known, stand until the lease is taken. -/
theorem epochKnown_agreed (s : State) (c : DWord) : epochKnown (crcAgreed c (yealmsVerified s)) = epochKnown s := by
  have hpeer : (yealmsVerified s).peer = s.peer := (yealmsVerified_kept s).frame.rest .peer (by decide)
  have hlane (l : Lane) := (crcAgreed_unverified c (yealmsVerified s) l).trans (yealmsVerified_unverified s l)
  exact epochKnown_congr (congrArg PeerSt.epoch hpeer) fun l => field_of_mask (fun x : LaneSt => x.mram.boot) (hlane l) fun _ => rfl

/-- The yealm that every lane verifies is agreed, and the lease is taken on it. -/
theorem yealmAgreedAt_alone {c : DWord} (ho : s.ul.optActivate = false) (hn : s.mod.boot.noImage = false) (hs : splitAsked s = false)
    (hp : isPair s = false) (hl : 2 ≤ ((aliveLanes s).filter fun l => (s.lanes.get l).checked).length)
    (hv : ∀ l ∈ aliveLanes s, ((yealmsVerified s).lanes.get l).yealm.map Yealm.crc64 = some c) :
    yealmAgreedAt s = takeLease (crcAgreed c (yealmsVerified s)) := by
  have hctl : (yealmsVerified s).ctl = s.ctl := (yealmsVerified_kept s).frame.rest .ctl (by decide)
  have hsplit : (yealmsVerified s).mod.boot.split = false := by rw [yealmsVerified_mod]; exact hs
  have hpair : isPair (yealmsVerified s) = false := by rw [isPair, swBootOn, hctl]; exact hp
  rw [yealmAgreedAt_eq ho hn, agree2_heldCrcs hl hv, agreedOrNot, yealmAgreed_alone hsplit hpair]

theorem takeLease_mod (s : State) : (takeLease s).mod = s.mod := rfl

theorem newEpoch_peer (s : State) : (newEpoch s).peer = { s.peer with epoch := epochAfter (epochKnown s) } := rfl

theorem takeLease_peer (s : State) : (takeLease s).peer = { (newEpoch s).peer with held := true } := rfl

theorem takeLease_ul (s : State) : (takeLease s).ul = { s.ul with leaseRun := true, leaseInh := false } := rfl

theorem crcAgreed_mod (c : DWord) (s : State) : (crcAgreed c s).mod =
    { s.mod with ycrc := c, boot := { s.mod.boot with agreed := true, noImage := false } } := rfl

/-- A lane through the agreement: it holds the agreed yealm, and keeps its role and its region. -/
theorem takeLease_agreed_lane {c : DWord} {l : Lane}
    (h : ((yealmsVerified s).lanes.get l).yealm.map Yealm.crc64 = some c) :
    ((takeLease (crcAgreed c (yealmsVerified s))).lanes.get l).yealm.map Yealm.crc64 = some c ∧
      ((takeLease (crcAgreed c (yealmsVerified s))).lanes.get l).role = (s.lanes.get l).role ∧
      ((takeLease (crcAgreed c (yealmsVerified s))).lanes.get l).region = (s.lanes.get l).region := by
  have hlane := (crcAgreed_unverified c (yealmsVerified s) l).trans (yealmsVerified_unverified s l)
  have hrole := field_of_mask LaneSt.role hlane fun _ => rfl
  have hregion := field_of_mask LaneSt.region hlane fun _ => rfl
  obtain ⟨m, hm⟩ := takeLease_lane (crcAgreed c (yealmsVerified s)) l
  rw [hm]
  exact ⟨(congrArg (Option.map Yealm.crc64) (crcAgreed_yealm h)).trans h, hrole, hregion⟩

/-! ## RING_START_COMPLETE and INDICATE (R387, R390) -/

theorem exec_ringStartComplete (hu : hubUp s = true) (hi : indicateReady s = true) (hr : ringsStarted s = true) :
    exec .ringStartComplete s = .next (ringStartAt s) :=
  congrArg _ (if_pos (by simp [hu, hi, hr]))

/-- INDICATE is entered from BOOT alone (R387). -/
theorem indicateReady_boot (h : indicateReady s = true) : s.mod.st = .boot := by
  by_contra hne
  simp [indicateReady, hne] at h

/-- What RING_START_COMPLETE leaves before the module takes its state: the lanes on the record path have the injection set to run. -/
def ringStarted (s : State) : State :=
  bootMod (onLanes s (readyLanes s) fun _ x =>
    if x.injectOk || x.bist.pass.isSome then x else { x with bist := startPass x.bist .inject }) fun b => { b with ringsUp := true }

theorem ringStartAt_eq (s : State) : ringStartAt s = setState (ringStarted s) .indicate := rfl

/-- HEALTHY is open in INDICATE (R9). -/
theorem ringStarted_healthy (h : indicateReady s = true) : (setState (ringStarted s) .indicate).ul.healthy = false := by
  have hst : (ringStarted s).mod.st = .boot := indicateReady_boot (s := s) h
  have hne : (ringStarted s).mod.st ≠ .indicate := by rw [hst]; decide
  rw [setState_ul hne]
  rfl

/-- Inputs are gathered in this cycle. -/
def gathering (s : State) : State := { s with cyc := { s.cyc with gather := true } }

/-- The G-frames leave at once where they may be launched. -/
def gathered (s : State) : State := if canLaunch (gathering s) then gLaunchAt (gathering s) else gathering s

theorem gathered_cyc (s : State) : (gathered s).cyc = { s.cyc with gather := true } := by
  unfold gathered
  split
  · exact (gLaunchAt_kept _).frame.rest .cyc (by decide)
  · rfl

theorem exec_indicateGather (hu : hubUp s = true) (hs : s.mod.st = .indicate) (hb : s.mod.boot.b = none)
    (hk : s.cyc.k.toNat % cyclesPer100 s = 0) : exec .indicateGather s = .next (gathered s) :=
  congrArg _ (if_pos (by simp [hu, hs, hb, hk]))

end

/-! ## The ends of BOOT_YEALM_AGREED -/

section
variable {s : State}

theorem noImageAt_first_mod (h : s.mod.boot.noImage = false) :
    (noImageAt s).mod = { s.mod with boot := { s.mod.boot with noImage := true } } := by
  rw [noImageAt_first h]
  exact congrArg (fun m : ModSt => { m with boot := { m.boot with noImage := true } }) (raiseShared_mod ..)

theorem noImageAt_first_host (h : s.mod.boot.noImage = false) :
    (noImageAt s).host = { s.host with bootstat := s.host.bootstat ||| 0b10000 } := by
  rw [noImageAt_first h]
  exact congrArg (fun h : HostPort => { h with bootstat := h.bootstat ||| 0b10000 }) (raiseShared_host ..)

/-- NO_IMAGE leaves the lanes and the peer as they were, and all else but the module, the host port and the Gutter. -/
theorem noImageAt_noted_kept (s : State) : Kept [.module, .host, .gut] s (noImageAt (splitNoted s)) :=
  ((bootMod_kept ..).mono rfl).step (noImageAt_kept _) rfl

end

/-- Settles O20: NO_IMAGE from lanes that hold nothing to verify, the agreement from what each lane verifies, and the lease taken on
it; INDICATE by the state entered. -/
theorem bootEndsInIndicate : Obligations.BootEndsInIndicate := by
  unfold Obligations.BootEndsInIndicate
  refine ⟨fun s hu hs hc ha ho hn hl hno => ?_, fun s c hu hs hc ha ho hn hsp hp hl hv => ?_, fun s hu hi hr => ?_,
    fun s hu hs hb hk => ?_⟩
  · have hx := exec_bootYealmAgreed hu hs hc ha ho hl
    have hnone : yealmsVerified s = splitNoted s := yealmsVerified_none fun l => (hno l).1
    have hcrcs : heldCrcs (splitNoted s) = [] := heldCrcs_none fun l => (hno l).2
    rw [yealmAgreedAt_eq ho hn, hnone, hcrcs] at hx
    change exec .bootYealmAgreed s = .next (noImageAt (splitNoted s)) at hx
    have hframe := (noImageAt_noted_kept s).frame
    have hmod : (noImageAt (splitNoted s)).mod = _ := noImageAt_first_mod (s := splitNoted s) hn
    refine ⟨_, hx, ?_, ?_, ?_, noImageAt_first_host (s := splitNoted s) hn, hframe.rest .lanes (by decide),
      hframe.rest .peer (by decide), hframe⟩
    · rw [hmod]
      exact hs
    · rw [hmod]
    · rw [hmod]
      exact ha
  · have hx := exec_bootYealmAgreed hu hs hc ha ho hl
    have hcrc (l : Lane) (h : l ∈ aliveLanes s) := yealmsVerified_crc hsp h (hv l h)
    rw [yealmAgreedAt_alone ho hn hsp hp hl hcrc] at hx
    have hpeer := takeLease_peer (crcAgreed c (yealmsVerified s))
    have hmod := (takeLease_mod _).trans (crcAgreed_mod c (yealmsVerified s))
    rw [yealmsVerified_mod] at hmod
    refine ⟨_, hx, ?_, ?_, ?_, ?_, ?_, ?_, ?_, fun l h => takeLease_agreed_lane (hcrc l h)⟩
    · rw [hmod]
      exact hs
    · rw [hmod]
    · rw [hmod]
    · rw [hmod]
    · rw [hpeer]
    · rw [hpeer, newEpoch_peer, epochKnown_agreed]
    · rw [takeLease_ul]
  · have hx := exec_ringStartComplete hu hi hr
    have hframe := exec_frame hx
    rw [ringStartAt_eq] at hx hframe
    refine ⟨_, hx, ?_, ?_, ringStarted_healthy hi, hframe⟩
    · rw [setState_mod]
    · rw [setState_mod]
      rfl
  · have hx := exec_indicateGather hu hs hb hk
    exact ⟨_, hx, gathered_cyc s, exec_frame hx⟩

end Sys2Proof.Machine
end

section
/-! SUPPORT. The boundary of an online exchange (R180 to R183). That want of a shadow bank refuses it there is the model's reading
(log entry 27). -/

namespace Sys2Proof.Machine

/-! ## A status is decided that is kept (R312) -/

/-- A lane that runs the cycle and has decided nothing on the command decides it, whether for this cycle or kept past a missed one. -/
theorem decideCmd_first {s : State} {l : Lane} (hl : l ∈ working s) {asn : Nat}
    (hn : ∀ v ∈ (s.lanes.get l).verdicts, v.asn.toNat ≠ asn) (status reason data : Nat) (keep : Bool) :
    (decideCmd s asn status reason data keep).lanes.get l = { s.lanes.get l with verdicts :=
      (s.lanes.get l).verdicts ++ [{ newVerdict (BitVec.ofNat 64 asn) (status, reason, data) with keep := keep }] } := by
  have hno : ((s.lanes.get l).verdicts.any fun v => v.asn.toNat == asn) = false := by simpa using hn
  rw [decideCmd, onLanes_in _ _ _ _ hl, hno]
  rfl

/-- Beside its verdicts a lane keeps all it held. -/
theorem decideCmd_rest (s : State) (asn status reason data : Nat) (keep : Bool) (l : Lane) :
    { (decideCmd s asn status reason data keep).lanes.get l with verdicts := [] } = { s.lanes.get l with verdicts := [] } := by
  obtain ⟨vs, h⟩ := decideCmd_lane s asn status reason data keep l
  rw [h]

/-! ## The boundary (R180 to R182) -/

section
variable {s : State}

theorem exec_exchangeBoundary (hu : hubUp s = true) (hr : s.mod.st.runs = true) (hv : s.cyc.voted = true) (he : s.mod.exch = .idle)
    (hx : rgExchX (lead s).work = s.cyc.k.toNat + 1) (hn : ∀ v ∈ (lead s).verdicts, v.asn.toNat ≠ rgExchAsn (lead s).work) :
    exec .exchangeBoundary s = .next (exchBoundaryAt s) :=
  congrArg Host.Outcome.next (if_pos (by simpa [hu, hr, hv, he, hx, exchDueNext] using hn))

theorem exchBoundaryAt_begins (h : boundaryRefuse s = none) : exchBoundaryAt s =
    { s with mod := { s.mod with exch := .copying }, cyc := { s.cyc with noDiag := true } } := by
  rw [exchBoundaryAt, h]

theorem exchBoundaryAt_refused {r : Nat × Nat} (h : boundaryRefuse s = some r) :
    exchBoundaryAt s = decideCmd s (rgExchAsn (lead s).work) stREFUSED r.1 r.2 true := by
  rw [exchBoundaryAt, h]

/-! ## The copy (R182, R183) -/

theorem exec_exchangeCopyComplete (hu : hubUp s = true) (he : s.mod.exch = .copying) (bad : Quad Bool) :
    exec (.exchangeCopyComplete bad) s = .next (exchCopyAt bad s) :=
  congrArg Host.Outcome.next (if_pos (by simp [hu, he]))

theorem exec_exchangeReloadComplete (hu : hubUp s = true) (he : s.mod.exch = .reloading) :
    exec .exchangeReloadComplete s = .next { s with mod := { s.mod with exch := .idle } } :=
  congrArg Host.Outcome.next (if_pos (by simp [hu, he]))

/-- Bad in one voting lane: the command is refused with reason 0x1C and DATA 3, and the old yealm is reloaded (R182). -/
theorem exchCopyAt_bad {bad : Quad Bool} (h : ∃ l ∈ voting s, bad.get l = true) : exchCopyAt bad s =
    decideCmd { s with mod := { s.mod with exch := .reloading } } (rgExchAsn (lead s).work) stREFUSED 0x1C 3 true :=
  if_pos (List.any_eq_true.mpr h)

theorem exchCopyAt_good {bad : Quad Bool} (h : ∀ l ∈ voting s, bad.get l = false) : exchCopyAt bad s =
    { (onLanes s (voting s) fun _ x => mapLane x) with mod := { s.mod with exch := .ready } } :=
  if_neg (by simpa using h)

end

theorem mapLane_mapped {x : LaneSt} {old new : Yealm} (ho : x.yealm = some old) (hn : (shadowBank x.mram).img = some new) :
    (mapLane x).mapped = some (mapRegion old new x.region) := by
  simp [mapLane, ho, hn]

/-- Beside the mapped region a lane keeps all it held, the active region too (R183). -/
theorem mapLane_rest (x : LaneSt) : { mapLane x with mapped := none } = { x with mapped := none } := by
  unfold mapLane
  split <;> rfl

theorem onLanes_mapLane_rest (s : State) (ls : List Lane) (l : Lane) :
    { (onLanes s ls fun _ x => mapLane x).lanes.get l with mapped := none } = { s.lanes.get l with mapped := none } := by
  by_cases hl : l ∈ ls
  · rw [onLanes_in _ _ _ _ hl, mapLane_rest]
  · rw [onLanes_out _ _ _ _ hl]

/-- Settles O41: the boundary by what `boundaryRefuse` answers, the copy by whether it is bad in a voting lane. -/
theorem exchangeBoundary : Obligations.ExchangeBoundary := by
  unfold Obligations.ExchangeBoundary
  refine fun s hu => ⟨fun hr hv he hx hn => ⟨fun hb => ?_, fun r hb => ?_⟩, fun he bad => ⟨fun hb => ?_, fun hg => ?_⟩,
    exec_exchangeReloadComplete hu⟩
  · rw [exec_exchangeBoundary hu hr hv he hx hn, exchBoundaryAt_begins hb]
  · have hx := exec_exchangeBoundary hu hr hv he hx hn
    rw [exchBoundaryAt_refused hb] at hx
    exact ⟨_, hx, he, fun l hl hno => by rw [decideCmd_first hl hno], decideCmd_rest s _ _ _ _ _, (decideCmd_kept ..).frame⟩
  · have hx := exec_exchangeCopyComplete hu he bad
    have hframe := exec_frame hx
    rw [exchCopyAt_bad hb] at hx hframe
    exact ⟨_, hx, rfl, decideCmd_rest _ _ _ _ _ _, hframe⟩
  · have hx := exec_exchangeCopyComplete hu he bad
    have hframe := exec_frame hx
    rw [exchCopyAt_good hg] at hx hframe
    refine ⟨_, hx, rfl, fun l hl old new ho hn => ?_, onLanes_mapLane_rest s _, hframe⟩
    exact (congrArg LaneSt.mapped (onLanes_in s (voting s) (fun _ x => mapLane x) l hl)).trans (mapLane_mapped ho hn)

end Sys2Proof.Machine
end

section
/-! SUPPORT. What bulk work leaves as it was: the banks in use, the regions, the roles (R19, R163, R318, R383). -/

namespace Sys2Proof.Machine

/-! ## Banks (R163) -/

section
variable {m : Mram} {b : Bank}

/-- A shadow bank that does not become ACTIVE leaves the active bank as it is. -/
theorem activeBank_setShadow (h : b.state ≠ .active) : activeBank (setShadow m b) = activeBank m := by
  by_cases h0 : m.bank0.state = .active <;> simp [setShadow, shadowIsOne, activeBank, h0, h]

theorem shadowBank_setShadow (h : b.state ≠ .active) : shadowBank (setShadow m b) = b := by
  by_cases h0 : m.bank0.state = .active <;> simp [setShadow, shadowBank, shadowIsOne, h0, h]

theorem activeImage_eq_bind (m : Mram) : activeImage m = (activeBank m).bind Bank.img := by
  by_cases h0 : m.bank0.state = .active
  · simp [activeImage, activeBank, h0]
  · by_cases h1 : m.bank1.state = .active <;> simp [activeImage, activeBank, h0, h1]

end

/-! ## What a lane keeps through bulk work -/

/-- A lane but for what bulk work may change: the pending region's transfer entry and the verdicts, the bulk inbound queue, the
injected segments, the contents of the shadow bank. -/
def bulkless (x : LaneSt) : LaneSt × Option Bank :=
  ({ x with work := [], verdicts := [], bulkIn := ⟨[], 0⟩, bulkOff := 0, bulkCyc := 0, injSegs := [],
            mram := { x.mram with bank0 := Bank.blank, bank1 := Bank.blank } }, activeBank x.mram)

/-- Bulk work in the lanes: each keeps what `bulkless` shows, and the module its state. -/
structure BulkKept (s t : State) : Prop where
  lane : ∀ l, bulkless (t.lanes.get l) = bulkless (s.lanes.get l)
  mod  : t.mod = s.mod

theorem BulkKept.refl (s : State) : BulkKept s s := ⟨fun _ => rfl, rfl⟩

theorem BulkKept.trans {s r t : State} (h : BulkKept s r) (g : BulkKept r t) : BulkKept s t :=
  ⟨fun l => (g.lane l).trans (h.lane l), g.mod.trans h.mod⟩

theorem BulkKept.of_lanes {s t : State} (hl : t.lanes = s.lanes) (hm : t.mod = s.mod) : BulkKept s t := ⟨fun l => by rw [hl], hm⟩

theorem BulkKept.foldl {α : Type} {f : State → α → State} (h : ∀ s a, BulkKept s (f s a)) (as : List α) (s : State) :
    BulkKept s (as.foldl f s) := by
  induction as generalizing s with
  | nil => exact .refl s
  | cons a as ih => exact (h s a).trans (ih (f s a))

theorem BulkKept.onLane {f : LaneSt → LaneSt} (h : ∀ x, bulkless (f x) = bulkless x) (s : State) (l : Lane) :
    BulkKept s (onLane s l f) := by
  refine ⟨fun m => ?_, rfl⟩
  by_cases hm : m = l
  · rw [hm, onLane_same, h]
  · rw [onLane_other _ _ _ _ hm]

theorem BulkKept.onLanes {f : Lane → LaneSt → LaneSt} (h : ∀ l x, bulkless (f l x) = bulkless x) (s : State) (ls : List Lane) :
    BulkKept s (onLanes s ls f) := by
  refine ⟨fun m => ?_, rfl⟩
  by_cases hm : m ∈ ls
  · rw [onLanes_in _ _ _ _ hm, h]
  · rw [onLanes_out _ _ _ _ hm]

section
variable {s t : State}

theorem BulkKept.active (h : BulkKept s t) (l : Lane) : activeBank (t.lanes.get l).mram = activeBank (s.lanes.get l).mram :=
  congrArg Prod.snd (h.lane l)

/-- Any field that bulk work does not touch. -/
theorem BulkKept.field (h : BulkKept s t) {α : Type} (f : LaneSt → α) (hf : ∀ x, f (bulkless x).1 = f x) (l : Lane) :
    f (t.lanes.get l) = f (s.lanes.get l) := by
  rw [← hf, h.lane l, hf]

theorem BulkKept.role (h : BulkKept s t) (l : Lane) : (t.lanes.get l).role = (s.lanes.get l).role := h.field LaneSt.role (fun _ => rfl) l

theorem BulkKept.region (h : BulkKept s t) (l : Lane) : (t.lanes.get l).region = (s.lanes.get l).region :=
  h.field LaneSt.region (fun _ => rfl) l

theorem BulkKept.readyLane (h : BulkKept s t) (l : Lane) : readyLane t l = readyLane s l := by
  have hc := h.field LaneSt.checked (fun _ => rfl) l
  have ha : activeImage (t.lanes.get l).mram = activeImage (s.lanes.get l).mram := by
    rw [activeImage_eq_bind, activeImage_eq_bind, h.active]
  simp only [Machine.readyLane, h.role, hc, ha, h.mod]

theorem BulkKept.voting (h : BulkKept s t) : voting t = voting s := by simp only [Machine.voting, lanesIn, lanesWith, h.role]

theorem BulkKept.readyLanes (h : BulkKept s t) : readyLanes t = readyLanes s := List.filter_congr fun l _ => h.readyLane l

theorem BulkKept.working (h : BulkKept s t) : working t = working s := working_congr h.role

theorem BulkKept.counted (h : BulkKept s t) : counted t = counted s := by rw [Machine.counted, Machine.counted, h.voting, h.readyLanes]

theorem BulkKept.refLane (h : BulkKept s t) : refLane t = refLane s := by
  have hs : lanesIn t.lanes .shadow = lanesIn s.lanes .shadow := by simp only [lanesIn, lanesWith, h.role]
  rw [Machine.refLane, Machine.refLane, h.voting, h.readyLanes, hs]

theorem BulkKept.theYealm (h : BulkKept s t) : theYealm t = theYealm s := by
  rw [Machine.theYealm, Machine.theYealm, lead, lead, h.refLane]
  exact h.field LaneSt.yealm (fun _ => rfl) _

end

/-! ## A lane's own bulk work -/

/-- A piece of a segment goes into a LOADING shadow bank, which stays LOADING. -/
theorem bankTake_eq (data : List Byte) (last : Bool) (x : LaneSt) : ∃ b : Bank,
    bankTake data last x = x ∨ (b.state ≠ .active ∧ bankTake data last x = { x with mram := setShadow x.mram b }) := by
  unfold bankTake
  dsimp only
  split
  case isTrue h =>
    have hl : (shadowBank x.mram).state = .loading := by simp at h; exact h.1
    exact ⟨_, Or.inr ⟨by simp [hl], rfl⟩⟩
  case isFalse => exact ⟨Bank.blank, Or.inl rfl⟩

theorem setShadow_bulkless {b : Bank} (h : b.state ≠ .active) (x : LaneSt) :
    bulkless { x with mram := setShadow x.mram b } = bulkless x := by
  refine Prod.ext ?_ (activeBank_setShadow h)
  unfold setShadow
  split <;> rfl

theorem bankTake_bulkless (data : List Byte) (last : Bool) (x : LaneSt) : bulkless (bankTake data last x) = bulkless x := by
  obtain ⟨b, h | ⟨hb, h⟩⟩ := bankTake_eq data last x
  · rw [h]
  · rw [h, setShadow_bulkless hb]

theorem unloadBank_bulkless (x : LaneSt) : bulkless (unloadBank x) = bulkless x := by
  unfold unloadBank
  split
  · exact setShadow_bulkless (by decide) x
  · rfl

theorem bulkPass_bulkless (b : BulkSeg) (x : LaneSt) : bulkless (bulkPass b x) = bulkless x := by
  unfold bulkPass
  dsimp only
  split <;> rfl

theorem bulkDrop_bulkless (x : LaneSt) : bulkless (bulkDrop x) = bulkless x := rfl

theorem bulkTake_bulkless (b : BulkSeg) (x : LaneSt) : bulkless (bulkTake b x) = bulkless x :=
  (bulkPass_bulkless ..).trans (bankTake_bulkless ..)

theorem bootStep_bulkless (b : BulkSeg) (x : LaneSt) : bulkless (bootStep b x) = bulkless x := by
  unfold bootStep
  extract_lets y bank
  have hy : bulkless y = bulkless x := by
    unfold y
    split
    · exact setShadow_bulkless (by decide) x
    · rfl
  split
  · exact (bulkTake_bulkless b y).trans hy
  · exact (bulkDrop_bulkless _).trans (unloadBank_bulkless x)

theorem injectStep_bulkless (b : BulkSeg) (x : LaneSt) : bulkless (injectStep b x) = bulkless x := by
  unfold injectStep
  split
  · rfl
  · dsimp only
    split
    · exact bulkPass_bulkless b x
    · exact bulkPass_bulkless b x

/-! ## The lanes' bulk work -/

theorem decideCmd_bulkKept (s : State) (asn status reason data : Nat) (keep : Bool) :
    BulkKept s (decideCmd s asn status reason data keep) := by
  refine ⟨fun l => ?_, rfl⟩
  obtain ⟨vs, h⟩ := decideCmd_lane s asn status reason data keep l
  rw [h]
  rfl

theorem countLoad_bulkKept (s : State) : BulkKept s (countLoad s) := by
  unfold countLoad
  split
  · dsimp only
    split
    · exact .refl s
    · exact .onLanes (fun _ _ => by rfl) s _
  · exact .refl s

theorem passSegment_bulkKept (s : State) (off : Nat) (last : Bool) (data : List Byte) : BulkKept s (passSegment s off last data) :=
  have hk := passSegment_kept s off last data
  .of_lanes (hk.frame.rest .lanes (by decide)) (hk.mod_eq (by decide) (by decide))

theorem loadStep_bulkKept (s : State) (l : Lane) (e : XferEnt) (b : BulkSeg) : BulkKept s (loadStep s l e b) := by
  have hdrop : BulkKept s (onLane s l bulkDrop) := .onLane bulkDrop_bulkless s l
  have hfail : BulkKept s (if (s.lanes.get l).role == .voting then failLoad (onLane s l bulkDrop) e else onLane s l bulkDrop) := by
    split
    · exact hdrop.trans (decideCmd_bulkKept ..)
    · exact hdrop
  have htake : BulkKept s (countLoad (onLane s l (bulkTake b))) :=
    BulkKept.trans (.onLane (bulkTake_bulkless b) s l) (countLoad_bulkKept _)
  unfold loadStep
  dsimp only
  split
  · exact hfail
  · split
    · exact hdrop
    · split
      · exact hfail
      · split
        · exact htake.trans (passSegment_bulkKept ..)
        · exact htake

theorem bulkStep_bulkKept (l : Lane) (s : State) : BulkKept s (bulkStep l s) := by
  have hdrop : BulkKept s (onLane s l bulkDrop) := .onLane bulkDrop_bulkless s l
  unfold bulkStep
  dsimp only
  split
  · exact .refl s
  · split
    · exact .onLane (injectStep_bulkless _) s l
    · split
      · split
        · exact loadStep_bulkKept ..
        · exact hdrop
      · split
        · exact .onLane (bootStep_bulkless _) s l
        · exact hdrop

/-- The segments that each lane keeps for the agreement are one fewer (R383). -/
def injSegsAgreed (s : State) : State := { s with lanes := s.lanes.map fun x => { x with injSegs := x.injSegs.drop 1 } }

theorem injSegsAgreed_bulkKept (s : State) : BulkKept s (injSegsAgreed s) := ⟨fun l => by rw [injSegsAgreed, Quad.get_map]; rfl, rfl⟩

theorem injectAt_bulkKept (b : BulkSeg) (s : State) : BulkKept s (injectAt b s) :=
  have hk := injectAt_kept b s
  .of_lanes (hk.frame.rest .lanes (by decide)) (hk.mod_eq (by decide) (by decide))

theorem injectAgree_bulkKept (s : State) : BulkKept s (injectAgree s) := by
  unfold injectAgree
  dsimp only
  split
  · exact .refl s
  · split
    · exact injSegsAgreed_bulkKept s
    · split
      · exact (injSegsAgreed_bulkKept s).trans (injectAt_bulkKept ..)
      · exact injSegsAgreed_bulkKept s

theorem bulkSteps_bulkKept (ls : List Lane) (s : State) : BulkKept s (bulkSteps ls s) :=
  (BulkKept.foldl (fun s l => bulkStep_bulkKept l s) ls s).trans (injectAgree_bulkKept _)

/-- A segment enters the lane's bulk inbound queue (R19). -/
def bulkSent (b : BulkSeg) (x : LaneSt) : LaneSt := { x with bulkIn := x.bulkIn.send b }

section
variable {s : State} {l : Lane}

theorem handBulk_nil (h : s.host.bulkHand.get l = []) : handBulk l s = s := by
  rw [handBulk, h]

theorem handBulk_full {b : BulkSeg} {r : List BulkSeg} (h : s.host.bulkHand.get l = b :: r) (hc : (s.lanes.get l).bulkIn.credits = 0) :
    handBulk l s = s := by
  rw [handBulk, h]
  exact if_pos hc

theorem handBulk_cons {b : BulkSeg} {r : List BulkSeg} (h : s.host.bulkHand.get l = b :: r) (hc : (s.lanes.get l).bulkIn.credits ≠ 0) :
    handBulk l s = { (onLane s l (bulkSent b)) with host := { s.host with bulkHand := s.host.bulkHand.set l r } } := by
  rw [handBulk, h]
  exact if_neg hc

end

theorem handBulk_bulkKept (l : Lane) (s : State) : BulkKept s (handBulk l s) := by
  cases h : s.host.bulkHand.get l with
  | nil => rw [handBulk_nil h]; exact .refl s
  | cons b r =>
    by_cases hc : (s.lanes.get l).bulkIn.credits = 0
    · rw [handBulk_full h hc]
      exact .refl s
    · rw [handBulk_cons h hc]
      exact BulkKept.trans (.onLane (f := bulkSent b) (fun _ => rfl) s l) (.of_lanes rfl rfl)

/-- A fetched segment waits in the hub for a lane, behind what waits. -/
def bulkWaits (b : BulkSeg) (s : State) (l : Lane) : State :=
  { s with host := { s.host with bulkHand := s.host.bulkHand.set l (s.host.bulkHand.get l ++ [b]) } }

/-- A fetched segment on its way to one lane. -/
def spreadTo (b : BulkSeg) (s : State) (l : Lane) : State := handBulk l (bulkWaits b s l)

theorem spreadTo_bulkKept (b : BulkSeg) (s : State) (l : Lane) : BulkKept s (spreadTo b s l) :=
  BulkKept.trans (r := bulkWaits b s l) (.of_lanes rfl rfl) (handBulk_bulkKept l _)

theorem spreadBulk_bulkKept (s : State) (b : BulkSeg) : BulkKept s (spreadBulk s b) := .foldl (spreadTo_bulkKept b) Lane.all s

theorem loadArrived_bulkKept (s : State) (e : List Byte) : BulkKept s (loadArrived s e) := by
  unfold loadArrived
  split
  · split
    · exact .onLanes (fun _ _ => by rfl) s _
    · exact .refl s
  · exact .refl s

theorem ringConsume_bulkKept (s : State) (q n : Nat) : BulkKept s (ringConsume s q n) :=
  have hk := ringConsume_kept s q n
  .of_lanes (hk.frame.rest .lanes (by decide)) (hk.mod_eq (by decide) (by decide))

theorem fetchBulk_bulkKept (b : BulkSeg) (s : State) : BulkKept s (fetchBulk b s) :=
  have hread (a c : DWord) (n m : Nat) : BulkKept s (readHost (readHost s a n) c m) := .of_lanes rfl rfl
  (((hread ..).trans (loadArrived_bulkKept ..)).trans (ringConsume_bulkKept ..)).trans (spreadBulk_bulkKept ..)

end Sys2Proof.Machine
end

section
/-! SUPPORT. Segments of images, journal reads and injected values (R19, R161, R163, R290, R301, R318, R383). That an entry which is
damaged or does not follow ends the load, and that a returned credit hands the next segment on, are the model's choices (log entries 46
and 108). -/

namespace Sys2Proof.Machine

/-! ## An entry of XFRQ-IN is fetched (R19, R290) -/

theorem getD_listMod {α : Type} (l : List α) {i : Nat} (h : i < l.length) (f : α → α) (d : α) :
    (listMod l i f).getD i d = f (l.getD i d) := by
  induction l generalizing i with
  | nil => exact absurd h (Nat.not_lt_zero i)
  | cons a l ih =>
    cases i with
    | zero => rfl
    | succ i => exact ih (Nat.lt_of_succ_lt_succ h)

theorem qAt_congr {s t : State} (h : t.host.q = s.host.q) (q : Nat) : qAt t q = qAt s q := by rw [qAt, qAt, h]

theorem writeBack_q (s : State) (q : Nat) : (writeBack s q).host.q = s.host.q := by
  unfold writeBack
  dsimp only
  split
  · rfl
  · split <;> rfl

/-- A ring that is enabled is one of the port's (R285). -/
theorem lt_length_of_enabled {s : State} {q : Nat} (h : (qAt s q).en = true) : q < s.host.q.length := by
  by_contra hge
  rw [qAt, List.getD_eq_default _ _ (Nat.not_lt.mp hge)] at h
  exact Bool.noConfusion h

/-- The hub has consumed one entry (R290). -/
theorem ringConsume_idx {s : State} {q : Nat} (h : (qAt s q).en = true) : (qAt (ringConsume s q 1) q).idx = (qAt s q).idx + 1 := by
  rw [ringConsume, if_neg (by decide), qAt_congr (writeBack_q ..)]
  exact congrArg QReg.idx (getD_listMod _ (lt_length_of_enabled h) _ _)

theorem handBulk_q (l : Lane) (s : State) : (handBulk l s).host.q = s.host.q := by
  cases h : s.host.bulkHand.get l with
  | nil => rw [handBulk_nil h]
  | cons b r =>
    by_cases hc : (s.lanes.get l).bulkIn.credits = 0
    · rw [handBulk_full h hc]
    · rw [handBulk_cons h hc]

theorem foldl_spreadTo_q (b : BulkSeg) (ls : List Lane) (s : State) : (ls.foldl (spreadTo b) s).host.q = s.host.q := by
  induction ls generalizing s with
  | nil => rfl
  | cons l ls ih => exact (ih _).trans (handBulk_q ..)

/-- The state in which a fetched segment is handed to the lanes: read from host memory, its entry consumed (R290, R318). -/
def bulkFetched (b : BulkSeg) (s : State) : State :=
  ringConsume (loadArrived (readHost (readHost s (entryAddr (qAt s qXFRIN) qXFRIN (qAt s qXFRIN).idx) 64)
    (BitVec.ofNat 64 (fldLE b.entry 0x10 8)) b.data.length) b.entry) qXFRIN 1

theorem fetchBulk_eq (b : BulkSeg) (s : State) : fetchBulk b s = Lane.all.foldl (spreadTo b) (bulkFetched b s) := rfl

theorem loadArrived_host (s : State) (e : List Byte) : (loadArrived s e).host = s.host :=
  (loadArrived_kept s e).frame.rest .host (by decide)

theorem fetchBulk_idx {s : State} (h : (qAt s qXFRIN).en = true) (b : BulkSeg) :
    (qAt (fetchBulk b s) qXFRIN).idx = (qAt s qXFRIN).idx + 1 := by
  have hq (a c : DWord) (n m : Nat) (e : List Byte) :
      qAt (loadArrived (readHost (readHost s a n) c m) e) qXFRIN = qAt s qXFRIN :=
    qAt_congr (congrArg HostPort.q (loadArrived_host ..)) _
  rw [fetchBulk_eq, qAt_congr (foldl_spreadTo_q ..), bulkFetched, ringConsume_idx, hq]
  rw [hq]
  exact h

/-- A ring that is served is enabled. -/
theorem enabled_of_served {s : State} {q : Nat} (h : ringServed s q = true) : (qAt s q).en = true := by
  simp only [ringServed, ringOn, Bool.and_eq_true] at h
  obtain ⟨⟨⟨⟨-, he⟩, -⟩, -⟩, -⟩ := h
  exact he

theorem enabled_of_bulkReady {s : State} (h : bulkReady s = true) : (qAt s qXFRIN).en = true := by
  simp only [bulkReady, Bool.and_eq_true] at h
  obtain ⟨⟨hserved, -⟩, -⟩ := h
  exact enabled_of_served hserved

/-- The commands that bring an entry of XFRQ-IN, each for its own XFR_ID. -/
theorem exec_bulkSegment {s : State} (h : bulkReady s = true) {e data : List Byte} {c : Instr}
    (hc : (c = .xfrqInSegment e data ∧ xfrId e ≠ injId) ∨ (c = .inputInjectionSegment e data ∧ xfrId e = injId)) :
    exec c s = .next (bulkSteps Lane.all (fetchBulk ⟨e, data⟩ s)) := by
  obtain ⟨rfl, hi⟩ | ⟨rfl, hi⟩ := hc
  · exact congrArg Host.Outcome.next (if_pos (by simp [h, hi]))
  · exact congrArg Host.Outcome.next (if_pos (by simp [h, hi]))

theorem exec_xfrqInSegment_waits {s : State} (h : bulkReady s = false) (e data : List Byte) :
    exec (.xfrqInSegment e data) s = .next s :=
  congrArg Host.Outcome.next (if_neg (by simp [h]))

theorem exec_inputInjectionSegment_waits {s : State} (h : bulkReady s = false) (e data : List Byte) :
    exec (.inputInjectionSegment e data) s = .next s :=
  congrArg Host.Outcome.next (if_neg (by simp [h]))

theorem bulkSegment_frame {s t : State} {e data : List Byte} {c : Instr}
    (hc : (c = .xfrqInSegment e data ∧ xfrId e ≠ injId) ∨ (c = .inputInjectionSegment e data ∧ xfrId e = injId))
    (hx : exec c s = .next t) : Frame [.lanes, .agr, .host, .peer, .gut] s t := by
  obtain ⟨rfl, -⟩ | ⟨rfl, -⟩ := hc
  · exact exec_frame hx
  · exact exec_frame hx

/-- The lanes' own bulk work does not touch the rings of the host port. -/
theorem bulkSteps_host (ls : List Lane) (s : State) : (bulkSteps ls s).host = s.host :=
  (bulkSteps_kept ls s).frame.rest .host (by decide)

theorem bulkSegment_bulkKept (b : BulkSeg) (s : State) : BulkKept s (bulkSteps Lane.all (fetchBulk b s)) :=
  (fetchBulk_bulkKept b s).trans (bulkSteps_bulkKept ..)

/-! ## A lane goes on with a segment of the running IMAGE_LOAD (R318) -/

/-- Values are agreed only when every lane that counts has taken a segment whole (R383). -/
theorem injectAgree_waits {s : State} (h : ∃ d ∈ counted s, (s.lanes.get d).injSegs = []) : injectAgree s = s := by
  obtain ⟨d, hd, hn⟩ := h
  have hlt : ((counted s).filterMap fun l => (s.lanes.get l).injSegs.head?).length < (counted s).length :=
    List.length_filterMap_lt_length_iff_exists.mpr ⟨d, hd, by simp [hn]⟩
  exact if_pos (by simp [hlt])

section
variable {s : State} {l : Lane} {b : BulkSeg} {rest : List BulkSeg} {i : Nat} {x : XferEnt}

theorem bulkStep_load (ha : isActive s = true) (hr : runningLoad (lead s).work = some (i, x))
    (hi : (s.lanes.get l).bulkIn.items = b :: rest) (hn : xfrId b.entry ≠ injId) : bulkStep l s = loadStep s l x b := by
  simp [bulkStep, hi, hn, ha, hr]

/-- The credit takes the load one step on, where no values are agreed by it and no segment waits in the hub (the model's reading, log
entry 108). -/
theorem exec_creditReturn_load (hu : hubUp s = true) (ha : isActive s = true) (hr : runningLoad (lead s).work = some (i, x))
    (hi : (s.lanes.get l).bulkIn.items = b :: rest) (hn : xfrId b.entry ≠ injId)
    (hs : ∀ d, ((loadStep s l x b).lanes.get d).injSegs = (s.lanes.get d).injSegs)
    (hw : ∃ d ∈ counted s, (s.lanes.get d).injSegs = []) (hh : s.host.bulkHand.get l = []) :
    exec (.creditReturn (.bulkIn l)) s = .next (loadStep s l x b) := by
  have hw' : ∃ d ∈ counted (loadStep s l x b), ((loadStep s l x b).lanes.get d).injSegs = [] := by
    simpa only [(loadStep_bulkKept s l x b).counted, hs] using hw
  have hhost : (loadStep s l x b).host = s.host := (loadStep_kept ..).frame.rest .host (by decide)
  refine (exec_creditReturn hu _).trans (congrArg Host.Outcome.next ?_)
  change handBulk l (injectAgree (bulkStep l s)) = _
  rw [bulkStep_load ha hr hi hn, injectAgree_waits hw', handBulk_nil (by rwa [hhost])]

/-! ### A segment that ends the load -/

/-- A voting lane ends the load where the entry is damaged or does not follow what it holds (the model's reading, log entry 46). -/
theorem loadStep_refused (hv : (s.lanes.get l).role = .voting)
    (h : xfrCrcOk b.entry = false ∨ (xfrId b.entry = x.xfrId ∧ (shadowBank (s.lanes.get l).mram).state = .loading ∧
      (shadowBank (s.lanes.get l).mram).full = false ∧ (s.lanes.get l).bulkOff = 0 ∧
      segFits b.entry b.data (shadowBank (s.lanes.get l).mram).size (loadSize x) = false)) :
    loadStep s l x b = failLoad (onLane s l bulkDrop) x := by
  obtain hc | ⟨hid, hst, hf, ho, hfit⟩ := h
  · simp [loadStep, hv, hc]
  · cases hc : xfrCrcOk b.entry <;> simp [loadStep, hv, hc, hid, hst, hf, ho, hfit]

theorem bulkDrop_bulkIn {y : LaneSt} (h : y.bulkIn.items = b :: rest) : (bulkDrop y).bulkIn = ⟨rest, y.bulkIn.credits + 1⟩ := by
  simp [bulkDrop, CQ.free, h]

/-- Dropping a segment changes the lane's queue and how far it was in it. -/
theorem dropped_lane (s : State) (l d : Lane) :
    ∃ q n, (onLane s l bulkDrop).lanes.get d = { s.lanes.get d with bulkIn := q, bulkOff := n } := by
  by_cases h : d = l
  · rw [h, onLane_same]
    exact ⟨_, _, rfl⟩
  · rw [onLane_other _ _ _ _ h]
    exact ⟨_, _, rfl⟩

/-- The failed load is refused with reason TRANSFER in each lane that runs the cycle (R301, R318). -/
theorem failLoad_verdicts {d : Lane} (hd : d ∈ working s) (hn : ∀ v ∈ (s.lanes.get d).verdicts, v.asn.toNat ≠ x.asn) :
    ((failLoad s x).lanes.get d).verdicts = (s.lanes.get d).verdicts ++
      [{ newVerdict (BitVec.ofNat 64 x.asn) (stREFUSED, 0x1F, 0) with keep := true }] := by
  rw [failLoad, decideCmd_first hd hn]

theorem failLoad_dropped_lane (s : State) (l : Lane) (x : XferEnt) (d : Lane) :
    ∃ q n vs, (failLoad (onLane s l bulkDrop) x).lanes.get d = { s.lanes.get d with bulkIn := q, bulkOff := n, verdicts := vs } := by
  obtain ⟨q, n, hq⟩ := dropped_lane s l d
  obtain ⟨vs, hv⟩ := decideCmd_lane (onLane s l bulkDrop) x.asn stREFUSED 0x1F 0 true d
  exact ⟨q, n, vs, by rw [failLoad, hv, hq]⟩

theorem failLoad_dropped_bulkIn (hi : (s.lanes.get l).bulkIn.items = b :: rest) (x : XferEnt) :
    ((failLoad (onLane s l bulkDrop) x).lanes.get l).bulkIn = ⟨rest, (s.lanes.get l).bulkIn.credits + 1⟩ := by
  obtain ⟨vs, hv⟩ := decideCmd_lane (onLane s l bulkDrop) x.asn stREFUSED 0x1F 0 true l
  rw [failLoad, hv, onLane_same]
  exact bulkDrop_bulkIn hi

theorem failLoad_dropped_verdicts {d : Lane} (hd : d ∈ working s) (hn : ∀ v ∈ (s.lanes.get d).verdicts, v.asn.toNat ≠ x.asn) :
    ((failLoad (onLane s l bulkDrop) x).lanes.get d).verdicts = (s.lanes.get d).verdicts ++
      [{ newVerdict (BitVec.ofNat 64 x.asn) (stREFUSED, 0x1F, 0) with keep := true }] := by
  have hk : BulkKept s (onLane s l bulkDrop) := .onLane bulkDrop_bulkless s l
  obtain ⟨q, n, hq⟩ := dropped_lane s l d
  have hv : ((onLane s l bulkDrop).lanes.get d).verdicts = (s.lanes.get d).verdicts := by rw [hq]
  rw [failLoad_verdicts (by rwa [hk.working]) (by rwa [hv]), hv]

theorem failLoad_dropped_kept (s : State) (l : Lane) (x : XferEnt) : Kept [.lanes] s (failLoad (onLane s l bulkDrop) x) :=
  (onLane_kept ..).step (failLoad_kept ..) rfl

end

/-! ### What a piece of a segment leaves of its lane -/

section
variable {y : LaneSt} {b : BulkSeg} {rest : List BulkSeg}

theorem bulkPiece_first (h : y.bulkOff = 0) : bulkPiece y b = b.data.take (8192 - y.bulkCyc) := by
  rw [bulkPiece, h]
  rfl

theorem bulkDone_first (h : y.bulkOff = 0) : bulkDone y b = decide (b.data.length ≤ 8192 - y.bulkCyc) := by
  rw [bulkDone, bulkPiece_first h, h, List.length_take]
  exact decide_eq_decide.mpr (by omega)

/-- Taking data into the shadow bank changes the lane's MRAM alone. -/
theorem bankTake_mram (data : List Byte) (last : Bool) (y : LaneSt) : ∃ m, bankTake data last y = { y with mram := m } := by
  obtain ⟨c, h | ⟨-, h⟩⟩ := bankTake_eq data last y
  · exact ⟨y.mram, h⟩
  · exact ⟨_, h⟩

theorem bulkPass_lane (b : BulkSeg) (y : LaneSt) : ∃ q n k, bulkPass b y = { y with bulkIn := q, bulkOff := n, bulkCyc := k } := by
  unfold bulkPass
  dsimp only
  split <;> exact ⟨_, _, _, rfl⟩

theorem bulkPass_whole (hi : y.bulkIn.items = b :: rest) (h : bulkDone y b = true) :
    (bulkPass b y).bulkIn = ⟨rest, y.bulkIn.credits + 1⟩ ∧ (bulkPass b y).bulkOff = 0 := by
  simp [bulkPass, h, CQ.free, hi]

theorem bulkPass_part (h : bulkDone y b = false) :
    (bulkPass b y).bulkIn = y.bulkIn ∧ (bulkPass b y).bulkOff = y.bulkOff + (bulkPiece y b).length := by
  simp [bulkPass, h]

theorem bulkTake_eq (b : BulkSeg) (y : LaneSt) : ∃ m, bulkTake b y = bulkPass b { y with mram := m } := by
  obtain ⟨m, h⟩ := bankTake_mram (bulkPiece y b) (xfrLast b.entry && bulkDone y b) y
  exact ⟨m, by rw [bulkTake, h]⟩

theorem bulkTake_mram (h : y.bulkOff = 0) : (bulkTake b y).mram = (bankTake (b.data.take (8192 - y.bulkCyc))
    (xfrLast b.entry && decide (b.data.length ≤ 8192 - y.bulkCyc)) y).mram := by
  rw [← bulkPiece_first h, ← bulkDone_first h]
  obtain ⟨q, n, k, hp⟩ := bulkPass_lane b (bankTake (bulkPiece y b) (xfrLast b.entry && bulkDone y b) y)
  rw [bulkTake, hp]

theorem bulkTake_whole (h : y.bulkOff = 0) (hi : y.bulkIn.items = b :: rest) (hl : b.data.length ≤ 8192 - y.bulkCyc) :
    (bulkTake b y).bulkIn = ⟨rest, y.bulkIn.credits + 1⟩ ∧ (bulkTake b y).bulkOff = 0 := by
  obtain ⟨m, ht⟩ := bulkTake_eq b y
  rw [ht]
  exact bulkPass_whole (y := { y with mram := m }) hi ((bulkDone_first (y := { y with mram := m }) h).trans (decide_eq_true hl))

theorem bulkTake_part (h : y.bulkOff = 0) (hl : 8192 - y.bulkCyc < b.data.length) :
    (bulkTake b y).bulkIn = y.bulkIn ∧ (bulkTake b y).bulkOff = 8192 - y.bulkCyc := by
  obtain ⟨m, ht⟩ := bulkTake_eq b y
  have hpart := bulkPass_part (b := b) (y := { y with mram := m })
    ((bulkDone_first (y := { y with mram := m }) h).trans (decide_eq_false (Nat.not_le.mpr hl)))
  rw [bulkPiece_first (y := { y with mram := m }) h, List.length_take] at hpart
  rw [ht]
  refine ⟨hpart.1, hpart.2.trans ?_⟩
  dsimp only
  omega

/-- Verdicts, region and injected segments stand. -/
theorem bulkTake_rest (b : BulkSeg) (y : LaneSt) :
    (bulkTake b y).verdicts = y.verdicts ∧ (bulkTake b y).region = y.region ∧ (bulkTake b y).injSegs = y.injSegs := by
  obtain ⟨m, ht⟩ := bulkTake_eq b y
  obtain ⟨q, n, k, hp⟩ := bulkPass_lane b { y with mram := m }
  rw [ht, hp]
  exact ⟨rfl, rfl, rfl⟩

end

/-! ### A segment that the lane takes -/

/-- The count of the bytes held changes the lanes' pending regions alone (R483). -/
theorem countLoad_lane (s : State) (d : Lane) : ∃ w, (countLoad s).lanes.get d = { s.lanes.get d with work := w } := by
  unfold countLoad
  split
  · dsimp only
    split
    · exact ⟨_, rfl⟩
    · by_cases hd : d ∈ working s
      · rw [onLanes_in _ _ _ _ hd]
        exact ⟨_, rfl⟩
      · rw [onLanes_out _ _ _ _ hd]
        exact ⟨_, rfl⟩
  · exact ⟨_, rfl⟩

/-- Lane d when lane l has taken what it may of the segment. -/
def pieceBy (l : Lane) (b : BulkSeg) (d : Lane) (y : LaneSt) : LaneSt := if d = l then bulkTake b y else y

theorem pieceBy_self (l : Lane) (b : BulkSeg) (y : LaneSt) : pieceBy l b l y = bulkTake b y := if_pos rfl

theorem pieceBy_other {l d : Lane} (h : d ≠ l) (b : BulkSeg) (y : LaneSt) : pieceBy l b d y = y := if_neg h

theorem pieceBy_rest (l : Lane) (b : BulkSeg) (d : Lane) (y : LaneSt) : (pieceBy l b d y).verdicts = y.verdicts ∧
    (pieceBy l b d y).region = y.region ∧ (pieceBy l b d y).injSegs = y.injSegs := by
  by_cases h : d = l
  · rw [h, pieceBy_self]
    exact bulkTake_rest b y
  · rw [pieceBy_other h]
    exact ⟨rfl, rfl, rfl⟩

section
variable {s : State} {l : Lane} {b : BulkSeg} {x : XferEnt}

/-- The lane takes what it may of a segment that follows what it holds; the rest of the step is the count and the standby's. -/
theorem loadStep_taken (hc : xfrCrcOk b.entry = true) (hid : xfrId b.entry = x.xfrId)
    (hst : (shadowBank (s.lanes.get l).mram).state = .loading) (hf : (shadowBank (s.lanes.get l).mram).full = false)
    (ho : (s.lanes.get l).bulkOff = 0) (hfit : segFits b.entry b.data (shadowBank (s.lanes.get l).mram).size (loadSize x) = true) :
    (loadStep s l x b).lanes = (countLoad (onLane s l (bulkTake b))).lanes := by
  have hstep : loadStep s l x b = if bulkDone (s.lanes.get l) b && l == refLane s then
      passSegment (countLoad (onLane s l (bulkTake b))) (xfrOff b.entry) (xfrLast b.entry) b.data
    else countLoad (onLane s l (bulkTake b)) := by
    simp [loadStep, hc, hid, hst, hf, ho, hfit]
  rw [hstep]
  split
  · exact (passSegment_kept ..).frame.rest .lanes (by decide)
  · rfl

/-- A lane after the step of its own or of another lane, but for its pending region. -/
theorem taken_lane (h : (loadStep s l x b).lanes = (countLoad (onLane s l (bulkTake b))).lanes) (d : Lane) :
    ∃ w, (loadStep s l x b).lanes.get d = { pieceBy l b d (s.lanes.get d) with work := w } := by
  obtain ⟨w, hw⟩ := countLoad_lane (onLane s l (bulkTake b)) d
  refine ⟨w, ?_⟩
  rw [h, hw]
  by_cases hd : d = l
  · rw [hd, onLane_same, pieceBy_self]
  · rw [onLane_other _ _ _ _ hd, pieceBy_other hd]

end

end Sys2Proof.Machine
end

section
/-! SUPPORT. The end of a transfer, the verified yealm, the segments of a JOURNAL_READ and injected values (R161, R163, R301, R318,
R383). -/

namespace Sys2Proof.Machine

section
variable {s : State} {l : Lane} {i : Nat} {x : XferEnt}

/-! ## TRANSFER_TIMEOUT (R318) -/

theorem exec_transferTimeout (hu : hubUp s = true) (ha : isActive s = true) (hr : runningLoad (lead s).work = some (i, x))
    (hd : x.doneB < loadSize x) (hk : x.lastc + cyclesPer10s s ≤ s.cyc.k.toNat) :
    exec .transferTimeout s = .next (failLoad s x) := by
  refine congrArg Host.Outcome.next ((if_pos (by simp [hu, ha])).trans ?_)
  rw [hr]
  exact if_pos (by simp [hd, hk])

theorem exec_transferTimeout_early (hu : hubUp s = true) (ha : isActive s = true) (hr : runningLoad (lead s).work = some (i, x))
    (hk : s.cyc.k.toNat < x.lastc + cyclesPer10s s) : exec .transferTimeout s = .next s := by
  refine congrArg Host.Outcome.next ((if_pos (by simp [hu, ha])).trans ?_)
  rw [hr]
  exact if_neg (by simp [Nat.not_le.mpr hk])

/-! ## YEALM_VERIFIED (R161, R163) -/

theorem exec_yealmVerified (hu : hubUp s = true) (hs : (shadowBank (s.lanes.get l).mram).state = .loading)
    (hf : (shadowBank (s.lanes.get l).mram).full = true) : exec (.yealmVerified l) s = .next (yealmVerifiedAt l s) :=
  congrArg Host.Outcome.next (if_pos (by simp [hu, hs, hf]))

/-- No IMAGE_LOAD runs in a state that bulk work leaves with the same pending regions. -/
theorem runningLoad_congr {t : State} (h : BulkKept s t) (hw : ∀ d, (t.lanes.get d).work = (s.lanes.get d).work) :
    runningLoad (lead t).work = runningLoad (lead s).work := by
  rw [lead, lead, h.refLane, hw]

/-- The yealm stands VERIFIED in the lane's shadow bank. -/
def verifiedHeld (y : Yealm) (z : LaneSt) : LaneSt :=
  { z with mram := setShadow z.mram { shadowBank z.mram with state := .verified, img := some y, full := false } }

theorem verifiedHeld_bulkless (y : Yealm) (z : LaneSt) : bulkless (verifiedHeld y z) = bulkless z :=
  setShadow_bulkless (by simp) z

theorem verifiedHeld_shadow (y : Yealm) (z : LaneSt) :
    shadowBank (verifiedHeld y z).mram = { shadowBank z.mram with state := .verified, img := some y, full := false } :=
  shadowBank_setShadow (by simp)

/-- Without a running IMAGE_LOAD nothing is decided (R301). -/
theorem loadDone_idle (hr : runningLoad (lead s).work = none) : loadDone s = s := by
  rw [loadDone, hr]

theorem verifiedHeld_running (hr : runningLoad (lead s).work = none) (y : Yealm) :
    runningLoad (lead (onLane s l (verifiedHeld y))).work = none := by
  rw [runningLoad_congr (.onLane (verifiedHeld_bulkless y) s l) fun d => ?_, hr]
  by_cases hd : d = l
  · rw [hd, onLane_same]
    rfl
  · rw [onLane_other _ _ _ _ hd]

theorem imageHeld_lanes (hr : runningLoad (lead s).work = none) (y : Yealm) :
    (imageHeld s l y).lanes = (onLane s l (verifiedHeld y)).lanes := by
  have hheld : imageHeld s l y = if s.mod.st == .boot then raiseLane (onLane s l (verifiedHeld y)) l 0x0483 (argLane l)
      else loadDone (onLane s l (verifiedHeld y)) := rfl
  rw [hheld]
  split
  · exact raiseLane_lanes ..
  · rw [loadDone_idle (verifiedHeld_running hr y)]

theorem yealmVerifiedAt_ok (hr : runningLoad (lead s).work = none) {y : Yealm}
    (hv : verify l (s.lanes.get l).sw s.mod.boot.split (bankBytes (shadowBank (s.lanes.get l).mram)) = .ok y) :
    yealmVerifiedAt l s = imageHeld s l y := by
  unfold yealmVerifiedAt
  dsimp only
  rw [hv, hr]

theorem unloadBank_work (z : LaneSt) : (unloadBank z).work = z.work := by
  unfold unloadBank
  split <;> rfl

theorem unloadBank_shadow {z : LaneSt} (h : (shadowBank z.mram).state = .loading) :
    shadowBank (unloadBank z).mram = { state := .empty, mem := [], size := 0, img := none } := by
  rw [unloadBank, if_pos (by simp [h])]
  exact shadowBank_setShadow (by decide)

/-- The alarms of the failed step are all that follows where no IMAGE_LOAD runs. -/
theorem imageRefused_idle {n : Nat} {tt : Option (Nat × Nat)}
    (hr : runningLoad (lead (refuseImage (onLane s l unloadBank) l n tt)).work = none) :
    imageRefused s l n tt = refuseImage (onLane s l unloadBank) l n tt := by
  unfold imageRefused
  dsimp only
  rw [hr]

/-- The bank that fails its checks is emptied; with no IMAGE_LOAD running the alarms are all that follows (R161). -/
theorem yealmVerifiedAt_refused (hr : runningLoad (lead s).work = none) {n : Nat} {tt : Option (Nat × Nat)}
    (hv : verify l (s.lanes.get l).sw s.mod.boot.split (bankBytes (shadowBank (s.lanes.get l).mram)) = .refused n tt) :
    yealmVerifiedAt l s = refuseImage (onLane s l unloadBank) l n tt := by
  have hk : BulkKept s (refuseImage (onLane s l unloadBank) l n tt) :=
    (BulkKept.onLane unloadBank_bulkless s l).trans
      (.of_lanes (refuseImage_lanes ..) ((refuseImage_kept ..).mod_eq (by decide) (by decide)))
  have hw (d : Lane) : ((refuseImage (onLane s l unloadBank) l n tt).lanes.get d).work = (s.lanes.get d).work := by
    rw [refuseImage_lanes]
    by_cases hd : d = l
    · rw [hd, onLane_same, unloadBank_work]
    · rw [onLane_other _ _ _ _ hd]
  unfold yealmVerifiedAt
  dsimp only
  rw [hv]
  exact imageRefused_idle ((runningLoad_congr hk hw).trans hr)

/-! ## JOURNAL_READ_SEGMENT (R318) -/

theorem exec_journalReadSegment (ha : isActive s = true) (hc : ringCan s qXFROUT = true) (hb : s.host.bulkOut.credits ≠ 0)
    (hr : (s.lanes.get l).role ≠ .retired) (hs : (s.lanes.get l).stopped = false) (hx : runningRead s l = some (i, x)) :
    exec (.journalReadSegment l) s = .next (readSegment s l i x) := by
  refine congrArg Host.Outcome.next ((if_pos (by simp [ha, hc, hb, hr, hs])).trans ?_)
  rw [hx]

/-- Writes to host memory follow what was posted before (R288). -/
theorem postData_eq (s : State) (addr : DWord) (data : List Byte) :
    ∃ ws, postData s addr data = { s with host := { s.host with posted := s.host.posted ++ ws } } := by
  have h (f : Nat → HostWrite) (ns : List Nat) (s : State) : ns.foldl (fun s i => post s (f i)) s =
      { s with host := { s.host with posted := s.host.posted ++ ns.map f } } := by
    induction ns generalizing s with
    | nil => simp
    | cons n ns ih =>
      rw [List.foldl_cons, ih, List.map_cons, List.append_cons]
      rfl
  exact ⟨_, h _ _ s⟩

/-- A record put into a ring is posted with the index that names it (R290). -/
theorem ringPut_posted {q : Nat} (h : ringCan s q = true) (e : List Byte) :
    ∃ v w, (ringPut s q e).host.posted = s.host.posted ++ [v, w] := by
  rw [ringPut, if_pos h]
  exact ⟨_, _, List.append_assoc ..⟩

theorem ringPut_lanes (s : State) (q : Nat) (e : List Byte) : (ringPut s q e).lanes = s.lanes :=
  (ringPut_kept s q e).frame.rest .lanes (by decide)

theorem readDone_cases (s : State) (e : List Byte) : readDone s e = s ∨ ∃ asn n, readDone s e = decideCmd s asn stDONE 0 n true := by
  unfold readDone
  dsimp only
  split
  · split
    · exact Or.inr ⟨_, _, rfl⟩
    · exact Or.inl rfl
  · exact Or.inl rfl

/-- The last entry of a read decides its command, and that alone. -/
theorem readDone_lane (s : State) (e : List Byte) (d : Lane) :
    ∃ vs, (readDone s e).lanes.get d = { s.lanes.get d with verdicts := vs } := by
  obtain h | ⟨asn, n, h⟩ := readDone_cases s e
  · rw [h]
    exact ⟨_, rfl⟩
  · rw [h]
    exact decideCmd_lane ..

theorem readDone_host (s : State) (e : List Byte) : (readDone s e).host = s.host := (readDone_kept s e).frame.rest .host (by decide)

/-- The front entry of the bulk outbound queue has left it (R17). -/
def entryFreed (s : State) : State := { s with host := { s.host with bulkOut := s.host.bulkOut.free } }

/-- The entry that leads the bulk outbound queue is handed over (R290). -/
theorem bulkLeave_front {e : List Byte} {rest : List (List Byte)} (hi : s.host.bulkOut.items = e :: rest)
    (hc : ringCan s qXFROUT = true) : bulkLeave s = readDone (ringPut (entryFreed s) qXFROUT e) e := by
  rw [bulkLeave, hi]
  exact if_pos hc

/-- What a segment of a read leaves before its entry is handed over: its data posted, its entry queued, its progress noted. -/
def readPosted (s : State) (ws : List HostWrite) (e : List Byte) (f : Mem → Mem) : State :=
  onLanes { s with host := { s.host with posted := s.host.posted ++ ws, bulkOut := s.host.bulkOut.send e } } (working s)
    fun _ y => workWrite y f

theorem readSegment_eq (s : State) (l : Lane) (i : Nat) (x : XferEnt) :
    ∃ ws e f, readSegment s l i x = bulkLeave (readPosted s ws e f) := by
  obtain ⟨ws, h⟩ := postData_eq s (BitVec.ofNat 64 (fldLE x.param 8 8 + x.doneB))
    (slice ((readContent (s.lanes.get l).mram (fldLE x.param 1 1) (fldLE x.param 16 4)).take (fldLE x.param 4 4)) x.doneB 65536)
  unfold readSegment
  dsimp only
  rw [h]
  exact ⟨ws, _, _, rfl⟩

theorem readPosted_lane (s : State) (ws : List HostWrite) (e : List Byte) (f : Mem → Mem) (d : Lane) :
    ∃ w, (readPosted s ws e f).lanes.get d = { s.lanes.get d with work := w } := by
  by_cases hd : d ∈ working s
  · exact ⟨_, onLanes_in _ _ _ _ hd⟩
  · exact ⟨_, onLanes_out _ _ _ _ hd⟩

/-- With an empty queue that has a credit the entry goes straight on to XFRQ-OUT. -/
theorem readSegment_handed (l : Lane) (i : Nat) (x : XferEnt) (hc : ringCan s qXFROUT = true) (hi : s.host.bulkOut.items = [])
    (hb : s.host.bulkOut.credits ≠ 0) :
    ∃ ws e f, readSegment s l i x = readDone (ringPut (entryFreed (readPosted s ws e f)) qXFROUT e) e := by
  obtain ⟨ws, e, f, h⟩ := readSegment_eq s l i x
  have hq : (readPosted s ws e f).host.bulkOut.items = [e] :=
    (congrArg CQ.items (CQ.send_of_credit hb e)).trans (by rw [hi, List.nil_append])
  exact ⟨ws, e, f, h.trans (bulkLeave_front hq hc)⟩

theorem readSegment_lane (l : Lane) (i : Nat) (x : XferEnt) (hc : ringCan s qXFROUT = true) (hi : s.host.bulkOut.items = [])
    (hb : s.host.bulkOut.credits ≠ 0) (d : Lane) :
    ∃ w vs, (readSegment s l i x).lanes.get d = { s.lanes.get d with work := w, verdicts := vs } := by
  obtain ⟨ws, e, f, h⟩ := readSegment_handed l i x hc hi hb
  obtain ⟨vs, hv⟩ := readDone_lane (ringPut (entryFreed (readPosted s ws e f)) qXFROUT e) e d
  obtain ⟨w, hw⟩ := readPosted_lane s ws e f d
  exact ⟨w, vs, by rw [h, hv, ringPut_lanes, entryFreed, hw]⟩

theorem readSegment_posted (l : Lane) (i : Nat) (x : XferEnt) (hc : ringCan s qXFROUT = true) (hi : s.host.bulkOut.items = [])
    (hb : s.host.bulkOut.credits ≠ 0) : ∃ ws, ws ≠ [] ∧ (readSegment s l i x).host.posted = s.host.posted ++ ws := by
  obtain ⟨ws, e, f, h⟩ := readSegment_handed l i x hc hi hb
  obtain ⟨v, w, hp⟩ := ringPut_posted (s := entryFreed (readPosted s ws e f)) (q := qXFROUT) hc e
  refine ⟨ws ++ [v, w], by simp, ?_⟩
  rw [h, readDone_host, hp]
  exact List.append_assoc ..

end

end Sys2Proof.Machine
end

section
/-! SUPPORT. Injected input values (R19, R383), and the whole of what moves in bulk. -/

namespace Sys2Proof.Machine

/-! ## A fetched segment reaches lanes whose queues are empty (R19) -/

section
variable {s : State} {b : BulkSeg}

theorem spreadTo_lanes {l : Lane} (hh : s.host.bulkHand.get l = []) (hc : (s.lanes.get l).bulkIn.credits ≠ 0) :
    (spreadTo b s l).lanes = (onLane s l (bulkSent b)).lanes := by
  have hw : (bulkWaits b s l).host.bulkHand.get l = [b] := by rw [bulkWaits, Quad.get_set_same, hh, List.nil_append]
  rw [spreadTo, handBulk_cons hw hc]
  rfl

theorem spreadTo_hand {l m : Lane} (h : m ≠ l) : (spreadTo b s l).host.bulkHand.get m = s.host.bulkHand.get m := by
  have hw : (bulkWaits b s l).host.bulkHand.get m = s.host.bulkHand.get m := Quad.get_set_other _ _ _ _ h
  rw [spreadTo, ← hw]
  cases hq : (bulkWaits b s l).host.bulkHand.get l with
  | nil => rw [handBulk_nil hq]
  | cons c r =>
    by_cases hc : ((bulkWaits b s l).lanes.get l).bulkIn.credits = 0
    · rw [handBulk_full hq hc]
    · rw [handBulk_cons hq hc]
      exact Quad.get_set_other _ _ _ _ h

theorem foldl_spreadTo_lane {ls : List Lane} (hd : ls.Nodup)
    (hidle : ∀ l ∈ ls, s.host.bulkHand.get l = [] ∧ (s.lanes.get l).bulkIn.credits ≠ 0) (m : Lane) :
    (ls.foldl (spreadTo b) s).lanes.get m = if m ∈ ls then bulkSent b (s.lanes.get m) else s.lanes.get m := by
  induction ls generalizing s with
  | nil => rfl
  | cons l ls ih =>
    obtain ⟨hl, hls⟩ := List.nodup_cons.mp hd
    obtain ⟨hh, hc⟩ := hidle l List.mem_cons_self
    have hlanes := spreadTo_lanes (b := b) hh hc
    have hrest : ∀ k ∈ ls, (spreadTo b s l).host.bulkHand.get k = [] ∧ ((spreadTo b s l).lanes.get k).bulkIn.credits ≠ 0 := by
      intro k hk
      have hne : k ≠ l := fun e => hl (e ▸ hk)
      rw [spreadTo_hand hne, hlanes, onLane_other _ _ _ _ hne]
      exact hidle k (List.mem_cons_of_mem _ hk)
    rw [List.foldl_cons, ih hls hrest, hlanes]
    by_cases hm : m = l
    · rw [hm, if_neg hl, onLane_same, if_pos List.mem_cons_self]
    · simp only [onLane_other _ _ _ _ hm, List.mem_cons, hm, false_or]

/-- The transfer's own progress is noted in the pending regions alone. -/
theorem loadArrived_lane (s : State) (e : List Byte) (d : Lane) :
    ∃ w, (loadArrived s e).lanes.get d = { s.lanes.get d with work := w } := by
  unfold loadArrived
  split
  · split
    · by_cases hd : d ∈ working s
      · exact ⟨_, onLanes_in _ _ _ _ hd⟩
      · exact ⟨_, onLanes_out _ _ _ _ hd⟩
    · exact ⟨_, rfl⟩
  · exact ⟨_, rfl⟩

theorem ringConsume_lanes (s : State) (q n : Nat) : (ringConsume s q n).lanes = s.lanes :=
  (ringConsume_kept s q n).frame.rest .lanes (by decide)

theorem bulkFetched_lane (b : BulkSeg) (s : State) (d : Lane) :
    ∃ w, (bulkFetched b s).lanes.get d = { s.lanes.get d with work := w } := by
  rw [bulkFetched, ringConsume_lanes]
  exact loadArrived_lane ..

theorem ringConsume_hand (s : State) (q n : Nat) : (ringConsume s q n).host.bulkHand = s.host.bulkHand := by
  unfold ringConsume
  split
  · rfl
  · unfold writeBack
    dsimp only
    split
    · rfl
    · split <;> rfl

theorem bulkFetched_hand (b : BulkSeg) (s : State) : (bulkFetched b s).host.bulkHand = s.host.bulkHand := by
  rw [bulkFetched, ringConsume_hand, loadArrived_host]
  rfl

/-- Every lane stands before the segment with nothing of it taken, and nothing kept for the agreement. -/
structure BulkFresh (b : BulkSeg) (x : LaneSt) : Prop where
  front : x.bulkIn.items = [b]
  off   : x.bulkOff = 0
  cyc   : x.bulkCyc = 0
  segs  : x.injSegs = []

theorem fetchBulk_fresh (hidle : ∀ l, bulkIdle s l) (l : Lane) : BulkFresh b ((fetchBulk b s).lanes.get l) := by
  have hf : ∀ d ∈ Lane.all, (bulkFetched b s).host.bulkHand.get d = [] ∧ ((bulkFetched b s).lanes.get d).bulkIn.credits ≠ 0 := by
    intro d _
    obtain ⟨-, hcred, hhand, -⟩ := hidle d
    obtain ⟨w, hw⟩ := bulkFetched_lane b s d
    rw [bulkFetched_hand, hw]
    exact ⟨hhand, hcred⟩
  have hall : l ∈ Lane.all := by cases l <;> decide
  obtain ⟨hitems, hcred, -, hoff, hcyc, hsegs⟩ := hidle l
  obtain ⟨w, hw⟩ := bulkFetched_lane b s l
  rw [fetchBulk_eq, foldl_spreadTo_lane (by decide) hf, if_pos hall, hw]
  refine ⟨?_, hoff, hcyc, hsegs⟩
  rw [bulkSent, CQ.send_of_credit hcred]
  exact (congrArg (· ++ [b]) hitems).trans (List.nil_append _)

/-! ## Every lane takes it whole (R383) -/

theorem bulkStep_inject {l : Lane} {rest : List BulkSeg} (hf : (s.lanes.get l).bulkIn.items = b :: rest) (hi : xfrId b.entry = injId) :
    bulkStep l s = onLane s l (injectStep b) := by
  simp [bulkStep, hf, hi]

theorem foldl_bulkStep_inject (hi : xfrId b.entry = injId) {ls : List Lane} (hd : ls.Nodup)
    (hf : ∀ l ∈ ls, (s.lanes.get l).bulkIn.items = [b]) :
    ∃ q, ls.foldl (fun s l => bulkStep l s) s = { s with lanes := q } ∧
      ∀ m, q.get m = if m ∈ ls then injectStep b (s.lanes.get m) else s.lanes.get m := by
  induction ls generalizing s with
  | nil => exact ⟨s.lanes, rfl, fun m => rfl⟩
  | cons l ls ih =>
    obtain ⟨hl, hls⟩ := List.nodup_cons.mp hd
    have hstep := bulkStep_inject (hf l List.mem_cons_self) hi
    have hrest : ∀ k ∈ ls, ((onLane s l (injectStep b)).lanes.get k).bulkIn.items = [b] := by
      intro k hk
      have hne : k ≠ l := fun e => hl (e ▸ hk)
      rw [onLane_other _ _ _ _ hne]
      exact hf k (List.mem_cons_of_mem _ hk)
    obtain ⟨q, hq, hget⟩ := ih hls hrest
    refine ⟨q, ?_, fun m => ?_⟩
    · rw [List.foldl_cons, hstep, hq]
      rfl
    · rw [hget]
      by_cases hm : m = l
      · rw [hm, if_neg hl, onLane_same, if_pos List.mem_cons_self]
      · simp only [onLane_other _ _ _ _ hm, List.mem_cons, hm, false_or]

/-- A segment of at most 8 KiB is taken whole and kept (R383). -/
theorem injectStep_segs {x : LaneSt} (h : BulkFresh b x) (hc : xfrCrcOk b.entry = true) (hl : b.data.length ≤ 8192) :
    (injectStep b x).injSegs = [b] := by
  have hdone : bulkDone x b = true := (bulkDone_first h.off).trans (decide_eq_true (by rw [h.cyc]; exact hl))
  have hsegs : (bulkPass b x).injSegs = [] := by
    obtain ⟨q, n, k, hp⟩ := bulkPass_lane b x
    rw [hp]
    exact h.segs
  simp [injectStep, hc, hdone, hsegs]

/-! ## The lanes agree it (R383) -/

/-- Every lane that counts has taken the same segment whole: it is agreed. -/
theorem injectAgree_all (h : ∀ l, (s.lanes.get l).injSegs = [b]) (hn : 2 ≤ (counted s).length) :
    injectAgree s = injectAt b (injSegsAgreed s) := by
  have hsegs : ((counted s).filterMap fun l => (s.lanes.get l).injSegs.head?) = (counted s).map fun _ => b := by
    rw [← List.filterMap_eq_map]
    exact List.filterMap_congr fun l _ => by rw [h l]; rfl
  have hagree : agree2 (((counted s).map fun _ => b).map fun b => crc32c b.data) = some (crc32c b.data) :=
    agree2_alike (by simp) (by simpa using hn)
  have hfind : (((counted s).map fun _ => b).find? fun c => crc32c c.data == crc32c b.data) = some b := by
    obtain ⟨l, ls, hls⟩ := List.exists_cons_of_length_pos (show 0 < (counted s).length by omega)
    rw [hls, List.map_cons, List.find?_cons_of_pos (by simp)]
  have hne : (counted s).isEmpty = false := by
    rw [List.isEmpty_eq_false_iff, ← List.length_pos_iff]
    omega
  simp only [injectAgree, hsegs, hne, List.length_map, Nat.lt_irrefl, decide_false, Bool.or_false, Bool.false_eq_true, if_false,
    hagree, hfind]
  rfl

theorem injectAt_taken {y : Yealm} (hy : theYealm s = some y) (hb : injBad s y b.data = none) :
    injectAt b s = { s with agr := { s.agr with inj := s.agr.inj ++ (records 8 b.data).map injItem } } := by
  simp only [injectAt, hy, hb]

theorem injectAt_refused {y : Yealm} (hy : theYealm s = some y) {n : Nat} (hb : injBad s y b.data = some n) :
    injectAt b s = raiseShared s 0x0A86 (argOne ++ arg4 (xfrOff b.entry) ++ arg2 n) := by
  simp only [injectAt, hy, hb]

/-- Outside TEST the first value already refuses the segment (R383). -/
theorem injBad_outside (h : inTest s = false) (y : Yealm) (data : List Byte) : injBad s y data = some 0 := by
  simp [injBad, h]

theorem injBad_congr {t : State} (h : t.ctl = s.ctl) (y : Yealm) (data : List Byte) : injBad t y data = injBad s y data := by
  rw [injBad, injBad, inTest, inTest, h]

/-- What an agreed segment finds: only lanes and host port have changed since it was fetched. -/
theorem bulkSteps_inject (hi : xfrId b.entry = injId) (hc : xfrCrcOk b.entry = true) (hl : b.data.length ≤ 8192)
    (hn : 2 ≤ (counted s).length) (hidle : ∀ l, bulkIdle s l) :
    ∃ u, bulkSteps Lane.all (fetchBulk b s) = injectAt b u ∧ BulkKept s u ∧ Kept [.lanes, .host] s u := by
  have hfresh := fetchBulk_fresh (b := b) hidle
  obtain ⟨q, hq, hget⟩ := foldl_bulkStep_inject hi (s := fetchBulk b s) (ls := Lane.all) (by decide) fun l _ => (hfresh l).front
  have hseg (l : Lane) : (q.get l).injSegs = [b] := by
    rw [hget, if_pos (by cases l <;> decide)]
    exact injectStep_segs (hfresh l) hc hl
  have hkept : BulkKept s { fetchBulk b s with lanes := q } := by
    rw [← hq]
    exact (fetchBulk_bulkKept b s).trans (.foldl (fun s l => bulkStep_bulkKept l s) ..)
  have hlanes (t : State) (q : Quad LaneSt) : Kept [.lanes] t { t with lanes := q } :=
    Kept.upd (Kept.refl _ t) (Or.inr rfl) (Or.inr rfl) (Or.inr rfl) (Or.inr rfl) (Or.inr rfl) (Or.inl (by decide)) (Or.inr rfl)
      (Or.inr rfl) (Or.inr rfl) (Or.inr rfl) (Or.inr rfl) (Or.inr rfl) (Or.inr rfl)
  have hframe : Kept [.lanes, .host] s (injSegsAgreed { fetchBulk b s with lanes := q }) :=
    ((fetchBulk_kept b s).step (hlanes _ q) rfl).step (hlanes _ _) rfl
  refine ⟨_, ?_, hkept.trans (injSegsAgreed_bulkKept _), hframe⟩
  rw [bulkSteps, hq, injectAgree_all hseg (by rwa [hkept.counted])]

/-- Values that every lane has room for are agreed at once, on what the state was before the fetch. -/
theorem exec_inject {e data : List Byte} {y : Yealm} (hb : bulkReady s = true) (hi : xfrId e = injId) (hc : xfrCrcOk e = true)
    (hy : theYealm s = some y) (hn : 2 ≤ (counted s).length) (hidle : ∀ l, bulkIdle s l) (hl : data.length ≤ 8192) :
    ∃ u, exec (.inputInjectionSegment e data) s = .next (injectAt ⟨e, data⟩ u) ∧ theYealm u = some y ∧ u.ctl = s.ctl ∧
      u.agr = s.agr ∧ Kept [.lanes, .host] s u := by
  obtain ⟨u, hsteps, hk, hf⟩ := bulkSteps_inject (b := ⟨e, data⟩) hi hc hl hn hidle
  have hx := exec_bulkSegment (c := .inputInjectionSegment e data) hb (Or.inr ⟨rfl, hi⟩)
  rw [hsteps] at hx
  exact ⟨u, hx, hk.theYealm.trans hy, hf.frame.rest .ctl (by decide), hf.frame.rest .agr (by decide), hf⟩

theorem agrTaken_kept (s : State) (a : List Injection) : Kept [.agr] s { s with agr := { s.agr with inj := a } } :=
  Kept.upd (Kept.refl _ s) (Or.inr rfl) (Or.inr rfl) (Or.inr rfl) (Or.inr rfl) (Or.inr rfl) (Or.inr rfl) (Or.inl (by decide))
    (Or.inr rfl) (Or.inr rfl) (Or.inr rfl) (Or.inr rfl) (Or.inr rfl) (Or.inr rfl)

end

/-! ## What moves in bulk -/

section
variable {s : State}

theorem journalReadSegment_moves {l : Lane} {i : Nat} {x : XferEnt} (ha : isActive s = true) (hc : ringCan s qXFROUT = true)
    (hi : s.host.bulkOut.items = []) (hb : s.host.bulkOut.credits ≠ 0) (hr : (s.lanes.get l).role ≠ .retired)
    (hs : (s.lanes.get l).stopped = false) (hrd : runningRead s l = some (i, x)) :
    ∃ t, exec (.journalReadSegment l) s = .next t ∧ (∀ m, (t.lanes.get m).mram = (s.lanes.get m).mram ∧
      (t.lanes.get m).region = (s.lanes.get m).region) ∧
      (s.host.posted <+: t.host.posted) ∧ s.host.posted.length < t.host.posted.length ∧ Frame [.lanes, .host] s t := by
  have hx := exec_journalReadSegment ha hc hb hr hs hrd
  obtain ⟨ws, hne, hp⟩ := readSegment_posted l i x hc hi hb
  refine ⟨_, hx, fun m => ?_, ?_, ?_, exec_frame hx⟩
  · obtain ⟨w, vs, hm⟩ := readSegment_lane l i x hc hi hb m
    rw [hm]
    exact ⟨rfl, rfl⟩
  · rw [hp]
    exact List.prefix_append ..
  · have hpos := List.length_pos_iff.mpr hne
    rw [hp, List.length_append]
    omega

end

/-- Settles O40: a fetch by what bulk work keeps of the lanes, a lane's step by the segment that leads its queue, a verification by what
`verify` answers, a read by its one segment, injected values by the segment that every lane takes whole. -/
theorem transfersMove : Obligations.TransfersMove := by
  unfold Obligations.TransfersMove
  refine fun s => ⟨fun e data hb c hc => ?_, fun e data hb => ?_, fun l b rest i x hu ha hr hi hn hw hh => ⟨fun hv hbad => ?_,
    fun hc hid hst hf ho hfit => ?_⟩, fun i x hu ha hr => ⟨fun hd hk => ?_, exec_transferTimeout_early hu ha hr⟩,
    fun l hu hst hf hr => ⟨fun y hv => ?_, fun n tt hv => ?_⟩, fun l i x => journalReadSegment_moves,
    fun e data y hb hi hc hy hn hidle hl => ⟨fun hgood => ?_, fun hout => ?_⟩⟩
  · have hx := exec_bulkSegment hb hc
    have hk := bulkSegment_bulkKept ⟨e, data⟩ s
    refine ⟨_, hx, ?_, fun l => ⟨hk.region l, hk.active l, hk.role l⟩, bulkSegment_frame hc hx⟩
    rw [qAt_congr (congrArg HostPort.q (bulkSteps_host ..))]
    exact fetchBulk_idx (enabled_of_bulkReady hb) _
  · exact ⟨exec_xfrqInSegment_waits hb e data, exec_inputInjectionSegment_waits hb e data⟩
  · have hstep := loadStep_refused hv hbad
    have hsegs (d : Lane) : ((loadStep s l x b).lanes.get d).injSegs = (s.lanes.get d).injSegs := by
      obtain ⟨q, n, vs, hd⟩ := failLoad_dropped_lane s l x d
      rw [hstep, hd]
    have hx := exec_creditReturn_load hu ha hr hi hn hsegs hw hh
    rw [hstep] at hx
    refine ⟨_, hx, failLoad_dropped_bulkIn hi x, fun d => failLoad_dropped_verdicts, fun d => ?_, (failLoad_dropped_kept s l x).frame⟩
    obtain ⟨q, n, vs, hd⟩ := failLoad_dropped_lane s l x d
    rw [hd]
    exact ⟨rfl, rfl⟩
  · have hlane := taken_lane (loadStep_taken hc hid hst hf ho hfit)
    have hsegs (d : Lane) : ((loadStep s l x b).lanes.get d).injSegs = (s.lanes.get d).injSegs := by
      obtain ⟨-, -, hkept⟩ := pieceBy_rest l b d (s.lanes.get d)
      obtain ⟨w, hd⟩ := hlane d
      rw [hd]
      exact hkept
    have hx := exec_creditReturn_load hu ha hr hi hn hsegs hw hh
    obtain ⟨w, hl⟩ := hlane l
    rw [pieceBy_self] at hl
    refine ⟨_, hx, ?_, fun hle => ?_, fun hlt => ?_, fun d => ?_, ((loadStep_kept ..).mono rfl).frame⟩
    · rw [hl]
      exact bulkTake_mram ho
    · rw [hl]
      exact bulkTake_whole ho hi hle
    · rw [hl]
      exact bulkTake_part ho hlt
    · obtain ⟨hverd, hregion, -⟩ := pieceBy_rest l b d (s.lanes.get d)
      obtain ⟨w, hd⟩ := hlane d
      rw [hd]
      refine ⟨hverd, hregion, fun hne => ?_⟩
      rw [pieceBy_other hne]
  · have hx := exec_transferTimeout hu ha hr hd hk
    exact ⟨_, hx, fun l => failLoad_verdicts, exec_frame hx⟩
  · have hx := exec_yealmVerified hu hst hf
    have hframe := exec_frame hx
    have hlanes := imageHeld_lanes (l := l) hr y
    rw [yealmVerifiedAt_ok hr hv] at hx hframe
    refine ⟨_, hx, ?_, ?_, ?_, hframe⟩
    · rw [hlanes, onLane_same, verifiedHeld_shadow]
    · rw [hlanes, onLane_same, verifiedHeld_shadow]
    · rw [hlanes]
      exact (BulkKept.onLane (verifiedHeld_bulkless y) s l).active l
  · have hx := exec_yealmVerified hu hst hf
    have hframe := exec_frame hx
    have hlanes := refuseImage_lanes (onLane s l unloadBank) l n tt
    rw [yealmVerifiedAt_refused hr hv] at hx hframe
    refine ⟨_, hx, ?_, ?_, ?_, fun m hm => ?_, hframe⟩
    · rw [hlanes, onLane_same, unloadBank_shadow hst]
    · rw [hlanes, onLane_same, unloadBank_shadow hst]
    · rw [hlanes]
      exact (BulkKept.onLane unloadBank_bulkless s l).active l
    · rw [hlanes, onLane_other _ _ _ _ hm]
  · obtain ⟨u, hx, hy', hctl, hagr, hf⟩ := exec_inject hb hi hc hy hn hidle hl
    rw [injectAt_taken hy' ((injBad_congr hctl y data).trans hgood)] at hx
    refine ⟨_, hx, ?_, ((hf.mono rfl).step (agrTaken_kept u _) rfl).frame⟩
    rw [hagr]
  · obtain ⟨u, hx, hy', hctl, hagr, hf⟩ := exec_inject hb hi hc hy hn hidle hl
    rw [injectAt_refused hy' ((injBad_congr hctl y data).trans (injBad_outside hout y data))] at hx
    exact ⟨_, hx, (raiseShared_agr ..).trans hagr, ((hf.mono rfl).step (raiseShared_kept ..) rfl).frame⟩

end Sys2Proof.Machine
end

section
/-! SUPPORT. What a returned discovery says of each of its entries (R222), and what happens at one plane alone: its SFP module, its
links, its loss, its probe and the return of its discovery (R184, R185, R224, R235). That a position is a duplicate only within one
frame, that an extra entry is named by its index, that the diagnostics of a module are kept, and what LINK_PROBE answers and brings,
are the model's choices (log entries 12, 91, 92 and 94). -/

namespace Sys2Proof.Machine

/-! ## Sorting by a key keeps the members -/

theorem mem_insertBy {α : Type} (key : α → Nat) (x y : α) (l : List α) : y ∈ insertBy key x l ↔ y = x ∨ y ∈ l := by
  induction l with
  | nil => simp [insertBy]
  | cons z l ih =>
    unfold insertBy
    split
    · exact List.mem_cons
    · rw [List.mem_cons, ih, List.mem_cons, or_left_comm]

theorem mem_foldl_insertBy {α : Type} (key : α → Nat) (y : α) (l acc : List α) :
    y ∈ l.foldl (fun acc x => insertBy key x acc) acc ↔ y ∈ l ∨ y ∈ acc := by
  induction l generalizing acc with
  | nil => simp
  | cons x l ih => rw [List.foldl_cons, ih, mem_insertBy, List.mem_cons, or_left_comm, or_assoc]

theorem mem_sortBy {α : Type} (key : α → Nat) (y : α) (l : List α) : y ∈ sortBy key l ↔ y ∈ l := by
  rw [sortBy, mem_foldl_insertBy]
  simp

/-! ## The entries of a returned DISCOVER frame (R222) -/

/-- The connection check of an entry is that of the node's own connection (R222). -/
def connSound (n : NodeEnt) (e : List Byte) : Prop := fldBE e 12 4 = (crc32c (e.take 12 ++ beBytes 4 n.connId.toNat)).toNat

section
variable {ns : List NodeEnt} {acc : Found} {i pos : Nat} {e : List Byte} {n : NodeEnt}

theorem judgeEntry_absent (h : dePresent e = false) (f : Nat) : judgeEntry ns f acc (i, e) = acc :=
  if_pos (by simp [h])

theorem judgeEntry_extra (h : dePresent e = true) (hp : entryPos ns.length i e = none) (f : Nat) :
    judgeEntry ns f acc (i, e) = { acc with rejects := acc.rejects ++ [(i, .extra)] } := by
  simp [judgeEntry, h, hp]

theorem judgeEntry_connection (h : dePresent e = true) (hp : entryPos ns.length i e = some pos) (hn : ns[pos]? = some n)
    (hc : ¬ connSound n e) (f : Nat) :
    judgeEntry ns f acc (i, e) =
      { acc with raw := acc.raw ++ [(pos, e)], rejects := acc.rejects ++ [(pos, .connection)] } := by
  unfold connSound at hc
  simp [judgeEntry, h, hp, hn, hc]

theorem judgeEntry_identity (h : dePresent e = true) (hp : entryPos ns.length i e = some pos) (hn : ns[pos]? = some n)
    (hc : connSound n e) (hid : deNode e ≠ n.nodeId.toNat ∨ dePos e ≠ pos) (f : Nat) :
    judgeEntry ns f acc (i, e) =
      { acc with raw := acc.raw ++ [(pos, e)], rejects := acc.rejects ++ [(pos, .identity)] } := by
  unfold connSound at hc
  simp [judgeEntry, h, hp, hn, hc, hid]

/-- The first sound entry of its position is taken. -/
theorem judgeEntry_taken (h : dePresent e = true) (hp : entryPos ns.length i e = some pos) (hn : ns[pos]? = some n)
    (hc : connSound n e) (hid : deNode e = n.nodeId.toNat) (hpos : dePos e = pos) {f : Nat} (hs : (f, pos) ∉ acc.seen)
    (ht : ∀ x ∈ acc.taken, x.1 ≠ pos) :
    judgeEntry ns f acc (i, e) =
      { acc with raw := acc.raw ++ [(pos, e)], seen := acc.seen ++ [(f, pos)], taken := acc.taken ++ [(pos, f, e)] } := by
  unfold connSound at hc
  have hany : (acc.taken.any fun t => t.1 == pos) = false := by simpa using ht
  simp [judgeEntry, h, hp, hn, hc, hid, hpos, hs, hany]

/-- A position that a frame shows a second time is a duplicate: its two entries are rejected. -/
theorem judgeEntry_duplicate (h : dePresent e = true) (hp : entryPos ns.length i e = some pos) (hn : ns[pos]? = some n)
    (hc : connSound n e) (hid : deNode e = n.nodeId.toNat) (hpos : dePos e = pos) {f : Nat} (hs : (f, pos) ∈ acc.seen)
    (hd : pos ∉ acc.dup) :
    judgeEntry ns f acc (i, e) =
      { acc with raw := acc.raw ++ [(pos, e)], seen := acc.seen ++ [(f, pos)], dup := acc.dup ++ [pos],
                 rejects := acc.rejects ++ [(pos, .duplicate), (pos, .duplicate)] } := by
  unfold connSound at hc
  simp [judgeEntry, h, hp, hn, hc, hid, hpos, hs, hd]

end

/-- A duplicate position is not accepted, whatever was taken of it. -/
theorem acceptedOf_not_dup {f : Found} {pos : Nat} (h : pos ∈ f.dup) : ∀ x ∈ acceptedOf f, x.1 ≠ pos := by
  rintro x hx rfl
  obtain ⟨t, ht, rfl⟩ := List.mem_map.mp ((mem_sortBy ..).mp hx)
  have hnot : t.1 ∉ f.dup := by simpa using (List.mem_filter.mp ht).2
  exact hnot h

/-! ## What happens at one plane -/

/-- Beside what changes no plane, one plane was changed. -/
theorem planeMod_between {s u t : State} {r : RingId} {p : Plane} {f : PlaneHub → PlaneHub} (hu : u.rings.planes = s.rings.planes)
    (ht : t.rings.planes = (planeMod u r p f).rings.planes) : planeAt t r p = f (planeAt s r p) ∧ otherPlanes r p s t := by
  refine ⟨?_, otherPlanes_trans (otherPlanes_of_planes hu)
    (otherPlanes_trans (planeMod_otherPlanes u r p f) (otherPlanes_of_planes ht))⟩
  rw [planeAt_of_planes ht, planeAt_planeMod_same, planeAt_of_planes hu]

/-- A command that changes one plane changes it so, and nothing but the rings. -/
theorem exec_planeMod {c : Instr} {s : State} {r : RingId} {p : Plane} {f : PlaneHub → PlaneHub} (h : exec c s = .next (planeMod s r p f)) :
    ∃ t, exec c s = .next t ∧ planeAt t r p = f (planeAt s r p) ∧ otherPlanes r p s t ∧ Frame [.rings] s t :=
  ⟨_, h, planeAt_planeMod_same .., planeMod_otherPlanes _ _ _ _, (planeMod_kept ..).frame⟩

section
variable {s : State} (hu : hubUp s = true) (r : RingId) (p : Plane)
include hu

/-! ### SFP modules (R184, R185) -/

theorem exec_ringSfpInsertion_fit {k : SfpKind} (hk : ringSfpOk k = true) :
    exec (.ringSfpInsertion r p k) s = .next (planeMod s r p fun x => { x with sfpOk := true }) :=
  congrArg Host.Outcome.next ((if_pos hu).trans (if_pos hk))

/-- The plane whose cage no longer takes its module: no module, no link of its own. -/
def cageEmptied (x : PlaneHub) : PlaneHub := { x with sfpOk := false, upOwn := false }

theorem exec_ringSfpInsertion_empty : exec (.ringSfpInsertion r p .empty) s = .next (planeMod s r p cageEmptied) :=
  congrArg Host.Outcome.next (if_pos hu)

theorem exec_ringSfpInsertion_unfit {k : SfpKind} (hk : k = .tenGSR ∨ k = .other) :
    exec (.ringSfpInsertion r p k) s =
      .next (sfpLost (raiseHub (planeMod s r p cageEmptied) 0x0501 (argInst (arg1 (cageNum r p)))) r p) := by
  rcases hk with rfl | rfl
  · exact congrArg Host.Outcome.next (if_pos hu)
  · exact congrArg Host.Outcome.next (if_pos hu)

theorem exec_sfpDiagRead (a b c : Half) :
    exec (.sfpDiagRead r p a b c) s = .next (planeMod s r p fun x => { x with diag := (a, b, c) }) :=
  congrArg Host.Outcome.next (if_pos hu)

/-! ### Links and probes (R224) -/

theorem exec_portLinkUp_peer :
    exec (.portLinkUp r p false) s = .next (planeMod s r p fun x => { x with upPeer := true, discDue := true }) :=
  congrArg Host.Outcome.next (if_pos hu)

theorem exec_portLinkUp_own :
    exec (.portLinkUp r p true) s =
      .next (planeMod s r p fun x => if x.sfpOk then { x with upOwn := true, discDue := true } else x) :=
  congrArg Host.Outcome.next (if_pos hu)

theorem exec_linkProbe_pair (hp : isPair s = true) (rtt : Nat) :
    exec (.linkProbe r p rtt) s = .next (probeTaken r p rtt (probeAnswered r p s)) :=
  congrArg Host.Outcome.next ((if_pos hu).trans (if_pos hp))

theorem exec_linkProbe_single (hp : isPair s = false) (rtt : Nat) : exec (.linkProbe r p rtt) s = .next (probeAnswered r p s) :=
  congrArg Host.Outcome.next ((if_pos hu).trans (if_neg (by simp [hp])))

end

/-- The plane that is no longer started and accepts nobody (R235). -/
def planeDropped (x : PlaneHub) : PlaneHub := { x with lost := true, started := false, timDue := false, accepted := [], halves := [] }

theorem sfpLost_plane (s : State) (r : RingId) (p : Plane) :
    planeAt (sfpLost s r p) r p = planeDropped (planeAt s r p) ∧ otherPlanes r p s (sfpLost s r p) := by
  have hraised : (if canLaunch s && ringOpen s r && (planeAt s r p).started then raiseShared s 0x0508 (argPlane r p) else s).rings.planes =
      s.rings.planes := by
    split
    · rw [raiseShared_rings]
    · rfl
  exact planeMod_between hraised rfl

/-- A probe of a pair's cage: half its round trip is the delay; who is accepted stands (R224). -/
theorem probeTaken_plane (r : RingId) (p : Plane) (rtt : Nat) (s : State) :
    (∃ bad due, planeAt (probeTaken r p rtt s) r p = { planeAt s r p with probeNs := rtt / 2, delayBad := bad, timDue := due }) ∧
      otherPlanes r p s (probeTaken r p rtt s) := by
  have hraised (b : Bool) : (if b then raiseShared s 0x0505 (argPlane r p) else s).rings.planes = s.rings.planes := by
    split
    · rw [raiseShared_rings]
    · rfl
  obtain ⟨hplane, hothers⟩ := planeMod_between (hraised _) (show (probeTaken r p rtt s).rings.planes = _ from rfl)
  exact ⟨⟨_, _, hplane⟩, hothers⟩

/-! ### A plane is lost (R235) -/

theorem exec_planeLost {s : State} {r : RingId} {p : Plane} (hc : canLaunch s = true) (ho : ringOpen s r = true)
    (hl : (planeAt s r p).lost = false) : exec (.planeLost r p) s =
      .next (planeMod (raiseShared s 0x0508 (argPlane r p)) r p fun x =>
        { planeDropped x with upOwn := x.upOwn && 3 ≤ x.silent, upPeer := x.upPeer && 3 ≤ x.silent }) :=
  congrArg Host.Outcome.next (if_pos (by simp [hc, ho, hl]))

/-! ### A discovery has returned (R222, R236) -/

/-- A record for each of a list leaves the planes. -/
theorem foldl_raiseShared_planes {α : Type} (code : Nat) (args : α → List Byte) (xs : List α) (s : State) :
    (xs.foldl (fun u x => raiseShared u code (args x)) s).rings.planes = s.rings.planes :=
  planes_of_kept (Kept.foldl (fun u x => raiseShared_kept u code (args x)) xs s) (by decide)

theorem nodesLost_planes (s : State) (r : RingId) : (nodesLost s r).rings.planes = s.rings.planes := by
  unfold nodesLost
  exact foldl_raiseShared_planes ..

theorem discoveryAlarms_planes (s : State) (r : RingId) (p : Plane) (n : Nat) (started : Bool) (v : RingFinding) :
    (discoveryAlarms s r p n started v).rings.planes = s.rings.planes :=
  planes_of_kept (discoveryAlarms_kept ..) (by decide)

/-- The plane becomes what its discovery says of it. -/
theorem discoverReturnAt_plane (s : State) (r : RingId) (p : Plane) (frames : List (List Byte)) (loopNs : Nat) (unbroken : Bool) :
    planeAt (discoverReturnAt s r p frames loopNs unbroken) r p =
        discovered (isPair s) (lenInOf s r) (listed s r).length
          (ringFindingOf (isPair s) (lenInOf s r) (listed s r) (planeAt s r p).probeNs frames loopNs unbroken) (planeAt s r p) ∧
      otherPlanes r p s (discoverReturnAt s r p frames loopNs unbroken) :=
  planeMod_between (discoveryAlarms_planes ..) (nodesLost_planes ..)

theorem exec_discoverReturn {s : State} {r : RingId} {p : Plane} (hc : canLaunch s = true) (ht : (planeAt s r p).txD ≠ [])
    (frames : List (List Byte)) (loopNs : Nat) (unbroken : Bool) :
    exec (.discoverReturn r p frames loopNs unbroken) s = .next (discoverReturnAt s r p frames loopNs unbroken) :=
  congrArg Host.Outcome.next (if_pos (by simp [hc, ht]))

/-! ## The statement's parts -/

section
variable {s : State} (hu : hubUp s = true) (r : RingId) (p : Plane)
include hu

/-- An unsuitable module: the cage is disabled and its plane is lost. -/
theorem unfitSfp_drops_plane {k : SfpKind} (hk : k = .tenGSR ∨ k = .other) : ∃ t, exec (.ringSfpInsertion r p k) s = .next t ∧
    planeAt t r p = planeDropped (cageEmptied (planeAt s r p)) ∧ otherPlanes r p s t ∧ Frame [.rings, .gut] s t := by
  have hx := exec_ringSfpInsertion_unfit hu r p hk
  obtain ⟨hplane, hothers⟩ := sfpLost_plane (raiseHub (planeMod s r p cageEmptied) 0x0501 (argInst (arg1 (cageNum r p)))) r p
  have hraised := congrArg (·.planes) (raiseHub_rings (planeMod s r p cageEmptied) 0x0501 (argInst (arg1 (cageNum r p))))
  obtain ⟨hemptied, hbefore⟩ := planeMod_between (s := s) rfl hraised
  exact ⟨_, hx, hplane.trans (congrArg planeDropped hemptied), otherPlanes_trans hbefore hothers, exec_frame hx⟩

/-- A link that comes up in a cage with a module asks for discovery. -/
theorem ownLinkUp_asks_discovery (hsfp : (planeAt s r p).sfpOk = true) : ∃ t, exec (.portLinkUp r p true) s = .next t ∧
    planeAt t r p = { planeAt s r p with upOwn := true, discDue := true } ∧ otherPlanes r p s t ∧ Frame [.rings] s t := by
  obtain ⟨t, hx, hplane, hrest⟩ := exec_planeMod (exec_portLinkUp_own hu r p)
  exact ⟨t, hx, hplane.trans (if_pos hsfp), hrest⟩

/-- A probe is answered; in a pair its round trip is taken as well. -/
theorem linkProbe_answers (rtt : Nat) : ∃ t, exec (.linkProbe r p rtt) s = .next t ∧
    (planeAt t r p).probes = (planeAt s r p).probes + 1 ∧ (isPair s = true → (planeAt t r p).probeNs = rtt / 2) ∧
    (isPair s = false → planeAt t r p = { planeAt s r p with probes := (planeAt s r p).probes + 1 } ∧ t.gut = s.gut) ∧
    (planeAt t r p).accepted = (planeAt s r p).accepted ∧ otherPlanes r p s t ∧ Frame [.rings, .gut] s t := by
  have hanswered : planeAt (probeAnswered r p s) r p = { planeAt s r p with probes := (planeAt s r p).probes + 1 } :=
    planeAt_planeMod_same ..
  have hbefore : otherPlanes r p s (probeAnswered r p s) := planeMod_otherPlanes _ _ _ _
  cases hp : isPair s with
  | true =>
    have hx := exec_linkProbe_pair hu r p hp rtt
    obtain ⟨⟨bad, due, hplane⟩, hothers⟩ := probeTaken_plane r p rtt (probeAnswered r p s)
    rw [hanswered] at hplane
    refine ⟨_, hx, ?_, fun _ => ?_, fun h => Bool.noConfusion h, ?_, otherPlanes_trans hbefore hothers, exec_frame hx⟩
    all_goals rw [hplane]
  | false =>
    have hx := exec_linkProbe_single hu r p hp rtt
    refine ⟨_, hx, ?_, fun h => Bool.noConfusion h, fun _ => ⟨hanswered, planeMod_gut ..⟩, ?_, hbefore, exec_frame hx⟩
    all_goals rw [hanswered]

end

/-- Settles O45: an entry by the branch of R222 that it meets, a plane's event by what it makes of that plane. -/
theorem discoveryAndLinks : Obligations.DiscoveryAndLinks := by
  unfold Obligations.DiscoveryAndLinks
  refine ⟨fun ns f i pos acc e n => ⟨fun h => judgeEntry_absent h f, fun h hp => judgeEntry_extra h hp f, fun h hp hn =>
      ⟨fun hc => ?_, fun hc => ⟨fun hid => ?_, fun hid hpos => ⟨fun hs ht => ?_, fun hs hd => ?_⟩⟩⟩⟩,
    fun s r p hu => ⟨fun k hk => ?_, fun k hk => unfitSfp_drops_plane hu r p hk,
      exec_planeMod (exec_ringSfpInsertion_empty hu r p), fun a b c => exec_planeMod (exec_sfpDiagRead hu r p a b c),
      fun hc ho hl => ?_, exec_planeMod (exec_portLinkUp_peer hu r p), ownLinkUp_asks_discovery hu r p,
      linkProbe_answers hu r p, fun hc ht frames loopNs unbroken => ?_⟩⟩
  · rw [judgeEntry_connection h hp hn hc]
    exact ⟨rfl, rfl⟩
  · rw [judgeEntry_identity h hp hn hc hid]
    exact ⟨rfl, rfl⟩
  · rw [judgeEntry_taken h hp hn hc hid hpos (by simpa using hs) ht]
    exact ⟨rfl, rfl⟩
  · rw [judgeEntry_duplicate h hp hn hc hid hpos (by simpa using hs) (by simpa using hd)]
    exact ⟨rfl, rfl, acceptedOf_not_dup (by simp)⟩
  · refine exec_planeMod (exec_ringSfpInsertion_fit hu r p ?_)
    rcases hk with rfl | rfl | rfl <;> rfl
  · have hx := exec_planeLost hc ho hl
    obtain ⟨hplane, hothers⟩ := planeMod_between (congrArg (·.planes) (raiseShared_rings ..)) (Eq.refl _)
    refine ⟨_, hx, ?_, ?_, ?_, hothers, exec_frame hx⟩
    all_goals rw [hplane, planeDropped]
  · have hx := exec_discoverReturn hc ht frames loopNs unbroken
    obtain ⟨hplane, hothers⟩ := discoverReturnAt_plane s r p frames loopNs unbroken
    refine ⟨_, hx, ?_, ?_, ?_, hothers, exec_frame hx⟩
    all_goals
      rw [hplane]
      rfl

end Sys2Proof.Machine
end

section
/-! SUPPORT. Two masters on a ring (R230, R322, R332, R346, R347, R352): who ranks above whom, what a frame of another master does to a
module that holds the lease, what of it takes effect at the next common instant, and the relay between the cages of a pair (R217). That
the holder leaves at the next common instant is deduced (log entry 78); that a restart in BOOT gives the lease up there is the model's
reading of R230 and R352. -/

namespace Sys2Proof.Machine

/-! ## The rank of a master (R230) -/

theorem ranksAbove_iff {ea ma eb mb : Nat} : ranksAbove ea ma eb mb = true ↔ eb < ea ∨ (ea = eb ∧ ma < mb) := by
  simp [ranksAbove]

/-- Of two masters at most one ranks above the other. -/
theorem ranksAbove_asymm {ea ma eb mb : Nat} (h : ranksAbove ea ma eb mb = true) : ranksAbove eb mb ea ma = false := by
  rw [Bool.eq_false_iff, ne_eq, ranksAbove_iff]
  rw [ranksAbove_iff] at h
  omega

/-- Settles O7: the rank is read off its definition. -/
theorem mastersRankByEpoch : Obligations.MastersRankByEpoch := by
  unfold Obligations.MastersRankByEpoch
  exact fun _ _ _ _ => ranksAbove_iff

/-! ## A frame of another master is observed (R332, R336, R339) -/

/-- What the observation of a frame leaves of the peer's record: whether the lease is held and whether a frame was heard. -/
def heldHeard (x : PeerSt) : Bool × Bool := (x.held, x.heard)

theorem standbyIncomplete_heldHeard (s : State) (cond : Nat) : heldHeard (standbyIncomplete s cond).peer = heldHeard s.peer := by
  unfold standbyIncomplete
  split
  · rfl
  · dsimp only
    rw [raiseHub_peer]
    rfl

theorem mirrorLost_heldHeard (s : State) : heldHeard (mirrorLost s).peer = heldHeard s.peer := by
  have h : heldHeard (if s.peer.mirrorOk then standbyIncomplete s 1 else s).peer = heldHeard s.peer := by
    split
    · exact standbyIncomplete_heldHeard ..
    · rfl
  exact h

theorem laterSeen_heldHeard (s : State) (cycle : Nat) : heldHeard (laterSeen s cycle).peer = heldHeard s.peer := by
  unfold laterSeen
  split
  · exact mirrorLost_heldHeard s
  · rfl

/-- The frame is heard; the lease stands. -/
theorem observeFrame_heldHeard (s : State) (r : RingId) (p : Plane) (hdr : List Byte) :
    heldHeard (observeFrame s r p hdr).peer = (s.peer.held, true) := by
  have hheld : (raiseEpoch s (hdrEpoch hdr)).peer = s.peer := (raiseEpoch_kept ..).frame.rest .peer (by decide)
  unfold observeFrame
  split
  · rfl
  · dsimp only
    rw [laterSeen_heldHeard, heldHeard, hheld]

theorem observeFrame_held (s : State) (r : RingId) (p : Plane) (hdr : List Byte) : (observeFrame s r p hdr).peer.held = s.peer.held :=
  congrArg Prod.fst (observeFrame_heldHeard ..)

theorem observeFrame_heard (s : State) (r : RingId) (p : Plane) (hdr : List Byte) : (observeFrame s r p hdr).peer.heard = true :=
  congrArg Prod.snd (observeFrame_heldHeard ..)

theorem observeFrame_rings (s : State) (r : RingId) (p : Plane) (hdr : List Byte) : (observeFrame s r p hdr).rings = s.rings :=
  (observeFrame_kept ..).frame.rest .rings (by decide)

theorem observeFrame_mod (s : State) (r : RingId) (p : Plane) (hdr : List Byte) : (observeFrame s r p hdr).mod = s.mod :=
  (observeFrame_kept ..).mod_eq (by decide) (by decide)

/-! ## A module backs off a ring (R230, R322, R347) -/

/-- RING_BACKOFF is raised and the ring is noted for the next cycle. -/
def backOffNoted (s : State) (r : RingId) : State :=
  raiseShared { s with rings := { s.rings with backNext := s.rings.backNext.set r.slot true } } 0x0506 (argInst (arg1 r.num))

theorem backOff_new {s : State} {r : RingId} (hb : s.rings.backedOff.get r.slot = false) (hn : s.rings.backNext.get r.slot = false) :
    backOff s r = if isPair (backOffNoted s r) then { backOffNoted s r with mod := { (backOffNoted s r).mod with leave := true } }
      else backOffNoted s r :=
  if_neg (by simp [hb, hn])

/-- A ring is backed off once: from the next cycle on, and a module of a pair is to leave the active role. -/
theorem backOff_effect {s : State} {r : RingId} (hb : s.rings.backedOff.get r.slot = false) (hn : s.rings.backNext.get r.slot = false) :
    (backOff s r).rings = { s.rings with backNext := s.rings.backNext.set r.slot true } ∧
      (backOff s r).mod = { s.mod with leave := s.mod.leave || isPair s } ∧ (backOff s r).peer = s.peer := by
  have hrings : (backOffNoted s r).rings = { s.rings with backNext := s.rings.backNext.set r.slot true } := raiseShared_rings ..
  have hmod : (backOffNoted s r).mod = s.mod := raiseShared_mod ..
  have hpeer : (backOffNoted s r).peer = s.peer := raiseShared_peer ..
  have hpair : isPair (backOffNoted s r) = isPair s := isPair_congr (raiseShared_ctl ..)
  rw [backOff_new hb hn, hpair]
  cases isPair s with
  | true => exact ⟨hrings, by rw [if_pos rfl, hmod, Bool.or_true], hpeer⟩
  | false => exact ⟨hrings, by rw [if_neg Bool.false_ne_true, hmod, Bool.or_false], hpeer⟩

/-! ## A frame of another master at a cage (R230, R346) -/

theorem exec_foreignMasterFrame {s : State} (hu : hubUp s = true) (r : RingId) (p : Plane) (frame : List Byte) :
    exec (.foreignMasterFrame r p frame) s = .next (foreignAt s r p frame) :=
  congrArg Host.Outcome.next (if_pos hu)

theorem foreignAt_badHeader {s : State} {frame : List Byte} (h : ringHdr (frame.take 64) = false) (r : RingId) (p : Plane) :
    foreignAt s r p frame = s :=
  if_pos (by simp [h])

section
variable {s : State} {frame : List Byte} (hdr : ringHdr (frame.take 64) = true) (hh : s.peer.held = true) (r : RingId) (p : Plane)
include hdr hh

/-- A frame of another master reaches a module that holds the lease: its rank decides (R230). -/
theorem foreignAt_held : foreignAt s r p frame =
    if ranksAbove (hdrEpoch (frame.take 64)) (hdrMid (frame.take 64)) s.peer.epoch.toNat (masterId s) then
      backOff (observeFrame s r p (frame.take 64)) r
    else raiseShared (observeFrame s r p (frame.take 64)) 0x0507 (argInst (arg1 r.num)) :=
  (if_neg (by simp [hdr])).trans (if_neg (by simp [hh]))

/-- A master that ranks above: the module backs off the ring, one of a pair is to leave; the lease stands until then. -/
theorem foreignAt_above (hb : s.rings.backedOff.get r.slot = false) (hn : s.rings.backNext.get r.slot = false)
    (hr : ranksAbove (hdrEpoch (frame.take 64)) (hdrMid (frame.take 64)) s.peer.epoch.toNat (masterId s) = true) :
    (foreignAt s r p frame).rings = { s.rings with backNext := s.rings.backNext.set r.slot true } ∧
      (foreignAt s r p frame).mod = { s.mod with leave := s.mod.leave || isPair s } ∧ (foreignAt s r p frame).peer.held = true := by
  have hrings := observeFrame_rings s r p (frame.take 64)
  have hpair : isPair (observeFrame s r p (frame.take 64)) = isPair s := isPair_congr (ctl_of_kept (observeFrame_kept ..) (by decide))
  obtain ⟨hrings', hmod', hpeer'⟩ := backOff_effect (s := observeFrame s r p (frame.take 64)) (r := r) (by rw [hrings, hb])
    (by rw [hrings, hn])
  rw [foreignAt_held hdr hh, if_pos hr]
  exact ⟨by rw [hrings', hrings], by rw [hmod', hpair, observeFrame_mod], by rw [hpeer', observeFrame_held, hh]⟩

/-- A master that ranks below: FOREIGN_MASTER is raised and nothing else comes of it. -/
theorem foreignAt_below
    (hr : ranksAbove (hdrEpoch (frame.take 64)) (hdrMid (frame.take 64)) s.peer.epoch.toNat (masterId s) = false) :
    Kept [.lanes, .peer, .gut] s (foreignAt s r p frame) ∧ (foreignAt s r p frame).peer.held = true := by
  rw [foreignAt_held hdr hh, if_neg (by simp [hr])]
  exact ⟨(observeFrame_kept ..).step (raiseShared_kept ..) rfl, by rw [raiseShared_peer, observeFrame_held, hh]⟩

end

/-! ## The next common instant: the rings backed off (R230) -/

/-- The rings backed off, and those to be backed off from the next cycle on. -/
def backing (s : State) : Quad Bool × Quad Bool := (s.rings.backedOff, s.rings.backNext)

/-- The rings noted are backed off, and none is noted. -/
def backedNow (b : Quad Bool × Quad Bool) : Quad Bool × Quad Bool := (b.1.mapL fun l x => x || b.2.get l, Quad.fill false)

theorem backing_of_kept {ps : List Part} {s t : State} (h : Kept ps s t) (hr : Part.rings ∉ ps) : backing t = backing s :=
  congrArg (fun x : RingHub => (x.backedOff, x.backNext)) (h.frame.rest .rings hr)

theorem ringBackOff_backing (s : State) : backing (ringBackOff s) = backedNow (backing s) := rfl

theorem get_of_backedNow {s t : State} (h : backing t = backedNow (backing s)) (q : Lane) :
    t.rings.backedOff.get q = (s.rings.backedOff.get q || s.rings.backNext.get q) ∧ t.rings.backNext.get q = false := by
  obtain ⟨hoff, hnext⟩ := Prod.ext_iff.mp h
  exact ⟨(congrArg (·.get q) hoff).trans (Quad.get_mapL ..), (congrArg (·.get q) hnext).trans (Quad.get_fill ..)⟩

theorem spilled_kept (s : State) : Kept [.cyc, .lanes, .host, .gut] s (spilled s) := by
  unfold spilled
  exact (((reportAll_kept s).mono rfl).step (Kept.foldl (fun _ _ => raiseHub_kept ..) _ _) rfl).step
    (Kept.foldl (fun t l => decideExcl_kept t l .fabric []) _ _) rfl

/-- The boundary rule empties the hub's frame buffers and leaves the backing off (R21). -/
theorem boundary_backing (s : State) : backing (boundary s) = backing s := by
  have h : backing (boundary s) = backing (spilled s) := rfl
  rw [h, backing_of_kept (spilled_kept s) (by decide)]

theorem atInstant_backing (smp : Quad LaneSample) (strobe : Quad Int) (s : State) : backing (atInstant smp strobe s) = backing s := by
  rw [atInstant, backing_of_kept (orderlyStop_kept _) (by decide), backing_of_kept (takeSamples_kept ..) (by decide),
    backing_of_kept (countCycle_kept _) (by decide), endCycle, backing_of_kept (stoppedLanes_kept _) (by decide),
    backing_of_kept (battenMisses_kept _) (by decide), backing_of_kept (mirrorEnd_kept _) (by decide),
    backing_of_kept (journalLate_kept _) (by decide), boundary_backing, backing_of_kept (nextCk_kept _) (by decide)]

/-- Of the effects of the instant one changes what is backed off. -/
theorem effected_backing (k : Nat) (s : State) : backing (effected k s) = backedNow (backing s) := by
  rw [effected, backing_of_kept (bootJoin_kept ..) (by decide), backing_of_kept (applyTimecfg_kept _) (by decide), ringBackOff_backing,
    backing_of_kept (applyState_kept _) (by decide), backing_of_kept (applyKey_kept ..) (by decide),
    backing_of_kept (applyExchange_kept ..) (by decide), backing_of_kept (roles_kept _) (by decide)]

theorem commonInstant_backing (smp : Quad LaneSample) (strobe : Quad Int) (s : State) :
    backing (commonInstant smp strobe s) = backedNow (backing s) := by
  rw [commonInstant_eq, backing_of_kept (reportState_kept _) (by decide), backing_of_kept (openCycle_kept ..) (by decide),
    backing_of_kept (signalState_kept _) (by decide), instantDone, effected_backing, atInstant_backing]

/-! ## The next common instant: a restart in BOOT is left (R230, R352) -/

/-- A module in BOOT that is to leave its restart. -/
structure BootLeaving (s : State) : Prop where
  st    : s.mod.st = .boot
  leave : s.mod.leave = true

/-- A module that has left: the lease is not held, nothing to leave stays due, and no boot shadow cycle ends. -/
structure BootLeft (s : State) : Prop where
  held  : s.peer.held = false
  leave : s.mod.leave = false
  st    : s.mod.st ≠ .indicate

theorem BootLeaving.step {ps : List Part} {s t : State} (g : BootLeaving s) (h : Kept ps s t) (hm : Part.module ∉ ps)
    (hs : Part.mode ∉ ps) : BootLeaving t := by
  have hmod := h.mod_eq hm hs
  exact ⟨by rw [hmod, g.st], by rw [hmod, g.leave]⟩

theorem BootLeft.step {ps : List Part} {s t : State} (g : BootLeft s) (h : Kept ps s t) (hm : Part.module ∉ ps) (hs : Part.mode ∉ ps)
    (hp : Part.peer ∉ ps) : BootLeft t := by
  have hmod := h.mod_eq hm hs
  have hpeer : t.peer = s.peer := h.frame.rest .peer hp
  exact ⟨by rw [hpeer, g.held], by rw [hmod, g.leave], by rw [hmod]; exact g.st⟩

theorem atInstant_bootLeaving {s : State} (g : BootLeaving s) (smp : Quad LaneSample) (strobe : Quad Int) :
    BootLeaving (atInstant smp strobe s) :=
  ((((g.step (nextCk_kept s) (by decide) (by decide)).step (endCycle_kept _) (by decide) (by decide)).step (countCycle_kept _) (by decide)
    (by decide)).step (takeSamples_kept smp strobe _) (by decide) (by decide)).step (orderlyStop_kept _) (by decide) (by decide)

theorem rolesTaken_kept (s : State) : Kept [.cyc, .lanes, .gut] s (rolesTaken s) :=
  (((((((applyLeaving_kept s).mono rfl).step (retiredAlarms_kept ..) rfl).step (applyShadow_kept _) rfl).step (applyJoin_kept _) rfl).step
    (standbyRoles_kept _) rfl).step (setMode_kept _) rfl).step (lanesAlarm_kept _) rfl

/-- In BOOT too few lanes stop nothing (R109, R387). -/
theorem roles_bootLeaving {s : State} (g : BootLeaving s) : BootLeaving (roles s) := by
  have ht := g.step (rolesTaken_kept s) (by decide) (by decide)
  have hvotes : checkVotes (rolesTaken s) = rolesTaken s := if_neg (by simp [ht.st, ModState.runs])
  have hstandby : checkStandby s.cyc.healthy (rolesTaken s) = rolesTaken s := if_neg (by simp [ht.st])
  rwa [roles_eq, hvotes, hstandby]

theorem applyExchange_bootLeaving {s : State} (g : BootLeaving s) (k : Nat) : BootLeaving (applyExchange s k) := by
  refine ⟨((applyExchange_kept s k).frame.rest .mode (by decide)).trans g.st, ?_⟩
  unfold applyExchange
  split
  · exact g.leave
  · exact g.leave

/-- Outside the vital cycle no key position restarts the module (R384). -/
theorem testLeft_idle_kept {s : State} (h : s.mod.st.runs = false) (p : KeyPos) (w : Bool) (k : Nat) :
    Kept [.agr] s (testLeft s p w k) := by
  unfold testLeft
  split
  · dsimp only
    rw [if_neg (by simp [h])]
    exact injectionsEnded_kept s
  · exact Kept.refl ..

theorem applyKey_bootLeaving {s : State} (g : BootLeaving s) (k : Nat) : BootLeaving (applyKey s k) := by
  rw [applyKey_eq]
  split
  · exact g
  next p _ =>
    have htaken := g.step (keyTaken_kept s p) (by decide) (by decide)
    exact ((htaken.step (testLeft_idle_kept (by rw [htaken.st]; rfl) p _ k) (by decide) (by decide)).step (pairsUnproven_kept _ p)
      (by decide) (by decide)).step (reportState_kept _) (by decide) (by decide)

/-- At the module state's turn the restart is left, whether or not a SAFE STOP is due with it (R95, R230). -/
theorem applyState_bootLeft {s : State} (g : BootLeaving s) : BootLeft (applyState s) := by
  cases hn : s.cyc.stopNext with
  | true =>
    have he : applyState s = enterSafeStop s := if_pos (by simp [hn, g.st])
    rw [he]
    exact ⟨enterSafeStop_held s, by rw [enterSafeStop, setState_mod], by rw [enterSafeStop_st]; decide⟩
  | false =>
    have he : applyState s =
        { s with mod := { s.mod with leave := false }, peer := { s.peer with held := false }, ul := { s.ul with leaseRun := false } } :=
      (if_neg (by simp [hn])).trans (if_pos (by simp [g.st, g.leave]))
    rw [he]
    exact ⟨rfl, rfl, by rw [g.st]; decide⟩

theorem bootJoin_of_not_indicate {s : State} (h : s.mod.st ≠ .indicate) (k : Nat) : bootJoin s k = s := by
  unfold bootJoin
  split
  · rfl
  · exact if_pos (by simp [h])

theorem effected_bootLeft {s : State} (g : BootLeaving s) (k : Nat) : BootLeft (effected k s) := by
  have hleft := applyState_bootLeft (applyKey_bootLeaving (applyExchange_bootLeaving (roles_bootLeaving g) k) k)
  have htime := (hleft.step (ringBackOff_kept _) (by decide) (by decide) (by decide)).step (applyTimecfg_kept _) (by decide) (by decide)
    (by decide)
  rwa [effected, bootJoin_of_not_indicate htime.st]

theorem openCycle_bootLeft {s : State} (g : BootLeft s) (k : DWord) : BootLeft (openCycle s k) := ⟨g.held, g.leave, g.st⟩

theorem commonInstant_bootLeft {s : State} (g : BootLeaving s) (smp : Quad LaneSample) (strobe : Quad Int) :
    BootLeft (commonInstant smp strobe s) := by
  have hdone : BootLeft (instantDone smp strobe s) := effected_bootLeft (atInstant_bootLeaving g smp strobe) _
  rw [commonInstant_eq]
  exact (openCycle_bootLeft (hdone.step (signalState_kept _) (by decide) (by decide) (by decide)) _).step (reportState_kept _) (by decide)
    (by decide) (by decide)

/-! ## The cage of a module that is not the master (R217) -/

section
variable {s : State} (hu : hubUp s = true) (hp : isPair s = true) (hh : s.peer.held = false) (r : RingId) (p : Plane) (frame : List Byte)
include hu hp hh

theorem exec_ringRelay (hdr : ringHdr (frame.take 64) = true) : exec (.ringRelay r p frame) s =
    .next (relaySend (planeMod (observeFrame s r p (frame.take 64)) r p fun x => { x with relayed := frame }) frame) :=
  congrArg Host.Outcome.next (if_pos (by simp [hu, hp, hh, hdr]))

theorem exec_relayedLaunch :
    exec (.relayedLaunch r p frame) s = .next (planeMod s r p fun x => { x with relayed := frame }) :=
  congrArg Host.Outcome.next (if_pos (by simp [hu, hp, hh]))

end

theorem relaySend_heldHeard (s : State) (frame : List Byte) : heldHeard (relaySend s frame).peer = heldHeard s.peer := by
  unfold relaySend
  dsimp only
  split <;> rfl

/-- Settles O43: a foreign frame by the rank of its master, the next common instant by the rings noted and the restart left, the cage of
the other module by its one plane. -/
theorem mastersRank : Obligations.MastersRank := by
  unfold Obligations.MastersRank
  refine fun s r p frame hu => ⟨fun hdr => ?_, fun hdr hh hb hn => ⟨fun hr => ?_, fun hr => ?_⟩, fun smp strobe => ?_,
    fun hp hh => ⟨fun hdr => ?_, ?_⟩, fun _ _ _ _ => ranksAbove_asymm⟩
  · rw [exec_foreignMasterFrame hu, foreignAt_badHeader hdr]
  · have hx := exec_foreignMasterFrame hu r p frame
    obtain ⟨hrings, hmod, hheld⟩ := foreignAt_above hdr hh r p hb hn hr
    refine ⟨_, hx, ?_, fun q hq => ?_, ?_, hmod, hheld, exec_frame hx⟩
    · rw [hrings, Quad.get_set_same]
    · rw [hrings, Quad.get_set_other _ _ _ _ (ringSlot_ne hq)]
    · rw [hrings]
  · obtain ⟨hk, hheld⟩ := foreignAt_below hdr hh r p hr
    exact ⟨_, exec_foreignMasterFrame hu r p frame, hk.frame.rest .rings (by decide), hk.mod_eq (by decide) (by decide), hheld,
      hk.frame⟩
  · refine ⟨_, exec_commonInstant hu smp strobe, get_of_backedNow (commonInstant_backing smp strobe s), fun hst hleave => ?_⟩
    · have hleft := commonInstant_bootLeft ⟨hst, hleave⟩ smp strobe
      exact ⟨hleft.held, hleft.leave⟩
  · have hx := exec_ringRelay hu hp hh r p frame hdr
    obtain ⟨hplane, hothers⟩ := planeMod_between (congrArg (·.planes) (observeFrame_rings s r p (frame.take 64)))
      (planes_of_kept (relaySend_kept _ frame) (by decide))
    refine ⟨_, hx, by rw [hplane], ?_, hothers, exec_frame hx⟩
    exact (congrArg Prod.snd (relaySend_heldHeard ..)).trans (observeFrame_heard ..)
  · exact exec_planeMod (exec_relayedLaunch hu hp hh r p frame)

end Sys2Proof.Machine
end

section
/-! SUPPORT. DISCOVER and TIMING (R220, R223, R225, R226, R235): the planes that they leave on, and the events that ask for them. -/

namespace Sys2Proof.Machine

/-! ## Steps that each change one plane -/

section
variable {g : State → RingId × Plane → State} {f : RingId × Plane → PlaneHub → PlaneHub}
  (hg : ∀ t x, planeAt (g t x) x.1 x.2 = f x (planeAt t x.1 x.2) ∧ otherPlanes x.1 x.2 t (g t x))
include hg

theorem foldl_planes_out (xs : List (RingId × Plane)) (t : State) {r : RingId} {p : Plane} (h : (r, p) ∉ xs) :
    planeAt (xs.foldl g t) r p = planeAt t r p := by
  induction xs generalizing t with
  | nil => rfl
  | cons x xs ih =>
    obtain ⟨hx, hxs⟩ := not_or.mp (mt List.mem_cons.mpr h)
    exact (ih _ hxs).trans ((hg t x).2 r p hx)

/-- Every plane of the list is changed once, each by its own step. -/
theorem foldl_planes_in {xs : List (RingId × Plane)} (hn : xs.Nodup) (t : State) {r : RingId} {p : Plane} (h : (r, p) ∈ xs) :
    planeAt (xs.foldl g t) r p = f (r, p) (planeAt t r p) := by
  induction xs generalizing t with
  | nil => exact absurd h List.not_mem_nil
  | cons x xs ih =>
    obtain ⟨hx, hxs⟩ := List.nodup_cons.mp hn
    rw [List.foldl_cons]
    rcases List.mem_cons.mp h with rfl | hm
    · rw [foldl_planes_out hg xs _ hx, (hg t (r, p)).1]
    · have hne : (r, p) ≠ x := fun e => hx (e ▸ hm)
      rw [ih hxs _ hm, (hg t x).2 r p hne]

end

theorem mem_allPlanes (r : RingId) (p : Plane) : (r, p) ∈ allPlanes := by cases r <;> cases p <;> decide

theorem allPlanes_nodup : allPlanes.Nodup := by decide

theorem not_mem_planesWith {s : State} {f : PlaneHub → Bool} {r : RingId} {p : Plane} (h : (ringOpen s r && f (planeAt s r p)) = false) :
    (r, p) ∉ planesWith s f := fun hm => by simp [mem_planesWith.mp hm] at h

/-! ## DISCOVER leaves (R220, R221) -/

/-- DISCOVER leaves on one plane; in a pair the frame for the peer's port passes to the peer. -/
def discoverOn (s t : State) (x : RingId × Plane) : State :=
  if isPair s && (planeAt s x.1 x.2).upPeer then
    relaySend (planeMod t x.1 x.2 (discoverPlane s (discoverFrame s x.1 x.2))) (discoverFrame s x.1 x.2)
  else planeMod t x.1 x.2 (discoverPlane s (discoverFrame s x.1 x.2))

theorem discoverAt_eq (s : State) : discoverAt s =
    (planesWith s fun x => discoverDue x && svcFree s x).foldl (discoverOn s) (advanceTo s (serviceNs s)) := by
  unfold discoverAt
  rfl

theorem discoverOn_plane (s t : State) (x : RingId × Plane) :
    planeAt (discoverOn s t x) x.1 x.2 = discoverPlane s (discoverFrame s x.1 x.2) (planeAt t x.1 x.2) ∧
      otherPlanes x.1 x.2 t (discoverOn s t x) := by
  refine planeMod_between rfl ?_
  unfold discoverOn
  split
  · exact planes_of_kept (relaySend_kept ..) (by decide)
  · rfl

theorem discoverAt_in {s : State} {r : RingId} {p : Plane}
    (h : (ringOpen s r && (discoverDue (planeAt s r p) && svcFree s (planeAt s r p))) = true) :
    planeAt (discoverAt s) r p = discoverPlane s (discoverFrame s r p) (planeAt s r p) := by
  rw [discoverAt_eq, foldl_planes_in (discoverOn_plane s) (planesWith_nodup ..) _ (mem_planesWith.mpr h), advanceTo_planeAt]

theorem discoverAt_out {s : State} {r : RingId} {p : Plane}
    (h : (ringOpen s r && (discoverDue (planeAt s r p) && svcFree s (planeAt s r p))) = false) :
    planeAt (discoverAt s) r p = planeAt s r p := by
  rw [discoverAt_eq, foldl_planes_out (discoverOn_plane s) _ _ (not_mem_planesWith h), advanceTo_planeAt]

/-- A module alone passes no DISCOVER to another. -/
theorem discoverAt_single {s : State} (h : isPair s = false) : (discoverAt s).peer = s.peer := by
  have hstep (t : State) (x : RingId × Plane) : Kept [.rings] t (discoverOn s t x) := by
    rw [discoverOn, if_neg (by simp [h])]
    exact planeMod_kept ..
  rw [discoverAt_eq, (Kept.foldl hstep _ _).frame.rest .peer (by decide), advanceTo_peer]

/-- At least one frame leaves. -/
theorem discoverPlane_txD (s : State) (f : List Byte) (q : PlaneHub) : (discoverPlane s f q).txD ≠ [] := by
  have hn : (if isPair s && portOwn q && q.upPeer then 2 else 1) ≠ 0 := by split <;> decide
  exact mt (List.replicate_eq_nil_iff f).mp hn

theorem exec_discoverLaunch {s : State} (hc : canLaunch s = true) : exec .discoverLaunch s = .next (discoverAt s) :=
  congrArg Host.Outcome.next (if_pos hc)

/-! ## TIMING leaves (R223, R225) -/

/-- What TIMING makes of a plane. -/
def timed (s : State) (x : RingId × Plane) (q : PlaneHub) : PlaneHub := timingPlane s (timingFrames s x.1 x.2) q

theorem timingAt_eq (s : State) : timingAt s =
    (planesWith s (timingDue s)).foldl (launchOn s (timed s) fun x => timingFrames s x.1 x.2) (advanceTo s (serviceNs s)) := by
  unfold timingAt
  rfl

theorem timingAt_in {s : State} {r : RingId} {p : Plane} (h : (ringOpen s r && timingDue s (planeAt s r p)) = true) :
    planeAt (timingAt s) r p = timingPlane s (timingFrames s r p) (planeAt s r p) := by
  rw [timingAt_eq, foldl_launchOn_in _ _ _ (planesWith_nodup ..) _ (mem_planesWith.mpr h), advanceTo_planeAt, timed]

theorem timingAt_out {s : State} {r : RingId} {p : Plane} (h : (ringOpen s r && timingDue s (planeAt s r p)) = false) :
    planeAt (timingAt s) r p = planeAt s r p := by
  rw [timingAt_eq, foldl_launchOn_out _ _ _ _ _ (not_mem_planesWith h), advanceTo_planeAt]

theorem timingAt_single {s : State} (h : isPair s = false) : (timingAt s).peer = s.peer := by
  rw [timingAt_eq, foldl_launchOn_single _ _ _ _ ((advanceTo_isPair ..).trans h), advanceTo_peer]

theorem exec_timingLaunch {s : State} (hc : canLaunch s = true) : exec .timingLaunch s = .next (timingAt s) :=
  congrArg Host.Outcome.next (if_pos hc)

/-! ## A frame off its prediction or missing (R226) -/

section
variable {s : State} {r : RingId} {p : Plane}

theorem exec_ringTopology_changed (hc : canLaunch s = true) (ho : ringOpen s r = true) (hs : (planeAt s r p).started = true)
    (h : ((planeAt s r p).off || notReturned s (planeAt s r p)) = true) : exec (.ringTopology r p) s =
      .next (planeMod (raiseShared s 0x0583 (argPlane r p)) r p fun x => { x with discDue := true, off := false }) :=
  congrArg Host.Outcome.next (if_pos (by rw [hc, ho, hs, h]; rfl))

theorem exec_ringTopology_predicted (h : ((planeAt s r p).off || notReturned s (planeAt s r p)) = false) :
    exec (.ringTopology r p) s = .next s :=
  congrArg Host.Outcome.next (if_neg (by rw [h, Bool.and_false]; exact Bool.false_ne_true))

end

/-! ## The periods (R225, R226, R235) -/

/-- TIMING is due on the plane. -/
def askTiming (q : PlaneHub) : PlaneHub := { q with timDue := true }

/-- TIMING is asked for on every started plane whose delays may be taken. -/
def timingAsked (s : State) : State :=
  (planesWith s fun x => x.started && !x.delayBad).foldl (fun t x => planeMod t x.1 x.2 askTiming) s

theorem exec_periodicTiming {s : State} (hc : canLaunch s = true) (hk : s.cyc.k.toNat % 1000 = 0) :
    exec .periodicTiming s = .next (timingAsked s) :=
  congrArg Host.Outcome.next (if_pos (by simp [hc, hk]))

theorem timingAsked_planeAt (s : State) (r : RingId) (p : Plane) : planeAt (timingAsked s) r p = { planeAt s r p with
    timDue := (planeAt s r p).timDue || (ringOpen s r && ((planeAt s r p).started && !(planeAt s r p).delayBad)) } := by
  have hstep (t : State) (x : RingId × Plane) := planeMod_between (s := t) (r := x.1) (p := x.2) (f := askTiming) rfl rfl
  unfold timingAsked
  cases h : ringOpen s r && ((planeAt s r p).started && !(planeAt s r p).delayBad) with
  | true => rw [foldl_planes_in (f := fun _ => askTiming) hstep (planesWith_nodup ..) _ (mem_planesWith.mpr h), Bool.or_true, askTiming]
  | false => rw [foldl_planes_out (f := fun _ => askTiming) hstep _ _ (not_mem_planesWith h), Bool.or_false]

/-- DISCOVER is asked for on the plane where discovery runs. -/
def discoverAskedOn (s t : State) (x : RingId × Plane) : State :=
  if ringOpen s x.1 && wantsDiscovery (listed s x.1).length (planeAt s x.1 x.2) then
    planeMod t x.1 x.2 fun q => { q with discDue := true } else t

/-- What the period makes of a plane: DISCOVER is due where discovery runs, or where it was due before. -/
def askDiscover (s : State) (x : RingId × Plane) (q : PlaneHub) : PlaneHub :=
  { q with discDue := q.discDue || (ringOpen s x.1 && wantsDiscovery (listed s x.1).length (planeAt s x.1 x.2)) }

theorem discoverAskedOn_plane (s t : State) (x : RingId × Plane) :
    planeAt (discoverAskedOn s t x) x.1 x.2 = askDiscover s x (planeAt t x.1 x.2) ∧ otherPlanes x.1 x.2 t (discoverAskedOn s t x) := by
  unfold discoverAskedOn askDiscover
  cases ringOpen s x.1 && wantsDiscovery (listed s x.1).length (planeAt s x.1 x.2) with
  | true =>
    rw [if_pos rfl, Bool.or_true]
    exact planeMod_between rfl rfl
  | false =>
    rw [if_neg Bool.false_ne_true, Bool.or_false]
    exact ⟨rfl, fun _ _ _ => rfl⟩

theorem exec_periodicDiscover {s : State} (hc : canLaunch s = true) (hk : s.cyc.k.toNat % 100 = 0) :
    exec .periodicDiscover s = .next (allPlanes.foldl (discoverAskedOn s) s) :=
  congrArg Host.Outcome.next (if_pos (by simp [hc, hk]))

/-- Settles O44: a launch by what it makes of each plane on which it is due, an event that asks by the plane's own flag. -/
theorem planesStart : Obligations.PlanesStart := by
  unfold Obligations.PlanesStart
  refine fun s hc => ⟨?_, ?_, fun r p ho hs => ⟨fun h => ?_, exec_ringTopology_predicted⟩, fun hk => ?_, fun hk => ?_⟩
  · have hx := exec_discoverLaunch hc
    refine ⟨_, hx, fun r p h => ?_, fun r p => discoverAt_out, discoverAt_single, exec_frame hx⟩
    rw [discoverAt_in h]
    exact ⟨discoverPlane_txD _ _ _, rfl, rfl, rfl⟩
  · have hx := exec_timingLaunch hc
    refine ⟨_, hx, fun r p h => ?_, fun r p => timingAt_out, timingAt_single, exec_frame hx⟩
    rw [timingAt_in h]
    exact ⟨rfl, rfl, rfl, rfl, rfl⟩
  · have hx := exec_ringTopology_changed hc ho hs h
    obtain ⟨hplane, hothers⟩ := planeMod_between (congrArg (·.planes) (raiseShared_rings ..)) (Eq.refl _)
    exact ⟨_, hx, hplane, hothers, exec_frame hx⟩
  · have hx := exec_periodicTiming hc hk
    exact ⟨_, hx, fun r p => by rw [timingAsked_planeAt, Bool.and_assoc], exec_frame hx⟩
  · have hx := exec_periodicDiscover hc hk
    exact ⟨_, hx, fun r p => foldl_planes_in (f := askDiscover s) (discoverAskedOn_plane s) allPlanes_nodup s (mem_allPlanes r p),
      exec_frame hx⟩

end Sys2Proof.Machine
end

section
/-! SUPPORT. The Batten frames as bytes: a frame is its fields one behind the other, each stands at the offset that the format gives
it, and is read back from there (R270 to R273). -/

namespace Sys2Proof.Machine

/-! ## Numbers as bytes (R270) -/

theorem leNat_leBytes (n v : Nat) : leNat (leBytes n v) = v % 256 ^ n := by
  induction n generalizing v with
  | zero => exact (Nat.mod_one v).symm
  | succ n ih =>
    rw [leBytes, leNat, ih, BitVec.toNat_ofNat]
    exact (Nat.mod_mul (a := 256)).symm.trans (congrArg (v % ·) (Nat.pow_succ' ..).symm)

theorem length_leBytes (n v : Nat) : (leBytes n v).length = n := by
  induction n generalizing v with
  | zero => rfl
  | succ n ih => exact congrArg (· + 1) (ih _)

theorem length_beBytes (n v : Nat) : (beBytes n v).length = n := List.length_reverse.trans (length_leBytes n v)

theorem beNat_beBytes {n v : Nat} (h : v < 256 ^ n) : beNat (beBytes n v) = v := by
  rw [beNat, beBytes, List.reverse_reverse, leNat_leBytes, Nat.mod_eq_of_lt h]

/-- The number whose bytes stand at an offset. -/
theorem fldBE_of_slice {b : List Byte} {off n v : Nat} (h : slice b off n = beBytes n v) (hv : v < 256 ^ n) : fldBE b off n = v := by
  rw [fldBE, h, beNat_beBytes hv]

/-- The word whose bytes stand at an offset. -/
theorem word_of_slice {b : List Byte} {off n w : Nat} {x : BitVec w} (h : slice b off n = beBytes n x.toNat) (hw : 2 ^ w ≤ 256 ^ n) :
    BitVec.ofNat w (fldBE b off n) = x := by
  rw [fldBE_of_slice h (Nat.lt_of_lt_of_le x.isLt hw), BitVec.ofNat_toNat, BitVec.setWidth_eq]

/-! ## The parts of a text of bytes -/

theorem slice_append_left {a b : List Byte} {off n : Nat} (h : off + n ≤ a.length) : slice (a ++ b) off n = slice a off n := by
  rw [slice, slice, List.drop_append_of_le_length (by omega), List.take_append_of_le_length (by rw [List.length_drop]; omega)]

theorem slice_append_right (a b : List Byte) (off n : Nat) : slice (a ++ b) (a.length + off) n = slice b off n := by
  rw [slice, slice, List.drop_length_add_append]

theorem slice_all (a : List Byte) : slice a 0 a.length = a := List.take_length

/-- A part of a text stands behind the parts before it. -/
theorem slice_flatten (ps : List (List Byte)) (i : Nat) (hi : i < ps.length) :
    slice ps.flatten ((ps.map List.length).take i).sum ((ps.map List.length).getD i 0) = ps.getD i [] := by
  induction ps generalizing i with
  | nil => exact absurd hi (Nat.not_lt_zero i)
  | cons p ps ih =>
    cases i with
    | zero =>
      show slice (p ++ ps.flatten) 0 p.length = p
      rw [slice_append_left (by omega), slice_all]
    | succ i => exact (slice_append_right p ps.flatten _ _).trans (ih i (Nat.lt_of_succ_lt_succ hi))

/-- The byte at an offset, from the part of one byte that stands there. -/
theorem getD_of_slice {b : List Byte} {i : Nat} {x : Byte} (h : slice b i 1 = [x]) : b.getD i 0 = x := by
  rw [slice, List.take_one, List.head?_drop] at h
  simpa [List.getD] using congrArg (fun l => l.headD 0) h

/-! ## The L frame (R271) -/

/-- The fields of an L frame one behind the other, its CRC last. -/
def lParts (f : LFrame) (crc : List Byte) : List (List Byte) :=
  [[0xB1], leBytes 1 f.lane, [f.seq], leBytes 1 (ofFlag f.mark + 2 * ofFlag f.split), beBytes 4 f.cycle.toNat,
    beBytes 4 f.dcycle.toNat, beBytes 4 f.drive.toNat, leBytes 1 f.gm.toNat, zeros 3, beBytes 4 f.cfgCycle.toNat,
    beBytes 4 f.cfgCrc.toNat, beBytes 2 f.cfgPage, zeros 2, f.cfgData, zeros 6, crc]

/-- How many bytes each field of an L frame takes. -/
def lSizes : List Nat := [1, 1, 1, 1, 4, 4, 4, 1, 3, 4, 4, 2, 2, 32, 6, 2]

theorem lParts_flatten (f : LFrame) (crc : List Byte) : (lParts f crc).flatten = lBody f ++ crc := by
  simp [lParts, lBody]

theorem lParts_sizes {f : LFrame} (h : f.cfgData.length = 32) (crc : Nat) : (lParts f (beBytes 2 crc)).map List.length = lSizes := by
  simp [lParts, lSizes, length_leBytes, length_beBytes, zeros, h]

/-- Field i of an L frame stands at its place, and so does the CRC. -/
theorem lBytes_field {f : LFrame} (h : f.cfgData.length = 32) (i : Nat) (hi : i < lSizes.length) :
    slice (lBytes f) (lSizes.take i).sum (lSizes.getD i 0) = (lParts f (beBytes 2 (crc16 (lBody f)).toNat)).getD i [] := by
  have hsizes := lParts_sizes h (crc16 (lBody f)).toNat
  rw [← hsizes, List.length_map] at hi
  rw [lBytes, ← lParts_flatten, ← hsizes]
  exact slice_flatten _ i hi

theorem lBytes_crc {f : LFrame} (h : f.cfgData.length = 32) : fldBE (lBytes f) 70 2 = (crc16 (lBody f)).toNat := by
  have hpart : ∀ crc, (lParts f crc).getD 15 [] = crc := fun _ => rfl
  exact fldBE_of_slice ((lBytes_field h 15 (by decide)).trans (hpart _)) (BitVec.isLt _)

theorem length_lBytes {f : LFrame} (h : f.cfgData.length = 32) : (lBytes f).length = 72 := by
  rw [lBytes, ← lParts_flatten, List.length_flatten, lParts_sizes h]
  rfl

theorem lBytes_lane {f : LFrame} (h : f.cfgData.length = 32) (hl : f.lane < 4) : fldBE (lBytes f) 1 1 = f.lane :=
  fldBE_of_slice (lBytes_field h 1 (by decide)) (Nat.lt_trans hl (by decide))

theorem lBytes_seq {f : LFrame} (h : f.cfgData.length = 32) : (lBytes f).getD 2 0 = f.seq :=
  getD_of_slice (lBytes_field h 2 (by decide))

/-- A flag byte gives back both its flags. -/
theorem bitAt_flags (a b : Bool) :
    bitAt (ofFlag a + 2 * ofFlag b) 0 = a ∧ bitAt (ofFlag a + 2 * ofFlag b) 1 = b := by
  cases a <;> cases b <;> decide

theorem flags_lt (a b : Bool) : ofFlag a + 2 * ofFlag b < 256 ^ 1 := by
  cases a <;> cases b <;> decide

theorem lFields_lBytes {f : LFrame} (hl : f.lane < 4) (hp : f.cfgPage < 65536) (h : f.cfgData.length = 32) :
    lFields (lBytes f) = f := by
  have hflags : fldBE (lBytes f) 3 1 = ofFlag f.mark + 2 * ofFlag f.split :=
    fldBE_of_slice (lBytes_field h 3 (by decide)) (flags_lt ..)
  have hcycle : BitVec.ofNat 32 (fldBE (lBytes f) 4 4) = f.cycle := word_of_slice (lBytes_field h 4 (by decide)) (by decide)
  have hdcycle : BitVec.ofNat 32 (fldBE (lBytes f) 8 4) = f.dcycle := word_of_slice (lBytes_field h 5 (by decide)) (by decide)
  have hdrive : BitVec.ofNat 32 (fldBE (lBytes f) 12 4) = f.drive := word_of_slice (lBytes_field h 6 (by decide)) (by decide)
  have hgm : BitVec.ofNat 2 (fldBE (lBytes f) 16 1) = f.gm := word_of_slice (lBytes_field h 7 (by decide)) (by decide)
  have hcfgCycle : BitVec.ofNat 32 (fldBE (lBytes f) 20 4) = f.cfgCycle := word_of_slice (lBytes_field h 9 (by decide)) (by decide)
  have hcfgCrc : BitVec.ofNat 32 (fldBE (lBytes f) 24 4) = f.cfgCrc := word_of_slice (lBytes_field h 10 (by decide)) (by decide)
  have hpage : fldBE (lBytes f) 28 2 = f.cfgPage := fldBE_of_slice (lBytes_field h 11 (by decide)) (by omega)
  have hdata : slice (lBytes f) 32 32 = f.cfgData := lBytes_field h 13 (by decide)
  obtain ⟨hmark, hsplit⟩ := bitAt_flags f.mark f.split
  simp only [lFields, lBytes_lane h hl, lBytes_seq h, hflags, hcycle, hdcycle, hdrive, hgm, hcfgCycle, hcfgCrc, hpage, hdata,
    hmark, hsplit, Nat.mod_eq_of_lt hl]

/-! ## Codes and rows of numbers (R272) -/

theorem packCodes_cons (a b : Nat) (cs : List Nat) :
    packCodes (a :: b :: cs) = BitVec.ofNat 8 (16 * (a % 16) + b % 16) :: packCodes cs := by
  have hhalf : (a :: b :: cs).length / 2 = cs.length / 2 + 1 := by
    rw [List.length_cons, List.length_cons]
    omega
  rw [packCodes, hhalf, List.range_succ_eq_map, List.map_cons, List.map_map]
  rfl

/-- Codes of four bits, an even number of them, come back from their bytes. -/
theorem unpackCodes_packCodes (n : Nat) : ∀ cs : List Nat, cs.length = 2 * n → (∀ x ∈ cs, x < 16) →
    unpackCodes (packCodes cs) = cs := by
  induction n with
  | zero => exact fun cs h _ => by rw [List.length_eq_zero_iff.mp h]; rfl
  | succ n ih =>
    intro cs h hlt
    match cs, h with
    | a :: b :: cs, h =>
      obtain ⟨ha, hb, hcs⟩ : a < 16 ∧ b < 16 ∧ ∀ x ∈ cs, x < 16 := by simpa using hlt
      have hbyte : (BitVec.ofNat 8 (16 * (a % 16) + b % 16)).toNat = 16 * a + b := by rw [BitVec.toNat_ofNat]; omega
      have hhi : (16 * a + b) / 16 = a := by omega
      have hlo : (16 * a + b) % 16 = b := by omega
      have hrest := ih cs (by simp only [List.length_cons] at h; omega) hcs
      rw [packCodes_cons, unpackCodes, List.flatMap_cons, hbyte, hhi, hlo]
      exact congrArg (fun r => a :: b :: r) hrest

theorem length_packCodes (cs : List Nat) : (packCodes cs).length = cs.length / 2 := by simp [packCodes]

/-- A part of a part. -/
theorem slice_slice (b : List Byte) (off : Nat) {n i m : Nat} (h : i + m ≤ n) : slice (slice b off n) i m = slice b (off + i) m := by
  rw [slice, slice, slice, List.drop_take, List.take_take, List.drop_drop, Nat.min_eq_left (by omega)]

/-- Of a row of numbers of one size, the bytes of number i. -/
theorem slice_flatMap_beBytes (xs : List Nat) (size i : Nat) (hi : i < xs.length) :
    slice (xs.flatMap (beBytes size)) (size * i) size = beBytes size xs[i] := by
  have hsizes : (xs.map (beBytes size)).map List.length = List.replicate xs.length size := by
    simp [List.map_map, Function.comp_def, length_beBytes]
  have h := slice_flatten (xs.map (beBytes size)) i (by simpa using hi)
  rw [hsizes] at h
  simpa [List.flatMap, List.take_replicate, Nat.min_eq_left (Nat.le_of_lt hi), Nat.mul_comm i, List.getD, hi] using h

/-- A row of numbers of one size comes back from its bytes. -/
theorem beFields_of_slice {b : List Byte} {off size n : Nat} {xs : List Nat} (hn : xs.length = n) (hx : ∀ x ∈ xs, x < 256 ^ size)
    (h : slice b off (size * n) = xs.flatMap (beBytes size)) : beFields b off size n = xs := by
  refine List.ext_getElem (by simp [beFields, hn]) fun i hi hi' => ?_
  have hin : size * i + size ≤ size * n := by
    rw [← Nat.mul_succ]
    exact Nat.mul_le_mul_left size (hn ▸ hi')
  have hfield : slice b (off + size * i) size = beBytes size xs[i] := by
    rw [← slice_slice b off hin, h, slice_flatMap_beBytes xs size i hi']
  simp only [beFields, List.getElem_map, List.getElem_range]
  exact fldBE_of_slice hfield (hx _ (List.getElem_mem hi'))

/-- The same for a row of words. -/
theorem words_of_slice {b : List Byte} {off size n w : Nat} {xs : List (BitVec w)} (hn : xs.length = n) (hw : 2 ^ w ≤ 256 ^ size)
    (h : slice b off (size * n) = xs.flatMap fun x => beBytes size x.toNat) : (beFields b off size n).map (BitVec.ofNat w) = xs := by
  have hlt : ∀ v ∈ xs.map BitVec.toNat, v < 256 ^ size := fun v hv => by
    obtain ⟨x, -, rfl⟩ := List.mem_map.mp hv
    exact Nat.lt_of_lt_of_le x.isLt hw
  rw [beFields_of_slice (by rw [List.length_map, hn]) hlt (by rw [h, List.flatMap_map]), List.map_map]
  simp [Function.comp_def]

/-! ## The E frame (R272) -/

/-- The fields of an E frame one behind the other, its CRC last. -/
def eParts (f : EFrame) (crc : List Byte) : List (List Byte) :=
  [[0xE1], leBytes 1 f.rcv, [f.seq], leBytes 1 (ofFlag f.cfgActive), beBytes 4 f.cycle.toNat, beBytes 4 f.estat.toNat,
    beBytes 4 f.cfgCrc.toNat, packCodes f.xcode, packCodes f.ycode, packCodes f.ostat, f.volt.flatMap (beBytes 1),
    f.curr.flatMap (beBytes 1), f.cntx.flatMap (fun w => beBytes 4 w.toNat), f.cnty.flatMap (fun w => beBytes 4 w.toNat),
    beBytes 2 f.supply.a, beBytes 2 f.supply.b, beBytes 4 f.elem.toNat, [f.elemLane], [f.elemGm], zeros 2,
    f.edge.flatMap (fun h => beBytes 2 h.toNat), zeros 2, crc]

/-- How many bytes each field of an E frame takes. -/
def eSizes : List Nat := [1, 1, 1, 1, 4, 4, 4, 32, 32, 16, 32, 32, 32, 32, 2, 2, 4, 1, 1, 2, 16, 2, 2]

/-- The rows of an E frame have as many entries as the format holds. -/
structure ERows (f : EFrame) : Prop where
  xcode : f.xcode.length = 64
  ycode : f.ycode.length = 64
  ostat : f.ostat.length = 32
  volt  : f.volt.length = 32
  curr  : f.curr.length = 32
  cntx  : f.cntx.length = 8
  cnty  : f.cnty.length = 8
  edge  : f.edge.length = 8

/-- Every number of an E frame is one that its field holds. -/
structure EValues (f : EFrame) : Prop where
  rcv   : f.rcv < 4
  codes : ∀ x ∈ f.xcode ++ f.ycode ++ f.ostat, x < 16
  meas  : ∀ x ∈ f.volt ++ f.curr, x < 256
  supA  : f.supply.a < 65536
  supB  : f.supply.b < 65536

theorem eParts_flatten (f : EFrame) (crc : List Byte) : (eParts f crc).flatten = eBody f ++ crc := by
  unfold eParts eBody
  simp only [List.flatten_cons, List.flatten_nil, List.append_assoc, List.append_nil, List.cons_append, List.nil_append]

theorem eParts_sizes {f : EFrame} (h : ERows f) (crc : Nat) : (eParts f (beBytes 2 crc)).map List.length = eSizes := by
  simp [eParts, eSizes, length_leBytes, length_beBytes, length_packCodes, zeros, h.xcode, h.ycode, h.ostat,
    h.volt, h.curr, h.cntx, h.cnty, h.edge]

/-- Field i of an E frame stands at its place, and so does the CRC. -/
theorem eBytes_field {f : EFrame} (h : ERows f) (i : Nat) (hi : i < eSizes.length) :
    slice (eBytes f) (eSizes.take i).sum (eSizes.getD i 0) = (eParts f (beBytes 2 (crc16 (eBody f)).toNat)).getD i [] := by
  have hsizes := eParts_sizes h (crc16 (eBody f)).toNat
  rw [← hsizes, List.length_map] at hi
  rw [eBytes, ← eParts_flatten, ← hsizes]
  exact slice_flatten _ i hi

theorem eBytes_crc {f : EFrame} (h : ERows f) : fldBE (eBytes f) 254 2 = (crc16 (eBody f)).toNat := by
  have hpart : ∀ crc, (eParts f crc).getD 22 [] = crc := fun _ => rfl
  exact fldBE_of_slice ((eBytes_field h 22 (by decide)).trans (hpart _)) (BitVec.isLt _)

theorem length_eBytes {f : EFrame} (h : ERows f) : (eBytes f).length = 256 := by
  rw [eBytes, ← eParts_flatten, List.length_flatten, eParts_sizes h]
  rfl

theorem eBytes_rcv {f : EFrame} (h : ERows f) (hv : EValues f) : fldBE (eBytes f) 1 1 = f.rcv :=
  fldBE_of_slice (eBytes_field h 1 (by decide)) (Nat.lt_trans hv.rcv (by decide))

theorem eBytes_seq {f : EFrame} (h : ERows f) : (eBytes f).getD 2 0 = f.seq := getD_of_slice (eBytes_field h 2 (by decide))

theorem eFields_eBytes {f : EFrame} (h : ERows f) (hv : EValues f) : eFields (eBytes f) = f := by
  have hcodes (cs : List Nat) (n : Nat) (hn : cs.length = 2 * n) (hin : cs ⊆ f.xcode ++ f.ycode ++ f.ostat) :
      unpackCodes (packCodes cs) = cs := unpackCodes_packCodes n cs hn fun x hx => hv.codes x (hin hx)
  have hactive : fldBE (eBytes f) 3 1 = ofFlag f.cfgActive + 2 * ofFlag false :=
    fldBE_of_slice (eBytes_field h 3 (by decide)) (flags_lt ..)
  have hcycle : BitVec.ofNat 32 (fldBE (eBytes f) 4 4) = f.cycle := word_of_slice (eBytes_field h 4 (by decide)) (by decide)
  have hestat : BitVec.ofNat 32 (fldBE (eBytes f) 8 4) = f.estat := word_of_slice (eBytes_field h 5 (by decide)) (by decide)
  have hcrc : BitVec.ofNat 32 (fldBE (eBytes f) 12 4) = f.cfgCrc := word_of_slice (eBytes_field h 6 (by decide)) (by decide)
  have hx : unpackCodes (slice (eBytes f) 16 32) = f.xcode :=
    (congrArg unpackCodes (eBytes_field h 7 (by decide))).trans (hcodes _ 32 h.xcode (by simp))
  have hy : unpackCodes (slice (eBytes f) 48 32) = f.ycode :=
    (congrArg unpackCodes (eBytes_field h 8 (by decide))).trans (hcodes _ 32 h.ycode (by simp))
  have ho : unpackCodes (slice (eBytes f) 80 16) = f.ostat :=
    (congrArg unpackCodes (eBytes_field h 9 (by decide))).trans (hcodes _ 16 h.ostat (by simp))
  have hvolt : beFields (eBytes f) 96 1 32 = f.volt := beFields_of_slice h.volt
    (fun x hx => hv.meas x (List.mem_append_left _ hx)) (eBytes_field h 10 (by decide))
  have hcurr : beFields (eBytes f) 128 1 32 = f.curr := beFields_of_slice h.curr
    (fun x hx => hv.meas x (List.mem_append_right _ hx)) (eBytes_field h 11 (by decide))
  have hcntx : (beFields (eBytes f) 160 4 8).map (BitVec.ofNat 32) = f.cntx :=
    words_of_slice h.cntx (by decide) (eBytes_field h 12 (by decide))
  have hcnty : (beFields (eBytes f) 192 4 8).map (BitVec.ofNat 32) = f.cnty :=
    words_of_slice h.cnty (by decide) (eBytes_field h 13 (by decide))
  have hsupA : fldBE (eBytes f) 224 2 = f.supply.a := fldBE_of_slice (eBytes_field h 14 (by decide)) hv.supA
  have hsupB : fldBE (eBytes f) 226 2 = f.supply.b := fldBE_of_slice (eBytes_field h 15 (by decide)) hv.supB
  have helem : BitVec.ofNat 32 (fldBE (eBytes f) 228 4) = f.elem := word_of_slice (eBytes_field h 16 (by decide)) (by decide)
  have hlane : (eBytes f).getD 232 0 = f.elemLane := getD_of_slice (eBytes_field h 17 (by decide))
  have hgm : (eBytes f).getD 233 0 = f.elemGm := getD_of_slice (eBytes_field h 18 (by decide))
  have hedge : (beFields (eBytes f) 236 2 8).map (BitVec.ofNat 16) = f.edge :=
    words_of_slice h.edge (by decide) (eBytes_field h 20 (by decide))
  simp only [eFields, eBytes_rcv h hv, eBytes_seq h, hactive, (bitAt_flags f.cfgActive false).1, hcycle, hestat, hcrc, hx, hy, ho,
    hvolt, hcurr, hcntx, hcnty, hsupA, hsupB, helem, hlane, hgm, hedge, Nat.mod_eq_of_lt hv.rcv]

/-! ## A frame as sent is valid for its lane exactly when its SEQ is (R273) -/

/-- A text that ends in the CRC of what stands before it. -/
theorem take_of_crc {body b : List Byte} {n : Nat} (hb : b = body ++ beBytes 2 (crc16 body).toNat) (hn : b.length = n + 2) :
    b.take n = body := by
  rw [hb, List.length_append, length_beBytes] at hn
  rw [hb, List.take_left' (by omega)]

theorem lValid_lBytes {f : LFrame} (hl : f.lane < 4) (h : f.cfgData.length = 32) {l : Lane} (hn : l.num = f.lane) (last : Option Byte) :
    lValid l last (lBytes f) = seqNext last f.seq := by
  have hlen := length_lBytes h
  have htype : (lBytes f).getD 0 0 = 0xB1 := getD_of_slice (lBytes_field h 0 (by decide))
  have htake : (lBytes f).take 70 = lBody f := take_of_crc rfl hlen
  simp only [lValid, hlen, lBytes_crc h, htake, htype, lBytes_lane h hl, lBytes_seq h, hn, Nat.mod_eq_of_lt hl,
    beq_self_eq_true, Bool.true_and]

theorem eValid_eBytes {f : EFrame} (h : ERows f) (hv : EValues f) {l : Lane} (hn : l.num = f.rcv) (last : Option Byte) :
    eValid l last (eBytes f) = seqNext last f.seq := by
  have hlen := length_eBytes h
  have htype : (eBytes f).getD 0 0 = 0xE1 := getD_of_slice (eBytes_field h 0 (by decide))
  have htake : (eBytes f).take 254 = eBody f := take_of_crc rfl hlen
  simp only [eValid, hlen, eBytes_crc h, htake, htype, eBytes_rcv h hv, eBytes_seq h, hn, Nat.mod_eq_of_lt hv.rcv,
    beq_self_eq_true, Bool.true_and]

/-- Settles O47: each field is read back from the part of the frame that it was written to. -/
theorem battenFramesRoundTrip : Obligations.BattenFramesRoundTrip := by
  unfold Obligations.BattenFramesRoundTrip
  refine ⟨fun f hl hp h => ⟨length_lBytes h, lFields_lBytes hl hp h, fun l hn => lValid_lBytes hl h hn⟩,
    fun f hrcv hx hy ho hcodes hvolt hcurr hmeas hcntx hcnty hsa hsb hedge => ?_⟩
  have hrows : ERows f := ⟨hx, hy, ho, hvolt, hcurr, hcntx, hcnty, hedge⟩
  have hvalues : EValues f := ⟨hrcv, hcodes, hmeas, hsa, hsb⟩
  exact ⟨length_eBytes hrows, eFields_eBytes hrows hvalues, fun l hn => eValid_eBytes hrows hvalues hn⟩

end Sys2Proof.Machine
end

section
/-! SUPPORT. The inputs of the Eaves block: what becomes of one input, source, pair or counter of a chain, and that the rest of both
chains stands (R240 to R242, R245, R248). -/

namespace Sys2Proof.Machine

/-! ## One entry of a list -/

theorem length_listMod {α : Type} (l : List α) (i : Nat) (f : α → α) : (listMod l i f).length = l.length := by
  induction l generalizing i with
  | nil => rfl
  | cons a l ih =>
    cases i with
    | zero => rfl
    | succ i => exact congrArg (· + 1) (ih i)

theorem getD_listMod_other {α : Type} (l : List α) {i j : Nat} (h : j ≠ i) (f : α → α) (d : α) :
    (listMod l i f).getD j d = l.getD j d := by
  induction l generalizing i j with
  | nil => rfl
  | cons a l ih =>
    cases i with
    | zero =>
      obtain ⟨j, rfl⟩ := Nat.exists_eq_succ_of_ne_zero h
      rfl
    | succ i =>
      cases j with
      | zero => rfl
      | succ j => exact ih (fun e => h (congrArg _ e))

/-! ## One chain -/

theorem chainAt_chainMod (s : State) (c : Chain) (f : ChainSt → ChainSt) : chainAt (chainMod s c f) c = f (chainAt s c) :=
  Two.get_modify_same ..

theorem chainAt_chainMod_other (s : State) {c d : Chain} (h : d ≠ c) (f : ChainSt → ChainSt) :
    chainAt (chainMod s c f) d = chainAt s d :=
  Two.get_modify_other _ _ _ _ fun e => h (by cases c <;> cases d <;> trivial)

/-- A change of one chain that leaves its inputs alone leaves every input, and the other chain. -/
theorem chainMod_besideIns {s : State} {c : Chain} {f : ChainSt → ChainSt} (h : ∀ ch, (f ch).ins = ch.ins) :
    (chainAt (chainMod s c f) c).ins = (chainAt s c).ins ∧ (∀ d, d ≠ c → chainAt (chainMod s c f) d = chainAt s d) ∧
      Frame [.eaves] s (chainMod s c f) :=
  ⟨by rw [chainAt_chainMod, h], fun _ hd => chainAt_chainMod_other s hd f, (chainMod_kept s c f).frame⟩

/-! ## One input of a chain -/

theorem inMod_same {s : State} {c : Chain} {i : Nat} (h : i < (chainAt s c).ins.length) (f : ChainIn → ChainIn) :
    chainIn (chainAt (inMod s c i f) c) i = f (chainIn (chainAt s c) i) := by
  rw [inMod, chainAt_chainMod]
  exact getD_listMod _ h f {}

theorem inMod_onlyInput (s : State) (c : Chain) (i : Nat) (f : ChainIn → ChainIn) : onlyInput c i s (inMod s c i f) := by
  refine ⟨fun j hj => ?_, fun d hd => chainAt_chainMod_other s hd _, rfl, rfl, (inMod_kept s c i f).frame⟩
  rw [inMod, chainAt_chainMod]
  exact getD_listMod_other _ hj f {}

/-- The filtered state changes to the other one, its time noted where it is the first since the instant (R240, R243). -/
def filtered (time : Half) (x : ChainIn) : ChainIn :=
  { x with filt := x.toward, cnt := 0, edge := if x.edge = 0xFFFF then time else x.edge }

/-- Faults held once their windows have been counted (R241). -/
def faultsHeld (x : ChainIn) : ChainIn :=
  { x with fConst := x.fConst || 3 ≤ x.nConst, fCross := x.fCross || 3 ≤ x.nCross, fUndef := x.fUndef || 41 ≤ x.nMid }

/-- No fault held. -/
def faultless (x : ChainIn) : ChainIn := { x with fConst := false, fCross := false, fUndef := false }

theorem exec_filterChange_due {s : State} {c : Chain} {i : Nat} (hp : pulsed s i = true)
    (hd : filterDue (filtOf s i) (chainIn (chainAt s c) i) = true) :
    exec (.filterChange c i) s = .next (inMod s c i (filtered (edgeOffset s i))) :=
  congrArg _ (if_pos (by simp [hp, hd]))

theorem exec_filterChange_idle {s : State} {c : Chain} {i : Nat}
    (hd : filterDue (filtOf s i) (chainIn (chainAt s c) i) = false) : exec (.filterChange c i) s = .next s :=
  congrArg _ (if_neg (by simp [hd]))

theorem exec_inputFaultSet {s : State} {i : Nat} (hp : pulsed s i = true) (c : Chain) :
    exec (.inputFaultSet c i) s = .next (inMod s c i faultsHeld) :=
  congrArg _ (if_pos hp)

theorem exec_inputFaultClear {s : State} {c : Chain} {i : Nat} (hp : pulsed s i = true)
    (hg : 2000 ≤ (chainIn (chainAt s c) i).nGood) : exec (.inputFaultClear c i) s = .next (inMod s c i faultless) :=
  congrArg _ (if_pos (by simp [hp, hg, windowsPerS]))

/-- A count that is due counts towards the other state. -/
theorem filterDue_toward {n : Nat} {x : ChainIn} (h : filterDue n x = true) : x.toward = !x.filt := by
  obtain ⟨-, h⟩ := Bool.and_eq_true_iff.mp h
  cases ht : x.toward <;> cases hf : x.filt <;> simp [ht, hf] at h ⊢

/-! ## Sources, pairs and counters -/

theorem exec_sourceFaultSet {s : State} {c : Chain} {i : Nat} (hs : s.mod.st ≠ .off) (h : 3 ≤ (chainAt s c).srcBad.getD i 0) :
    exec (.sourceFaultSet c i) s = .next (chainMod s c fun ch => { ch with srcFault := listMod ch.srcFault i fun _ => true }) :=
  congrArg _ (if_pos (by simpa [hs] using h))

theorem exec_sourceFaultClear {s : State} {c : Chain} {i : Nat} (hs : s.mod.st ≠ .off) (h : 2000 ≤ (chainAt s c).srcGood.getD i 0) :
    exec (.sourceFaultClear c i) s = .next (chainMod s c fun ch => { ch with srcFault := listMod ch.srcFault i fun _ => false }) :=
  congrArg _ (if_pos (by simpa [hs, windowsPerS] using h))

theorem exec_discTimerExpiry {s : State} {c : Chain} {i n : Nat} (hc : s.eaves.cfg ≠ none)
    (ht : ((chainAt s c).pairs.getD i {}).timer = some n) (hn : discWindows s i ≤ n) :
    exec (.discTimerExpiry c i) s = .next (pairMod s c i fun x => { x with disc := true }) := by
  refine congrArg Host.Outcome.next ?_
  rw [ht]
  exact if_pos (by simp [Option.isSome_iff_ne_none.mpr hc, hn])

theorem exec_discClear {s : State} {c : Chain} {i : Nat} (hc : s.eaves.cfg ≠ none)
    (h : pairFilt s i ≤ ((chainAt s c).pairs.getD i {}).nOff) :
    exec (.discClear c i) s = .next (pairMod s c i fun x => { x with disc := false }) :=
  congrArg _ (if_pos (Bool.and_eq_true_iff.mpr ⟨Option.isSome_iff_ne_none.mpr hc, decide_eq_true h⟩))

theorem pairMod_same {s : State} {c : Chain} {i : Nat} (h : i < (chainAt s c).pairs.length) (f : PairSt → PairSt) :
    (chainAt (pairMod s c i f) c).pairs.getD i {} = f ((chainAt s c).pairs.getD i {}) := by
  rw [pairMod, chainAt_chainMod]
  exact getD_listMod _ h f {}

/-- The gate has ended: the frequency it measured stands, and the counter is settled (R248, R279). -/
def gateEnded (s : State) (c : Chain) (i : Nat) (freq : Word) : State :=
  chainMod s c fun ch => { ch with ctrs := listMod ch.ctrs i fun x => { x with freq := freq, settle := false } }

theorem exec_counterGateEnd {s : State} {cfg : EavesCfg} {i : Nat} (hs : s.mod.st ≠ .off) (hc : s.eaves.cfg = some cfg)
    (hm : (inEnt cfg (56 + i)).mode = 3) (c : Chain) (edges ns : Nat) :
    exec (.counterGateEnd c (56 + i) edges ns) s = .next (gateEnded s c i (freqOf (inEnt cfg (56 + i)).gate edges ns)) := by
  have hi : 56 + i - 56 = i := Nat.add_sub_cancel_left ..
  refine congrArg Host.Outcome.next ?_
  rw [hc]
  refine (if_pos (by simp [hs, hm])).trans ?_
  rw [hi]
  rfl

theorem gateEnded_same {s : State} {c : Chain} {i : Nat} (h : i < (chainAt s c).ctrs.length) (freq : Word) :
    (chainAt (gateEnded s c i freq) c).ctrs.getD i {} =
      { (chainAt s c).ctrs.getD i {} with freq := freq, settle := false } := by
  rw [gateEnded, chainAt_chainMod]
  exact getD_listMod _ h _ {}

/-- Settles O49: each event by the entry of its chain that it changes, `onlyInput` and `chainMod_besideIns` for the rest. -/
theorem inputsJudged : Obligations.InputsJudged := by
  unfold Obligations.InputsJudged
  refine fun s c i hs => ⟨fun hp hi => ⟨fun hd => ?_, exec_filterChange_idle, ?_, fun hg => ?_⟩,
    fun hi => ⟨fun h => ?_, fun h => ?_⟩, fun hi hc => ⟨fun n ht hn => ?_, fun h => ?_⟩, fun cfg edges ns hi hc hm => ?_⟩
  · refine ⟨_, exec_filterChange_due hp hd, ?_, ?_, inMod_onlyInput ..⟩
    · rw [inMod_same hi]
      exact filterDue_toward hd
    · rw [inMod_same hi]
      rfl
  · refine ⟨_, exec_inputFaultSet hp c, ?_, ?_, ?_, ?_, inMod_onlyInput ..⟩
    all_goals
      rw [inMod_same hi]
      rfl
  · exact ⟨_, exec_inputFaultClear hp hg, inMod_same hi _, inMod_onlyInput ..⟩
  · refine ⟨_, exec_sourceFaultSet hs h, ?_, chainMod_besideIns fun _ => rfl⟩
    rw [chainAt_chainMod]
    exact getD_listMod _ hi _ _
  · refine ⟨_, exec_sourceFaultClear hs h, ?_, chainMod_besideIns fun _ => rfl⟩
    rw [chainAt_chainMod]
    exact getD_listMod _ hi _ _
  · exact ⟨_, exec_discTimerExpiry hc ht hn, pairMod_same hi _, chainMod_besideIns fun _ => rfl⟩
  · exact ⟨_, exec_discClear hc h, pairMod_same hi _, chainMod_besideIns fun _ => rfl⟩
  · exact ⟨_, exec_counterGateEnd hs hc hm c edges ns, gateEnded_same hi _, chainMod_besideIns fun _ => rfl⟩

end Sys2Proof.Machine
end

section
/-! SUPPORT. The output networks: a path conducts by two lanes that both drive (R252 to R257, R274). -/

namespace Sys2Proof.Machine

/-! ## Sets of elements -/

theorem testBit_bitsOf (bs : List Bool) (i : Nat) : (bitsOf bs).testBit i = bs.getD i false := by
  induction bs generalizing i with
  | nil => exact Nat.zero_testBit i
  | cons b bs ih =>
    cases i with
    | zero => cases b <;> simp [bitsOf, ofFlag, Nat.testBit_zero]
    | succ i =>
      have hflag : ofFlag b < 2 := by cases b <;> decide
      have hrest : (ofFlag b + 2 * bitsOf bs) / 2 = bitsOf bs := by omega
      rw [bitsOf, Nat.testBit_succ, hrest, ih]
      rfl

/-- The waveform of an element is called for only where its lane drives (R253). -/
theorem calledElems_lane {drv : Quad Bool} {sh : BitVec 12} {i : Nat} (h : (calledElems drv sh).getLsbD i = true) :
    drv.get (elemLane i) = true := by
  rw [calledElems, BitVec.getLsbD_ofNat, testBit_bitsOf] at h
  obtain ⟨hi, h⟩ := Bool.and_eq_true_iff.mp h
  simp only [decide_eq_true_eq] at hi
  have hget : i < ((List.range 12).map fun i => drv.get (elemLane i) && !sh.getLsbD (partner i)).length := by simpa using hi
  rw [List.getD_eq_getElem _ _ hget, List.getElem_map, List.getElem_range] at h
  exact (Bool.and_eq_true_iff.mp h).1

/-- The two elements of a path belong to different lanes (R252). -/
theorem elemLane_sides : ∀ p < 6, elemLane (2 * p) ≠ elemLane (2 * p + 1) := by decide

/-- A network conducts only by two different lanes that drive it. -/
theorem lanes_of_anyPath {drv : Quad Bool} {sh : BitVec 12} {P Q : Lane → Prop} (h : anyPath (calledElems drv sh) = true)
    (hdrv : ∀ l, drv.get l = true → P l ∧ Q l) : ∃ l m : Lane, l ≠ m ∧ P l ∧ P m ∧ Q l ∧ Q m := by
  obtain ⟨p, hp, hpath⟩ := List.any_eq_true.mp h
  obtain ⟨hl, hm⟩ := Bool.and_eq_true_iff.mp hpath
  obtain ⟨hPl, hQl⟩ := hdrv _ (calledElems_lane hl)
  obtain ⟨hPm, hQm⟩ := hdrv _ (calledElems_lane hm)
  exact ⟨_, _, elemLane_sides p (List.mem_range.mp hp), hPl, hPm, hQl, hQm⟩

theorem not_anyPath_zero : anyPath 0 ≠ true := by decide

/-! ## What drives a channel and a group master -/

theorem chanLanes_get {e : EavesSt} {cfg : EavesCfg} {c : Nat} {l : Lane} (h : (chanLanes e cfg c).get l = true) :
    (e.rcv.get l).producing = true ∧ (e.rcv.get l).drive.getLsbD (unitBase (outEnt cfg c) c) = true := by
  rw [chanLanes, Quad.get_mapL, rcvLive] at h
  simp only [Bool.and_eq_true] at h
  obtain ⟨⟨⟨hprod, -⟩, -⟩, hdrive⟩ := h
  exact ⟨hprod, hdrive⟩

theorem masterLanes_get {e : EavesSt} {g : Plane} {l : Lane} (h : (masterLanes e g).get l = true) :
    (e.rcv.get l).producing = true ∧ (e.rcv.get l).gm.getLsbD g.num = true := by
  rw [masterLanes, Quad.get_mapL, rcvLive] at h
  simp only [Bool.and_eq_true] at h
  obtain ⟨⟨⟨hprod, -⟩, -⟩, hgm⟩ := h
  exact ⟨hprod, hgm⟩

theorem netDriven_cfg {e : EavesSt} {cfg : EavesCfg} {c : Nat} (hc : e.cfg = some cfg) (h : netDriven e c = true) :
    (outEnt cfg c).used = true ∧ anyPath (calledElems (chanLanes e cfg c) (chanAt e c).shorted) = true := by
  rw [netDriven, chanCalled, hc] at h
  dsimp only at h
  split at h
  · exact ⟨‹_›, h⟩
  · exact absurd h not_anyPath_zero

theorem masterCalled_cfg {e : EavesSt} {cfg : EavesCfg} {g : Plane} (hc : e.cfg = some cfg) (h : anyPath (masterCalled e g) = true) :
    cfg.enable.get g = true ∧ anyPath (calledElems (masterLanes e g) (e.groups.get g).shorted) = true := by
  rw [masterCalled, hc] at h
  dsimp only at h
  split at h
  · exact ⟨‹_›, h⟩
  · exact absurd h not_anyPath_zero

theorem masterOn_iff {e : EavesSt} {g : Plane} : masterOn e g = true ↔
    (e.groups.get g).latched = false ∧ (e.groups.get g).cut = false ∧ anyPath (masterCalled e g) = true := by
  simp [masterOn, and_assoc]

theorem energised_iff {e : EavesSt} {c : Nat} : energised e c = true ↔
    (chanAt e c).latch = .none ∧ (chanAt e c).settle = false ∧ netDriven e c = true ∧ masterOn e (outGroup c) = true := by
  simp [energised, and_assoc]

/-- Settles O50: the channel's network and its group master each conduct by a path of two lanes. -/
theorem twoLanesEnergise : Obligations.TwoLanesEnergise := by
  unfold Obligations.TwoLanesEnergise
  intro e cfg c hc h
  obtain ⟨hlatch, -, hnet, hon⟩ := energised_iff.mp h
  obtain ⟨hlatched, hcut, hcalled⟩ := masterOn_iff.mp hon
  obtain ⟨hused, hpath⟩ := netDriven_cfg hc hnet
  obtain ⟨henable, hpathG⟩ := masterCalled_cfg hc hcalled
  exact ⟨lanes_of_anyPath hpath fun _ => chanLanes_get, lanes_of_anyPath hpathG fun _ => masterLanes_get, hlatch, hused, henable, hcut,
    hlatched⟩

end Sys2Proof.Machine
end

section
/-! SUPPORT. One channel, one unit, one group: what a change of it leaves of the others, and what follows from the networks (R254, R257,
R263, R264). -/

namespace Sys2Proof.Machine

/-! ## Channels -/

theorem chanAt_out {e : EavesSt} {c : Nat} (h : ¬ c < e.outs.length) : chanAt e c = {} :=
  List.getD_eq_default _ _ (Nat.le_of_not_lt h)

theorem chanAt_chanMod {e : EavesSt} {c : Nat} (h : c < e.outs.length) (f : ChanSt → ChanSt) :
    chanAt (chanMod e c f) c = f (chanAt e c) :=
  getD_listMod _ h f {}

theorem chanAt_chanMod_other (e : EavesSt) {c d : Nat} (h : d ≠ c) (f : ChanSt → ChanSt) : chanAt (chanMod e c f) d = chanAt e d :=
  getD_listMod_other _ h f {}

theorem length_chanMod (e : EavesSt) (c : Nat) (f : ChanSt → ChanSt) : (chanMod e c f).outs.length = e.outs.length := length_listMod ..

theorem length_map_enumFrom0 {α β : Type} (l : List α) (g : Nat × α → β) : ((enumFrom0 l).map g).length = l.length := by
  simp [enumFrom0]

/-- A change of every channel, by its number. -/
theorem chanAt_of_outs {e t : EavesSt} {g : Nat × ChanSt → ChanSt} (h : t.outs = (enumFrom0 e.outs).map g) {c : Nat}
    (hc : c < e.outs.length) : chanAt t c = g (c, chanAt e c) := by
  have hi : c < ((enumFrom0 e.outs).map g).length := (length_map_enumFrom0 ..).symm ▸ hc
  rw [chanAt, h, List.getD_eq_getElem _ _ hi, chanAt, List.getD_eq_getElem _ _ hc]
  simp [enumFrom0]

/-! ## Units (R257) -/

theorem foldl_chanMod_out {ls : List Nat} {i : Nat} (h : i ∉ ls) (f : ChanSt → ChanSt) (e : EavesSt) :
    chanAt (ls.foldl (fun e i => chanMod e i f) e) i = chanAt e i := by
  induction ls generalizing e with
  | nil => rfl
  | cons a ls ih =>
    obtain ⟨ha, hls⟩ := not_or.mp fun hi => h (List.mem_cons.mpr hi)
    rw [List.foldl_cons, ih hls, chanAt_chanMod_other _ ha]

theorem length_foldl_chanMod (ls : List Nat) (f : ChanSt → ChanSt) (e : EavesSt) :
    (ls.foldl (fun e i => chanMod e i f) e).outs.length = e.outs.length := by
  induction ls generalizing e with
  | nil => rfl
  | cons a ls ih => rw [List.foldl_cons, ih, length_chanMod]

theorem foldl_chanMod_in {ls : List Nat} (hn : ls.Nodup) {i : Nat} (h : i ∈ ls) (f : ChanSt → ChanSt) {e : EavesSt}
    (hi : i < e.outs.length) : chanAt (ls.foldl (fun e i => chanMod e i f) e) i = f (chanAt e i) := by
  induction ls generalizing e with
  | nil => exact absurd h List.not_mem_nil
  | cons a ls ih =>
    obtain ⟨ha, hls⟩ := List.nodup_cons.mp hn
    rw [List.foldl_cons]
    by_cases he : i = a
    · subst he
      rw [foldl_chanMod_out ha, chanAt_chanMod hi]
    · rw [ih hls ((List.mem_cons.mp h).resolve_left he) ((length_chanMod ..).symm ▸ hi), chanAt_chanMod_other _ he]

theorem unitAt_nodup (e : EavesSt) (c : Nat) : (unitAt e c).Nodup := by
  unfold unitAt
  split
  · exact List.nodup_range.map fun _ _ => Nat.add_left_cancel
  · exact List.nodup_singleton c

theorem unitMod_in {e : EavesSt} {c i : Nat} (h : i ∈ unitAt e c) (hi : i < e.outs.length) (f : ChanSt → ChanSt) :
    chanAt (unitMod e c f) i = f (chanAt e i) :=
  foldl_chanMod_in (unitAt_nodup e c) h f hi

theorem unitMod_out {e : EavesSt} {c i : Nat} (h : i ∉ unitAt e c) (f : ChanSt → ChanSt) : chanAt (unitMod e c f) i = chanAt e i :=
  foldl_chanMod_out h f e

theorem length_unitMod (e : EavesSt) (c : Nat) (f : ChanSt → ChanSt) : (unitMod e c f).outs.length = e.outs.length :=
  length_foldl_chanMod ..

/-- A channel that stands alone is its own unit. -/
theorem unitBase_single {o : EavesOut} (h : o.par = 0) (c : Nat) : unitBase o c = c := by simp [unitBase, h]

theorem unitAt_single {e : EavesSt} {cfg : EavesCfg} {c : Nat} (hc : e.cfg = some cfg) (h : (outEnt cfg c).par = 0) :
    unitAt e c = [c] := by
  simp [unitAt, hc, unitOf, unitLen, h, unitBase_single]

/-! ## Groups -/

theorem groupMod_same (e : EavesSt) (g : Plane) (f : GroupSt → GroupSt) : (groupMod e g f).groups.get g = f (e.groups.get g) :=
  Two.get_modify_same ..

theorem groupMod_other (e : EavesSt) {g h : Plane} (hn : h ≠ g) (f : GroupSt → GroupSt) :
    (groupMod e g f).groups.get h = e.groups.get h :=
  Two.get_modify_other _ _ _ _ hn

/-- A property of a group that the change keeps holds of every group that had it. -/
theorem groupMod_keeps {P : GroupSt → Prop} {f : GroupSt → GroupSt} (hf : ∀ x, P x → P (f x)) {e : EavesSt} {h : Plane}
    (hp : P (e.groups.get h)) (g : Plane) : P ((groupMod e g f).groups.get h) := by
  by_cases he : h = g
  · subst he
    rw [groupMod_same]
    exact hf _ hp
  · rwa [groupMod_other e he]

/-! ## After a change -/

/-- What `refreshOuts` makes of a channel. -/
def refreshedChan (e : EavesSt) (c : Nat) (x : ChanSt) : ChanSt :=
  { x with driven := netDriven e c, live := energised e c, since := if energised e c = x.live then x.since else 0 }

theorem chanAt_refreshOuts {e : EavesSt} {c : Nat} (h : c < e.outs.length) : chanAt (refreshOuts e) c = refreshedChan e c (chanAt e c) :=
  chanAt_of_outs (t := refreshOuts e) (g := fun x => refreshedChan e x.1 x.2) rfl h

theorem group_refreshOuts (e : EavesSt) (g : Plane) : (refreshOuts e).groups.get g =
    { e.groups.get g with driven := anyPath (masterCalled e g), closed := masterOn e g } := by
  cases g <;> rfl

theorem energised_latched {e : EavesSt} {c : Nat} (h : (chanAt e c).latch ≠ .none) : energised e c = false :=
  Bool.eq_false_iff.mpr fun he => h (energised_iff.mp he).1

theorem chanWaves_latched {e : EavesSt} {c : Nat} (h : (chanAt e c).latch ≠ .none) : chanWaves e c = 0 := by simp [chanWaves, h]

theorem chanWaves_pulsing {e : EavesSt} {c : Nat} (h : (chanAt e c).pulsing = true) : chanWaves e c = 0 := by simp [chanWaves, h]

theorem masterOn_cut {e : EavesSt} {g : Plane} (h : (e.groups.get g).cut = true) : masterOn e g = false := by simp [masterOn, h]

theorem masterWaves_cut {e : EavesSt} {g : Plane} (h : (e.groups.get g).cut = true) : masterWaves e g = 0 := by simp [masterWaves, h]

theorem energised_masterOff {e : EavesSt} {c : Nat} (h : masterOn e (outGroup c) = false) : energised e c = false := by
  simp [energised, h]

end Sys2Proof.Machine
end

section
/-! SUPPORT. The outputs protected: trips and retries of a unit, the cut of a group (R267 to R269). Their times count readings, which is
the model's choice (log entry 105). -/

namespace Sys2Proof.Machine

/-! ## Trips and retries (R267) -/

/-- A unit's waveforms are removed, its latch by the retries that are spent. -/
def trippedChan (spent : Bool) (x : ChanSt) : ChanSt :=
  { x with latch := if spent then .latched else .tripped, code := if spent then oLATCHED else oTRIPPED, pulsing := false }

/-- The retry of a unit. -/
def retriedChan (x : ChanSt) : ChanSt := { x with latch := .none, retries := x.retries + 1 }

/-- The unit of a channel tripped. -/
def unitTripped (e : EavesSt) (c : Nat) : EavesSt := unitMod e c (trippedChan (decide (3 ≤ (chanAt e c).retries)))

/-- The Eaves block after a trip of a channel. -/
def trippedAt (e : EavesSt) (c : Nat) : EavesSt := refreshOuts (unitTripped e c)

theorem trippedChan_withheld (spent : Bool) (x : ChanSt) : (trippedChan spent x).latch ≠ .none := by
  cases spent <;> exact ChanLatch.noConfusion

theorem exec_outputTrip {s : State} {c : Nat} (hs : s.mod.st ≠ .off) (h : overCurrent s.eaves c = true) :
    ∃ t, exec (.outputTrip c) s = .next t ∧ t.eaves = trippedAt s.eaves c :=
  ⟨_, congrArg Host.Outcome.next (if_pos (by simp [hs, h])), by simp only [raiseEaves_eaves]; rfl⟩

theorem exec_outputTrip_idle {s : State} {c : Nat} (h : overCurrent s.eaves c = false) : exec (.outputTrip c) s = .next s :=
  congrArg _ (if_neg (by simp [h]))

theorem trippedAt_in {e : EavesSt} {c i : Nat} (h : i ∈ unitAt e c) (hi : i < e.outs.length) :
    (chanAt (trippedAt e c) i).latch = (if 3 ≤ (chanAt e c).retries then .latched else .tripped) ∧
      chanWaves (trippedAt e c) i = 0 ∧ (chanAt (trippedAt e c) i).live = false := by
  have hunit : chanAt (unitTripped e c) i = trippedChan _ (chanAt e i) := unitMod_in h hi _
  have hlen : i < (unitTripped e c).outs.length := (length_unitMod ..).symm ▸ hi
  have hoff : energised (unitTripped e c) i = false := energised_latched (hunit ▸ trippedChan_withheld _ _)
  have hat : chanAt (trippedAt e c) i =
      refreshedChan (unitTripped e c) i (trippedChan (decide (3 ≤ (chanAt e c).retries)) (chanAt e i)) := by
    rw [trippedAt, chanAt_refreshOuts hlen, hunit]
  refine ⟨?_, chanWaves_latched ?_, ?_⟩
  all_goals rw [hat]
  · simp [refreshedChan, trippedChan]
  · exact trippedChan_withheld (decide _) (chanAt e i)
  · exact hoff

theorem exec_tripRetry {s : State} {c : Nat} (hs : s.mod.st ≠ .off) (hl : (chanAt s.eaves c).latch = .tripped)
    (hr : readingsPerS ≤ (chanAt s.eaves c).since) (hd : netDriven s.eaves c = true) :
    exec (.tripRetry c) s = .next { s with eaves := refreshOuts (unitMod s.eaves c retriedChan) } :=
  congrArg _ (if_pos (by simp [hs, hl, hr, hd]))

theorem exec_tripRetry_idle {s : State} {c : Nat}
    (h : (chanAt s.eaves c).latch ≠ .tripped ∨ (chanAt s.eaves c).since < readingsPerS) :
    exec (.tripRetry c) s = .next s := by
  refine congrArg Host.Outcome.next (if_neg fun hc => ?_)
  simp only [Bool.and_eq_true, beq_iff_eq, decide_eq_true_eq] at hc
  obtain ⟨⟨⟨-, hl⟩, -⟩, hr⟩ := hc
  exact h.elim (· hl) (Nat.not_lt.mpr hr)

theorem exec_retryCountReset {s : State} {c : Nat} (hs : s.mod.st ≠ .off) (he : energised s.eaves c = true)
    (hr : 60 * readingsPerS ≤ (chanAt s.eaves c).since) :
    exec (.retryCountReset c) s = .next { s with eaves := unitMod s.eaves c fun x => { x with retries := 0 } } :=
  congrArg _ (if_pos (by simp [hs, he, hr]))

theorem exec_retryCountReset_idle {s : State} {c : Nat} (h : (chanAt s.eaves c).since < 60 * readingsPerS) :
    exec (.retryCountReset c) s = .next s :=
  congrArg _ (if_neg (by simp [Nat.not_le.mpr h]))

theorem retriesReset_in {e : EavesSt} {c i : Nat} (h : i ∈ unitAt e c) :
    (chanAt (unitMod e c fun x => { x with retries := 0 }) i).retries = 0 := by
  by_cases hi : i < e.outs.length
  · rw [unitMod_in h hi]
  · rw [chanAt_out ((length_unitMod ..).symm ▸ hi)]

/-! ## The field supplies (R268, R269) -/

theorem exec_fieldSupplyLow {s : State} {g : Plane} (hs : s.mod.st ≠ .off) (hl : supplyAt s.eaves g < 192)
    (hw : (s.eaves.groups.get g).warn = false) : ∃ t, exec (.fieldSupplyLow g) s = .next t ∧
      t.eaves = groupMod s.eaves g fun x => { x with warn := true } :=
  ⟨_, congrArg Host.Outcome.next (if_pos (by simp [hs, hl, hw])), raiseEaves_eaves ..⟩

theorem exec_fieldSupplyLow_idle {s : State} {g : Plane} (h : 192 ≤ supplyAt s.eaves g) : exec (.fieldSupplyLow g) s = .next s :=
  congrArg _ (if_neg (by simp [Nat.not_lt.mpr h]))

theorem exec_fieldSupplyRecover {s : State} {g : Plane} (hs : s.mod.st ≠ .off) (h : 197 ≤ supplyAt s.eaves g) :
    exec (.fieldSupplyRecover g) s = .next { s with eaves := groupMod s.eaves g fun x => { x with warn := false } } :=
  congrArg _ (if_pos (by simp [hs, h]))

theorem exec_fieldSupplyRecover_idle {s : State} {g : Plane} (h : supplyAt s.eaves g < 197) :
    exec (.fieldSupplyRecover g) s = .next s :=
  congrArg _ (if_neg (by simp [Nat.not_le.mpr h]))

/-- The Eaves block once the hardware has opened a group master. -/
def cutAt (e : EavesSt) (g : Plane) : EavesSt := refreshOuts (groupMod e g fun x => { x with cut := true, pulsing := false })

theorem exec_fieldSupplyCut {s : State} {g : Plane} (hs : s.mod.st ≠ .off) (hl : 40 ≤ (s.eaves.groups.get g).low)
    (hc : (s.eaves.groups.get g).cut = false) : ∃ t, exec (.fieldSupplyCut g) s = .next t ∧ t.eaves = cutAt s.eaves g :=
  ⟨_, congrArg Host.Outcome.next (if_pos (by simp [hs, hl, hc])), by simp only [raiseEaves_eaves]; rfl⟩

theorem exec_fieldSupplyCut_idle {s : State} {g : Plane} (h : (s.eaves.groups.get g).low < 40) :
    exec (.fieldSupplyCut g) s = .next s :=
  congrArg _ (if_neg (by simp [Nat.not_le.mpr h]))

theorem cutAt_cut (e : EavesSt) (g : Plane) : ((cutAt e g).groups.get g).cut = true := by
  rw [cutAt, group_refreshOuts, groupMod_same]

theorem cutAt_closed (e : EavesSt) (g : Plane) : ((cutAt e g).groups.get g).closed = false := by
  rw [cutAt, group_refreshOuts]
  exact masterOn_cut (by rw [groupMod_same])

/-- A group whose CUT latch is let go. -/
def uncut (x : GroupSt) : GroupSt := { x with cut := false }

theorem exec_cutClear {s : State} {g : Plane} (hs : s.mod.st ≠ .off) (h : readingsPerS ≤ (s.eaves.groups.get g).high) :
    exec (.cutClear g) s = .next { s with eaves := refreshOuts (groupMod s.eaves g uncut) } :=
  congrArg _ (if_pos (by simp [hs, h]))

theorem exec_cutClear_idle {s : State} {g : Plane} (h : (s.eaves.groups.get g).high < readingsPerS) : exec (.cutClear g) s = .next s :=
  congrArg _ (if_neg (by simp [Nat.not_le.mpr h]))

/-- The lanes' call on a group master asks nothing of its latches. -/
theorem masterCalled_groupMod {e : EavesSt} {g : Plane} {f : GroupSt → GroupSt} (h : ∀ x, (f x).shorted = x.shorted) :
    masterCalled (groupMod e g f) g = masterCalled e g := by
  rw [masterCalled, masterCalled, groupMod_same, h]
  rfl

theorem cutCleared_closed (e : EavesSt) (g : Plane) :
    ((refreshOuts (groupMod e g uncut)).groups.get g).closed = true ↔
      (e.groups.get g).latched = false ∧ anyPath (masterCalled e g) = true := by
  rw [group_refreshOuts]
  refine masterOn_iff.trans ?_
  rw [groupMod_same, masterCalled_groupMod (f := uncut) fun _ => rfl]
  simp [uncut]

/-- Settles O52: a trip and a retry by the unit's channels, the cut and its end by the group master. -/
theorem outputsProtected : Obligations.OutputsProtected := by
  unfold Obligations.OutputsProtected
  refine fun s c g hs => ⟨fun _ ho => ?_, exec_outputTrip_idle, fun hl hr hd => ?_, exec_tripRetry_idle, exec_retryCountReset_idle,
    fun he hr => ?_, fun hl hw => ?_, exec_fieldSupplyLow_idle, exec_fieldSupplyRecover_idle, fun h => ?_, exec_fieldSupplyCut_idle,
    fun hl hc => ?_, exec_cutClear_idle, fun h => ?_⟩
  · obtain ⟨t, hx, he⟩ := exec_outputTrip hs ho
    refine ⟨t, hx, fun i hi hlen => ?_, exec_frame hx⟩
    rw [he]
    exact trippedAt_in hi hlen
  · have hx := exec_tripRetry hs hl hr hd
    refine ⟨_, hx, fun i hi hlen => ?_, exec_frame hx⟩
    rw [chanAt_refreshOuts ((length_unitMod ..).symm ▸ hlen), unitMod_in hi hlen]
    exact ⟨rfl, rfl⟩
  · have hx := exec_retryCountReset hs he hr
    exact ⟨_, hx, fun i => retriesReset_in, fun i hi => unitMod_out hi _, exec_frame hx⟩
  · obtain ⟨t, hx, he⟩ := exec_fieldSupplyLow hs hl hw
    exact ⟨t, hx, he, exec_frame hx⟩
  · have hx := exec_fieldSupplyRecover hs h
    exact ⟨_, hx, rfl, exec_frame hx⟩
  · obtain ⟨t, hx, he⟩ := exec_fieldSupplyCut hs hl hc
    have hcut := cutAt_cut s.eaves g
    refine ⟨t, hx, ?_, ?_, ?_, fun i hi => ?_, exec_frame hx⟩
    all_goals rw [he]
    · exact hcut
    · exact masterWaves_cut hcut
    · exact cutAt_closed s.eaves g
    · exact energised_masterOff (masterOn_cut (hi ▸ hcut))
  · have hx := exec_cutClear hs h
    refine ⟨_, hx, ?_, cutCleared_closed s.eaves g, exec_frame hx⟩
    rw [group_refreshOuts, groupMod_same]
    rfl

end Sys2Proof.Machine
end

section
/-! SUPPORT. The outputs tested and judged: what a reading, the end of a pulse and the cross window leave of every channel and group, and
what they find (R254, R258 to R266). -/

namespace Sys2Proof.Machine

/-! ## What stays between two states of the Eaves block -/

/-- Configuration, receivers, chains and supplies stand, and every channel stands in a relation to what it was. -/
structure Between (R : ChanSt → ChanSt → Prop) (e t : EavesSt) : Prop where
  cfg    : t.cfg = e.cfg
  rcv    : t.rcv = e.rcv
  chains : t.chains = e.chains
  length : t.outs.length = e.outs.length
  supply : ∀ g, supplyAt t g = supplyAt e g
  chan   : ∀ c, R (chanAt e c) (chanAt t c)

/-- A judgement leaves the readings and the element faults of a channel, and lets no latch go (R254, R262, R264). -/
structure Findings (x y : ChanSt) : Prop where
  volt    : y.volt = x.volt
  curr    : y.curr = x.curr
  shorted : y.shorted = x.shorted
  opened  : y.opened = x.opened
  latch   : x.latch ≠ .none → y.latch ≠ .none

/-- Every element of the one set stands in the other. -/
def grows (x y : BitVec 12) : Prop := ∀ i, x.getLsbD i = true → y.getLsbD i = true

/-- The element senses add to the element faults of a channel (R254). -/
structure Sensed (x y : ChanSt) : Prop where
  volt    : y.volt = x.volt
  curr    : y.curr = x.curr
  shorted : grows x.shorted y.shorted
  opened  : grows x.opened y.opened
  latch   : x.latch ≠ .none → y.latch ≠ .none

theorem Findings.refl (x : ChanSt) : Findings x x := ⟨rfl, rfl, rfl, rfl, id⟩

theorem Findings.trans {x y z : ChanSt} (h : Findings x y) (g : Findings y z) : Findings x z :=
  ⟨g.volt.trans h.volt, g.curr.trans h.curr, g.shorted.trans h.shorted, g.opened.trans h.opened, fun a => g.latch (h.latch a)⟩

theorem grows_or (x y : BitVec 12) : grows x (x ||| y) := fun i h => by rw [BitVec.getLsbD_or, h, Bool.true_or]

/-- A set that has grown holds all it held. -/
theorem grows.and_not {x y : BitVec 12} (h : grows x y) : x &&& ~~~y = 0 := by
  refine BitVec.eq_of_getLsbD_eq fun i hi => ?_
  have hbit := h i
  cases hx : x.getLsbD i <;> simp_all

theorem Findings.sensed {x y : ChanSt} (h : Findings x y) : Sensed x y :=
  ⟨h.volt, h.curr, fun _ a => h.shorted.symm ▸ a, fun _ a => h.opened.symm ▸ a, h.latch⟩

theorem Sensed.trans {x y z : ChanSt} (h : Sensed x y) (g : Sensed y z) : Sensed x z :=
  ⟨g.volt.trans h.volt, g.curr.trans h.curr, fun i a => g.shorted i (h.shorted i a), fun i a => g.opened i (h.opened i a),
    fun a => g.latch (h.latch a)⟩

theorem Between.mono {R S : ChanSt → ChanSt → Prop} {e t : EavesSt} (h : Between R e t)
    (hs : ∀ {x y}, R x y → S x y) : Between S e t :=
  ⟨h.cfg, h.rcv, h.chains, h.length, h.supply, fun c => hs (h.chan c)⟩

theorem Between.refl {R : ChanSt → ChanSt → Prop} (hr : ∀ x, R x x) (e : EavesSt) : Between R e e :=
  ⟨rfl, rfl, rfl, rfl, fun _ => rfl, fun _ => hr _⟩

theorem Between.trans {R : ChanSt → ChanSt → Prop} (ht : ∀ {x y z}, R x y → R y z → R x z) {e u t : EavesSt} (h : Between R e u)
    (g : Between R u t) : Between R e t :=
  ⟨g.cfg.trans h.cfg, g.rcv.trans h.rcv, g.chains.trans h.chains, g.length.trans h.length, fun p => (g.supply p).trans (h.supply p),
    fun c => ht (h.chan c) (g.chan c)⟩

/-- A change of every channel by its number. -/
theorem Between.of_outs {R : ChanSt → ChanSt → Prop} (hr : ∀ x, R x x) {g : Nat × ChanSt → ChanSt} (hg : ∀ x, R x.2 (g x))
    (e : EavesSt) : Between R e { e with outs := (enumFrom0 e.outs).map g } := by
  have hlen := length_map_enumFrom0 e.outs g
  refine ⟨rfl, rfl, rfl, hlen, fun _ => rfl, fun c => ?_⟩
  by_cases hc : c < e.outs.length
  · rw [chanAt_of_outs (t := { e with outs := (enumFrom0 e.outs).map g }) rfl hc]
    exact hg (c, _)
  · rw [chanAt_out hc, chanAt_out (hlen.symm ▸ hc)]
    exact hr _

theorem Between.of_chanMod {R : ChanSt → ChanSt → Prop} (hr : ∀ x, R x x) {e : EavesSt} {c : Nat} {f : ChanSt → ChanSt}
    (hf : R (chanAt e c) (f (chanAt e c))) : Between R e (chanMod e c f) := by
  refine ⟨rfl, rfl, rfl, length_chanMod .., fun _ => rfl, fun d => ?_⟩
  by_cases hd : d = c
  · subst hd
    by_cases hc : d < e.outs.length
    · rw [chanAt_chanMod hc]
      exact hf
    · rw [chanAt_out hc, chanAt_out ((length_chanMod ..).symm ▸ hc)]
      exact hr _
  · rw [chanAt_chanMod_other e hd]
    exact hr _

theorem Between.of_groupMod {R : ChanSt → ChanSt → Prop} (hr : ∀ x, R x x) {f : GroupSt → GroupSt}
    (hf : ∀ x, (f x).supply = x.supply) (e : EavesSt) (g : Plane) : Between R e (groupMod e g f) :=
  ⟨rfl, rfl, rfl, rfl, fun p => groupMod_keeps (P := fun x => x.supply = supplyAt e p) (fun x hx => (hf x).trans hx) rfl g,
    fun _ => hr _⟩

theorem Between.of_unitMod {f : ChanSt → ChanSt} (hf : ∀ x, Findings x (f x)) (e : EavesSt) (c : Nat) :
    Between Findings e (unitMod e c f) :=
  List.foldlRecOn (motive := Between Findings e) _ _ (.refl .refl e) fun _ hb _ _ =>
    hb.trans .trans (.of_chanMod .refl (hf _))

theorem Between.of_refreshOuts (e : EavesSt) : Between Findings e (refreshOuts e) :=
  have houts := Between.of_outs .refl (g := fun x => refreshedChan e x.1 x.2) (fun _ => ⟨rfl, rfl, rfl, rfl, id⟩) e
  ⟨rfl, rfl, rfl, houts.length, fun g => by rw [supplyAt, group_refreshOuts]; rfl, houts.chan⟩

theorem Between.foldl {α : Type} {R : ChanSt → ChanSt → Prop} (hr : ∀ x, R x x) (ht : ∀ {x y z}, R x y → R y z → R x z)
    {f : State → α → State} (h : ∀ s a, Between R s.eaves (f s a).eaves) (l : List α) (s : State) :
    Between R s.eaves (l.foldl f s).eaves :=
  List.foldlRecOn (motive := fun t : State => Between R s.eaves t.eaves) l f (.refl hr _) fun _ hb _ _ =>
    Between.trans (R := R) ht hb (h _ _)

/-! ## Judgements (R263 to R266) -/

theorem foreignChan_between (s : State) (c : Nat) (off : Bool) : Between Findings s.eaves (foreignChan s c off).eaves := by
  simp only [foreignChan, raiseEaves_eaves]
  refine (Between.of_unitMod (fun _ => ?_) s.eaves c).trans .trans (.of_chanMod .refl ?_)
  · exact ⟨rfl, rfl, rfl, rfl, fun _ => ChanLatch.noConfusion⟩
  · exact ⟨rfl, rfl, rfl, rfl, id⟩

theorem crossChans_between (s : State) (c d : Nat) : Between Findings s.eaves (crossChans s c d).eaves := by
  simp only [crossChans, raiseEaves_eaves]
  refine (Between.of_unitMod (fun _ => ?_) s.eaves c).trans .trans (.of_unitMod (fun _ => ?_) _ d)
  all_goals exact ⟨rfl, rfl, rfl, rfl, fun _ => ChanLatch.noConfusion⟩

theorem openMaster_between (s : State) (g : Plane) : Between Findings s.eaves (openMaster s g).eaves :=
  .of_groupMod (f := fun x => { x with latched := true }) Findings.refl (fun _ => rfl) s.eaves g

/-- The code that a judgement shows. -/
def codeShown (s : State) (c n : Nat) : State := { s with eaves := chanMod s.eaves c fun x => { x with code := n } }

/-- A judgement judges nothing, shows a code, or finds the channel FOREIGN. -/
theorem judgeChan_cases (s : State) (c : Nat) :
    judgeChan s c = s ∨ (∃ n, judgeChan s c = codeShown s c n) ∨ judgeChan s c = foreignChan s c true := by
  unfold judgeChan
  split
  · exact .inl rfl
  · dsimp only
    split
    · exact .inr (.inl ⟨_, rfl⟩)
    split
    · exact .inr (.inl ⟨_, rfl⟩)
    split
    · exact .inl rfl
    split
    · exact .inr (.inl ⟨_, rfl⟩)
    · split
      · exact .inl rfl
      · exact .inr (.inr rfl)
    · split
      · exact .inl rfl
      · split
        · exact .inr (.inl ⟨_, rfl⟩)
        · exact .inr (.inr rfl)

theorem judgeChan_between (s : State) (c : Nat) : Between Findings s.eaves (judgeChan s c).eaves := by
  obtain h | ⟨n, h⟩ | h := judgeChan_cases s c
  all_goals rw [h]
  · exact .refl .refl _
  · exact .of_chanMod .refl ⟨rfl, rfl, rfl, rfl, id⟩
  · exact foreignChan_between s c true

theorem shareCodes_between (s : State) : Between Findings s.eaves (shareCodes s).eaves := by
  unfold shareCodes
  split
  · exact .refl .refl _
  · refine .of_outs .refl (fun x => ?_) _
    dsimp only
    split
    · exact .refl _
    · exact ⟨rfl, rfl, rfl, rfl, id⟩

theorem explainOff_between (before : EavesSt) (p : List Nat) (s : State) : Between Findings s.eaves (explainOff before p s).eaves := by
  unfold explainOff
  split
  · exact .refl .refl _
  · exact .foldl .refl .trans (fun s c => crossChans_between s c _) _ _

theorem onCase_between (p rose : List Nat) (s : State) (c : Nat) : Between Findings s.eaves (onCase p rose s c).eaves := by
  unfold onCase
  split
  · exact crossChans_between ..
  · exact (foreignChan_between ..).trans .trans (openMaster_between ..)

/-! ## The element senses (R254) -/

theorem elemAlarms_eaves (s : State) (code num : Nat) (old new : BitVec 12) : (elemAlarms s code num old new).eaves = s.eaves :=
  (elemAlarms_kept ..).frame.rest .eaves (by decide)

theorem sensed_refl (x : ChanSt) : Sensed x x := (Findings.refl x).sensed

theorem senseChan_between (m : EavesMeas) (s : State) (c : Nat) : Between Sensed s.eaves (senseChan m s c).eaves := by
  simp only [senseChan, elemAlarms_eaves]
  refine .of_chanMod sensed_refl ?_
  exact ⟨rfl, rfl, grows_or _ _, grows_or _ _, id⟩

theorem senseMaster_between (m : EavesMeas) (s : State) (g : Plane) : Between Sensed s.eaves (senseMaster m s g).eaves := by
  simp only [senseMaster, elemAlarms_eaves]
  refine .of_groupMod sensed_refl (fun _ => ?_) _ _
  rfl

/-! ## A reading (R254, R262, R263) -/

theorem exec_readbackReading {s : State} (hs : s.mod.st ≠ .off) (m : EavesMeas) :
    exec (.readbackReading m) s = .next (readingAt m s) :=
  congrArg _ (if_pos (by simp [hs]))

/-- The state once a reading is stored and the element senses are taken. -/
def sensedAt (m : EavesMeas) (s : State) : State :=
  [Plane.A, Plane.B].foldl (senseMaster m) ((List.range 32).foldl (senseChan m) { s with eaves := storeMeas m s.eaves })

/-- The state once the reading is judged too. -/
def judgedAt (m : EavesMeas) (s : State) : State :=
  shareCodes ((List.range 32).foldl judgeChan (explainOff s.eaves (pulsingChans s.eaves) (sensedAt m s)))

theorem readingAt_eaves (m : EavesMeas) (s : State) : (readingAt m s).eaves = refreshOuts (judgedAt m s).eaves := by
  rw [readingAt, judgedAt, sensedAt]

theorem sensedAt_between (m : EavesMeas) (s : State) : Between Sensed (storeMeas m s.eaves) (sensedAt m s).eaves :=
  (Between.foldl sensed_refl .trans (senseChan_between m) _ { s with eaves := storeMeas m s.eaves }).trans .trans
    (.foldl sensed_refl .trans (senseMaster_between m) _ _)

theorem judgedAt_between (m : EavesMeas) (s : State) : Between Findings (sensedAt m s).eaves (judgedAt m s).eaves :=
  ((explainOff_between s.eaves (pulsingChans s.eaves) _).trans .trans (.foldl .refl .trans judgeChan_between _ _)).trans .trans
    (shareCodes_between _)

/-- From the stored reading on, the element faults only grow, and no latch is let go. -/
theorem readingAt_between (m : EavesMeas) (s : State) : Between Sensed (storeMeas m s.eaves) (readingAt m s).eaves := by
  rw [readingAt_eaves]
  exact (sensedAt_between m s).trans .trans (((judgedAt_between m s).trans .trans (.of_refreshOuts _)).mono Findings.sensed)

theorem supplyAt_storeMeas (m : EavesMeas) (e : EavesSt) (g : Plane) : supplyAt (storeMeas m e) g = m.supply.get g := by
  cases g <;> rfl

theorem chanAt_storeMeas (m : EavesMeas) {e : EavesSt} {c : Nat} (h : c < e.outs.length) : chanAt (storeMeas m e) c =
    { chanAt e c with volt := m.volt.getD c 0, curr := m.curr.getD c 0, since := (chanAt e c).since + 1 } :=
  chanAt_of_outs (t := storeMeas m e)
    (g := fun x => { x.2 with volt := m.volt.getD x.1 0, curr := m.curr.getD x.1 0, since := x.2.since + 1 }) rfl h

/-! ## The cross window (R263) -/

/-- No pulse has explained the failure of a channel: its group master opens, and the failure is done with. -/
def unexplained (s : State) (c : Nat) : State :=
  openMaster { s with eaves := chanMod s.eaves c fun x => { x with offCase := none } } (outGroup c)

/-- The channels whose failure is of an interval that is past. -/
def offCasesDue (e : EavesSt) : List Nat :=
  (List.range 32).filter fun c => match (chanAt e c).offCase with | some n => n < e.interval | none => false

/-- The Eaves block at the end of the cross window. -/
def crossWindowAt (s : State) : EavesSt := refreshOuts ((offCasesDue s.eaves).foldl unexplained s).eaves

theorem exec_crossWindowEnd {s : State} (hs : s.mod.st ≠ .off) (hj : s.eaves.j = 3) :
    ∃ t, exec .crossWindowEnd s = .next t ∧ t.eaves = crossWindowAt s :=
  ⟨_, congrArg Host.Outcome.next (if_pos (by simp [hs, hj])), rfl⟩

theorem mem_offCasesDue {e : EavesSt} {c n : Nat} (hc : c < 32) (ho : (chanAt e c).offCase = some n) (hn : n < e.interval) :
    c ∈ offCasesDue e :=
  List.mem_filter.mpr ⟨List.mem_range.mpr hc, by rw [ho]; exact decide_eq_true hn⟩

theorem unexplained_between (s : State) (c : Nat) : Between Findings s.eaves (unexplained s c).eaves :=
  (Between.of_chanMod (f := fun x => { x with offCase := none }) .refl ⟨rfl, rfl, rfl, rfl, id⟩).trans .trans
    (openMaster_between { s with eaves := chanMod s.eaves c fun x => { x with offCase := none } } _)

/-- The failure of a channel is done with: its group master is open, and the channel exists. -/
def doneWith (c : Nat) (s : State) : Prop :=
  c < s.eaves.outs.length ∧ (s.eaves.groups.get (outGroup c)).latched = true ∧ (chanAt s.eaves c).offCase = none

theorem unexplained_self {s : State} {c : Nat} (h : c < s.eaves.outs.length) : doneWith c (unexplained s c) := by
  refine ⟨(unexplained_between s c).length.symm ▸ h, ?_, ?_⟩
  · exact congrArg GroupSt.latched (groupMod_same ..)
  · exact congrArg ChanSt.offCase (chanAt_chanMod h _)

theorem unexplained_keeps {s : State} {c : Nat} (h : doneWith c s) (d : Nat) : doneWith c (unexplained s d) := by
  obtain ⟨hlen, hlatched, hoff⟩ := h
  refine ⟨(unexplained_between s d).length.symm ▸ hlen,
    groupMod_keeps (P := fun x => x.latched = true) (fun _ _ => rfl) hlatched _, ?_⟩
  by_cases hd : c = d
  · subst hd
    exact congrArg ChanSt.offCase (chanAt_chanMod hlen _)
  · exact (congrArg ChanSt.offCase (chanAt_chanMod_other s.eaves hd _)).trans hoff

theorem foldl_unexplained {ds : List Nat} {c : Nat} (s : State) (hc : c < s.eaves.outs.length) (h : c ∈ ds ∨ doneWith c s) :
    doneWith c (ds.foldl unexplained s) := by
  induction ds generalizing s with
  | nil => exact h.resolve_left List.not_mem_nil
  | cons d ds ih =>
    have hlen : c < (unexplained s d).eaves.outs.length := (unexplained_between s d).length.symm ▸ hc
    refine ih _ hlen ?_
    rcases h with h | h
    · rcases List.mem_cons.mp h with rfl | h
      · exact .inr (unexplained_self hc)
      · exact .inl h
    · exact .inr (unexplained_keeps h d)

theorem crossWindowAt_between (s : State) : Between Findings s.eaves (crossWindowAt s) :=
  (Between.foldl .refl .trans unexplained_between _ s).trans .trans (.of_refreshOuts _)

theorem crossWindowAt_due {s : State} {c n : Nat} (hc : c < 32) (hlen : c < s.eaves.outs.length)
    (ho : (chanAt s.eaves c).offCase = some n) (hn : n < s.eaves.interval) :
    ((crossWindowAt s).groups.get (outGroup c)).latched = true ∧ (chanAt (crossWindowAt s) c).offCase = none := by
  obtain ⟨hlen', hlatched, hoff⟩ := foldl_unexplained s hlen (.inl (mem_offCasesDue hc ho hn))
  rw [crossWindowAt, group_refreshOuts, chanAt_refreshOuts hlen']
  exact ⟨hlatched, hoff⟩

/-! ## Test pulses (R258 to R261) -/

/-- The waveform of a channel is off for a pulse. -/
def pulsedChan (x : ChanSt) : ChanSt := { x with pulsing := true, abandoned := 0 }

/-- An energised channel whose drive has just changed apart is pulsed (R259, R260). -/
theorem chanSlot_pulse {e : EavesSt} {c : Nat} (he : energised e c = true) (hn : netDriven e c = true)
    (hc : (chanAt e c).changed = false) : chanSlot e c = .pulse := by
  simp [chanSlot, demandWins, hc, he, hn]

theorem unitMod_single {e : EavesSt} {cfg : EavesCfg} {c : Nat} (hc : e.cfg = some cfg) (h : (outEnt cfg c).par = 0)
    (f : ChanSt → ChanSt) : unitMod e c f = chanMod e c f := by
  rw [unitMod, unitAt_single hc h]
  rfl

theorem pulseChan_single {e : EavesSt} {cfg : EavesCfg} {c : Nat} (hc : e.cfg = some cfg) (hp : (outEnt cfg c).par = 0)
    (hu : (outEnt cfg c).used = true) (hs : chanSlot e c = .pulse) : pulseChan e cfg c = chanMod e c pulsedChan := by
  rw [pulseChan, if_neg (by simp [hu, unitBase_single hp]), hs]
  exact unitMod_single hc hp _

theorem exec_testPulseStart {s : State} {cfg : EavesCfg} {c : Nat} (hs : s.mod.st ≠ .off) (hc : s.eaves.cfg = some cfg)
    (hj : s.eaves.j = c / 8) : exec (.testPulseStart (.chan c)) s = .next { s with eaves := pulseChan s.eaves cfg c } := by
  have hon : (s.mod.st != .off) = true := by simp [hs]
  refine congrArg Host.Outcome.next ?_
  rw [hon, hc]
  exact if_pos hj

/-- The pulse of a channel is over. -/
def pulseOver (x : ChanSt) : ChanSt := { x with pulsing := false }

theorem exec_testPulseEnd_chan {s : State} {c : Nat} (h : (chanAt s.eaves c).pulsing = true) (m : EavesMeas) (rose : List Nat) :
    exec (.testPulseEnd (.chan c) m rose) s = .next (endChan c m rose s) :=
  congrArg _ (if_pos h)

theorem exec_testPulseEnd_master {s : State} {g : Plane} (h : (s.eaves.groups.get g).pulsing = true) (m : EavesMeas) (rose : List Nat) :
    exec (.testPulseEnd (.master g) m rose) s = .next (endMaster g m rose s) :=
  congrArg _ (if_pos h)

/-! ## The end of a channel's pulse (R259, R262) -/

/-- The state once the elements of a pulsed unit are sensed. -/
def pulseSensed (c : Nat) (m : EavesMeas) (s : State) : State :=
  (unitAt s.eaves c).foldl (pulseElems m) { s with eaves := pulseMeas m s.eaves }

/-- The state once off-case failures are attributed too. -/
def pulseExplained (c : Nat) (m : EavesMeas) (s : State) : State := explainOff s.eaves (unitAt s.eaves c) (pulseSensed c m s)

/-- The state once the pulse is judged too. -/
def pulseJudged (c : Nat) (m : EavesMeas) (rose : List Nat) (s : State) : State :=
  shareCodes (((unitAt s.eaves c).filter fun i => 50 ≤ (chanAt (pulseExplained c m s).eaves i).volt).foldl
    (onCase (unitAt s.eaves c) rose) (pulseExplained c m s))

theorem endChan_eaves (c : Nat) (m : EavesMeas) (rose : List Nat) (s : State) :
    (endChan c m rose s).eaves = refreshOuts (unitMod (pulseJudged c m rose s).eaves c pulseOver) := by
  rw [endChan, pulseJudged, pulseExplained, pulseSensed]
  rfl

theorem pulseJudged_between (c : Nat) (m : EavesMeas) (rose : List Nat) (s : State) :
    Between Findings (pulseSensed c m s).eaves (pulseJudged c m rose s).eaves :=
  ((explainOff_between s.eaves (unitAt s.eaves c) _).trans .trans (.foldl .refl .trans (onCase_between _ rose) _ _)).trans .trans
    (shareCodes_between _)

/-- Elements that still conduct are SHORTED (R259). -/
def pulseShorted (m : EavesMeas) (e : EavesSt) (c : Nat) : EavesSt :=
  chanMod e c fun x => { x with shorted := (chanAt e c).shorted ||| m.elems.getD c 0 }

theorem pulseSensed_single {s : State} {c : Nat} (h : unitAt s.eaves c = [c]) (m : EavesMeas) :
    (pulseSensed c m s).eaves = pulseShorted m (pulseMeas m s.eaves) c := by
  rw [pulseSensed, h, List.foldl_cons, List.foldl_nil]
  simp only [pulseElems, elemAlarms_eaves]
  rfl

theorem chanAt_pulseMeas (m : EavesMeas) {e : EavesSt} {c : Nat} (h : c < e.outs.length) :
    chanAt (pulseMeas m e) c = { chanAt e c with volt := m.volt.getD c 0, curr := m.curr.getD c 0 } :=
  chanAt_of_outs (t := pulseMeas m e) (g := fun x => { x.2 with volt := m.volt.getD x.1 0, curr := m.curr.getD x.1 0 }) rfl h

theorem chanAt_pulseShorted (m : EavesMeas) {e : EavesSt} {c : Nat} (h : c < e.outs.length) :
    chanAt (pulseShorted m (pulseMeas m e) c) c = { chanAt e c with
      volt := m.volt.getD c 0, curr := m.curr.getD c 0, shorted := (chanAt e c).shorted ||| m.elems.getD c 0 } := by
  have hlen : c < (pulseMeas m e).outs.length := (length_map_enumFrom0 ..).symm ▸ h
  rw [pulseShorted, chanAt_chanMod hlen, chanAt_pulseMeas m h]

theorem endChan_single {s : State} {cfg : EavesCfg} {c : Nat} (hc : s.eaves.cfg = some cfg) (hlen : c < s.eaves.outs.length)
    (hp : (outEnt cfg c).par = 0) (m : EavesMeas) (rose : List Nat) :
    (chanAt (endChan c m rose s).eaves c).pulsing = false ∧
      (chanAt (endChan c m rose s).eaves c).shorted = (chanAt s.eaves c).shorted ||| m.elems.getD c 0 ∧
      (chanAt (endChan c m rose s).eaves c).volt = m.volt.getD c 0 ∧ (endChan c m rose s).eaves.rcv = s.eaves.rcv := by
  have hunit := pulseSensed_single (unitAt_single hc hp) m
  have hjudged := pulseJudged_between c m rose s
  rw [hunit] at hjudged
  have hcfg : (pulseJudged c m rose s).eaves.cfg = some cfg := hjudged.cfg.trans hc
  have hlenJ : c < (pulseJudged c m rose s).eaves.outs.length := by
    rw [hjudged.length, pulseShorted, length_chanMod]
    exact (length_map_enumFrom0 ..).symm ▸ hlen
  have hfound := hjudged.chan c
  rw [chanAt_pulseShorted m hlen] at hfound
  rw [endChan_eaves, unitMod_single hcfg hp, chanAt_refreshOuts ((length_chanMod ..).symm ▸ hlenJ), chanAt_chanMod hlenJ]
  exact ⟨rfl, hfound.shorted, hfound.volt, hjudged.rcv⟩

/-! ## The end of a group master's pulse (R261) -/

/-- The state once the elements of a pulsed master are sensed. -/
def masterSensed (g : Plane) (m : EavesMeas) (s : State) : State := pulseElemsG m { s with eaves := pulseMeas m s.eaves } g

/-- The state once the pulse of a master is judged too. -/
def masterJudged (g : Plane) (m : EavesMeas) (rose : List Nat) (s : State) : State :=
  shareCodes ((((groupChans g).filter (energised s.eaves)).filter fun i => 50 ≤ (chanAt (masterSensed g m s).eaves i).volt).foldl
    (onCase ((groupChans g).filter (energised s.eaves)) rose) (masterSensed g m s))

theorem endMaster_eaves (g : Plane) (m : EavesMeas) (rose : List Nat) (s : State) : (endMaster g m rose s).eaves =
    refreshOuts (groupMod (masterJudged g m rose s).eaves g fun x => { x with pulsing := false }) := by
  rw [endMaster, masterJudged, masterSensed]

theorem masterJudged_between (g : Plane) (m : EavesMeas) (rose : List Nat) (s : State) :
    Between Findings (masterSensed g m s).eaves (masterJudged g m rose s).eaves :=
  (Between.foldl .refl .trans (onCase_between _ rose) _ _).trans .trans (shareCodes_between _)

theorem masterSensed_rcv (g : Plane) (m : EavesMeas) (s : State) : (masterSensed g m s).eaves.rcv = s.eaves.rcv := by
  simp only [masterSensed, pulseElemsG, elemAlarms_eaves]
  rfl

theorem endMaster_over (g : Plane) (m : EavesMeas) (rose : List Nat) (s : State) :
    ((endMaster g m rose s).eaves.groups.get g).pulsing = false ∧ (endMaster g m rose s).eaves.rcv = s.eaves.rcv := by
  rw [endMaster_eaves, group_refreshOuts, groupMod_same]
  exact ⟨rfl, (masterJudged_between g m rose s).rcv.trans (masterSensed_rcv g m s)⟩

/-- Settles O51: a reading by what its judgement leaves of the stored one, the cross window by the failures due, a pulse by the slot
that it takes and by what its end finds. -/
theorem outputsTestedAndJudged : Obligations.OutputsTestedAndJudged := by
  unfold Obligations.OutputsTestedAndJudged
  refine ⟨fun s hs => ⟨fun m => ?_, fun hj => ?_⟩, fun s cfg c hs hc hlen hp => ⟨fun hu hj he hn hch => ?_, fun m rose hpul => ?_,
    fun g m rose hpul => ?_⟩⟩
  · have hx := exec_readbackReading hs m
    have hb := readingAt_between m s
    refine ⟨_, hx, hb.length.trans (length_map_enumFrom0 ..), fun g => (hb.supply g).trans (supplyAt_storeMeas m s.eaves g),
      fun c hc => ?_, hb.cfg, hb.rcv, hb.chains, exec_frame hx⟩
    have hchan := hb.chan c
    rw [chanAt_storeMeas m hc] at hchan
    exact ⟨hchan.volt, hchan.curr, hchan.shorted.and_not, hchan.opened.and_not, hchan.latch⟩
  · obtain ⟨t, hx, he⟩ := exec_crossWindowEnd hs hj
    have hb := crossWindowAt_between s
    rw [← he] at hb
    refine ⟨t, hx, fun c n h32 hlen ho hn => ?_, hb.rcv, hb.chains, exec_frame hx⟩
    rw [he]
    exact crossWindowAt_due h32 hlen ho hn
  · have hx := exec_testPulseStart hs hc hj
    have hpulse := pulseChan_single hc hp hu (chanSlot_pulse he hn hch)
    have hat := chanAt_chanMod hlen pulsedChan
    refine ⟨_, hx, ?_, fun d hd => ?_, ?_, exec_frame hx⟩
    all_goals
      dsimp only
      rw [hpulse]
    · exact hat
    · exact chanAt_chanMod_other _ hd _
    · exact chanWaves_pulsing (by rw [hat]; rfl)
  · have hx := exec_testPulseEnd_chan hpul m rose
    obtain ⟨hover, hshorted, hvolt, hrcv⟩ := endChan_single hc hlen hp m rose
    exact ⟨_, hx, hover, hshorted, hvolt, hrcv, exec_frame hx⟩
  · have hx := exec_testPulseEnd_master hpul m rose
    obtain ⟨hover, hrcv⟩ := endMaster_over g m rose s
    exact ⟨_, hx, hover, hrcv, exec_frame hx⟩

end Sys2Proof.Machine
end

section
/-! SUPPORT. The host port opened, closed and set up (R281, R285, R289, R292, R446 to R460): what a write of a ring's register leaves to
be read, and the write-back words that the rings owe. -/

namespace Sys2Proof.Machine

/-! ## One bit of a set of rings or vectors -/

theorem getLsbD_clearBit8 (b : BitVec 8) {q r : Nat} (hr : r < 8) : (clearBit8 b q).getLsbD r = (b.getLsbD r && decide (r ≠ q)) := by
  have hbit : (BitVec.ofNat 8 (2 ^ q)).getLsbD r = decide (q = r) := by
    rw [BitVec.getLsbD_ofNat, Nat.testBit_two_pow, decide_eq_true hr, Bool.true_and]
  rw [clearBit8, BitVec.getLsbD_and, BitVec.getLsbD_not, hbit, decide_eq_true hr]
  simp [eq_comm]

/-! ## One ring's registers (R285) -/

theorem qAt_qMod {s : State} {q : Nat} (h : q < s.host.q.length) (f : QReg → QReg) : qAt (qMod s q f) q = f (qAt s q) :=
  getD_listMod _ h _ _

theorem qAt_qMod_other (s : State) {q r : Nat} (h : r ≠ q) (f : QReg → QReg) : qAt (qMod s q f) r = qAt s r :=
  getD_listMod_other _ h _ _

/-- A ring's block stands in its 64 bytes of BAR0 (R285). -/
theorem readBar0_ring (s : State) {q off : Nat} (hq : q < 8) (h : off / 64 = 8 + q) : readBar0 s off = readQ (qAt s q) (off % 64) := by
  have hi : (off - 0x200) / 64 = q := by omega
  rw [readBar0, if_neg (by omega), if_pos (by omega), hi]

theorem exec_registerWrite_ring {s : State} (hu : hubUp s = true) {q off : Nat} (hq : q < 8) (h : off / 64 = 8 + q) (v : Word) :
    exec (.registerWrite .bar0 off v) s = .next (qMod s q (writeQ (off % 64) v)) := by
  have hi : (off - 0x200) / 64 = q := by omega
  have hr : 0x200 ≤ off ∧ off < 0x400 := by omega
  simp only [exec, execRegisterWrite, hu, if_true, hi, Bool.and_eq_true, decide_eq_true_eq, hr, and_self]

/-- EN in bit 0 and VEC in bits [3:1], as QCTL is written and read (R285). -/
theorem qctlWord (v : Word) : BitVec.ofNat 32 (ofFlag (v.getLsbD 0) + 2 * bitsAt v.toNat 3 1) = v &&& 0xF := by
  apply BitVec.eq_of_toNat_eq
  have hflag : ofFlag (v.getLsbD 0) = v.toNat % 2 := by
    rw [BitVec.getLsbD, Nat.testBit_zero, ofFlag]
    obtain h | h := Nat.mod_two_eq_zero_or_one v.toNat <;> simp [h]
  have hmask : (v &&& 0xF).toNat = v.toNat % 16 := by
    rw [BitVec.toNat_and]
    exact Nat.and_two_pow_sub_one_eq_mod v.toNat 4
  rw [hmask, hflag, bitsAt, BitVec.toNat_ofNat]
  omega

/-! ## The write-back words owed (R289, R292, R453) -/

/-- A ring owes its word and may write it. -/
def owes (s : State) (q : Nat) : Bool := s.host.wbDue.getLsbD q && ringServed s q

/-- The word as it would be written now. -/
def owedWord (s : State) (q : Nat) : HostWrite := .mem (qAt s q).cWb (wbWord s (qAt s q).idx)

/-- Nothing has changed but what the rings owe and what is posted. -/
def OnlyWords (s t : State) : Prop := t = { s with host := { s.host with wbDue := t.host.wbDue, posted := t.host.posted } }

theorem OnlyWords.trans {s r t : State} (h : OnlyWords s r) (g : OnlyWords r t) : OnlyWords s t := by
  rw [OnlyWords] at g h ⊢
  rw [h] at g
  exact g

theorem flushQ_onlyWords (s : State) (q : Nat) : OnlyWords s (flushQ s q) := by
  rw [flushQ]
  split <;> exact rfl

theorem foldl_flushQ_onlyWords (qs : List Nat) (s : State) : OnlyWords s (qs.foldl flushQ s) := by
  induction qs generalizing s with
  | nil => exact rfl
  | cons q qs ih => exact (flushQ_onlyWords s q).trans (ih _)

theorem flushWb_onlyWords (s : State) : OnlyWords s (flushWb s) := foldl_flushQ_onlyWords _ s

theorem flushWb_host (s : State) :
    (flushWb s).host = { s.host with wbDue := (flushWb s).host.wbDue, posted := (flushWb s).host.posted } :=
  congrArg State.host (flushWb_onlyWords s)

theorem flushWb_q (s : State) : (flushWb s).host.q = s.host.q := by rw [flushWb_host]

theorem qAt_flushWb (s : State) (q : Nat) : qAt (flushWb s) q = qAt s q := qAt_congr (flushWb_q s) q

theorem flushQ_of_owes {s : State} {q : Nat} (h : owes s q = true) : flushQ s q =
    { s with host := { s.host with wbDue := clearBit8 s.host.wbDue q, posted := s.host.posted ++ [owedWord s q] } } := if_pos h

theorem flushQ_of_not_owes {s : State} {q : Nat} (h : owes s q = false) : flushQ s q = s :=
  if_neg (by rw [← owes, h]; exact Bool.false_ne_true)

/-- Where no ring owes its word nothing is written. -/
theorem flushWb_of_none {s : State} (h : s.host.wbDue = 0) : flushWb s = s :=
  List.foldl_fixed' (fun q => flushQ_of_not_owes (by rw [owes, h]; simp)) _

theorem flushWb_none_host {s : State} (h : s.host.wbDue = 0) :
    (flushWb s).host.wbDue = 0 ∧ (flushWb s).host.posted = s.host.posted := by
  rw [flushWb_of_none h]
  exact ⟨h, rfl⟩

theorem OnlyWords.owedWord {s t : State} (h : OnlyWords s t) (q : Nat) : owedWord t q = owedWord s q := by
  rw [h]
  rfl

theorem OnlyWords.ringServed {s t : State} (h : OnlyWords s t) (q : Nat) : ringServed t q = ringServed s q := by
  rw [h]
  rfl

theorem flushQ_wbDue (s : State) (q : Nat) {r : Nat} (hr : r < 8) :
    (flushQ s q).host.wbDue.getLsbD r = (s.host.wbDue.getLsbD r && !(decide (r = q) && ringServed s r)) := by
  cases h : owes s q with
  | true =>
    rw [flushQ_of_owes h, getLsbD_clearBit8 _ hr]
    by_cases e : r = q
    · subst e
      simp [(Bool.and_eq_true_iff.mp h).2]
    · simp [e]
  | false =>
    rw [flushQ_of_not_owes h]
    by_cases e : r = q
    · subst e
      rw [owes] at h
      cases hd : s.host.wbDue.getLsbD r <;> simp_all
    · simp [e]

theorem flushQ_posted (s : State) (q : Nat) :
    (flushQ s q).host.posted = s.host.posted ++ if owes s q then [owedWord s q] else [] := by
  cases h : owes s q with
  | true => rw [flushQ_of_owes h, if_pos rfl]
  | false => rw [flushQ_of_not_owes h, if_neg Bool.false_ne_true, List.append_nil]

/-- Rings that are flushed one after the other: each that owes its word and is served writes it, in their order. -/
theorem foldl_flushQ_posted {qs : List Nat} (hn : qs.Nodup) (h8 : ∀ q ∈ qs, q < 8) (s : State) :
    (qs.foldl flushQ s).host.posted = s.host.posted ++ (qs.filter (owes s)).map (owedWord s) := by
  induction qs generalizing s with
  | nil => exact (List.append_nil _).symm
  | cons q qs ih =>
    obtain ⟨hq, hn⟩ := List.nodup_cons.mp hn
    obtain ⟨-, h8⟩ := List.forall_mem_cons.mp h8
    have hw := flushQ_onlyWords s q
    have howes : qs.filter (owes (flushQ s q)) = qs.filter (owes s) := by
      refine List.filter_congr fun r hr => ?_
      have hne : r ≠ q := fun e => hq (e ▸ hr)
      rw [owes, owes, flushQ_wbDue s q (h8 r hr), hw.ringServed r]
      simp [hne]
    have hword : owedWord (flushQ s q) = owedWord s := funext hw.owedWord
    rw [List.foldl_cons, ih hn h8, howes, hword, flushQ_posted, List.append_assoc]
    cases h : owes s q <;> simp [h]

theorem foldl_flushQ_wbDue (qs : List Nat) (s : State) {r : Nat} (hr : r < 8) :
    (qs.foldl flushQ s).host.wbDue.getLsbD r = (s.host.wbDue.getLsbD r && !(decide (r ∈ qs) && ringServed s r)) := by
  induction qs generalizing s with
  | nil => simp
  | cons q qs ih =>
    rw [List.foldl_cons, ih, flushQ_wbDue s q hr, (flushQ_onlyWords s q).ringServed]
    by_cases e : r = q <;> cases ringServed s r <;> simp [e]

/-- Where the port may issue requests, every enabled ring that owes its word has it written (R453; log entry 60). -/
theorem flushWb_paid {s : State} (h : ∀ q, ringServed s q = (qAt s q).en) : wbPaid s (flushWb s) := by
  have howes : owes s = fun q => s.host.wbDue.getLsbD q && (qAt s q).en := funext fun q => by rw [owes, h]
  refine ⟨?_, fun q hq => ?_⟩
  · rw [← howes]
    exact foldl_flushQ_posted List.nodup_range (fun q => List.mem_range.mp) s
  · rw [flushWb, foldl_flushQ_wbDue _ s hq, h, decide_eq_true (List.mem_range.mpr hq), Bool.true_and]

theorem ringServed_of_serving {s : State} (hu : hubUp s = true) (he : s.host.en = true) (hb : s.host.bme = true)
    (hd : s.host.d3 = false) (q : Nat) : ringServed s q = (qAt s q).en := by simp [ringServed, ringOn, hu, he, hb, hd]

/-! ## Opening and closing (R289) -/

/-- The port as it opens, before a word of its rings is written. -/
def portOpened (s : State) : State :=
  { s with host := { s.host with q := s.host.q.map openQ, en := true, quiesced := false, heldOpen := false,
                                 wbDue := BitVec.ofNat 8 (bitsOf (s.host.q.map (·.en))) } }

/-- The opening is told by PORT_OPEN at once, or when the regions are known (R289, R320). -/
theorem openPort_cases (s : State) : (∃ i, openPort s = indicate (flushWb (portOpened s)) i) ∨
    openPort s = { flushWb (portOpened s) with host := { (flushWb (portOpened s)).host with portOpenDue := true } } := by
  by_cases h : regionKnown (flushWb (portOpened s)) = true
  · exact Or.inl ⟨_, if_pos h⟩
  · exact Or.inr (if_neg h)

theorem openPort_host (s : State) : (openPort s).host.en = true ∧ (openPort s).host.quiesced = false ∧
    (openPort s).host.heldOpen = false ∧ (openPort s).host.q = s.host.q.map openQ := by
  obtain ⟨i, h⟩ | h := openPort_cases s
  · rw [h, (indicate_kept _ i).frame.rest .host (by decide), flushWb_host]
    exact ⟨rfl, rfl, rfl, rfl⟩
  · rw [h, flushWb_host]
    exact ⟨rfl, rfl, rfl, rfl⟩

theorem openPort_lane (s : State) (l : Lane) : noInds ((openPort s).lanes.get l) = noInds (s.lanes.get l) := by
  have hlanes : (flushWb (portOpened s)).lanes = s.lanes := (flushWb_kept (portOpened s)).frame.rest .lanes (by decide)
  obtain ⟨i, h⟩ | h := openPort_cases s
  · rw [h, indicate_lane, hlanes]
  · rw [h, ← hlanes]

theorem exec_hpctlOpen {s : State} (hu : hubUp s = true) (he : s.host.en = false) : exec .hpctlOpen s =
    .next (if s.host.quiesced then openPort s else { s with host := { s.host with heldOpen := true } }) := by
  simp [exec, execHpctlOpen, hu, he]

theorem exec_quiesceComplete {s : State} (hu : hubUp s = true) (he : s.host.en = false) (hq : s.host.quiesced = false) :
    exec .quiesceComplete s = .next (if s.host.heldOpen then openPort s else { s with host := { s.host with quiesced := true } }) := by
  simp [exec, execQuiesceComplete, hu, he, hq]

theorem redrain_eq (s : State) : redrain s = { s with gut := (redrain s).gut } := (redrain_kept s).gut_only

theorem exec_hpctlClose {s : State} (hu : hubUp s = true) : ∃ g, exec .hpctlClose s =
    .next { s with host := { s.host with en := false, heldOpen := false, portOpenDue := false, wbDue := 0 }, gut := g } :=
  ⟨_, (congrArg Host.Outcome.next (if_pos hu)).trans (congrArg Host.Outcome.next (redrain_eq _))⟩

/-- Settles O9: the port that opens is `portOpened` but for the words it writes, and HPCTL_CLOSE writes four fields. -/
theorem hostPortOpensAndCloses : Obligations.HostPortOpensAndCloses := by
  unfold Obligations.HostPortOpensAndCloses
  refine ⟨fun s hu he => ⟨fun hq => ?_, fun hq => ?_, fun hq hh => ?_, fun hq hh => ?_⟩, fun s hu => ?_⟩
  · have hx := exec_hpctlOpen hu he
    rw [if_pos hq] at hx
    obtain ⟨hen, hquiet, hheld, hrings⟩ := openPort_host s
    exact ⟨_, hx, hen, hquiet, hheld, hrings, openPort_lane s, ((openPort_kept s).mono rfl).frame⟩
  · rw [exec_hpctlOpen hu he, hq]
    rfl
  · rw [exec_quiesceComplete hu he hq, hh]
    rfl
  · have hx := exec_quiesceComplete hu he hq
    rw [if_pos hh] at hx
    obtain ⟨hen, hquiet, hheld, hrings⟩ := openPort_host s
    exact ⟨_, hx, hen, hquiet, hheld, hrings, ((openPort_kept s).mono rfl).frame⟩
  · obtain ⟨g, hx⟩ := exec_hpctlClose hu
    exact ⟨_, hx, rfl, fun q => rfl, exec_frame hx⟩

/-! ## Set-up writes (R446, R450, R453, R456 to R460) -/

/-- The halves of a 64-bit value, put together again (R450). -/
theorem append_halves (x : DWord) : ((x >>> 32).setWidth 32 : Word) ++ (x.setWidth 32 : Word) = x := by
  apply BitVec.eq_of_getLsbD_eq
  intro i hi
  rw [BitVec.getLsbD_append]
  split
  case isTrue h => simp [h]
  case isFalse h =>
    have hsum : 32 + (i - 32) = i := by omega
    simp [hsum, show i - 32 < 32 by omega]

theorem exec_busMasterEnable {s : State} (hu : hubUp s = true) (b : Bool) :
    exec (.busMasterEnable b) s = .next (flushWb { s with host := { s.host with bme := b } }) :=
  congrArg Host.Outcome.next (if_pos hu)

theorem exec_powerStateChange {s : State} (hu : hubUp s = true) (b : Bool) :
    exec (.powerStateChange b) s = .next (flushWb { s with host := { s.host with d3 := b } }) :=
  congrArg Host.Outcome.next (if_pos hu)

theorem exec_timecfgSrc {s : State} (hu : hubUp s = true) (b : Bool) :
    exec (.timecfgSrc b) s = .next (writeTimecfg s 0x00000001 (BitVec.ofNat 32 (ofFlag b))) :=
  congrArg Host.Outcome.next (if_pos hu)

theorem exec_timecfgDomain {s : State} (hu : hubUp s = true) {d : Nat} (hd : d < 128) :
    exec (.timecfgDomain d) s = .next (writeTimecfg s 0x00007F00 (BitVec.ofNat 32 (256 * d))) := by
  have hx : exec (.timecfgDomain d) s = .next (writeTimecfg s 0x00007F00 (BitVec.ofNat 32 (256 * if d < 128 then d else 0))) :=
    congrArg Host.Outcome.next (if_pos hu)
  rwa [if_pos hd] at hx

theorem exec_timecfgUtcOfs {s : State} (hu : hubUp s = true) (u : Half) :
    exec (.timecfgUtcOfs u) s = .next (writeTimecfg s 0xFFFF0000 (u ++ (0 : Half))) :=
  congrArg Host.Outcome.next (if_pos hu)

theorem exec_pairLoRead {s : State} (hu : hubUp s = true) {off : Nat} (h : off = 0x508 ∨ off = 0x510 ∨ off = 0x518) :
    exec (.pairLoRead off) s = .next { s with host := { s.host with
      hiLatch := (pairValue s off >>> 32).setWidth 32, cpls := s.host.cpls ++ [⟨.success, readBar0 s off, []⟩] } } := by
  have hoff : (hubUp s && (off == 0x508 || off == 0x510 || off == 0x518)) = true := by simpa [hu, or_assoc] using h
  exact congrArg Host.Outcome.next (if_pos hoff)

/-- The lower half reads the value itself, the upper half what was latched last (R450). -/
theorem readBar0_pair (s : State) {off : Nat} (h : off = 0x508 ∨ off = 0x510 ∨ off = 0x518) :
    readBar0 s off = (pairValue s off).setWidth 32 ∧ readBar0 s (off + 4) = s.host.hiLatch := by
  obtain rfl | rfl | rfl := h <;> exact ⟨rfl, rfl⟩

/-- Settles O13: each write by its equation; the words that wait are written by `flushWb`, which changes nothing else. -/
theorem setupWritesStore : Obligations.SetupWritesStore := by
  unfold Obligations.SetupWritesStore
  intro s hu
  refine ⟨fun b => congrArg Host.Outcome.next (if_pos hu), fun b => congrArg Host.Outcome.next (if_pos hu),
    fun b => congrArg Host.Outcome.next (if_pos hu), fun b => ⟨_, exec_timecfgSrc hu b, ?_, rfl⟩,
    fun d hd => ⟨_, exec_timecfgDomain hu hd, rfl, rfl⟩, fun u => ⟨_, exec_timecfgUtcOfs hu u, rfl, rfl⟩, fun b => ?_, fun b => ?_,
    fun off hoff => ?_⟩
  · cases b <;> exact rfl
  · have hx := exec_busMasterEnable hu b
    refine ⟨_, hx, flushWb_host _, exec_frame hx, fun hw => flushWb_none_host hw, fun he hb hd => ?_⟩
    exact flushWb_paid (ringServed_of_serving hu he hb hd)
  · have hx := exec_powerStateChange hu b
    refine ⟨_, hx, flushWb_host _, exec_frame hx, fun hw => flushWb_none_host hw, fun he hb hm => ?_⟩
    exact flushWb_paid (ringServed_of_serving hu he hm hb)
  · obtain ⟨hlo, -⟩ := readBar0_pair s hoff
    refine ⟨_, exec_pairLoRead hu hoff, ?_, ?_, rfl⟩
    · exact ((readBar0_pair _ hoff).1).trans hlo.symm
    · rw [(readBar0_pair _ hoff).2, hlo]
      exact append_halves _

/-! ## What a register write leaves to be read (R285, R460) -/

/-- QCTL of a ring is written; a word that it owes has not followed yet. -/
def ringControlled (s : State) (q : Nat) (v : Word) : State :=
  qMod s q fun r => { r with en := v.getLsbD 0, vec := bitsAt v.toNat 3 1 }

theorem exec_qctlWrite {s : State} (hu : hubUp s = true) (q : Fin 8) (v : Word) :
    ∃ g, exec (.qctlWrite q v) s = .next { flushWb (ringControlled s q v) with gut := g } :=
  ⟨_, (congrArg Host.Outcome.next (if_pos hu)).trans (congrArg Host.Outcome.next (redrain_eq _))⟩

theorem exec_maintPortWrite {s : State} (hu : hubUp s = true) (off : Nat) (v : Word) :
    ∃ g, exec (.maintPortWrite off v) s = .next { s with ul := writeMaint s.ul off v, gut := g } :=
  ⟨_, (congrArg Host.Outcome.next (if_pos hu)).trans (congrArg Host.Outcome.next (redrain_eq _))⟩

/-- A word of a ring's block is written: the ring then reads as `writeQ` says and no other ring changes. -/
theorem registerWrite_ring {s : State} (hu : hubUp s = true) (hl : s.host.q.length = 8) (q : Fin 8) {off : Nat}
    (h : off / 64 = 8 + q.val) (v : Word) : ∃ t, exec (.registerWrite .bar0 off v) s = .next t ∧
      readBar0 t off = readQ (writeQ (off % 64) v (qAt s q)) (off % 64) ∧ t = { s with host := { s.host with q := t.host.q } } ∧
      ∀ r : Fin 8, r ≠ q → qAt t r = qAt s r := by
  refine ⟨_, exec_registerWrite_ring hu q.isLt h v, ?_, rfl, fun r hr => qAt_qMod_other s (Fin.val_ne_of_ne hr) _⟩
  rw [readBar0_ring _ q.isLt h, qAt_qMod (by rw [hl]; exact q.isLt)]

/-- Settles O14: a ring's words by `registerWrite_ring`, QCTL by `qctlWord`, the maintenance port by its equation. -/
theorem registerWritesRead : Obligations.RegisterWritesRead := by
  unfold Obligations.RegisterWritesRead
  intro v s hu hl
  refine ⟨fun q => ⟨?_, ?_, ?_⟩, ?_, ?_, ?_, ?_⟩
  · have hoff : (0x200 + 64 * q.val) % 64 = 0 := by omega
    have hw := registerWrite_ring hu hl q (off := 0x200 + 64 * q.val) (by omega) v
    rw [hoff] at hw
    exact hw
  · have hoff : (0x208 + 64 * q.val) % 64 = 8 := by omega
    have hw := registerWrite_ring hu hl q (off := 0x208 + 64 * q.val) (by omega) v
    rw [hoff] at hw
    exact hw
  · obtain ⟨g, hx⟩ := exec_qctlWrite hu q v
    have hq : q.val < s.host.q.length := by rw [hl]; exact q.isLt
    refine ⟨_, hx, ?_, fun r hr => ?_, ?_, fun hw => flushWb_none_host hw, exec_frame hx⟩
    · have hoff : (0x214 + 64 * q.val) % 64 = 0x14 := by omega
      rw [readBar0_ring _ q.isLt (by omega), hoff, ← qctlWord]
      exact congrArg (fun r => readQ r 0x14) ((qAt_flushWb _ _).trans (qAt_qMod hq _))
    · exact (qAt_flushWb _ _).trans (qAt_qMod_other s (Fin.val_ne_of_ne hr) _)
    · dsimp only
      rw [flushWb_q]
      exact flushWb_host (ringControlled s q v)
  · obtain ⟨g, hx⟩ := exec_maintPortWrite hu 0x600 v
    exact ⟨_, hx, rfl, rfl, exec_frame hx⟩
  · obtain ⟨g, hx⟩ := exec_maintPortWrite hu 0x604 v
    exact ⟨_, hx, rfl, rfl, exec_frame hx⟩
  · obtain ⟨g, hx⟩ := exec_maintPortWrite hu 0x608 v
    exact ⟨_, hx, rfl, rfl, exec_frame hx⟩
  · obtain ⟨g, hx⟩ := exec_maintPortWrite hu 0x60C v
    exact ⟨_, hx, rfl, rfl, exec_frame hx⟩

end Sys2Proof.Machine
end

section
/-! SUPPORT. Doorbells, messages and errors of the host port (R282, R291, R293, R297 to R299, R452, R455): what a doorbell value is taken
for, when a message leaves, what every error leaves behind. -/

namespace Sys2Proof.Machine

/-! ## Errors (R294, R299, R452) -/

/-- What an error of an ERRQ code leaves: its bit and its count, its record or the count of lost records; rings and posted writes
stand. -/
structure ErrorTold (code : Nat) (s t : State) : Prop where
  seen   : t.host.seen = s.host.seen ||| BitVec.ofNat 9 (2 ^ (code - 1))
  count  : t.host.errcnt = s.host.errcnt + 1
  record : s.host.errq.credits ≠ 0 → t.host.errq.credits + 1 = s.host.errq.credits ∧
    t.host.errq.items.length = s.host.errq.items.length + 1 ∧ t.host.errlost = s.host.errlost
  lost   : s.host.errq.credits = 0 → t.host.errq = s.host.errq ∧ t.host.errlost = s.host.errlost + 1 ∧ t.host.lostBit = true
  rings  : t.host.q = s.host.q
  posted : t.host.posted = s.host.posted

theorem errRaise_told (s : State) (code flags : Nat) (r : HostReq) (bar : Nat) : ErrorTold code s (errRaise s code flags r bar) := by
  unfold errRaise
  dsimp only
  split
  case isTrue h => exact ⟨rfl, rfl, fun hc => absurd h hc, fun _ => ⟨rfl, rfl, rfl⟩, rfl, rfl⟩
  case isFalse h =>
    refine ⟨rfl, rfl, fun hc => ?_, fun hc => absurd hc h, rfl, rfl⟩
    dsimp only
    rw [CQ.send_of_credit h]
    exact ⟨Nat.succ_pred_eq_of_ne_zero hc, List.length_append, rfl⟩

theorem errRaise_cpls (s : State) (code flags : Nat) (r : HostReq) (bar : Nat) : (errRaise s code flags r bar).host.cpls = s.host.cpls := by
  unfold errRaise
  dsimp only
  split <;> rfl

/-- The completion that a command of an error returns: a posted request has none (R282, R298). -/
def errAnswers (req : HostReq) : Instr → List HostAnswer
  | .unsupportedRequest _ _ => if req.posted then [] else [⟨.unsupported, 0, req.hdr⟩]
  | .bar0ReadTimeout _ => [⟨.abort, 0, req.hdr⟩]
  | _ => []

/-- An error is told and its request answered, and nothing but the host port changes. -/
def ErrorTaken (req : HostReq) (c : Instr) (code : Nat) (s : State) : Prop :=
  ∃ t, exec c s = .next t ∧ ErrorTold code s t ∧ t.host.cpls = s.host.cpls ++ errAnswers req c ∧ Frame [.host] s t

theorem refuseReq_eq (s : State) (st : CplStatus) (req : HostReq) : refuseReq s st req =
    { s with host := { s.host with cpls := s.host.cpls ++ if req.posted then [] else [⟨st, 0, req.hdr⟩] } } := by
  cases h : req.posted <;> simp [refuseReq, complete, h]

section
variable {s : State} (hu : hubUp s = true) (req : HostReq)
include hu

theorem unsupportedRequest_taken (kind : UrKind) : ErrorTaken req (.unsupportedRequest kind req) (urCode kind) s := by
  have hx : exec (.unsupportedRequest kind req) s = .next (errRaise (refuseReq s .unsupported req) (urCode kind) (reqFlags req) req
    req.bar.toNat) := congrArg Host.Outcome.next (if_pos hu)
  rw [refuseReq_eq] at hx
  exact ⟨_, hx, { errRaise_told .. with }, errRaise_cpls .., exec_frame hx⟩

theorem moduleRequestFail_taken (how : ReqFail) : ErrorTaken req (.moduleRequestFail how req) (reqFailCode how) s := by
  have hx : exec (.moduleRequestFail how req) s = .next _ := congrArg Host.Outcome.next (if_pos hu)
  have told := errRaise_told s (reqFailCode how) (4 + reqFlags req) req 0xFF
  have hcpls := (errRaise_cpls s (reqFailCode how) (4 + reqFlags req) req 0xFF).trans (List.append_nil _).symm
  refine ⟨_, hx, ?_, ?_, exec_frame hx⟩
  all_goals
    dsimp only
    split
  · exact { told with }
  · exact told
  · exact hcpls
  · exact hcpls

theorem poisonedRequest_taken : ErrorTaken req (.poisonedRequest req) 9 s := by
  have hx : exec (.poisonedRequest req) s = .next (errRaise s 9 (reqFlags req) req req.bar.toNat) :=
    congrArg Host.Outcome.next (if_pos hu)
  exact ⟨_, hx, errRaise_told .., (errRaise_cpls ..).trans (List.append_nil _).symm, exec_frame hx⟩

theorem postedWriteFail_taken : ErrorTaken req (.postedWriteFail req) 4 s := by
  have hx : exec (.postedWriteFail req) s = .next (errRaise s 4 1 req req.bar.toNat) := congrArg Host.Outcome.next (if_pos hu)
  exact ⟨_, hx, errRaise_told .., (errRaise_cpls ..).trans (List.append_nil _).symm, exec_frame hx⟩

theorem bar0ReadTimeout_taken : ErrorTaken req (.bar0ReadTimeout req) 3 s := by
  have hx : exec (.bar0ReadTimeout req) s = .next (errRaise (complete s .abort 0 req.hdr) 3 2 req 0) :=
    congrArg Host.Outcome.next (if_pos hu)
  exact ⟨_, hx, { errRaise_told (complete s .abort 0 req.hdr) 3 2 req 0 with }, errRaise_cpls .., exec_frame hx⟩

end

theorem exec_errstatClear {s : State} (hu : hubUp s = true) (v setNow : Word) : exec (.errstatClear v setNow) s =
    .next { s with host := { s.host with
      seen := (s.host.seen &&& ~~~(v.setWidth 9)) ||| setNow.setWidth 9,
      lostBit := (s.host.lostBit && !v.getLsbD 16) || setNow.getLsbD 16 } } := congrArg Host.Outcome.next (if_pos hu)

/-- Settles O12: every command of an error tells it and answers its request; ERRSTAT is cleared bit by bit. -/
theorem errorsRecordedAndCleared : Obligations.ErrorsRecordedAndCleared := by
  unfold Obligations.ErrorsRecordedAndCleared
  refine ⟨fun req s hu c code hc => ?_, fun v setNow s hu => ⟨_, exec_errstatClear hu v setNow, fun i hi => ?_, rfl, rfl⟩⟩
  · have taken : ErrorTaken req c code s := by
      simp only [List.mem_cons, Prod.mk.injEq, List.not_mem_nil, or_false] at hc
      obtain ⟨rfl, rfl⟩ | ⟨rfl, rfl⟩ | ⟨rfl, rfl⟩ | ⟨rfl, rfl⟩ | ⟨rfl, rfl⟩ | ⟨rfl, rfl⟩ | ⟨rfl, rfl⟩ | ⟨rfl, rfl⟩ | ⟨rfl, rfl⟩ |
        ⟨rfl, rfl⟩ := hc
      · exact unsupportedRequest_taken hu req .misaligned
      · exact unsupportedRequest_taken hu req .bar2Read
      · exact unsupportedRequest_taken hu req .requestType
      · exact bar0ReadTimeout_taken hu req
      · exact postedWriteFail_taken hu req
      · exact moduleRequestFail_taken hu req .refused
      · exact moduleRequestFail_taken hu req .timeout
      · exact moduleRequestFail_taken hu req .notDelivered
      · exact unsupportedRequest_taken hu req .bar2Write
      · exact poisonedRequest_taken hu req
    obtain ⟨t, hx, told, hcpls, hframe⟩ := taken
    refine ⟨t, hx, told.seen, told.count, told.record, told.lost, told.rings, told.posted, ?_, ?_, hframe⟩
    · rintro kind rfl
      exact hcpls
    · rintro rfl
      exact hcpls
  · simp [hi]

/-! ## Doorbells (R291) -/

theorem exec_doorbell {s : State} (hu : hubUp s = true) {q : Fin 8} {v : Word} (hn : dbNews (qAt s q) v = true) (req : HostReq) :
    exec (.doorbell q v req) s = .next (if dbInRange q (qAt s q) v then qMod s q fun r => { r with db := v }
      else errRaise s 8 (reqFlags req) req 2) := by
  have h : (hubUp s && dbNews (qAt s q) v) = true := by rw [hu, hn]; rfl
  exact congrArg Host.Outcome.next (if_pos h)

theorem exec_doorbell_old {s : State} {q : Fin 8} {v : Word} (hn : dbNews (qAt s q) v = false) (req : HostReq) :
    exec (.doorbell q v req) s = .next s := by
  have h : ¬ (hubUp s && dbNews (qAt s q) v) = true := by simp [hn]
  exact congrArg Host.Outcome.next (if_neg h)

theorem dbNews_iff (r : QReg) (v : Word) : dbNews r v = true ↔ 0 < (v - r.db).toNat ∧ (v - r.db).toNat < 2 ^ 31 := by
  simp only [dbNews, Bool.and_eq_true, bne_iff_ne, decide_eq_true_eq, Nat.pos_iff_ne_zero]

theorem dbInRange_iff (q : Nat) (r : QReg) (v : Word) : dbInRange q r v = true ↔
    (if q < 2 then (v - r.idx).toNat else (r.idx - v).toNat) ≤ r.cSize := by
  by_cases h : q < 2 <;> simp [dbInRange, qToModule, h]

/-- Settles O10: a value that is not news by `dbNews_iff`, one that is by the range condition; a refused one is an error of code 8. -/
theorem doorbellJudged : Obligations.DoorbellJudged := by
  unfold Obligations.DoorbellJudged
  intro q v req s hu
  refine ⟨fun hold => ?_, fun hpos hlt => ⟨fun hin => ?_, fun hout => ?_⟩⟩
  · have hn : ¬ dbNews (qAt s q) v = true := by
      rw [dbNews_iff]
      omega
    exact exec_doorbell_old (Bool.not_eq_true _ ▸ hn) req
  · have hx := exec_doorbell hu ((dbNews_iff _ _).mpr ⟨hpos, hlt⟩) req
    rw [if_pos ((dbInRange_iff _ _ _).mpr hin)] at hx
    exact ⟨_, hx, rfl, rfl⟩
  · have hx := exec_doorbell hu ((dbNews_iff _ _).mpr ⟨hpos, hlt⟩) req
    rw [if_neg (mt (dbInRange_iff _ _ _).mp (Nat.not_le.mpr hout))] at hx
    have told := errRaise_told s 8 (reqFlags req) req 2
    exact ⟨_, hx, told.rings, told.count, told.seen, exec_frame hx⟩

/-! ## Messages (R293, R455) -/

theorem mayMessage_of {s : State} (hu : hubUp s = true) (he : s.host.en = true) (hm : s.host.msixEn = true) (hb : s.host.bme = true)
    (hd : s.host.d3 = false) : mayMessage s = true := by simp [mayMessage, hu, he, hm, hb, hd]

/-- The message of a vector is no longer due (R293). -/
def undue (s : State) (v : Nat) : State := { s with host := { s.host with vecDue := clearBit8 s.host.vecDue v } }

theorem exec_msixSend {s : State} (hm : mayMessage s = true) {v : Fin 8} (hv : s.host.vecDue.getLsbD v = true) :
    exec (.msixSend v) s = .next (if ((msixAt s v).masked || s.host.funcMask) = true then
      { undue s v with host := { (undue s v).host with pba := s.host.pba ||| BitVec.ofNat 8 (2 ^ v.val) } }
      else sendMsix (undue s v) v) := by
  have h : (mayMessage s && s.host.vecDue.getLsbD v) = true := by rw [hm, hv]; rfl
  exact congrArg Host.Outcome.next (if_pos h)

/-- The entry of a vector with its Mask bit cleared (R455). -/
def unmasked (s : State) (v : Nat) : State :=
  { s with host := { s.host with msix := listMod s.host.msix v fun e => { e with masked := false } } }

theorem msixAt_unmasked {s : State} {v : Nat} (h : v < s.host.msix.length) :
    msixAt (unmasked s v) v = { msixAt s v with masked := false } :=
  getD_listMod _ h _ _

theorem exec_msixUnmask {s : State} (hu : hubUp s = true) (v : Fin 8) : exec (.msixUnmask v) s = .next (flushVec (unmasked s v) v) :=
  congrArg Host.Outcome.next (if_pos hu)

theorem flushVec_sent {s : State} {v : Nat} (hm : mayMessage s = true) (hp : s.host.pba.getLsbD v = true)
    (he : (msixAt s v).masked = false) (hf : s.host.funcMask = false) :
    flushVec s v = sendMsix { s with host := { s.host with pba := clearBit8 s.host.pba v } } v := if_pos (by simp [hm, hp, he, hf])

theorem flushVec_idle {s : State} {v : Nat} (hp : s.host.pba.getLsbD v = false) : flushVec s v = s := if_neg (by simp [hp])

/-- Settles O11: a message that is due by `exec_msixSend`, one that pends by what the vector's unmasked entry lets go. -/
theorem messagesMasked : Obligations.MessagesMasked := by
  unfold Obligations.MessagesMasked
  intro v s hu he hm hb hd hl
  have hmay := mayMessage_of hu he hm hb hd
  have hx := exec_msixUnmask hu v
  have hentry := msixAt_unmasked (s := s) (v := v) (by rw [hl]; exact v.isLt)
  refine ⟨fun hv hk => ?_, fun hv hk => ?_, fun hp hf => ?_, fun hp => ?_⟩
  · rw [exec_msixSend hmay hv, if_neg (Bool.eq_false_iff.mp hk)]
    rfl
  · rw [exec_msixSend hmay hv, if_pos hk]
    rfl
  · have hsent := flushVec_sent (s := unmasked s v) hmay hp (congrArg MsixEnt.masked hentry) hf
    have hmsg := congrArg (fun e : MsixEnt => s.host.posted ++ [HostWrite.msix v e.addr e.data]) hentry
    refine ⟨_, hx, ?_, ?_, ?_, exec_frame hx⟩
    all_goals rw [hsent]
    · exact hmsg
    · exact (getLsbD_clearBit8 _ v.isLt).trans (by simp)
    · exact congrArg MsixEnt.masked hentry
  · refine ⟨_, hx, ?_, ?_, exec_frame hx⟩
    all_goals rw [flushVec_idle (s := unmasked s v) hp]
    · rfl
    · exact congrArg MsixEnt.masked hentry

end Sys2Proof.Machine
end

section
/-! SUPPORT. Peer links and the request/response class (R325, R327 to R329): a link and its cage, a request that goes out again or is given
up, an answered request, the answer to a part of an image. The repeated request and the one given up follow the model's reading (log
entries 68, 98), and the bodies are its layout (log entry 96). -/

namespace Sys2Proof.Machine

/-! ## The links (R325, R329) -/

theorem linkAt_linkMod (s : State) (l : Plane) (f : PeerLink → PeerLink) : linkAt (linkMod s l f) l = f (linkAt s l) :=
  Two.get_modify_same ..

theorem linkAt_linkMod_other (s : State) {k l : Plane} (h : k ≠ l) (f : PeerLink → PeerLink) : linkAt (linkMod s l f) k = linkAt s k :=
  Two.get_modify_other _ _ _ _ h

/-- A record of the hub leaves the links. -/
theorem linkAt_raiseHub (s : State) (code : Nat) (args : List Byte) (k : Plane) : linkAt (raiseHub s code args) k = linkAt s k := by
  rw [linkAt, linkAt, raiseHub_peer]

/-- What comes back with the links leaves the links. -/
theorem linkAt_linksFresh (s : State) (k : Plane) : linkAt (linksFresh s) k = linkAt s k := by
  rw [linksFresh]
  split <;> rfl

theorem exec_peerLinkLost {s : State} {l : Plane} (hl : linkLive s l = true) (hup : (linkAt s l).up = true) : exec (.peerLinkLost l) s =
    .next (raiseHub (linkMod s l fun x => { x with up := false }) 0x0803 (argInst (arg1 l.num))) := by
  simp [exec, execPeerLinkLost, hl, hup]

theorem exec_peerLinkReturn {s : State} {l : Plane} (hl : linkLive s l = true) (hup : (linkAt s l).up = false) :
    exec (.peerLinkReturn l) s =
      .next (raiseHub (linkMod (linksFresh s) l fun x => { x with up := true }) 0x0881 (argInst (arg1 l.num))) := by
  simp [exec, execPeerLinkReturn, hl, hup]

theorem exec_peerSfpInsertion_suitable {s : State} (hu : hubUp s = true) (l : Plane) :
    exec (.peerSfpInsertion l .tenGSR) s = .next (linkMod s l fun x => { x with sfpOk := true }) := congrArg Host.Outcome.next (if_pos hu)

/-- A cage with anything else is disabled, whether it has something to name or not (R325). -/
theorem exec_peerSfpInsertion_other {s : State} (hu : hubUp s = true) (l : Plane) {kind : SfpKind} (hk : kind ≠ .tenGSR) :
    ∃ t, exec (.peerSfpInsertion l kind) s = .next t ∧
      ∀ k, linkAt t k = linkAt (linkMod s l fun x => { x with sfpOk := false, up := false }) k := by
  have hx : exec (.peerSfpInsertion l kind) s = .next (if kind == .empty then linkMod s l fun x => { x with sfpOk := false, up := false }
      else raiseHub (linkMod s l fun x => { x with sfpOk := false, up := false }) 0x0802 (argInst (arg1 l.num))) := by
    simp [exec, execPeerSfpInsertion, hu, hk]
  refine ⟨_, hx, fun k => ?_⟩
  split
  · rfl
  · exact linkAt_raiseHub ..

/-! ## A request without a response (R327) -/

/-- One request that waits goes out on a link, where the queue has room. -/
def pumpReq (k : Plane) (t : State) (r : OpenReq) : State :=
  if r.sent = 0 && respReserve < t.peer.reqOut.credits then
    { t with peer := { t.peer with
        reqOut := t.peer.reqOut.send { seq := r.seq, link := k, body := r.body },
        openReqs := t.peer.openReqs.map fun x => if x.seq = r.seq then { x with sent := 1, link := k } else x } }
  else t

theorem pumpReqs_eq (s : State) : pumpReqs s = s.peer.openReqs.foldl (pumpReq (reqLink s)) s := rfl

/-- The SEQs of the open requests, oldest first. -/
def openSeqs (s : State) : List Word := s.peer.openReqs.map OpenReq.seq

theorem pumpReq_openSeqs (k : Plane) (s : State) (r : OpenReq) : openSeqs (pumpReq k s r) = openSeqs s := by
  rw [pumpReq]
  split
  · rw [openSeqs, List.map_map]
    refine List.map_congr_left fun x _ => ?_
    rw [Function.comp_apply]
    split <;> rfl
  · rfl

theorem foldl_pumpReq_openSeqs (k : Plane) (rs : List OpenReq) (s : State) : openSeqs (rs.foldl (pumpReq k) s) = openSeqs s := by
  induction rs generalizing s with
  | nil => rfl
  | cons r rs ih => exact (ih _).trans (pumpReq_openSeqs k s r)

theorem pumpReqs_openSeqs (s : State) : openSeqs (pumpReqs s) = openSeqs s := foldl_pumpReq_openSeqs ..

theorem reqAnswered_openSeqs (s : State) (q : Word) : openSeqs (reqAnswered s q) = (openSeqs s).filter fun x => x != q :=
  (List.filter_map (f := OpenReq.seq) (p := fun x => x != q)).symm

theorem exec_peerRequestTimeout {s : State} (hu : hubUp s = true) (hp : isPair s = true) {r : OpenReq}
    (hf : s.peer.openReqs.find? (fun r => r.sent != 0) = some r) (h : respReserve < s.peer.reqOut.credits ∨ 3 ≤ r.sent) :
    exec .peerRequestTimeout s = .next (requestAgain r s) := by
  have hgo : ¬ (s.peer.reqOut.credits ≤ respReserve ∧ r.sent < 3) := by omega
  simp [exec, execPeerRequestTimeout, hu, hp, hf, hgo]

theorem requestAgain_repeated {r : OpenReq} (h : r.sent < 3) (s : State) : requestAgain r s = { s with peer := { s.peer with
    reqOut := s.peer.reqOut.send { seq := r.seq, link := otherLink r.link, body := r.body },
    openReqs := s.peer.openReqs.map fun x => if x.seq = r.seq then { x with sent := x.sent + 1, link := otherLink x.link } else x } } :=
  if_neg (Nat.not_le.mpr h)

theorem requestAgain_givenUp {r : OpenReq} (h : 3 ≤ r.sent) (s : State) : requestAgain r s = pumpReqs (reqAnswered s r.seq) := if_pos h

/-! ## A message of the class is taken (R18, R326, R328) -/

theorem fld_of_peerValid {pt : Nat} {l : Plane} {m : List Byte} (h : peerValid pt l m = true) : fldBE m 0 2 = pt := by
  simp only [peerValid, Bool.and_eq_true, beq_iff_eq] at h
  obtain ⟨⟨⟨⟨-, hf⟩, -⟩, -⟩, -⟩ := h
  exact hf

/-- The credits of the header are taken, and the message stands in the queue of its direction. -/
def reqArrived (m : List Byte) (s : State) : State :=
  { s with peer := { s.peer with crMirror := min 256 (s.peer.crMirror + pmCrMirror m), crReq := min 64 (s.peer.crReq + pmCrReq m),
                                 reqIn := s.peer.reqIn.send m } }

theorem reqArrived_kept (m : List Byte) (s : State) : Kept [.peer] s (reqArrived m s) :=
  (Kept.refl _ s).upd (.inr rfl) (.inr rfl) (.inr rfl) (.inr rfl) (.inr rfl) (.inr rfl) (.inr rfl) (.inr rfl) (.inr rfl) (.inr rfl)
    (.inl (by decide)) (.inr rfl) (.inr rfl)

theorem requestArrive_taken {m : List Byte} {b : PeerBody} (hb : bodyOf (pmPay m) = some b)
    (hk : (b.isResponse == (fldBE m 0 2 == ptResponse)) = true) (s : State) : requestArrive m s =
      requestTake (pmSeq m) b { s with peer := { s.peer with reqIn := s.peer.reqIn.send m } } := by
  unfold requestArrive
  rw [hb]
  exact if_pos hk

/-- A message of the other module whose body goes with its type is taken. -/
theorem exec_peerRequestReceive {s : State} {l : Plane} {m : List Byte} {pt : Nat} {b : PeerBody} (hl : linkLive s l = true)
    (hv : peerValid pt l m = true) (hb : bodyOf (pmPay m) = some b) (hpt : pt = if b.isResponse then ptResponse else ptRequest)
    (hs : pmSender m ≠ masterId s) :
    exec (.peerRequestReceive l m) s = .next (requestTake (pmSeq m) b (reqArrived m (raiseEpoch s (pmEpoch m)))) := by
  have hvalid : (linkLive s l && (peerValid ptRequest l m || peerValid ptResponse l m)) = true := by
    rw [hl, Bool.true_and, Bool.or_eq_true]
    cases hr : b.isResponse with
    | true => exact .inr (by rwa [hpt, hr] at hv)
    | false => exact .inl (by rwa [hpt, hr] at hv)
  have hkind : (b.isResponse == (fldBE m 0 2 == ptResponse)) = true := by
    rw [fld_of_peerValid hv, hpt]
    cases b.isResponse <;> rfl
  rw [exec, execPeerRequestReceive, if_pos hvalid, peerArrive, if_neg hs, requestArrive_taken hb hkind]
  rfl

theorem raiseEpoch_known {s : State} {e : Nat} (h : e ≤ epochKnown s) : raiseEpoch s e = s := if_pos h

theorem raiseEpoch_peer (s : State) (e : Nat) : (raiseEpoch s e).peer = s.peer := (raiseEpoch_kept s e).frame.rest .peer (by decide)

/-! ## A part of an image is answered (R318, R327, R328) -/

/-- The SEQ of a request is noted, where it is answered. -/
def noted (ok : Bool) (q : Word) (s : State) : State :=
  { s with peer := { s.peer with seenReq := if ok then noteSeq s.peer.seenReq q else s.peer.seenReq } }

theorem noted_kept (ok : Bool) (q : Word) (s : State) : Kept [.peer] s (noted ok q s) :=
  (Kept.refl _ s).upd (.inr rfl) (.inr rfl) (.inr rfl) (.inr rfl) (.inr rfl) (.inr rfl) (.inr rfl) (.inr rfl) (.inr rfl) (.inr rfl)
    (.inl (by decide)) (.inr rfl) (.inr rfl)

/-- The state in which a part is answered. -/
def partArrived (m : List Byte) (off : Nat) (s : State) : State :=
  noted (!!s.peer.seenReq.contains (pmSeq m) || s.mod.st != .standby || partFollows s off) (pmSeq m) (reqArrived m s)

theorem partArrived_peer (m : List Byte) (off : Nat) (s : State) : (partArrived m off s).peer = { s.peer with
    crMirror := (partArrived m off s).peer.crMirror, crReq := (partArrived m off s).peer.crReq, reqIn := s.peer.reqIn.send m,
    seenReq := (partArrived m off s).peer.seenReq } := rfl

theorem partArrived_reqLink (m : List Byte) (off : Nat) (s : State) : reqLink (partArrived m off s) = reqLink s := by
  rw [reqLink, partArrived_peer]
  rfl

/-- What a standby holds of an image stands in its lanes (R163, R342). -/
theorem partFollows_congr {s t : State} (hm : t.mod = s.mod) (hl : t.lanes = s.lanes) (off : Nat) :
    partFollows t off = partFollows s off := by
  cases s
  cases t
  cases hm
  cases hl
  rfl

theorem partArrived_follows (m : List Byte) (off : Nat) (s : State) : partFollows (partArrived m off s) off = partFollows s off :=
  partFollows_congr rfl rfl off

theorem sendResp_peer (s : State) (q : Word) (b : PeerBody) :
    (sendResp s q b).peer = { s.peer with reqOut := (sendResp s q b).peer.reqOut } := by
  rw [sendResp]
  dsimp only
  split <;> rfl

theorem sendResp_lanes (s : State) (q : Word) (b : PeerBody) : (sendResp s q b).lanes = s.lanes :=
  (sendResp_kept s q b).frame.rest .lanes (by decide)

/-- With a credit the response stands in the queue (R328). -/
theorem sendResp_queued {s : State} (h : s.peer.reqOut.credits ≠ 0) (q : Word) (b : PeerBody) :
    { seq := q, link := reqLink s, body := b } ∈ (sendResp s q b).peer.reqOut.items := by
  rw [sendResp]
  dsimp only
  rw [if_neg h]
  exact List.mem_append_left _ (List.mem_append_right _ (List.mem_singleton_self _))

/-- The lanes of a standby take a part. -/
def partTaken (off : Nat) (last : Bool) (data : List Byte) (s : State) : State :=
  onLanes s (lanesWith s.lanes fun x => x.role.healthy) fun _ x => partTake off last data x

/-- The part is taken where it is new to a standby and follows, and answered unless it comes before its time. -/
def partAnswered (m : List Byte) (off : Nat) (last : Bool) (data : List Byte) (s : State) : State :=
  standbySegment (pmSeq m) (!s.peer.seenReq.contains (pmSeq m)) off last data (partArrived m off s)

theorem requestTake_segment (m : List Byte) (off : Nat) (last : Bool) (data : List Byte) (s : State) :
    requestTake (pmSeq m) (.segment off last data) (reqArrived m s) = partAnswered m off last data s := by
  rw [partAnswered, partArrived]
  cases h : !!s.peer.seenReq.contains (pmSeq m) || s.mod.st != .standby || partFollows s off with
  | true => exact congrArg (standbySegment _ _ off last data) (if_pos h)
  | false => exact congrArg (standbySegment _ _ off last data) (if_neg (by rw [Bool.not_eq_true]; exact h))

section
variable {m : List Byte} {off : Nat} {s : State} (last : Bool) (data : List Byte)

/-- No standby, or a part that was taken before: the answer alone. -/
theorem partAnswered_again (h : s.mod.st ≠ .standby ∨ s.peer.seenReq.contains (pmSeq m) = true) :
    partAnswered m off last data s = sendResp (partArrived m off s) (pmSeq m) .segmentAck := if_neg (by
  rw [Bool.and_eq_true, beq_iff_eq, Bool.not_eq_true']
  rintro ⟨hst, hn⟩
  exact h.elim (fun h => h hst) fun h => Bool.noConfusion (h.symm.trans hn))

section
variable (hst : s.mod.st = .standby) (hn : s.peer.seenReq.contains (pmSeq m) = false)
include hst hn

theorem partAnswered_new (hf : partFollows s off = true) : partAnswered m off last data s =
    sendResp (partTaken off last data (partArrived m off s)) (pmSeq m) .segmentAck := by
  have hgo : ((partArrived m off s).mod.st == .standby && !s.peer.seenReq.contains (pmSeq m)) = true := by
    rw [hn, Bool.not_false, Bool.and_true]
    exact beq_iff_eq.mpr hst
  exact (if_pos hgo).trans (if_pos ((partArrived_follows m off s).trans hf))

theorem partAnswered_early (hf : partFollows s off = false) : partAnswered m off last data s = partArrived m off s := by
  have hgo : ((partArrived m off s).mod.st == .standby && !s.peer.seenReq.contains (pmSeq m)) = true := by
    rw [hn, Bool.not_false, Bool.and_true]
    exact beq_iff_eq.mpr hst
  exact (if_pos hgo).trans (if_neg (Bool.eq_false_iff.mp ((partArrived_follows m off s).trans hf)))

end

/-- With a credit the answer stands in the queue, but for a part that comes before its time (R328). -/
theorem partAnswered_queued (hc : s.peer.reqOut.credits ≠ 0)
    (h : s.mod.st ≠ .standby ∨ s.peer.seenReq.contains (pmSeq m) = true ∨ partFollows s off = true) :
    { seq := pmSeq m, link := reqLink s, body := .segmentAck } ∈ (partAnswered m off last data s).peer.reqOut.items := by
  have hcr : (partArrived m off s).peer.reqOut.credits ≠ 0 := by rwa [partArrived_peer]
  rw [← partArrived_reqLink m off s]
  by_cases ha : s.mod.st ≠ .standby ∨ s.peer.seenReq.contains (pmSeq m) = true
  · rw [partAnswered_again last data ha]
    exact sendResp_queued hcr _ _
  · obtain ⟨hst, hn⟩ := not_or.mp ha
    have hf := (h.resolve_left hst).resolve_left hn
    rw [partAnswered_new last data (not_not.mp hst) (Bool.not_eq_true _ ▸ hn) hf]
    exact sendResp_queued (s := partTaken off last data (partArrived m off s)) hcr _ _

theorem partAnswered_peer : (partAnswered m off last data s).peer =
    { (partArrived m off s).peer with reqOut := (partAnswered m off last data s).peer.reqOut } := by
  rw [partAnswered, standbySegment]
  split
  · split
    · exact sendResp_peer ..
    · rfl
  · exact sendResp_peer ..

theorem partAnswered_kept : Kept [.lanes, .peer] s (partAnswered m off last data s) :=
  (((reqArrived_kept m s).step (noted_kept _ _ _) rfl).mono rfl).step (standbySegment_kept ..) rfl

end

/-- Settles O56: the links by their entries, a request by how often it went out, a response by its SEQ, a part of an image by whether
it is new to a standby and follows. -/
theorem peerLinksAndRequests : Obligations.PeerLinksAndRequests := by
  unfold Obligations.PeerLinksAndRequests
  intro s l hu
  refine ⟨fun hl hup => ?_, fun hl hup => ?_, ?_, fun kind hk => ?_, fun hp r hf => ⟨fun hr hc => ?_, fun hr => ?_⟩,
    fun m hl hv hb hs => ?_, fun m off last data hl hv hb hs he hc => ?_⟩
  · have hx := exec_peerLinkLost hl hup
    exact ⟨_, hx, (linkAt_raiseHub ..).trans (linkAt_linkMod ..),
      fun k hk => (linkAt_raiseHub ..).trans (linkAt_linkMod_other _ hk _), exec_frame hx⟩
  · have hx := exec_peerLinkReturn hl hup
    refine ⟨_, hx, (linkAt_raiseHub ..).trans ((linkAt_linkMod ..).trans ?_), fun k hk => ?_, exec_frame hx⟩
    · rw [linkAt_linksFresh]
    · exact (linkAt_raiseHub ..).trans ((linkAt_linkMod_other _ hk _).trans (linkAt_linksFresh ..))
  · exact ⟨_, exec_peerSfpInsertion_suitable hu l, linkAt_linkMod .., fun k hk => linkAt_linkMod_other _ hk _, (linkMod_kept ..).frame⟩
  · obtain ⟨t, hx, hlink⟩ := exec_peerSfpInsertion_other hu l hk
    exact ⟨t, hx, (hlink l).trans (linkAt_linkMod ..), fun k hk => (hlink k).trans (linkAt_linkMod_other _ hk _), exec_frame hx⟩
  · have hx := exec_peerRequestTimeout hu hp hf (.inl hc)
    have hsend := CQ.send_of_credit (Nat.ne_zero_of_lt hc) { seq := r.seq, link := otherLink r.link, body := r.body }
    refine ⟨_, hx, ?_, ?_, exec_frame hx⟩
    all_goals rw [requestAgain_repeated hr]
    exact hsend
  · have hx := exec_peerRequestTimeout hu hp hf (.inr hr)
    refine ⟨_, hx, ?_, exec_frame hx⟩
    rw [requestAgain_givenUp hr]
    exact (pumpReqs_openSeqs _).trans (reqAnswered_openSeqs s r.seq)
  · refine ⟨_, exec_peerRequestReceive hl hv hb rfl hs, ?_, ?_⟩
    · exact congrArg (fun p : PeerSt => p.openReqs.filter fun r => r.seq != pmSeq m) (raiseEpoch_peer s (pmEpoch m))
    · exact ((((raiseEpoch_kept s _).mono rfl).step (reqArrived_kept m _) rfl).step (reqAnswered_kept _ _) rfl).frame
  · have hx := exec_peerRequestReceive hl hv hb rfl hs
    rw [raiseEpoch_known he, requestTake_segment] at hx
    refine ⟨_, hx, ?_, ?_, fun h => ?_, partAnswered_queued last data hc, fun hst hn hf => ?_, (partAnswered_kept last data).frame⟩
    · rw [partAnswered_peer, partArrived_peer]
    · rw [partAnswered_peer, partArrived_peer]
    · rw [partAnswered_again last data h]
      exact sendResp_lanes ..
    · rw [partAnswered_early last data hst hn hf, partArrived_peer]
      exact ⟨rfl, rfl⟩

end Sys2Proof.Machine
end

section
/-! SUPPORT. The lease class (R18, R25, R326, R327, R330, R331, R334): its queue of the newest four messages, both copies of a message, and
the commands that send RENEW, BEAT and LINK. -/

namespace Sys2Proof.Machine

/-! ## The queue of the class (R18, R327) -/

theorem leaseKeep_getLast? (q : List (List Byte)) (m : List Byte) : (leaseKeep q m).getLast? = some m := by
  simp [leaseKeep, List.getLast?_drop]

theorem length_leaseKeep_le (q : List (List Byte)) (m : List Byte) : (leaseKeep q m).length ≤ 4 := by
  simp only [leaseKeep, List.length_drop]
  omega

/-- The message before the newest is among the newest four. -/
theorem mem_leaseKeep_of_last {q : List (List Byte)} {x : List Byte} (h : q.getLast? = some x) (m : List Byte) : x ∈ leaseKeep q m := by
  obtain ⟨r, rfl⟩ := List.getLast?_eq_some_iff.mp h
  have hle : (r ++ ([x] ++ [m])).length - 4 ≤ r.length := by
    simp only [List.length_append, List.length_singleton]
    omega
  rw [leaseKeep, List.append_assoc, List.drop_append_of_le_length hle]
  exact List.mem_append_right _ (by simp)

/-! ## What a message and a link are read from -/

theorem peerMsg_congr {s t : State} (hc : t.ctl = s.ctl) (hp : t.peer = s.peer) (hl : t.lanes = s.lanes) (ptype : Nat) (l : Plane)
    (seq : Word) (cycle : Nat) (pay : List Byte) : peerMsg t ptype l seq cycle pay = peerMsg s ptype l seq cycle pay := by
  have hm : masterId t = masterId s := by rw [masterId, masterId, isPair_congr hc, pairPosB, pairPosB, swBootOn, swBootOn, hc]
  have he : epochKnown t = epochKnown s := by rw [epochKnown, epochKnown, hp, hl]
  rw [peerMsg, peerMsg, hm, he, hp]

/-- The type stands in the first two bytes of a message (R326). -/
theorem fldBE_peerMsg (s : State) {ptype : Nat} (h : ptype < 65536) (l : Plane) (seq : Word) (cycle : Nat) (pay : List Byte) :
    fldBE (peerMsg s ptype l seq cycle pay) 0 2 = ptype := by
  refine fldBE_of_slice ?_ h
  have hlen : (beBytes 2 ptype).length = 2 := length_beBytes ..
  rw [peerMsg, withCrcBE]
  simp only [List.append_assoc]
  rw [slice_append_left (by rw [hlen])]
  exact (congrArg (slice _ 0) hlen.symm).trans (slice_all _)

/-! ## A message leaves -/

/-- The port sends, and the Underlay does not inhibit the class (R331). -/
def leaseSends (s : State) (l : Plane) : Bool := linkLive s l && !s.ul.leaseInh

theorem leaseSend_sent {s : State} {l : Plane} (h : leaseSends s l = true) (m : List Byte) : leaseSend s l m =
    { s with peer := { s.peer with leaseOut := leaseKeep s.peer.leaseOut m } } := if_pos h

theorem leaseSend_peer (s : State) (l : Plane) (m : List Byte) :
    (leaseSend s l m).peer = { s.peer with leaseOut := (leaseSend s l m).peer.leaseOut } := by
  rw [leaseSend]
  split <;> rfl

/-- What one link sends does not decide what the other does. -/
theorem leaseSends_leaseSend (s : State) (l k : Plane) (m : List Byte) : leaseSends (leaseSend s l m) k = leaseSends s k := by
  rw [leaseSend]
  split <;> rfl

/-- Both copies have left as far as the links send; the class counts on, and the credits in the headers are back (R326). -/
theorem leaseBoth_peer (s : State) (ptype cycle : Nat) (pay : List Byte) : (leaseBoth s ptype cycle pay).peer = { s.peer with
    leaseOut := (leaseSend (leaseSend s .A (peerMsg s ptype .A (s.peer.seqLease + 1) cycle pay)) .B
      (peerMsg s ptype .B (s.peer.seqLease + 1) cycle pay)).peer.leaseOut,
    backMirror := (leaseBoth s ptype cycle pay).peer.backMirror, backReq := (leaseBoth s ptype cycle pay).peer.backReq,
    seqLease := s.peer.seqLease + 1 } := by
  rw [leaseBoth]
  dsimp only [creditsBack]
  rw [leaseSend_peer, leaseSend_peer]

theorem leaseSend_getLast? {s : State} {l : Plane} (h : leaseSends s l = true) (m : List Byte) :
    (leaseSend s l m).peer.leaseOut.getLast? = some m := by
  rw [leaseSend_sent h]
  exact leaseKeep_getLast? ..

/-- The other link's copy does not drive the newest message out of the queue. -/
theorem mem_leaseSend_of_last {s : State} {x : List Byte} (h : s.peer.leaseOut.getLast? = some x) (l : Plane) (m : List Byte) :
    x ∈ (leaseSend s l m).peer.leaseOut := by
  rw [leaseSend]
  split
  · exact mem_leaseKeep_of_last h m
  · exact List.mem_of_getLast? h

/-- Each link that sends has its copy in the queue. -/
theorem mem_leaseBoth {s : State} {l : Plane} (h : leaseSends s l = true) (ptype cycle : Nat) (pay : List Byte) :
    peerMsg s ptype l (s.peer.seqLease + 1) cycle pay ∈ (leaseBoth s ptype cycle pay).peer.leaseOut := by
  rw [leaseBoth_peer]
  cases l with
  | A => exact mem_leaseSend_of_last (leaseSend_getLast? h _) ..
  | B => exact List.mem_of_getLast? (leaseSend_getLast? (by rwa [leaseSends_leaseSend]) _)

/-! ## RENEW (R25, R330, R331) -/

theorem leaseSends_advanceTo (s : State) (n : Nat) (l : Plane) : leaseSends (advanceTo s n) l = leaseSends s l := by
  rw [advanceTo]
  dsimp only
  split <;> rfl

theorem renewRelease_advanceTo (s : State) (n : Nat) : renewRelease (advanceTo s n) = renewRelease s := by
  rw [advanceTo]
  dsimp only
  split <;> rfl

/-- The copies of an agreed RENEW, in a pair. -/
def renewCopies (s : State) (cycle : Nat) (pay : List Byte) : State := if isPair s then leaseBoth s ptRenew cycle pay else s

theorem renewCopies_peer (s : State) (cycle : Nat) (pay : List Byte) :
    (renewCopies s cycle pay).peer = if isPair s then (leaseBoth s ptRenew cycle pay).peer else s.peer := by
  rw [renewCopies]
  split <;> rfl

theorem renewOut_agreed {s : State} {cycle : Nat} {pay : List Byte} (h : agreedRenew s = some (cycle, pay)) :
    (renewOut s).ul.leaseRun = true ∧
      (renewOut s).peer = { (renewCopies s cycle pay).peer with release := renewRelease s } := by
  rw [renewOut, h]
  exact ⟨rfl, rfl⟩

theorem renewOut_unlike {s : State} (h : agreedRenew s = none) : renewOut s = s := by
  rw [renewOut, h]

theorem exec_renewRelease {s : State} (h : renews s = true) :
    exec .renewRelease s = .next (renewOut (advanceTo s (periodNs s - 50000))) := congrArg Host.Outcome.next (if_pos h)

theorem exec_renewRelease_idle {s : State} (h : renews s = false) : exec .renewRelease s = .next s :=
  congrArg Host.Outcome.next (if_neg (Bool.eq_false_iff.mp h))

/-- The holder alone renews, and not while the Underlay inhibits the class (R331). -/
theorem renews_holds {s : State} (h : renews s = true) : s.peer.held = true ∧ s.ul.leaseInh = false := by
  simp only [renews, Bool.and_eq_true, Bool.not_eq_true'] at h
  obtain ⟨⟨⟨⟨⟨⟨-, hh⟩, hi⟩, -⟩, -⟩, -⟩, -⟩ := h
  exact ⟨hh, hi⟩

theorem not_renews {s : State} (h : s.peer.held = false ∨ s.mod.st = .safeStop ∨ s.mod.st = .split ∨ s.ul.leaseInh = true) :
    renews s = false := by
  rcases h with h | h | h | h <;> simp [renews, h]

/-- In a pair the agreed RENEW stands on every link that sends, with the next SEQ (R330). -/
theorem renewOut_pair {s : State} (hi : s.ul.leaseInh = false) {n cycle : Nat} {pay : List Byte}
    (ha : agreedRenew (advanceTo s n) = some (cycle, pay)) (hp : isPair s = true) :
    (renewOut (advanceTo s n)).peer.seqLease = s.peer.seqLease + 1 ∧ ∀ l, linkLive s l = true →
      peerMsg s ptRenew l (s.peer.seqLease + 1) cycle pay ∈ (renewOut (advanceTo s n)).peer.leaseOut := by
  obtain ⟨-, hout⟩ := renewOut_agreed ha
  rw [hout, renewCopies_peer, advanceTo_isPair, if_pos hp]
  refine ⟨by rw [leaseBoth_peer, advanceTo_peer], fun l hl => ?_⟩
  have hsends : leaseSends (advanceTo s n) l = true := by
    rw [leaseSends_advanceTo, leaseSends, hl, hi]
    rfl
  have hmem := mem_leaseBoth hsends ptRenew cycle pay
  rw [peerMsg_congr (advanceTo_ctl ..) (advanceTo_peer ..) (advanceTo_lanes ..), advanceTo_peer] at hmem
  exact hmem

/-- A module alone sends none. -/
theorem renewOut_alone {s : State} {n cycle : Nat} {pay : List Byte} (ha : agreedRenew (advanceTo s n) = some (cycle, pay))
    (hp : isPair s = false) : (renewOut (advanceTo s n)).peer.leaseOut = s.peer.leaseOut := by
  obtain ⟨-, hout⟩ := renewOut_agreed ha
  rw [hout, renewCopies_peer, advanceTo_isPair, if_neg (Bool.eq_false_iff.mp hp), advanceTo_peer]

/-- The lease is kept, and RELEASE noted as it was sent. -/
theorem renewOut_lease {s : State} {n cycle : Nat} {pay : List Byte} (ha : agreedRenew (advanceTo s n) = some (cycle, pay)) :
    (renewOut (advanceTo s n)).peer.held = s.peer.held ∧ (renewOut (advanceTo s n)).peer.release = renewRelease s := by
  obtain ⟨-, hout⟩ := renewOut_agreed ha
  rw [hout, renewRelease_advanceTo, renewCopies_peer]
  refine ⟨?_, rfl⟩
  split
  · rw [leaseBoth_peer, advanceTo_peer]
  · rw [advanceTo_peer]

/-! ## BEAT (R334, R335) -/

theorem standbyIncomplete_peer (s : State) (cond : Nat) :
    (standbyIncomplete s cond).peer = { s.peer with incAlarm := (standbyIncomplete s cond).peer.incAlarm } := by
  rw [standbyIncomplete]
  split
  · rfl
  · dsimp only
    rw [raiseHub_peer]

theorem healthAlarm_peer (s : State) (conds : List Bool) :
    (healthAlarm s conds).peer = { s.peer with incAlarm := (healthAlarm s conds).peer.incAlarm } := by
  rw [healthAlarm]
  split
  · rfl
  · exact standbyIncomplete_peer ..

theorem exec_beatSend {s : State} (hu : hubUp s = true) (hp : isPair s = true) (hs : s.mod.st = .standby) :
    exec .beatSend s = .next (beatAt s) := congrArg Host.Outcome.next (if_pos (by simp [hu, hp, hs]))

/-- The BEAT leaves in a state, and the loss of health is told. -/
def beatOut (s : State) : State :=
  let s1 := leaseBoth s ptBeat s.cyc.k.toNat (beatPay s)
  healthAlarm { s1 with peer := { s1.peer with sentBeat := hflags s } } (healthConds s)

theorem beatAt_eq (s : State) : beatAt s = beatOut (advanceTo s 400000) := rfl

theorem beatOut_peer (s : State) : (beatOut s).peer.seqLease = s.peer.seqLease + 1 ∧ (beatOut s).peer.held = s.peer.held := by
  rw [beatOut, healthAlarm_peer]
  dsimp only
  rw [leaseBoth_peer]
  exact ⟨rfl, rfl⟩

theorem beatAt_peer (s : State) : (beatAt s).peer.seqLease = s.peer.seqLease + 1 ∧ (beatAt s).peer.held = s.peer.held := by
  have h := beatOut_peer (advanceTo s 400000)
  rwa [advanceTo_peer, ← beatAt_eq] at h

/-! ## LINK (R326, R327) -/

/-- The link with its LINK counted. -/
def linkCounted (s : State) (l : Plane) : State := linkMod s l fun x => { x with txSeq := x.txSeq + 1 }

/-- The LINK that leaves. -/
def linkMsg (s : State) (l : Plane) : List Byte :=
  peerMsg (linkCounted s l) ptLink l (linkAt (linkCounted s l) l).txSeq s.cyc.k.toNat []

theorem linkAt_linkCounted (s : State) (l : Plane) :
    linkAt (linkCounted s l) l = { linkAt s l with txSeq := (linkAt s l).txSeq + 1 } := linkAt_linkMod ..

theorem leaseSends_linkCounted (s : State) (l : Plane) : leaseSends (linkCounted s l) l = leaseSends s l := by
  have hok : (linkAt (linkCounted s l) l).sfpOk = (linkAt s l).sfpOk := by rw [linkAt_linkCounted]
  exact congrArg (fun ok => (hubUp s && isPair s && ok) && !s.ul.leaseInh) hok

theorem exec_linkSend {s : State} {l : Plane} (hl : linkLive s l = true) (hi : s.ul.leaseInh = false) :
    exec (.linkSend l) s = .next (creditsBack true (leaseSend (linkCounted s l) l (linkMsg s l))) :=
  congrArg Host.Outcome.next (if_pos (by rw [hl, hi]; rfl))

/-- The LINK stands last in the queue, and its link alone counts it. -/
theorem linkSent_peer {s : State} {l : Plane} (hl : linkLive s l = true) (hi : s.ul.leaseInh = false) (b : Bool) :
    (creditsBack b (leaseSend (linkCounted s l) l (linkMsg s l))).peer.leaseOut = leaseKeep s.peer.leaseOut (linkMsg s l) ∧
      ∀ k, linkAt (creditsBack b (leaseSend (linkCounted s l) l (linkMsg s l))) k = linkAt (linkCounted s l) k := by
  have hs : leaseSends (linkCounted s l) l = true := by
    rw [leaseSends_linkCounted, leaseSends, hl, hi]
    rfl
  rw [leaseSend_sent hs]
  exact ⟨rfl, fun k => rfl⟩

/-- Settles O53: the RENEW by the copies of an agreed one, the BEAT by what the class counts, the LINK by its own link's count. -/
theorem leaseMessagesSent : Obligations.LeaseMessagesSent := by
  unfold Obligations.LeaseMessagesSent
  refine fun s => ⟨fun h cycle pay ha => ?_, fun h ha => ?_, fun h => exec_renewRelease_idle (not_renews h),
    fun hu hp hs => ?_, fun l hl hi => ?_⟩
  · have hx := exec_renewRelease h
    obtain ⟨hheld, hinh⟩ := renews_holds h
    obtain ⟨hkept, hrel⟩ := renewOut_lease ha
    exact ⟨_, hx, (renewOut_agreed ha).1, hkept.trans hheld, renewOut_pair hinh ha, renewOut_alone ha, hrel, exec_frame hx⟩
  · rw [exec_renewRelease h, renewOut_unlike ha]
  · have hx := exec_beatSend hu hp hs
    obtain ⟨hseq, hheld⟩ := beatAt_peer s
    exact ⟨_, hx, hseq, hheld, exec_frame hx⟩
  · have hx := exec_linkSend hl hi
    obtain ⟨hout, hlink⟩ := linkSent_peer hl hi true
    refine ⟨_, hx, ?_, ?_, ⟨linkMsg s l, ?_, fldBE_peerMsg _ (by decide) ..⟩, fun k hk => ?_, exec_frame hx⟩
    · rw [hlink, linkAt_linkCounted]
    · rw [hout]
      exact length_leaseKeep_le ..
    · rw [hout]
      exact leaseKeep_getLast? ..
    · rw [hlink]
      exact linkAt_linkMod_other s hk _

end Sys2Proof.Machine
end

section
/-! SUPPORT. What decides which lane leads and which lanes run the cycle (R25, R104, R415), and the lease changing hands: it expires, a
standby or a starting module of a pair claims it, and a claimant tests its mastery (R331, R336, R344 to R346, R352, R353). -/

namespace Sys2Proof.Machine

/-! ## Standing: what the choice of a lane goes by -/

/-- Role, check, banks and yealm of a lane: which lane leads, which are ready and which run the cycle goes by these. -/
def standing (x : LaneSt) : Role × Bool × Bank × Bank × Option Yealm := (x.role, x.checked, x.mram.bank0, x.mram.bank1, x.yealm)

/-- Every lane stands as it stood, and the module's own record too. -/
structure Stands (s t : State) : Prop where
  lane : ∀ l, standing (t.lanes.get l) = standing (s.lanes.get l)
  mod  : t.mod = s.mod

section
variable {s t : State} (h : Stands s t)
include h

theorem Stands.trans {r : State} (g : Stands t r) : Stands s r := ⟨fun l => (g.lane l).trans (h.lane l), g.mod.trans h.mod⟩

theorem Stands.role (l : Lane) : (t.lanes.get l).role = (s.lanes.get l).role := congrArg Prod.fst (h.lane l)

theorem Stands.checked (l : Lane) : (t.lanes.get l).checked = (s.lanes.get l).checked := congrArg (·.2.1) (h.lane l)

theorem Stands.activeImage (l : Lane) : activeImage (t.lanes.get l).mram = activeImage (s.lanes.get l).mram := by
  have h0 : (t.lanes.get l).mram.bank0 = (s.lanes.get l).mram.bank0 := congrArg (·.2.2.1) (h.lane l)
  have h1 : (t.lanes.get l).mram.bank1 = (s.lanes.get l).mram.bank1 := congrArg (·.2.2.2.1) (h.lane l)
  rw [Machine.activeImage, Machine.activeImage, h0, h1]

theorem Stands.yealm (l : Lane) : (t.lanes.get l).yealm = (s.lanes.get l).yealm := congrArg (·.2.2.2.2) (h.lane l)

theorem Stands.working : working t = working s := working_congr h.role

theorem Stands.voting : voting t = voting s := by simp only [Machine.voting, lanesIn, lanesWith, h.role]

theorem Stands.readyLanes : readyLanes t = readyLanes s :=
  List.filter_congr fun l _ => by simp only [readyLane, h.role, h.checked, h.activeImage, h.mod]

theorem Stands.refLane : refLane t = refLane s := by
  have hs : lanesIn t.lanes .shadow = lanesIn s.lanes .shadow := by simp only [lanesIn, lanesWith, h.role]
  rw [Machine.refLane, Machine.refLane, h.voting, h.readyLanes, hs]

theorem Stands.theYealm : theYealm t = theYealm s := by
  rw [Machine.theYealm, Machine.theYealm, lead, lead, h.refLane, h.yealm]

theorem Stands.periodMs : periodMs t = periodMs s := by rw [Machine.periodMs, Machine.periodMs, h.theYealm]

theorem Stands.periodNs : periodNs t = periodNs s := by rw [Machine.periodNs, Machine.periodNs, h.periodMs]

end

theorem Stands.refl (s : State) : Stands s s := ⟨fun _ => rfl, rfl⟩

theorem Stands.of_lanes {s t : State} (hl : t.lanes = s.lanes) (hm : t.mod = s.mod) : Stands s t := ⟨fun l => by rw [hl], hm⟩

/-- A boot record that is written leaves the banks (R162, R163). -/
theorem bootWrite_banks (m : Mram) (f : BootRec → BootRec) : (bootWrite m f).bank0 = m.bank0 ∧ (bootWrite m f).bank1 = m.bank1 := by
  rw [bootWrite]
  dsimp only
  split <;> exact ⟨rfl, rfl⟩

/-- A lane whose boot record is written, unless it is retired (R332). -/
def bootNoted (f : BootRec → BootRec) (x : LaneSt) : LaneSt := if x.role == .retired then x else { x with mram := bootWrite x.mram f }

theorem bootNoted_standing (f : BootRec → BootRec) (x : LaneSt) : standing (bootNoted f x) = standing x := by
  obtain ⟨h0, h1⟩ := bootWrite_banks x.mram f
  rw [bootNoted]
  split
  · rfl
  · rw [standing, standing, h0, h1]

theorem newEpoch_stands (s : State) : Stands s (newEpoch s) :=
  ⟨fun _ => (congrArg standing (Quad.get_map ..)).trans (bootNoted_standing (fun b => { b with epoch := epochAfter (epochKnown s) }) _), rfl⟩

/-! ## LEASE_EXPIRED (R331) -/

theorem exec_leaseExpired {s : State} (ho : s.mod.st ≠ .off) (hr : s.ul.leaseRun = true) :
    exec .leaseExpired s = .next (leaseExpiredAt s) := congrArg Host.Outcome.next (if_pos (by simp [ho, hr]))

/-- The lease of the Underlay in SAFE STOP: its timer has ended, and what inhibits the class stands (R331, R387). -/
theorem enterSafeStop_lease (s : State) :
    (enterSafeStop s).ul.leaseRun = false ∧ (enterSafeStop s).ul.leaseInh = s.ul.leaseInh := by
  by_cases h : s.mod.st = .safeStop
  · rw [enterSafeStop, setState, if_pos h]
    exact ⟨rfl, rfl⟩
  · rw [enterSafeStop_ul h]
    exact ⟨rfl, rfl⟩

theorem canLaunch_unheld {s : State} (h : s.peer.held = false) : canLaunch s = false := by simp [canLaunch, h]

/-- What the Underlay does in hardware before the stop: ring frames and lease messages are inhibited (R331). -/
def leaseCut (s : State) : State :=
  { raiseUl s 0x0804 [] with rings := { (raiseUl s 0x0804 []).rings with inhibited := true },
                             ul := { (raiseUl s 0x0804 []).ul with leaseInh := true, leaseRun := false } }

theorem leaseExpiredAt_eq (s : State) : leaseExpiredAt s = enterSafeStop (leaseCut s) := rfl

/-- The holder stops: SAFE STOP, no ring frame, no lease message. -/
theorem leaseExpiredAt_stops (s : State) : (leaseExpiredAt s).mod.st = .safeStop ∧ (leaseExpiredAt s).ul.leaseInh = true ∧
    (leaseExpiredAt s).ul.leaseRun = false ∧ (leaseExpiredAt s).rings.inhibited = true ∧ (leaseExpiredAt s).peer.held = false := by
  rw [leaseExpiredAt_eq]
  obtain ⟨hrun, hinh⟩ := enterSafeStop_lease (leaseCut s)
  have hrings : (enterSafeStop (leaseCut s)).rings = (leaseCut s).rings := (enterSafeStop_kept _).frame.rest .rings (by decide)
  exact ⟨enterSafeStop_st _, hinh, hrun, by rw [hrings]; rfl, enterSafeStop_held _⟩

/-! ## LEASE_CLAIM (R336, R344, R345) -/

theorem exec_leaseClaim {s : State} {r : Renew} (hr : s.peer.renew = some r) (hc : mayClaim s r = true) :
    exec .leaseClaim s = .next (claimAt r s) := by
  rw [exec, execLeaseClaim, hr]
  exact congrArg Host.Outcome.next (if_pos hc)

theorem exec_leaseClaim_refused {s : State} {r : Renew} (hr : s.peer.renew = some r) (hc : mayClaim s r = false) :
    exec .leaseClaim s = .next s := by
  rw [exec, execLeaseClaim, hr]
  exact congrArg Host.Outcome.next (if_neg (Bool.eq_false_iff.mp hc))

theorem mirrorFlush_idle {s : State} (h : s.peer.groupWait = none) (n : Nat) : mirrorFlush n s = s := by
  cases n with
  | zero => rfl
  | succ n => rw [mirrorFlush, h]

theorem mayClaim_standby {s : State} {r : Renew} (h : mayClaim s r = true) : s.mod.st = .standby := by
  simp only [mayClaim, Bool.and_eq_true, beq_iff_eq] at h
  obtain ⟨⟨⟨⟨⟨⟨⟨-, hst⟩, -⟩, -⟩, -⟩, -⟩, -⟩, -⟩ := h
  exact hst

/-- The state in which LEASE_CLAIM names the old and the new epoch. -/
def claimNamed (r : Renew) (s : State) : State :=
  raiseShared (newEpoch s) 0x0806 (argOne ++ arg4 r.epoch.toNat ++ arg4 (newEpoch s).peer.epoch.toNat)

theorem claimNamed_stands (r : Renew) (s : State) : Stands s (claimNamed r s) :=
  (newEpoch_stands s).trans (.of_lanes (raiseShared_lanes ..) (raiseShared_mod ..))

/-- What a claim leaves in the records of the lease, of the cycle and of the Underlay, from what they were when it was named. -/
structure Claimed (r : Renew) (s t : State) : Prop where
  held   : t.peer.held = true
  epoch  : t.peer.epoch = s.peer.epoch
  planes : t.peer.claimPlanes = some s.peer.planes
  claim  : t.mod.claim = true
  st     : t.mod.st = s.mod.st
  first  : t.cyc.k = BitVec.ofNat 64 (firstCycle (periodMs s) r - 1)
  misses : t.cyc.misses = 0
  runs   : t.ul.leaseRun = true
  open_  : t.ul.leaseInh = false

theorem Claimed.kept {r : Renew} {s t u : State} (h : Claimed r s t) (g : Kept [.lanes] t u) : Claimed r s u := by
  have hp : u.peer = t.peer := g.frame.rest .peer (by decide)
  have hc : u.cyc = t.cyc := g.frame.rest .cyc (by decide)
  have hm : u.mod = t.mod := g.mod_eq (by decide) (by decide)
  have hu : u.ul = t.ul := g.ul_eq (by decide) (by decide)
  exact ⟨by rw [hp, h.held], by rw [hp, h.epoch], by rw [hp, h.planes], by rw [hm, h.claim], by rw [hm, h.st], by rw [hc, h.first],
    by rw [hc, h.misses], by rw [hu, h.runs], by rw [hu, h.open_]⟩

theorem claimAt_claimed {s : State} (h : s.peer.groupWait = none) (r : Renew) : Claimed r (claimNamed r s) (claimAt r s) := by
  unfold claimAt
  extract_lets s1 s2 p k1 L cmds s3 s4 ck
  have hs1 : s1 = newEpoch s := congrArg newEpoch (mirrorFlush_idle h _)
  have hs2 : s2 = claimNamed r s := by rw [claimNamed, ← hs1]
  have hs3 : Kept [.lanes, .agr] s2 s3 := (onLanes_kept ..).mono rfl
  have hs4 : Kept [.lanes, .agr] s2 s4 := by
    dsimp only [s4]
    split
    · exact hs3.step (ageNodes_kept ..) rfl
    · exact hs3
  have hpeer : s4.peer = s2.peer := hs4.frame.rest .peer (by decide)
  have hepoch : s4.peer.epoch = s2.peer.epoch := by rw [hpeer]
  have hplanes : some s4.peer.planes = some s2.peer.planes := by rw [hpeer]
  have hst : s4.mod.st = s2.mod.st := hs4.frame.rest .mode (by decide)
  have hfirst : BitVec.ofNat 64 (k1 - 1) = BitVec.ofNat 64 (firstCycle (periodMs s2) r - 1) := rfl
  rw [← hs2]
  refine Claimed.kept ?_ (claimDeferral_kept ..)
  clear_value s4 k1
  exact ⟨rfl, hepoch, hplanes, rfl, hst, hfirst, rfl, rfl, rfl⟩

/-! ## PAIR_START_CLAIM (R352, R353) -/

/-- A module of a pair that is ready for ring start, without the lease and without a conflict. -/
structure PairReady (s : State) : Prop where
  up       : hubUp s = true
  pair     : isPair s = true
  boot     : s.mod.st = .boot
  agreed   : s.mod.boot.agreed = true
  split    : s.mod.boot.split = false
  swBad    : s.mod.boot.swBad = false
  unheld   : s.peer.held = false
  noConfl  : s.peer.conflict = false

/-- Cold, unless its own records are a holder's (R353). -/
def startDecided (s : State) : State := bootMod s fun b => { b with coldClaim := !closedAsHolder s }

theorem epochKnown_startDecided (s : State) : epochKnown (startDecided s) = epochKnown s := rfl

theorem exec_pairStartClaim {s : State} (h : PairReady s) :
    exec .pairStartClaim s = .next (if s.peer.heard then s else takeLease (startDecided s)) := by
  cases hh : s.peer.heard <;>
    simp [exec, execPairStartClaim, startDecided, h.up, h.pair, h.boot, h.agreed, h.split, h.swBad, h.unheld, h.noConfl, hh]

/-! ## MASTERY_TEST (R346) -/

/-- The mastery is settled: what it was tested against is forgotten. -/
def masterySettled (s : State) : State := { s with peer := { s.peer with claimPlanes := none } }

theorem exec_masteryTest {s : State} {pl : Byte} (hu : hubUp s = true) (hr : s.mod.st.runs = true) (hs : s.cyc.sent = true)
    (hp : s.peer.claimPlanes = some pl) : exec .masteryTest s = .next (if mastersAll s pl then masterySettled s
      else { masterySettled s with mod := { s.mod with leave := true } }) := by
  simp only [exec, execMasteryTest, hu, hr, hs, hp]
  rfl

/-- Settles O55: an expiry by SAFE STOP entered, a claim by the fields of its record, a start by the lease taken, the mastery by its test. -/
theorem leaseChangesHands : Obligations.LeaseChangesHands := by
  unfold Obligations.LeaseChangesHands
  refine fun s => ⟨fun ho hr => ?_, fun r hr hc hw => ?_, fun r hr hc => exec_leaseClaim_refused hr hc,
    fun hu hp hs ha hb hsw hh hcf => ⟨fun hn => ?_, fun hn => ?_⟩, fun pl hu hr hs hp => ⟨fun hm => ?_, fun hm => ?_⟩⟩
  · obtain ⟨hst, hinh, hrun, hring, hheld⟩ := leaseExpiredAt_stops s
    exact ⟨_, exec_leaseExpired ho hr, hst, hinh, hrun, hring, hheld, canLaunch_unheld hheld, not_renews (.inl hheld)⟩
  · have h := claimAt_claimed hw r
    have hepoch : (claimNamed r s).peer.epoch = epochAfter (epochKnown s) := by rw [claimNamed, raiseShared_peer, newEpoch_peer]
    have hplanes : (claimNamed r s).peer.planes = s.peer.planes := by rw [claimNamed, raiseShared_peer, newEpoch_peer]
    refine ⟨_, exec_leaseClaim hr hc, h.held, h.claim, ?_, h.epoch.trans hepoch, ?_, h.misses, h.runs, h.open_, ?_⟩
    · rw [h.st, (claimNamed_stands r s).mod, mayClaim_standby hc]
    · rw [h.first, (claimNamed_stands r s).periodMs]
    · rw [h.planes, hplanes]
  · have hx := exec_pairStartClaim ⟨hu, hp, hs, ha, hb, hsw, hh, hcf⟩
    rw [if_neg (by rw [hn]; exact Bool.false_ne_true)] at hx
    refine ⟨_, hx, by rw [takeLease_peer], ?_, ?_, ?_, by rw [takeLease_ul], exec_frame hx⟩
    · rw [takeLease_mod]
      exact hs
    · rw [takeLease_mod]
      rfl
    · rw [takeLease_peer, newEpoch_peer, epochKnown_startDecided]
  · have hx := exec_pairStartClaim ⟨hu, hp, hs, ha, hb, hsw, hh, hcf⟩
    rwa [if_pos hn] at hx
  · exact (exec_masteryTest hu hr hs hp).trans (congrArg Host.Outcome.next (if_pos hm))
  · exact (exec_masteryTest hu hr hs hp).trans (congrArg Host.Outcome.next (if_neg (Bool.eq_false_iff.mp hm)))

end Sys2Proof.Machine
end

section
/-! SUPPORT. The epoch that a message brings (R332), and what is taken of the messages of the lease class: the holder's RENEW by its
standby, the standby's BEAT by the holder, LINK by either (R323, R327, R333 to R336, R352). -/

namespace Sys2Proof.Machine

/-! ## The highest epoch known (R332) -/

theorem fldBE_lt (b : List Byte) (off n : Nat) : fldBE b off n < 256 ^ n := by
  refine (leNat_lt _).trans_le (Nat.pow_le_pow_right (by decide) ?_)
  rw [List.length_reverse, slice, List.length_take]
  exact Nat.min_le_left ..

/-- The field holds no more than the 32 bits of an epoch. -/
theorem toNat_pmEpoch (m : List Byte) : (BitVec.ofNat 32 (pmEpoch m)).toNat = pmEpoch m :=
  (BitVec.toNat_ofNat ..).trans (Nat.mod_eq_of_lt (fldBE_lt m 4 4))

/-- The highest epoch known is the least bound of the lease's own and of those in the lanes' boot records. -/
theorem epochKnown_le_iff {s : State} {n : Nat} : epochKnown s ≤ n ↔
    s.peer.epoch.toNat ≤ n ∧ ∀ l, (bootCur (s.lanes.get l).mram).epoch.toNat ≤ n := by
  have hall : (∀ l, (bootCur (s.lanes.get l).mram).epoch.toNat ≤ n) ↔ (bootCur s.lanes.a.mram).epoch.toNat ≤ n ∧
      (bootCur s.lanes.b.mram).epoch.toNat ≤ n ∧ (bootCur s.lanes.c.mram).epoch.toNat ≤ n ∧ (bootCur s.lanes.d.mram).epoch.toNat ≤ n :=
    ⟨fun h => ⟨h .A, h .B, h .C, h .D⟩, fun ⟨ha, hb, hc, hd⟩ l => by cases l <;> assumption⟩
  rw [hall]
  simp [epochKnown, maxOf, Quad.toList]

theorem bootEpoch_le_known (s : State) (l : Lane) : (bootCur (s.lanes.get l).mram).epoch.toNat ≤ epochKnown s :=
  have h := epochKnown_le_iff (s := s) (n := epochKnown s)
  (h.mp le_rfl).2 l

/-- An epoch that is new stands in the boot record of every lane that is not retired. -/
theorem raiseEpoch_new {s : State} {e : Nat} (h : epochKnown s < e) : raiseEpoch s e =
    { s with lanes := s.lanes.map (bootNoted fun b => { b with epoch := BitVec.ofNat 32 e }) } := if_neg (Nat.not_le.mpr h)

theorem bootNoted_epoch (w : Word) {x : LaneSt} (h : x.role ≠ .retired) :
    (bootCur (bootNoted (fun b => { b with epoch := w }) x).mram).epoch = w := by
  rw [bootNoted, if_neg (by simpa using h)]
  dsimp only
  rw [bootCur_bootWrite]

theorem bootNoted_retired (f : BootRec → BootRec) {x : LaneSt} (h : x.role = .retired) : bootNoted f x = x := if_pos (by simp [h])

theorem raiseEpoch_stands (s : State) (e : Nat) : Stands s (raiseEpoch s e) := by
  by_cases h : e ≤ epochKnown s
  · rw [raiseEpoch_known h]
    exact .refl s
  · rw [raiseEpoch_new (Nat.lt_of_not_le h)]
    exact ⟨fun _ => (congrArg standing (Quad.get_map ..)).trans (bootNoted_standing ..), rfl⟩

/-- No epoch beyond the one that the message brings is known from it. -/
theorem epochKnown_raiseEpoch_le {s : State} {e : Nat} (he : (BitVec.ofNat 32 e).toNat = e) (h : epochKnown s ≤ e) :
    epochKnown (raiseEpoch s e) ≤ e := by
  rcases Nat.lt_or_eq_of_le h with hlt | heq
  · obtain ⟨hown, hlane⟩ := (epochKnown_le_iff (s := s) (n := e)).mp h
    rw [raiseEpoch_new hlt, epochKnown_le_iff]
    refine ⟨hown, fun l => ?_⟩
    rw [Quad.get_map]
    by_cases hr : (s.lanes.get l).role = .retired
    · rw [bootNoted_retired _ hr]
      exact hlane l
    · rw [bootNoted_epoch _ hr, he]
  · rw [raiseEpoch_known heq.ge]
    exact h

/-- A lane that is not retired keeps the epoch. -/
theorem le_epochKnown_raiseEpoch {s : State} {e : Nat} (he : (BitVec.ofNat 32 e).toNat = e)
    (h : ∃ d, (s.lanes.get d).role ≠ .retired) : e ≤ epochKnown (raiseEpoch s e) := by
  by_cases hk : e ≤ epochKnown s
  · rwa [raiseEpoch_known hk]
  · obtain ⟨d, hd⟩ := h
    have hle := bootEpoch_le_known (raiseEpoch s e) d
    have hlane : (raiseEpoch s e).lanes.get d = bootNoted (fun b => { b with epoch := BitVec.ofNat 32 e }) (s.lanes.get d) := by
      rw [raiseEpoch_new (Nat.lt_of_not_le hk), Quad.get_map]
    rwa [hlane, bootNoted_epoch _ hd, he] at hle

/-! ## A message arrives (R323, R326) -/

/-- The message stands in its queue, its epoch is known and the credits of its header are taken. -/
def leaseArrived (m : List Byte) (s : State) : State :=
  let s1 := raiseEpoch { s with peer := { s.peer with leaseIn := leaseKeep s.peer.leaseIn m } } (pmEpoch m)
  { s1 with peer := { s1.peer with crMirror := min 256 (s1.peer.crMirror + pmCrMirror m), crReq := min 64 (s1.peer.crReq + pmCrReq m) } }

theorem leaseArrive_other {s : State} {m : List Byte} (h : pmSender m ≠ masterId s) (take : State → State) :
    leaseArrive s m take = take (leaseArrived m s) := if_neg h

theorem leaseArrive_own {s : State} {m : List Byte} (h : pmSender m = masterId s) (take : State → State) : leaseArrive s m take =
    pairConflict (raiseEpoch { s with peer := { s.peer with leaseIn := leaseKeep s.peer.leaseIn m } } (pmEpoch m)) := if_pos h

theorem leaseArrived_kept (m : List Byte) (s : State) : Kept [.lanes, .peer] s (leaseArrived m s) := by
  have hq : Kept [.lanes, .peer] s { s with peer := { s.peer with leaseIn := leaseKeep s.peer.leaseIn m } } :=
    (Kept.refl _ s).upd (.inr rfl) (.inr rfl) (.inr rfl) (.inr rfl) (.inr rfl) (.inr rfl) (.inr rfl) (.inr rfl) (.inr rfl) (.inr rfl)
      (.inl (by decide)) (.inr rfl) (.inr rfl)
  exact (hq.step (raiseEpoch_kept ..) rfl).upd (.inr rfl) (.inr rfl) (.inr rfl) (.inr rfl) (.inr rfl) (.inr rfl) (.inr rfl) (.inr rfl)
    (.inr rfl) (.inr rfl) (.inl (by decide)) (.inr rfl) (.inr rfl)

/-- Of the pair's record the queue and the credits alone change. -/
theorem leaseArrived_peer (m : List Byte) (s : State) : (leaseArrived m s).peer = { s.peer with
    leaseIn := leaseKeep s.peer.leaseIn m, crMirror := (leaseArrived m s).peer.crMirror, crReq := (leaseArrived m s).peer.crReq } := by
  rw [leaseArrived]
  dsimp only
  rw [raiseEpoch_peer]

/-- The lanes keep the epoch as they would without the message's place in a queue. -/
theorem leaseArrived_lanes (m : List Byte) (s : State) : (leaseArrived m s).lanes = (raiseEpoch s (pmEpoch m)).lanes := by
  have hk : epochKnown { s with peer := { s.peer with leaseIn := leaseKeep s.peer.leaseIn m } } = epochKnown s := rfl
  rw [leaseArrived, raiseEpoch, raiseEpoch, hk]
  split <;> rfl

theorem leaseArrived_stands (m : List Byte) (s : State) : Stands s (leaseArrived m s) where
  lane l := by rw [leaseArrived_lanes, (raiseEpoch_stands s _).lane]
  mod := (leaseArrived_kept m s).mod_eq (by decide) (by decide)

theorem epochKnown_leaseArrived (m : List Byte) (s : State) : epochKnown (leaseArrived m s) = epochKnown (raiseEpoch s (pmEpoch m)) := by
  rw [epochKnown, epochKnown, leaseArrived_lanes, leaseArrived_peer, raiseEpoch_peer]

/-- A RENEW or BEAT is one of 100 bytes. -/
theorem exec_renewReceive {s : State} {l : Plane} {m : List Byte} (hl : linkLive s l = true) (hv : peerValid ptRenew l m = true)
    (hn : m.length = 100) : exec (.renewReceive l m) s = .next (leaseArrive s m (renewTake l m)) :=
  congrArg Host.Outcome.next (if_pos (by simp [hl, hv, hn]))

theorem exec_beatReceive {s : State} {l : Plane} {m : List Byte} (hl : linkLive s l = true) (hv : peerValid ptBeat l m = true)
    (hn : m.length = 100) : exec (.beatReceive l m) s = .next (leaseArrive s m (beatTake m)) :=
  congrArg Host.Outcome.next (if_pos (by simp [hl, hv, hn]))

/-! ## RENEW at a module without the lease (R332, R333, R336) -/

/-- What a RENEW tells of the lease: held here, heard of, the holder's last RENEW. -/
def leaseView (p : PeerSt) : Bool × Bool × Option Renew := (p.held, p.heard, p.renew)

theorem standbyIncomplete_leaseView (s : State) (cond : Nat) : leaseView (standbyIncomplete s cond).peer = leaseView s.peer := by
  rw [standbyIncomplete_peer]
  rfl

theorem mirrorLost_leaseView (s : State) : leaseView (mirrorLost s).peer = leaseView s.peer := by
  have h : leaseView (if s.peer.mirrorOk then standbyIncomplete s 1 else s).peer = leaseView s.peer := by
    split
    · exact standbyIncomplete_leaseView ..
    · rfl
  exact h

theorem laterSeen_leaseView (s : State) (cycle : Nat) : leaseView (laterSeen s cycle).peer = leaseView s.peer := by
  rw [laterSeen]
  split
  · exact mirrorLost_leaseView s
  · rfl

theorem pumpReqs_leaseView (s : State) : leaseView (pumpReqs s).peer = leaseView s.peer := by
  have h (k : Plane) (rs : List OpenReq) (t : State) : leaseView (rs.foldl (pumpReq k) t).peer = leaseView t.peer := by
    induction rs generalizing t with
    | nil => rfl
    | cons r rs ih =>
      refine (ih _).trans ?_
      rw [pumpReq]
      split <;> rfl
  exact h ..

theorem fetchHolders_leaseView (s : State) (r : Renew) : leaseView (fetchHolders s r).peer = leaseView s.peer := by
  rw [fetchHolders]
  split
  · exact pumpReqs_leaseView ..
  · rfl

/-- Only a module in BOOT becomes a standby. -/
theorem tryStandby_idle {s : State} (h : s.mod.st ≠ .boot) : tryStandby s = s := by
  rw [tryStandby]
  split
  · exact if_neg (by simp [h])
  · rfl

/-- What the standby makes of a RENEW, time and cycle apart: what the message tells of the mirrored state, and a fetch. -/
def renewFollowed (r : Renew) (s : State) : State :=
  fetchHolders (laterSeen (if r.incomplete && s.peer.mirrorOk then mirrorLost s else s) r.cycle.toNat) r

theorem renewFollowed_kept (r : Renew) (s : State) : Kept [.peer, .gut] s (renewFollowed r s) := by
  have h : Kept [.peer, .gut] s (if r.incomplete && s.peer.mirrorOk then mirrorLost s else s) := by
    split
    · exact mirrorLost_kept s
    · exact .refl _ s
  exact (h.step (laterSeen_kept ..) rfl).step (fetchHolders_kept ..) rfl

theorem renewFollowed_leaseView (r : Renew) (s : State) : leaseView (renewFollowed r s).peer = leaseView s.peer := by
  rw [renewFollowed, fetchHolders_leaseView, laterSeen_leaseView]
  split
  · exact mirrorLost_leaseView s
  · rfl

/-- What a message tells of the mirrored state leaves a standby a standby. -/
theorem tryStandby_followed {s : State} (h : s.mod.st = .standby) (r : Renew) :
    tryStandby (laterSeen (if r.incomplete && s.peer.mirrorOk then mirrorLost s else s) r.cycle.toNat) =
      laterSeen (if r.incomplete && s.peer.mirrorOk then mirrorLost s else s) r.cycle.toNat := by
  have hk : Kept [.peer, .gut] s (if r.incomplete && s.peer.mirrorOk then mirrorLost s else s) := by
    split
    · exact mirrorLost_kept s
    · exact .refl _ s
  refine tryStandby_idle ?_
  rw [(hk.step (laterSeen_kept ..) rfl).frame.rest .mode (by decide), h]
  decide

theorem discipline_mod (s : State) (l : Plane) (r : Renew) : (discipline s l r).mod = s.mod :=
  (discipline_kept ..).mod_eq (by decide) (by decide)

theorem renewStandby_follows {s : State} (h : s.mod.st = .standby) (l : Plane) (r : Renew) :
    renewStandby l r s = renewFollowed r (discipline s l r) := by
  have hst : (s.mod.st == .standby) = true := beq_iff_eq.mpr h
  have hd : (discipline s l r).mod.st = .standby := by rw [discipline_mod, h]
  simp only [renewStandby, hst, if_true]
  rw [tryStandby_followed hd, renewFollowed]

/-- The RELEASE names the cycle under way: it comes at that cycle's end. -/
def releasesNow (s : State) (r : Renew) : Bool := r.release && r.cycle == s.cyc.k

/-- The standby's next common instant is the holder's (R333). -/
theorem discipline_cycle (s : State) (l : Plane) (r : Renew) :
    (discipline s l r).cyc.k = (if releasesNow s r then r.cycle else r.cycle - 1) ∧
    (discipline s l r).time.ckNs = (if releasesNow s r then r.rtime else r.rtime - BitVec.ofNat 64 (periodNs s)) ∧
    ∀ d, ((discipline s l r).lanes.get d).k = (discipline s l r).cyc.k :=
  ⟨rfl, rfl, fun _ => congrArg LaneSt.k (Quad.get_map ..)⟩

/-- The RENEW is the holder's last, and its SEQ is noted. -/
def renewNoted (m : List Byte) (s : State) : State :=
  { s with peer := { s.peer with seenLease := noteSeq s.peer.seenLease (pmSeq m), renew := some (renewOf m), heard := true } }

theorem renewTake_unheld {s : State} {m : List Byte} (hk : epochKnown s ≤ pmEpoch m) (hn : s.peer.seenLease.contains (pmSeq m) = false)
    (hh : s.peer.held = false) (l : Plane) : renewTake l m s = renewStandby l (renewOf m) (renewNoted m s) := by
  have hgo : ¬ ((decide ((renewOf m).epoch.toNat < epochKnown s) || s.peer.seenLease.contains (pmSeq m)) = true) := by
    rw [hn, renewOf, toNat_pmEpoch]
    simpa using hk
  exact (if_neg hgo).trans (if_pos (by rw [hh]; rfl))

/-- While it runs, the holder keeps its lease whatever RENEW comes (R332). -/
theorem renewTake_holder {s : State} (hh : s.peer.held = true) (hr : s.mod.st.runs = true) (l : Plane) (m : List Byte) :
    renewTake l m s = s := by
  have hst : ¬ (s.mod.st = .boot ∨ s.mod.st = .indicate) := by
    rintro (h | h) <;> rw [h] at hr <;> exact Bool.false_ne_true hr
  rw [not_or] at hst
  simp [renewTake, hh, hst]

/-- A standby follows the RENEW of the holder. -/
theorem exec_renewReceive_standby {s : State} {l : Plane} {m : List Byte} (hl : linkLive s l = true)
    (hv : peerValid ptRenew l m = true) (hn : m.length = 100) (hh : s.peer.held = false) (hf : freshLease s m)
    (hs : s.mod.st = .standby) : exec (.renewReceive l m) s =
      .next (renewFollowed (renewOf m) (discipline (renewNoted m (leaseArrived m s)) l (renewOf m))) := by
  obtain ⟨hk, hsend, hseen⟩ := hf
  have hpeer := leaseArrived_peer m s
  have hknown : epochKnown (leaseArrived m s) ≤ pmEpoch m := by
    rw [epochKnown_leaseArrived]
    exact epochKnown_raiseEpoch_le (toNat_pmEpoch m) hk
  have hst : (renewNoted m (leaseArrived m s)).mod.st = .standby := (congrArg ModSt.st (leaseArrived_stands m s).mod).trans hs
  rw [exec_renewReceive hl hv hn, leaseArrive_other hsend, renewTake_unheld hknown (by rw [hpeer, hseen]) (by rw [hpeer, hh]),
    renewStandby_follows hst]

/-- What the standby has then: the RENEW, and the holder's cycle and instant (R333, R336; log entry 77). -/
theorem renewFollowed_standby {s : State} (m : List Byte) (l : Plane) (hh : s.peer.held = false) (hs : s.mod.st = .standby) {t : State}
    (ht : t = renewFollowed (renewOf m) (discipline (renewNoted m (leaseArrived m s)) l (renewOf m))) :
    leaseView t.peer = (false, true, some (renewOf m)) ∧ t.mod.st = .standby ∧ (∀ d, (t.lanes.get d).k = t.cyc.k) ∧
    t.cyc.k = (if releasesNow s (renewOf m) then (renewOf m).cycle else (renewOf m).cycle - 1) ∧
    t.time.ckNs = (if releasesNow s (renewOf m) then (renewOf m).rtime else (renewOf m).rtime - BitVec.ofNat 64 (periodNs s)) := by
  obtain ⟨hk, hck, hlanes⟩ := discipline_cycle (renewNoted m (leaseArrived m s)) l (renewOf m)
  have hkept := renewFollowed_kept (renewOf m) (discipline (renewNoted m (leaseArrived m s)) l (renewOf m))
  have hview := renewFollowed_leaseView (renewOf m) (discipline (renewNoted m (leaseArrived m s)) l (renewOf m))
  have hcyc : (renewNoted m (leaseArrived m s)).cyc = s.cyc := (leaseArrived_kept m s).frame.rest .cyc (by decide)
  have hrel : releasesNow (renewNoted m (leaseArrived m s)) (renewOf m) = releasesNow s (renewOf m) := by
    rw [releasesNow, releasesNow, hcyc]
  have hper : periodNs (renewNoted m (leaseArrived m s)) = periodNs s :=
    ((leaseArrived_stands m s).trans (t := leaseArrived m s) ⟨fun _ => rfl, rfl⟩ : Stands s (renewNoted m (leaseArrived m s))).periodNs
  have hpeer : (discipline (renewNoted m (leaseArrived m s)) l (renewOf m)).peer = (renewNoted m (leaseArrived m s)).peer :=
    (discipline_kept ..).frame.rest .peer (by decide)
  have hheld : (leaseArrived m s).peer.held = false := by rw [leaseArrived_peer, hh]
  rw [← ht] at hkept hview
  refine ⟨?_, ?_, fun d => ?_, ?_, ?_⟩
  · rw [hview, hpeer, renewNoted, leaseView, hheld]
  · rw [hkept.frame.rest .mode (by decide), discipline_mod]
    exact (congrArg ModSt.st (leaseArrived_stands m s).mod).trans hs
  · rw [show t.lanes = _ from hkept.frame.rest .lanes (by decide), show t.cyc = _ from hkept.frame.rest .cyc (by decide), hlanes]
  · rw [show t.cyc = _ from hkept.frame.rest .cyc (by decide), hk, hrel]
  · rw [show t.time = _ from hkept.frame.rest .time (by decide), hck, hrel, hper]

/-! ## BEAT at the holder (R334, R335, R339) -/

/-- The BEAT is the standby's last: its SEQ is noted, and INCOMPLETE ends where it shows MIRROR_OK again (log entry 99). -/
def beatNoted (m : List Byte) (p : PeerSt) : PeerSt :=
  { beatMark ((beatOf m).hflags.getLsbD 1) p with seenLease := noteSeq p.seenLease (pmSeq m), beat := some (beatOf m) }

theorem beatMark_held (ok : Bool) (p : PeerSt) : (beatMark ok p).held = p.held := by
  rw [beatMark]
  split
  · rfl
  · split <;> rfl

/-- All that a new BEAT changes of the pair's record beside is whether the loss of health has been told. -/
theorem beatTake_noted {s : State} {m : List Byte} (hh : s.peer.held = true) (hn : s.peer.seenLease.contains (pmSeq m) = false) :
    ∃ told, (beatTake m s).peer = { beatNoted m s.peer with incAlarm := told } := by
  have hnew : ¬ ((!s.peer.held || s.peer.seenLease.contains (pmSeq m)) = true) := by rw [hh, hn]; exact Bool.false_ne_true
  unfold beatTake
  extract_lets b told mark s1 s2 conds
  rw [if_neg hnew]
  have hs2 : s2.peer = beatNoted m s.peer := by
    dsimp only [s2]
    split
    · exact raiseHub_peer ..
    · rfl
  have hload : (loadDone (healthAlarm s2 conds)).peer = (healthAlarm s2 conds).peer := (loadDone_kept _).frame.rest .peer (by decide)
  exact ⟨_, hload.trans ((healthAlarm_peer ..).trans (by rw [hs2]))⟩

/-- The holder takes a new BEAT. -/
theorem exec_beatReceive_holder {s : State} {l : Plane} {m : List Byte} (hl : linkLive s l = true)
    (hv : peerValid ptBeat l m = true) (hn : m.length = 100) (hh : s.peer.held = true) (hf : freshLease s m) :
    ∃ t told, exec (.beatReceive l m) s = .next t ∧ t.peer = { beatNoted m (leaseArrived m s).peer with incAlarm := told } := by
  obtain ⟨-, hsend, hseen⟩ := hf
  have hpeer := leaseArrived_peer m s
  obtain ⟨told, ht⟩ := beatTake_noted (s := leaseArrived m s) (m := m) (by rw [hpeer, hh]) (by rw [hpeer, hseen])
  exact ⟨_, told, by rw [exec_beatReceive hl hv hn, leaseArrive_other hsend], ht⟩

/-- INCOMPLETE stands until the standby, having learnt of it, shows MIRROR_OK again. -/
theorem beatMark_markInc (ok : Bool) (p : PeerSt) : (beatMark ok p).markInc = (p.markInc && !(ok && p.markSeen)) := by
  cases ok with
  | false => simp [beatMark]
  | true => cases hi : p.markInc <;> cases hs : p.markSeen <;> simp [beatMark, hi, hs]

/-! ## LINK, and a message with this module's own ID (R323, R327, R333) -/

theorem exec_linkReceive {s : State} {l : Plane} {m : List Byte} (hl : linkLive s l = true) (hv : peerValid ptLink l m = true) (rtt : Nat) :
    exec (.linkReceive l m rtt) s = .next (leaseArrive s m fun t => if (linkAt t l).rxSeq == pmSeq m then t
      else linkMod t l fun x => { x with rxSeq := pmSeq m, delayNs := rtt / 2 }) :=
  congrArg Host.Outcome.next (if_pos (by simp [hl, hv]))

theorem pairConflict_peer (s : State) : (pairConflict s).peer = { s.peer with conflict := true } := by
  rw [pairConflict]
  split
  · next h => rw [← h]
  · rw [raiseHub_peer]

/-- A LINK, new or seen, moves epochs and the peer's own part only. -/
theorem linkTaken_kept (s : State) (l : Plane) (m : List Byte) (f : PeerLink → PeerLink) :
    Kept [.lanes, .peer] s (if (linkAt (leaseArrived m s) l).rxSeq == pmSeq m then leaseArrived m s else linkMod (leaseArrived m s) l f) := by
  split
  · exact leaseArrived_kept m s
  · exact (leaseArrived_kept m s).step (linkMod_kept ..) rfl

theorem releasesNow_iff {s : State} {r : Renew} : releasesNow s r = true ↔ r.release = true ∧ r.cycle = s.cyc.k := by
  simp [releasesNow]

/-- Settles O54: RENEW by what its receiver follows, BEAT by what the holder notes, LINK by its own link, the conflict by its flag. -/
theorem leaseMessagesTaken : Obligations.LeaseMessagesTaken := by
  unfold Obligations.LeaseMessagesTaken
  refine fun s l m hl => ⟨fun hv hn hh hf hs => ?_, fun hv hn hh hr hsend => ?_, fun hv hn hh hf => ?_, fun hv hsend rtt => ?_,
    fun hv hsend rtt => ?_⟩
  · obtain ⟨hview, hst, hlanes, hk, hck⟩ := renewFollowed_standby m l hh hs rfl
    simp only [leaseView, Prod.mk.injEq] at hview
    obtain ⟨hheld, hheard, hrenew⟩ := hview
    refine ⟨_, exec_renewReceive_standby hl hv hn hh hf hs, hrenew, hheard, hheld, hst, hlanes, fun hnot => ?_, fun hrel hcyc => ?_⟩
    · rw [hk, hck, if_neg (mt releasesNow_iff.mp hnot), if_neg (mt releasesNow_iff.mp hnot)]
      exact ⟨rfl, rfl⟩
    · have hnow := releasesNow_iff.mpr ⟨hrel, hcyc⟩
      rw [hk, hck, if_pos hnow, if_pos hnow]
      exact ⟨hcyc, rfl⟩
  · have hmod := (leaseArrived_stands m s).mod
    have hpeer := leaseArrived_peer m s
    refine ⟨leaseArrived m s, ?_, by rw [hpeer, hh], by rw [hpeer], hmod, (leaseArrived_kept m s).frame.rest .cyc (by decide)⟩
    rw [exec_renewReceive hl hv hn, leaseArrive_other hsend, renewTake_holder (by rw [hpeer, hh]) (by rwa [hmod])]
  · obtain ⟨t, told, hx, ht⟩ := exec_beatReceive_holder hl hv hn hh hf
    refine ⟨t, hx, by rw [ht, beatNoted], ?_, ?_, exec_frame hx⟩
    · rw [ht]
      exact (beatMark_markInc ..).trans (by rw [beatMark_markInc, leaseArrived_peer])
    · rw [ht]
      exact (beatMark_held ..).trans (by rw [leaseArrived_peer, hh])
  · have hx := exec_linkReceive hl hv rtt
    rw [leaseArrive_other hsend] at hx
    have hlink (k : Plane) : linkAt (leaseArrived m s) k = linkAt s k := by rw [linkAt, linkAt, leaseArrived_peer]
    refine ⟨_, hx, fun hnew => ?_, fun hold => ?_, fun k hk => ?_, fun hd => ?_, (linkTaken_kept s l m _).frame⟩
    · rw [hlink, if_neg (by simpa using hnew), linkAt_linkMod]
      exact ⟨rfl, rfl⟩
    · rw [hlink, if_pos (by simpa using hold), hlink]
    · split
      · exact hlink k
      · rw [linkAt_linkMod_other _ hk, hlink]
    · refine (le_epochKnown_raiseEpoch (toNat_pmEpoch m) hd).trans_eq ?_
      rw [← epochKnown_leaseArrived]
      split
      · rfl
      · exact (epochKnown_congr rfl fun _ => rfl).symm
  · have hx := exec_linkReceive hl hv rtt
    rw [leaseArrive_own hsend] at hx
    have hpeer := pairConflict_peer (raiseEpoch { s with peer := { s.peer with leaseIn := leaseKeep s.peer.leaseIn m } } (pmEpoch m))
    rw [raiseEpoch_peer] at hpeer
    exact ⟨_, hx, by rw [hpeer], by rw [hpeer], by rw [hpeer], by rw [hpeer], exec_frame hx⟩

end Sys2Proof.Machine
end

section
/-! SUPPORT. The standby follows the mirror (R323, R329, R337 to R341): a block is put to its item, an item that is whole is taken, a
group is applied to every working lane's region, or the standby's own computation of its cycle begins, ends, and is compared. -/

namespace Sys2Proof.Machine

/-! ## What the lanes and the count of completed cycles carry over -/

/-- What a group works on in a lane: its role, by which it takes part, and its region. -/
def roleRegion (x : LaneSt) : Role × Mem := (x.role, x.region)

/-- Every lane keeps what f reads of it, and the completed cycles are as many. -/
structure Carried {β : Type} (f : LaneSt → β) (s t : State) : Prop where
  lane : ∀ l, f (t.lanes.get l) = f (s.lanes.get l)
  done : t.cyc.done = s.cyc.done

section
variable {β : Type} {f : LaneSt → β}

theorem Carried.refl (s : State) : Carried f s s := ⟨fun _ => rfl, rfl⟩

theorem Carried.trans {r s t : State} (h : Carried f r s) (g : Carried f s t) : Carried f r t :=
  ⟨fun l => (g.lane l).trans (h.lane l), g.done.trans h.done⟩

theorem Carried.of_kept {ps : List Part} {s t : State} (h : Kept ps s t) (hl : Part.lanes ∉ ps) (hc : Part.cyc ∉ ps) : Carried f s t :=
  ⟨fun l => by rw [h.frame.rest .lanes hl], congrArg CycleSt.done (h.frame.rest .cyc hc)⟩

theorem Carried.onLanes {g : Lane → LaneSt → LaneSt} (h : ∀ l x, f (g l x) = f x) (s : State) (ls : List Lane) :
    Carried f s (onLanes s ls g) := by
  refine ⟨fun l => ?_, rfl⟩
  by_cases hm : l ∈ ls
  · rw [onLanes_in _ _ _ _ hm, h]
  · rw [onLanes_out _ _ _ _ hm]

theorem Carried.onLane {g : LaneSt → LaneSt} (h : ∀ x, f (g x) = f x) (s : State) (l : Lane) : Carried f s (onLane s l g) := by
  refine ⟨fun k => ?_, rfl⟩
  by_cases hk : k = l
  · rw [hk, onLane_same, h]
  · rw [onLane_other _ _ _ _ hk]

theorem Carried.foldl {α : Type} {g : State → α → State} (h : ∀ s x, Carried f s (g s x)) (xs : List α) (s : State) :
    Carried f s (xs.foldl g s) :=
  List.foldlRecOn xs g (motive := Carried f s) (Carried.refl s) fun t ht x _ => ht.trans (h t x)

end

theorem Carried.role {s t : State} (h : Carried roleRegion s t) (l : Lane) : (t.lanes.get l).role = (s.lanes.get l).role :=
  congrArg Prod.fst (h.lane l)

theorem Carried.region {s t : State} (h : Carried roleRegion s t) (l : Lane) : (t.lanes.get l).region = (s.lanes.get l).region :=
  congrArg Prod.snd (h.lane l)

theorem Carried.working {s t : State} (h : Carried roleRegion s t) : working t = working s := working_congr h.role

/-! ## A group is applied (R338) -/

theorem queueGroup_roleRegion (g : JGroup) (x : LaneSt) : roleRegion (queueGroup g x) = roleRegion x := by
  rw [queueGroup]
  split <;> rfl

theorem mirrorLane_roleRegion (g : JGroup) (x : LaneSt) : roleRegion (mirrorLane g x) = (x.role, applyGroup x.region g) :=
  queueGroup_roleRegion ..

theorem mirrorSnap_carried (c : DWord) (s : State) (l : Lane) : Carried roleRegion s (mirrorSnap c s l) := by
  rw [mirrorSnap]
  split
  · exact .of_kept (raiseLane_kept ..) (by decide) (by decide)
  · exact Carried.onLane (g := snapBegin c) (fun _ => rfl) s l

/-- Where no FULL slice waits for the cycle, those of later ones go on waiting and no more. -/
theorem applyWaiting_none {s : State} {c : DWord} (h : ∀ w ∈ s.peer.fullWait, w.1 ≠ c) : applyWaiting c s =
    { s with peer := { s.peer with fullWait := s.peer.fullWait.filter fun w => c.toNat < w.1.toNat } } := by
  have hnone : (s.peer.fullWait.filter fun w => w.1 == c) = [] :=
    List.filter_eq_nil_iff.mpr fun w hw he => h w hw (eq_of_beq he)
  rw [applyWaiting, hnone, List.foldl_nil]

/-- The group is in every working lane's region, and of the peer's part stands what is not about its arrival. -/
theorem applyMirror_applied {s : State} {g : JGroup} (h : ∀ w ∈ s.peer.fullWait, w.1 ≠ g.cycle) (exch : Bool) :
    (applyMirror g exch s).peer = { s.peer with groupWait := none, lastApplied := g.cycle,
                                                fullWait := s.peer.fullWait.filter fun w => g.cycle.toNat < w.1.toNat } ∧
      ∀ l ∈ working s, ((applyMirror g exch s).lanes.get l).region = applyGroup (s.lanes.get l).region g := by
  unfold applyMirror
  extract_lets src s0 s2 s3
  have hlane : ∀ l ∈ working s, roleRegion (s2.lanes.get l) = ((s.lanes.get l).role, applyGroup (s.lanes.get l).region g) := by
    intro l hl
    have hin := onLanes_in s0 (working s0) (fun _ x => mirrorLane g x) l hl
    rw [← mirrorLane_roleRegion]
    exact congrArg roleRegion hin
  have hsnap : Carried roleRegion s2 s3 := by
    dsimp only [s3]
    split
    · exact .foldl (fun t l => mirrorSnap_carried g.cycle t l) _ _
    · exact .refl s2
  have hpeer : s3.peer = s0.peer := by
    dsimp only [s3]
    split
    · exact (Kept.foldl (fun t l => mirrorSnap_kept g.cycle t l) _ _).frame.rest .peer (by decide)
    · rfl
  rw [applyWaiting_none (by rwa [hpeer])]
  exact ⟨by rw [hpeer], fun l hl => (hsnap.region l).trans (congrArg Prod.snd (hlane l hl))⟩

/-! ## What the computation of a mirrored cycle starts from (R329, R340) -/

theorem mirrorEaves_carried (y : Yealm) (raw : List Byte) (nowT : DWord) (s : State) : Carried roleRegion s (mirrorEaves y raw nowT s) := by
  unfold mirrorEaves
  split
  · exact .refl s
  · extract_lets f old ins
    exact ⟨fun l => by rw [Quad.get_map]; rfl, rfl⟩

theorem mirrorInputs_carried (secs : List (Nat × Nat × Nat × Nat × List Byte)) (raw : List Byte) (stime : DWord) (s : State) :
    Carried roleRegion s (mirrorInputs secs raw stime s) := by
  unfold mirrorInputs
  extract_lets src s1 s2
  have h1 : Carried roleRegion s s1 := ⟨fun l => by dsimp only [s1, mirrorDrain]; rw [Quad.get_mapL]; rfl, rfl⟩
  have h2 : Carried roleRegion s1 s2 := by
    dsimp only [s2]
    split
    · exact .refl s1
    · exact (Carried.of_kept (stepNodes_kept ..) (by decide) (by decide)).trans (mirrorEaves_carried ..)
  exact (h1.trans h2).trans ⟨fun l => by dsimp only; rw [Quad.get_map]; rfl, rfl⟩

/-- The state in which the inputs of a mirrored cycle stand in the lanes' image. -/
def mirrorBegun (secs : List (Nat × Nat × Nat × Nat × List Byte)) (raw : List Byte) (st : DWord) (ctl : BitVec 6 × BitVec 25 × BitVec 2)
    (s : State) : State :=
  mirrorInputs secs raw st { s with peer := { s.peer with mirrorIn := none, mirrorPres := none, mirrorCtl := ctl } }

theorem mirrorBegun_carried (secs : List (Nat × Nat × Nat × Nat × List Byte)) (raw : List Byte) (st : DWord)
    (ctl : BitVec 6 × BitVec 25 × BitVec 2) (s : State) : Carried roleRegion s (mirrorBegun secs raw st ctl s) :=
  ⟨(mirrorInputs_carried ..).lane, (mirrorInputs_carried ..).done⟩

theorem mirrorBegun_peer (secs : List (Nat × Nat × Nat × Nat × List Byte)) (raw : List Byte) (st : DWord)
    (ctl : BitVec 6 × BitVec 25 × BitVec 2) (s : State) : (mirrorBegun secs raw st ctl s).peer =
    { s.peer with mirrorIn := none, mirrorPres := none, mirrorCtl := ctl } :=
  (mirrorInputs_kept ..).frame.rest .peer (by decide)

theorem exchangedIn_congr {s t : State} (hl : t.lanes = s.lanes) (hm : t.mod = s.mod) (g : JGroup) : exchangedIn t g = exchangedIn s g := by
  rw [exchangedIn, exchangedIn, lead, lead, (Stands.of_lanes hl hm).refLane, hl]

section
variable {s : State} {g : JGroup} {c : DWord}

/-- Nothing begins while a part of what it starts from is missing. -/
theorem mirrorStart_missing (h : s.peer.groupWait = none ∨ s.peer.mirrorIn = none ∨ s.peer.mirrorPres = none) : mirrorStart s = s := by
  unfold mirrorStart
  split
  · next hg hi hp => simp [hg, hi, hp] at h
  · rfl

variable {secs : List (Nat × Nat × Nat × Nat × List Byte)} {raw : List Byte} {key : BitVec 6} {sw : BitVec 25} {sup : BitVec 2} {st : DWord}
  {asns : List DWord} {tasks : List Nat} (hw : s.peer.groupWait = some g) (hi : s.peer.mirrorIn = some (g.cycle, .inputs secs raw key sw sup st))
  (hp : s.peer.mirrorPres = some (g.cycle, .present asns tasks)) (hx : exchangedIn s g = false)
include hw hi hp hx

/-- With INPUTS, PRESENT and the group of one cycle there, and no exchange: the computation begins, or a missed cycle's group is applied. -/
theorem mirrorStart_ready : mirrorStart s =
    if hasDelta g then
      openShadow g.cycle asns tasks st { mirrorBegun secs raw st (key, sw, sup) s with
        cyc := { (mirrorBegun secs raw st (key, sw, sup) s).cyc with abandoned := [] } }
    else applyMirror g false { mirrorBegun secs raw st (key, sw, sup) s with
        cyc := { (mirrorBegun secs raw st (key, sw, sup) s).cyc with abandoned := tasks } } := by
  have hx0 : exchangedIn { s with peer := { s.peer with mirrorIn := none, mirrorPres := none, mirrorCtl := (key, sw, sup) } } g = false :=
    (exchangedIn_congr rfl rfl g).trans hx
  unfold mirrorStart
  split
  · next hw' hi' hp' =>
    cases hw.symm.trans hw'
    cases hi.symm.trans hi'
    cases hp.symm.trans hp'
    rw [if_pos (by simp)]
    dsimp only [mirrorBegun]
    rw [if_neg (Bool.eq_false_iff.mp hx0)]
  · next hno => exact (hno _ _ _ _ _ _ _ _ _ _ _ hw hi hp).elim

end

/-! ## A block is put to its item, and a whole item is taken (R329, R337 to R339) -/

theorem mirrorPump_idle {s : State} (h : s.peer.mirrorHold = []) : mirrorPump s = s := by rw [mirrorPump, h, List.length_nil, mirrorRun]

theorem mirrorLate_idle {s : State} (h : s.peer.groupWait = none) (now : DWord) : mirrorLate now s = s := by rw [mirrorLate, h]

/-- The only item that waits is taken, where no computation is under way. -/
theorem mirrorPump_only {s : State} (hw : s.peer.groupWait = none) (hh : s.peer.mirrorHold = []) (c : DWord) (p : MirrorPay) :
    mirrorPump { s with peer := { s.peer with mirrorHold := s.peer.mirrorHold ++ [(c, p)] } } = mirrorTake c p s := by
  have hs : { s with peer := { s.peer with mirrorHold := [] } } = s := by rw [← hh]
  have hfree : mirrorBlocked { s with peer := { s.peer with mirrorHold := [(c, p)] } } c = false := by simp only [mirrorBlocked, hw]
  rw [hh, List.nil_append, mirrorPump]
  simp only [List.length_singleton, mirrorRun, List.find?_cons, hfree, Bool.not_false, List.erase_cons_head, hs]

theorem Frame.refl (ps : List Part) (s : State) : Frame ps s s := (Kept.refl ps s).frame

theorem Frame.upd_peer {s r : State} (h : Frame [.peer] s r) (p : PeerSt) : Frame [.peer] s { r with peer := p } :=
  ⟨h.queue, fun q hq => by
    have hr := h.rest q hq
    cases q
    case peer => exact (hq (List.mem_singleton.mpr rfl)).elim
    all_goals exact hr⟩

/-- The peer's part once a mirror block is taken: credits, SEQ and returned buffers. -/
def blockNoted (m : List Byte) (s : State) : State :=
  { s with peer := { s.peer with
      crMirror := min 256 (s.peer.crMirror + pmCrMirror m), crReq := min 64 (s.peer.crReq + pmCrReq m),
      seenMirror := noteSeq s.peer.seenMirror (pmSeq m), backMirror := s.peer.backMirror + blocksOf (pmPay m).length } }

theorem blockNoted_frame (m : List Byte) (s : State) : Frame [.peer] s (blockNoted m s) := (Frame.refl _ s).upd_peer _

theorem blockJoin_part {b : MirrorBlk} {s : State} (h : joined (keepBlock b s.peer.mirrorAsm) b.kind b.cycle = none) :
    blockJoin b s = { s with peer := { s.peer with mirrorAsm := keepBlock b s.peer.mirrorAsm } } := by
  unfold blockJoin
  dsimp only
  rw [h]

/-- The blocks of an item that is whole are given up, and those too old. -/
def itemLeft (b : MirrorBlk) (s : State) : State :=
  { s with peer := { s.peer with
      mirrorAsm := (keepBlock b s.peer.mirrorAsm).filter fun x => !(x.kind == b.kind && x.cycle == b.cycle) } }

theorem blockJoin_whole {b : MirrorBlk} {s : State} {content : List Byte} {p : MirrorPay}
    (h : joined (keepBlock b s.peer.mirrorAsm) b.kind b.cycle = some content) (hp : itemOf b.kind content = some p) :
    blockJoin b s = mirrorArrive b.cycle p (itemLeft b s) := by
  unfold blockJoin
  dsimp only
  rw [h]
  dsimp only
  rw [hp]
  rfl

/-- What the standby has noted of a block, with the blocks that are left. -/
def itemNoted (m : List Byte) (s : State) : State := itemLeft (blockOf (pmPay m)) (blockNoted m s)

theorem itemNoted_frame (m : List Byte) (s : State) : Frame [.peer] s (itemNoted m s) := (blockNoted_frame m s).upd_peer _

section
variable (m : List Byte) (s : State)

theorem itemNoted_lanes : (itemNoted m s).lanes = s.lanes := by rw [itemNoted, itemLeft, blockNoted]

theorem itemNoted_mod : (itemNoted m s).mod = s.mod := by rw [itemNoted, itemLeft, blockNoted]

theorem itemNoted_lastGroup : (itemNoted m s).peer.lastGroup = s.peer.lastGroup := by rw [itemNoted, itemLeft, blockNoted]

theorem itemNoted_mirrorIn : (itemNoted m s).peer.mirrorIn = s.peer.mirrorIn := by rw [itemNoted, itemLeft, blockNoted]

theorem itemNoted_mirrorPres : (itemNoted m s).peer.mirrorPres = s.peer.mirrorPres := by rw [itemNoted, itemLeft, blockNoted]

theorem itemNoted_fullWait : (itemNoted m s).peer.fullWait = s.peer.fullWait := by rw [itemNoted, itemLeft, blockNoted]

end

/-- The standby with a group of a cycle waiting. -/
def groupNoted (c : DWord) (recs : List JRec) (s : State) : State :=
  { s with peer := { s.peer with lastGroup := c, groupWait := some (mirroredGroup c recs) } }

section
variable {s : State} (hw : s.peer.groupWait = none) (hh : s.peer.mirrorHold = [])
include hw hh

theorem mirrorArrive_present (c : DWord) (asns : List DWord) (tasks : List Nat) : mirrorArrive c (.present asns tasks) s =
    { s with peer := { s.peer with mirrorPres := some (c, .present asns tasks) } } := by
  rw [mirrorArrive, mirrorLate_idle hw]
  exact (mirrorPump_only hw hh ..).trans (mirrorStart_missing (.inl hw))

theorem mirrorArrive_result (c : DWord) (crc : Word) (sum : DWord) : mirrorArrive c (.result crc sum) s =
    { s with peer := { s.peer with result := some (c, crc, sum) } } := by
  rw [mirrorArrive, mirrorLate_idle hw]
  exact mirrorPump_only hw hh ..

theorem mirrorArrive_group {c : DWord} {recs : List JRec} (hd : (closeDigest recs).isSome = true) (hn : s.peer.lastGroup + 1 = c) :
    mirrorArrive c (.group recs) s = mirrorStart (groupNoted c recs s) := by
  have hopen : ¬(closeDigest recs).isNone = true := by simp [Option.isSome_iff_ne_none.mp hd]
  have hseen : groupSeen c recs s = { s with peer := { s.peer with lastGroup := c } } := by
    rw [groupSeen, if_neg hopen, if_pos hn]
  rw [mirrorArrive, mirrorLate_idle hw]
  dsimp only
  rw [hseen]
  exact (mirrorPump_only (s := { s with peer := { s.peer with lastGroup := c } }) hw hh ..).trans (if_neg hopen)

end

theorem mirrorStart_groupNoted {s : State} (h : s.peer.mirrorIn = none ∨ s.peer.mirrorPres = none) (c : DWord) (recs : List JRec) :
    mirrorStart (groupNoted c recs s) = groupNoted c recs s := mirrorStart_missing (.inr h)

section
variable {s : State} {l : Plane} {m : List Byte} (hl : linkLive s l = true) (hv : peerValid ptMirror l m = true)
include hl hv

theorem exec_mirrorBlockReceive : exec (.mirrorBlockReceive l m) s = .next (peerArrive s m (blockTake m)) :=
  congrArg Host.Outcome.next (if_pos (by rw [hl, hv]; rfl))

variable (he : pmEpoch m ≤ epochKnown s)
include he

theorem exec_mirrorBlock_own (hs : pmSender m = masterId s) : exec (.mirrorBlockReceive l m) s = .next (pairConflict s) := by
  rw [exec_mirrorBlockReceive hl hv, peerArrive, raiseEpoch_known he, if_pos hs]

theorem exec_mirrorBlock_seen (hs : pmSender m ≠ masterId s) (hseen : s.peer.seenMirror.contains (pmSeq m) = true) :
    exec (.mirrorBlockReceive l m) s = .next { s with peer := { s.peer with
      crMirror := min 256 (s.peer.crMirror + pmCrMirror m), crReq := min 64 (s.peer.crReq + pmCrReq m) } } := by
  rw [exec_mirrorBlockReceive hl hv, peerArrive, raiseEpoch_known he, if_neg hs]
  exact congrArg Host.Outcome.next (if_pos hseen)

variable (hst : s.mod.st = .standby) (hs : pmSender m ≠ masterId s) (hnew : s.peer.seenMirror.contains (pmSeq m) = false)
include hst hs hnew

/-- A new block of the other module is put to its item. -/
theorem exec_mirrorBlock_new : exec (.mirrorBlockReceive l m) s = .next (blockJoin (blockOf (pmPay m)) (blockNoted m s)) := by
  have hmir : (s.mod.st == .standby && fldBE m 0 2 == ptMirror) = true := by
    rw [hst, fld_of_peerValid hv]
    rfl
  rw [exec_mirrorBlockReceive hl hv, peerArrive, raiseEpoch_known he, if_neg hs]
  exact congrArg Host.Outcome.next ((if_neg (Bool.eq_false_iff.mp hnew)).trans (if_pos hmir))

theorem exec_mirrorBlock_part
    (hj : joined (keepBlock (blockOf (pmPay m)) s.peer.mirrorAsm) (blockOf (pmPay m)).kind (blockOf (pmPay m)).cycle = none) :
    exec (.mirrorBlockReceive l m) s = .next { blockNoted m s with
      peer := { (blockNoted m s).peer with mirrorAsm := keepBlock (blockOf (pmPay m)) s.peer.mirrorAsm } } :=
  (exec_mirrorBlock_new hl hv he hst hs hnew).trans (congrArg Host.Outcome.next (blockJoin_part (s := blockNoted m s) hj))

theorem exec_mirrorBlock_item {p : MirrorPay} (hp : blockCompletes s m p) :
    exec (.mirrorBlockReceive l m) s = .next (mirrorArrive (blockOf (pmPay m)).cycle p (itemNoted m s)) := by
  obtain ⟨content, hj, hi⟩ := hp
  exact (exec_mirrorBlock_new hl hv he hst hs hnew).trans (congrArg Host.Outcome.next (blockJoin_whole (s := blockNoted m s) hj hi))

theorem exec_mirrorBlock_group {recs : List JRec} (hw : s.peer.groupWait = none) (hh : s.peer.mirrorHold = [])
    (hp : blockCompletes s m (.group recs)) (hd : (closeDigest recs).isSome = true)
    (hn : s.peer.lastGroup + 1 = (blockOf (pmPay m)).cycle) :
    exec (.mirrorBlockReceive l m) s = .next (mirrorStart (groupNoted (blockOf (pmPay m)).cycle recs (itemNoted m s))) := by
  rw [exec_mirrorBlock_item hl hv he hst hs hnew hp,
    mirrorArrive_group (s := itemNoted m s) hw hh hd (by rw [itemNoted_lastGroup, hn])]

end

/-! ## The group of a cycle whose INPUTS and PRESENT are there -/

/-- The computation of a cycle is open: its tasks stand in every working lane, whose region is as it was. -/
theorem openShadow_opened (c : DWord) (asns : List DWord) (tasks : List Nat) (st : DWord) (s : State) :
    (openShadow c asns tasks st s).peer = { s.peer with shadowC := some c } ∧ (openShadow c asns tasks st s).cyc.released = tasks ∧
      (openShadow c asns tasks st s).agr.shown = asns ∧
      ∀ l ∈ working s, ((openShadow c asns tasks st s).lanes.get l).todo = tasks ∧
        ((openShadow c asns tasks st s).lanes.get l).region = (s.lanes.get l).region := by
  unfold openShadow
  extract_lets cmd snap s1
  refine ⟨rfl, rfl, rfl, fun l hl => ?_⟩
  dsimp only [s1]
  rw [onLanes_in _ _ _ _ hl]
  exact ⟨rfl, rfl⟩

section
variable {s : State} {g : JGroup} {secs : List (Nat × Nat × Nat × Nat × List Byte)} {raw : List Byte} {key : BitVec 6} {sw : BitVec 25}
  {sup : BitVec 2} {st : DWord} {asns : List DWord} {tasks : List Nat} (hw : s.peer.groupWait = some g)
  (hi : s.peer.mirrorIn = some (g.cycle, .inputs secs raw key sw sup st)) (hp : s.peer.mirrorPres = some (g.cycle, .present asns tasks))
  (hx : exchangedIn s g = false)
include hw hi hp hx

theorem mirrorStart_completed (hd : hasDelta g = true) :
    (mirrorStart s).peer.shadowC = some g.cycle ∧ (mirrorStart s).peer.groupWait = some g ∧ (mirrorStart s).cyc.released = tasks ∧
      (mirrorStart s).agr.shown = asns ∧
      ∀ l ∈ working s, ((mirrorStart s).lanes.get l).todo = tasks ∧ ((mirrorStart s).lanes.get l).region = (s.lanes.get l).region := by
  have hin : Carried roleRegion s (mirrorBegun secs raw st (key, sw, sup) s) := mirrorBegun_carried ..
  have hpeer : (mirrorBegun secs raw st (key, sw, sup) s).peer.groupWait = some g := by rw [mirrorBegun_peer, hw]
  rw [mirrorStart_ready hw hi hp hx, if_pos hd]
  obtain ⟨hop, hrel, hshown, hlane⟩ := openShadow_opened g.cycle asns tasks st
    { mirrorBegun secs raw st (key, sw, sup) s with cyc := { (mirrorBegun secs raw st (key, sw, sup) s).cyc with abandoned := [] } }
  refine ⟨by rw [hop], by rw [hop, ← hpeer], hrel, hshown, fun l hl => ?_⟩
  obtain ⟨htodo, hreg⟩ := hlane l (hin.working.symm ▸ hl)
  exact ⟨htodo, hreg.trans (hin.region l)⟩

theorem mirrorStart_missed (hd : hasDelta g = false) (hf : ∀ w ∈ s.peer.fullWait, w.1 ≠ g.cycle) :
    (mirrorStart s).peer.groupWait = none ∧ (mirrorStart s).peer.lastApplied = g.cycle ∧ (mirrorStart s).cyc.abandoned = tasks ∧
      ∀ l ∈ working s, ((mirrorStart s).lanes.get l).region = applyGroup (s.lanes.get l).region g := by
  have hin : Carried roleRegion s (mirrorBegun secs raw st (key, sw, sup) s) := mirrorBegun_carried ..
  have hpeer : (mirrorBegun secs raw st (key, sw, sup) s).peer.fullWait = s.peer.fullWait := by rw [mirrorBegun_peer]
  rw [mirrorStart_ready hw hi hp hx, if_neg (Bool.eq_false_iff.mp hd)]
  obtain ⟨hap, hlane⟩ := applyMirror_applied (g := g) (s :=
    { mirrorBegun secs raw st (key, sw, sup) s with cyc := { (mirrorBegun secs raw st (key, sw, sup) s).cyc with abandoned := tasks } })
    (hpeer.symm ▸ hf) false
  refine ⟨by rw [hap], by rw [hap], by rw [(applyMirror_kept ..).frame.rest .cyc (by decide)], fun l hl => ?_⟩
  exact (hlane l (hin.working.symm ▸ hl)).trans (by rw [hin.region])

end

section
variable {s u : State} {c : DWord} {recs : List JRec} {secs : List (Nat × Nat × Nat × Nat × List Byte)} {raw : List Byte} {key : BitVec 6}
  {sw : BitVec 25} {sup : BitVec 2} {st : DWord} {asns : List DWord} {tasks : List Nat} (hl : u.lanes = s.lanes) (hm : u.mod = s.mod)
  (hi : u.peer.mirrorIn = some (c, .inputs secs raw key sw sup st)) (hp : u.peer.mirrorPres = some (c, .present asns tasks))
  (hx : exchangedIn s (mirroredGroup c recs) = false)
include hl hm hi hp hx

theorem mirrorStart_groupNoted_completed (hd : hasDelta (mirroredGroup c recs) = true) :
    (mirrorStart (groupNoted c recs u)).peer.shadowC = some c ∧
      (mirrorStart (groupNoted c recs u)).peer.groupWait = some (mirroredGroup c recs) ∧
      (mirrorStart (groupNoted c recs u)).cyc.released = tasks ∧ (mirrorStart (groupNoted c recs u)).agr.shown = asns ∧
      ∀ l ∈ working s, ((mirrorStart (groupNoted c recs u)).lanes.get l).todo = tasks ∧
        ((mirrorStart (groupNoted c recs u)).lanes.get l).region = (s.lanes.get l).region := by
  have h := mirrorStart_completed (s := groupNoted c recs u) (g := mirroredGroup c recs) rfl hi hp ((exchangedIn_congr hl hm _).trans hx) hd
  rwa [(Stands.of_lanes (t := groupNoted c recs u) hl hm).working, show (groupNoted c recs u).lanes = s.lanes from hl] at h

theorem mirrorStart_groupNoted_missed (hd : hasDelta (mirroredGroup c recs) = false) (hf : ∀ w ∈ u.peer.fullWait, w.1 ≠ c) :
    (mirrorStart (groupNoted c recs u)).peer.groupWait = none ∧ (mirrorStart (groupNoted c recs u)).peer.lastApplied = c ∧
      (mirrorStart (groupNoted c recs u)).cyc.abandoned = tasks ∧
      ∀ l ∈ working s, ((mirrorStart (groupNoted c recs u)).lanes.get l).region =
        applyGroup (s.lanes.get l).region (mirroredGroup c recs) := by
  have h := mirrorStart_missed (s := groupNoted c recs u) (g := mirroredGroup c recs) rfl hi hp ((exchangedIn_congr hl hm _).trans hx) hd hf
  rwa [(Stands.of_lanes (t := groupNoted c recs u) hl hm).working, show (groupNoted c recs u).lanes = s.lanes from hl] at h

end

/-! ## The computation of a mirrored cycle ends (R340, R341) -/

theorem shadowMismatch_peer (s : State) (c : DWord) (field : Nat) :
    (shadowMismatch s c field).peer = { s.peer with shadowOk := false } := raiseShared_peer ..

theorem closeShadow_carried (s : State) : Carried roleRegion s (closeShadow s) := by
  unfold closeShadow
  extract_lets s1
  have h : Carried roleRegion s s1 := by
    refine .onLanes ?_ _ _
    exact fun _ _ => rfl
  exact ⟨h.lane, h.done⟩

theorem decideExcl_carried (s : State) (l : Lane) (c : ExclCause) (more : List Byte) : Carried roleRegion s (decideExcl s l c more) :=
  ⟨fun k => field_of_mask roleRegion (decideExcl_lane s l c more k) fun _ => rfl,
   field_of_mask CycleSt.done (decideExcl_cyc s l c more) fun _ => rfl⟩

theorem shadowExclude_carried (maj : Majority) (bs : List (Lane × Ballot)) (lost : Quad Bool) (s : State) :
    Carried roleRegion s (shadowExclude maj bs lost s) := by
  unfold shadowExclude
  refine (Carried.foldl (fun t b => ?_) _ _).trans (.foldl (fun t l => decideExcl_carried t l .fabric []) _ _)
  split
  · exact decideExcl_carried ..
  · exact .refl t

theorem callResting_carried (s : State) : Carried LaneSt.region s (callResting s) :=
  ⟨fun l => field_of_mask LaneSt.region (callResting_lane s l) fun _ => rfl,
   field_of_mask CycleSt.done (callResting_cyc s) fun _ => rfl⟩

theorem pickRejoin_carried (s : State) : Carried LaneSt.region s (pickRejoin s) := by
  unfold pickRejoin
  split
  · exact .refl s
  · split
    · exact .refl s
    · next r _ =>
      split
      · exact callResting_carried s
      · split
        · have h := Carried.onLane (f := LaneSt.region) (g := fun x => { x with rejoinRdy := true, rotJoin := true }) (fun _ => rfl) s r
          exact ⟨h.lane, h.done⟩
        · exact .refl s

theorem startCopy_carried (s : State) : Carried LaneSt.region s (startCopy s) := by
  unfold startCopy
  split
  · exact .refl s
  · next r _ =>
    dsimp only
    split
    · have h := Carried.onLane (f := LaneSt.region)
        (g := fun x => { endPass x with role := .copy, inReset := false, copied := false, shadowOk := 0 }) (fun _ => rfl) s r
      exact ⟨h.lane, h.done⟩
    · exact .refl s

/-- The standby counts its own completed computation; no region moves with that. -/
theorem standbyLanes_counted (maj : Majority) (bs : List (Lane × Ballot)) (s : State) :
    (∀ l, ((standbyLanes maj bs s).lanes.get l).region = (s.lanes.get l).region) ∧ (standbyLanes maj bs s).cyc.done = s.cyc.done + 1 := by
  unfold standbyLanes
  extract_lets src s1 sh s2
  have h2 : Carried LaneSt.region s1 s2 := .foldl (fun t l => by
    dsimp only
    have h := Carried.onLane (f := LaneSt.region) (g := fun x => { x with shadowOk := (t.lanes.get l).shadowOk + 1 }) (fun _ => rfl) t l
    split
    · exact ⟨h.lane, h.done⟩
    · exact h) sh s1
  have h3 := (h2.trans (pickRejoin_carried s2)).trans (startCopy_carried _)
  exact ⟨h3.lane, h3.done⟩

/-- The computation of a mirrored cycle is over and its group applied, with this SHADOW_OK. -/
structure ShadowOver (g : JGroup) (ok : Bool) (s t : State) : Prop where
  wait   : t.peer.groupWait = none
  comp   : t.peer.shadowC = none
  last   : t.peer.lastApplied = g.cycle
  hold   : t.peer.mirrorHold = s.peer.mirrorHold
  agreed : t.peer.shadowOk = ok
  region : ∀ l ∈ working s, (t.lanes.get l).region = applyGroup (s.lanes.get l).region g

theorem ShadowOver.of_peer {g : JGroup} {ok : Bool} {s t u : State} (h : ShadowOver g ok s t) (hp : u.peer = t.peer)
    (hr : ∀ l, (u.lanes.get l).region = (t.lanes.get l).region) : ShadowOver g ok s u :=
  ⟨by rw [hp, h.wait], by rw [hp, h.comp], by rw [hp, h.last], by rw [hp, h.hold], by rw [hp, h.agreed],
   fun l hl => (hr l).trans (h.region l hl)⟩

/-- However the vote went and whatever was decided on it: the computation is closed and the group applied. -/
theorem applyMirror_closed {s u : State} {g : JGroup} {ok : Bool} (hu : Carried roleRegion s u)
    (hp : u.peer = { s.peer with shadowOk := ok }) (hf : ∀ w ∈ s.peer.fullWait, w.1 ≠ g.cycle) (exch : Bool) :
    ShadowOver g ok s (applyMirror g exch (closeShadow u)) ∧ (applyMirror g exch (closeShadow u)).cyc.done = s.cyc.done := by
  have hc : Carried roleRegion s (closeShadow u) := hu.trans (closeShadow_carried u)
  have hpeer : (closeShadow u).peer = { s.peer with shadowOk := ok, shadowC := none } := by
    rw [show (closeShadow u).peer = { u.peer with shadowC := none } from rfl, hp]
  obtain ⟨hap, hlane⟩ := applyMirror_applied (s := closeShadow u) (g := g) (by rw [hpeer]; exact hf) exch
  rw [hpeer] at hap
  have hdone : (applyMirror g exch (closeShadow u)).cyc = (closeShadow u).cyc := (applyMirror_kept ..).frame.rest .cyc (by decide)
  exact ⟨⟨by rw [hap], by rw [hap], by rw [hap], by rw [hap], by rw [hap],
    fun l hl => (hlane l (hc.working.symm ▸ hl)).trans (by rw [hc.region])⟩, by rw [hdone, hc.done]⟩

/-- What a majority settles in the lanes before any exclusion: SHADOW_MISMATCH where a field differs, and what was published where none
does. -/
def shadowCompared (f : Nat) (c : DWord) (s : State) : State :=
  let s1 := if f = 0 then s else shadowMismatch s c f
  onLanes s1 (working s1) fun _ x => keepPub (f = 0) x

theorem shadowCompared_carried (f : Nat) (c : DWord) (s : State) : Carried roleRegion s (shadowCompared f c s) := by
  unfold shadowCompared
  extract_lets s1
  have h1 : Carried roleRegion s s1 := by
    dsimp only [s1]
    split
    · exact .refl s
    · exact .of_kept (shadowMismatch_kept ..) (by decide) (by decide)
  refine h1.trans (.onLanes (fun _ x => ?_) _ _)
  rw [keepPub]
  split <;> rfl

theorem shadowCompared_peer (f : Nat) (c : DWord) (s : State) :
    (shadowCompared f c s).peer = { s.peer with shadowOk := s.peer.shadowOk && decide (f = 0) } := by
  unfold shadowCompared
  dsimp only
  rw [onLanes_peer]
  split
  · next h0 => rw [decide_eq_true h0, Bool.and_true]
  · next h0 => rw [shadowMismatch_peer, decide_eq_false h0, Bool.and_false]

section
variable {s : State} {g : JGroup} (hf : ∀ w ∈ s.peer.fullWait, w.1 ≠ g.cycle) (res : Word × DWord) {lost : Quad Bool}
include hf

theorem shadowDone_none (hv : shadowVote s (shadowBallots s g lost) = none) :
    ShadowOver g false s (shadowDone g res lost s) ∧ (shadowDone g res lost s).cyc.done = s.cyc.done := by
  have hd : shadowDone g res lost s = applyMirror g (exchangedIn s g) (closeShadow (shadowMismatch s g.cycle 0)) := by
    unfold shadowDone
    dsimp only
    rw [hv]
  have hm : Carried roleRegion s (shadowMismatch s g.cycle 0) := .of_kept (shadowMismatch_kept ..) (by decide) (by decide)
  rw [hd]
  exact applyMirror_closed hm (shadowMismatch_peer ..) hf _

theorem shadowDone_some {maj : Majority} (hv : shadowVote s (shadowBallots s g lost) = some maj) :
    ShadowOver g (s.peer.shadowOk && decide (shadowField maj res ((closeDigest g.recs).getD 0) = 0)) s (shadowDone g res lost s) ∧
      (shadowDone g res lost s).cyc.done = s.cyc.done + 1 := by
  have hd : shadowDone g res lost s = standbyLanes maj (shadowBallots s g lost) (applyMirror g (exchangedIn s g)
      (closeShadow (shadowExclude maj (shadowBallots s g lost) lost
        (shadowCompared (shadowField maj res ((closeDigest g.recs).getD 0)) g.cycle s)))) := by
    unfold shadowDone
    dsimp only
    rw [hv]
    rfl
  have hpeer := (shadowExclude_kept maj (shadowBallots s g lost) lost
    (shadowCompared (shadowField maj res ((closeDigest g.recs).getD 0)) g.cycle s)).frame.rest .peer (by decide)
  obtain ⟨hover, hdone⟩ := applyMirror_closed ((shadowCompared_carried ..).trans (shadowExclude_carried ..))
    (hpeer.trans (shadowCompared_peer ..)) hf (exchangedIn s g)
  rw [hd]
  obtain ⟨hreg, hcount⟩ := standbyLanes_counted maj (shadowBallots s g lost) _
  exact ⟨hover.of_peer ((standbyLanes_kept ..).frame.rest .peer (by decide)) hreg, by rw [hcount, hdone]⟩

end

theorem exec_shadowComputationComplete {s : State} {g : JGroup} {r : Word × DWord} (hu : hubUp s = true) (hst : s.mod.st = .standby)
    (hw : s.peer.groupWait = some g) (hr : s.peer.result = some (g.cycle, r)) (hc : s.peer.shadowC = some g.cycle)
    (hk : s.cyc.k.toNat < g.cycle.toNat + 2) (a b c d : Bool) :
    exec (.shadowComputationComplete a b c d) s = .next (mirrorPump (shadowDone g r ⟨a, b, c, d⟩ s)) := by
  have hnow : (hubUp s && s.mod.st == .standby && s.peer.shadowC == some g.cycle && g.cycle == g.cycle) = true := by
    rw [hu, hst, hc]
    simp
  rw [exec, execShadowComputationComplete, hw, hr]
  exact congrArg Host.Outcome.next ((if_pos hnow).trans (if_neg (Nat.not_le.mpr hk)))

/-- Settles O57: a block by what its item is, the end of the computation by what its vote says. -/
theorem mirrorFollowed : Obligations.MirrorFollowed := by
  unfold Obligations.MirrorFollowed
  refine ⟨fun s l m hl hst hv he => ⟨fun hs => ?_, fun hs hseen => ?_, fun hs hnew => ⟨fun hj => ?_, fun hw hh =>
    ⟨fun asns tasks hb => ?_, fun crc sum hb => ?_, fun recs hb hd hn => ⟨fun hmiss => ?_, ?_⟩⟩⟩⟩, ?_⟩
  · exact ⟨_, exec_mirrorBlock_own hl hv he hs, pairConflict_peer s, (pairConflict_kept s).frame⟩
  · exact ⟨_, exec_mirrorBlock_seen hl hv he hs hseen, rfl, (Frame.refl _ s).upd_peer _⟩
  · exact ⟨_, exec_mirrorBlock_part hl hv he hst hs hnew hj, rfl, rfl, rfl, (blockNoted_frame m s).upd_peer _⟩
  · exact ⟨_, (exec_mirrorBlock_item hl hv he hst hs hnew hb).trans
      (congrArg Host.Outcome.next (mirrorArrive_present (s := itemNoted m s) hw hh ..)), rfl, (itemNoted_frame m s).upd_peer _⟩
  · exact ⟨_, (exec_mirrorBlock_item hl hv he hst hs hnew hb).trans
      (congrArg Host.Outcome.next (mirrorArrive_result (s := itemNoted m s) hw hh ..)), rfl, (itemNoted_frame m s).upd_peer _⟩
  · have hx := exec_mirrorBlock_group hl hv he hst hs hnew hw hh hb hd hn
    rw [mirrorStart_groupNoted (by rwa [itemNoted_mirrorIn, itemNoted_mirrorPres])] at hx
    exact ⟨_, hx, rfl, rfl, (itemNoted_frame m s).upd_peer _⟩
  · intro secs raw key sw sup st asns tasks hi hp hxch
    have hx := exec_mirrorBlock_group hl hv he hst hs hnew hw hh hb hd hn
    have hlanes := itemNoted_lanes m s
    have hmod := itemNoted_mod m s
    rw [← itemNoted_mirrorIn m] at hi
    rw [← itemNoted_mirrorPres m] at hp
    refine ⟨fun hdelta => ⟨_, hx, mirrorStart_groupNoted_completed hlanes hmod hi hp hxch hdelta⟩, fun hdelta hf => ⟨_, hx, ?_⟩⟩
    rw [← itemNoted_fullWait m] at hf
    exact mirrorStart_groupNoted_missed hlanes hmod hi hp hxch hdelta hf
  · intro s g r a b c d hu hst hw hr hc hk hh hf
    have hx := exec_shadowComputationComplete hu hst hw hr hc hk a b c d
    have hmod : (shadowDone g r ⟨a, b, c, d⟩ s).mod.st = s.mod.st := (shadowDone_kept ..).frame.rest .mode (by decide)
    rcases hvote : shadowVote s (shadowBallots s g ⟨a, b, c, d⟩) with _ | maj
    · obtain ⟨hover, hdone⟩ := shadowDone_none hf r hvote
      rw [mirrorPump_idle (hover.hold.trans hh)] at hx
      exact ⟨_, hx, hover.wait, hover.comp, hmod.trans hst, hover.last, hover.region, fun _ => ⟨hover.agreed, hdone⟩, nofun⟩
    · obtain ⟨hover, hdone⟩ := shadowDone_some hf r hvote
      rw [mirrorPump_idle (hover.hold.trans hh)] at hx
      refine ⟨_, hx, hover.wait, hover.comp, hmod.trans hst, hover.last, hover.region, nofun, fun maj' hm => ?_⟩
      cases hm
      exact ⟨hdone, hover.agreed⟩

end Sys2Proof.Machine
end

section
/-! SUPPORT. The time bases (R356, R358 to R360, R364, R367): the PTP slave locks and loses its source, station time goes on in
HOLDOVER, and what the end of a clock window leaves to the cycle and to each lane. -/

namespace Sys2Proof.Machine

/-! ## The PTP slave (R356, R358, R359) -/

section
variable {s : State}

theorem exec_ptpSync (hu : hubUp s = true) (ofs : Int) : exec (.ptpSync ofs) s = .next (ptpSyncAt ofs s) :=
  congrArg _ (if_pos hu)

theorem ptpLost_time (s : State) : (ptpLost s).time = { s.time with ptpLock := false, goodSync := 0, badSync := 0 } :=
  raiseHub_time ..

/-- An offset within 100 us cannot lose the source; it locks the slave as the 16th in a row. -/
theorem ptpSyncAt_time_near {ofs : Int} (hn : ofs.natAbs ≤ 100) : (ptpSyncAt ofs s).time =
    { s.time with ptpOfs := ofs, goodSync := s.time.goodSync + 1, badSync := 0,
                  ptpLock := s.time.ptpLock || decide (15 ≤ s.time.goodSync) } := by
  have hf : ¬ 1000 < ofs.natAbs := by omega
  cases hl : s.time.ptpLock with
  | true => simp [ptpSyncAt, hn, hf, hl]
  | false => by_cases hg : 15 ≤ s.time.goodSync <;> simp [ptpSyncAt, hn, hf, hl, hg]

/-- An offset beyond 1 ms cannot lock the slave; as the 16th in a row it loses the source of one that is locked. -/
theorem ptpSyncAt_time_far {ofs : Int} (hf : 1000 < ofs.natAbs) : (ptpSyncAt ofs s).time =
    { s.time with ptpOfs := ofs, goodSync := 0, badSync := if s.time.ptpLock && 15 ≤ s.time.badSync then 0 else s.time.badSync + 1,
                  ptpLock := s.time.ptpLock && decide (s.time.badSync < 15) } := by
  have hn : ¬ ofs.natAbs ≤ 100 := by omega
  cases hl : s.time.ptpLock with
  | false => simp [ptpSyncAt, hn, hf, hl]
  | true =>
    by_cases hb : 15 ≤ s.time.badSync
    · simp [ptpSyncAt, ptpLost_time, hn, hf, hl, hb]
    · simp [ptpSyncAt, hn, hf, hl, hb, Nat.lt_of_not_le hb]

/-- The grandmaster is gone, and its UTC offset with it, where no other is heard. -/
def masterGone (no : Bool) (s : State) : State :=
  if no then { s with time := { s.time with gm := none, gmUtc := none } } else s

theorem masterGone_time (no : Bool) (s : State) : (masterGone no s).time =
    { s.time with gm := if no then none else s.time.gm, gmUtc := if no then none else s.time.gmUtc } := by
  cases no <;> rfl

theorem exec_timeSourceLost_locked (hu : hubUp s = true) (hl : s.time.ptpLock = true) (no : Bool) :
    exec (.timeSourceLost no) s = .next (ptpLost (masterGone no s)) :=
  congrArg _ ((if_pos hu).trans (if_pos hl))

theorem exec_timeSourceLost_unlocked (hu : hubUp s = true) (hl : s.time.ptpLock = false) (no : Bool) :
    exec (.timeSourceLost no) s = .next (masterGone no s) :=
  congrArg _ ((if_pos hu).trans (if_neg (by simp [hl])))

theorem exec_ptpAnnounce_taken (hu : hubUp s = true) {m : Announce}
    (h : m.better = true ∨ s.time.gm = none ∨ s.time.gm = some m.gm) : exec (.ptpAnnounce m) s = .next { s with
      time := { s.time with gm := some m.gm, gmUtc := if m.utcValid then some m.utcOfs else none } } :=
  congrArg _ (if_pos (by simpa [hu, or_assoc] using h))

theorem exec_ptpAnnounce_passed (hb : m.better = false) (hg : s.time.gm ≠ none) (hm : s.time.gm ≠ some m.gm) :
    exec (.ptpAnnounce m) s = .next s :=
  congrArg _ (if_neg (by simp [hb, hg, hm]))

/-! ## Station time in HOLDOVER (R360) -/

theorem exec_timeSetHoldover (hu : hubUp s = true) (hs : s.time.src = false) (hr : s.time.ref ≠ none) :
    exec .timeSetHoldover s = .next (toHoldover { s with time := { s.time with ref := none } }) :=
  congrArg _ (if_pos (by simp [hu, hs, Option.isSome_iff_ne_none, hr]))

theorem toHoldover_locked {l : Lane} (hl : l ∈ working s) (hk : stimeState (rgStime (s.lanes.get l).work) = .locked) :
    ((toHoldover s).lanes.get l).work =
      rgSetStime (s.lanes.get l).work (stimeWord .holdover (stimeUs (rgStime (s.lanes.get l).work))) := by
  rw [toHoldover, onLanes_in _ _ _ _ hl]
  exact if_pos (by simp [hk])

/-- Station time is written to the cycle's work; the retained state follows with the cycle's commit. -/
theorem toHoldover_region (s : State) (l : Lane) : ((toHoldover s).lanes.get l).region = (s.lanes.get l).region := by
  by_cases hl : l ∈ working s
  · rw [toHoldover, onLanes_in _ _ _ _ hl, workWrite]
  · rw [toHoldover, onLanes_out _ _ _ _ hl]

/-! ## The end of a clock window (R364, R367) -/

theorem exec_clockWindowCheck (hu : hubUp s = true) (hw : 100 ≤ s.cyc.window) (unread : Quad Bool) (us : Nat) :
    exec (.clockWindowCheck unread us) s = .next (windowCheck (s.lanes.map (·.ticks)) unread us s) :=
  congrArg _ (if_pos (by simp [hu, hw]))

end

/-- A clock fault that is found is recorded, and SAFE STOP is decided for the next common instant. -/
def stopFor (found : Bool) (code : Nat) (s : State) : State :=
  if found then raiseShared { s with cyc := { s.cyc with stopNext := true } } code [] else s

theorem stopFor_stopNext (found : Bool) (code : Nat) (s : State) :
    (stopFor found code s).cyc.stopNext = (s.cyc.stopNext || found) := by
  cases found <;> simp [stopFor]

theorem stopFor_lanes (found : Bool) (code : Nat) (s : State) : (stopFor found code s).lanes = s.lanes := by
  cases found <;> simp [stopFor]

/-- What the window found of the clocks, before the next window begins: the lanes that run off withhold, and of the ring strobe and of
supervisor time a fault stops the module. -/
def windowFound (counts : Quad Nat) (unread : Quad Bool) (us : Nat) (s : State) : State :=
  stopFor (superOff s counts unread us) 0x0903 (stopFor (strobeOff s counts) 0x0902
    (onLanes s (oddClocks s counts) fun _ x => { x with withhold := true }))

theorem windowCheck_eq (counts : Quad Nat) (unread : Quad Bool) (us : Nat) (s : State) : windowCheck counts unread us s =
    { windowFound counts unread us s with
      cyc := { (windowFound counts unread us s).cyc with window := 0 },
      lanes := (windowFound counts unread us s).lanes.map fun x => { x with badStrobe := 0, ticks := 0 } } := rfl

theorem windowFound_stopNext (counts : Quad Nat) (unread : Quad Bool) (us : Nat) (s : State) :
    (windowFound counts unread us s).cyc.stopNext = (s.cyc.stopNext || strobeOff s counts || superOff s counts unread us) := by
  rw [windowFound, stopFor_stopNext, stopFor_stopNext, onLanes_cyc]

theorem windowFound_withhold (counts : Quad Nat) (unread : Quad Bool) (us : Nat) (s : State) (l : Lane) :
    ((windowFound counts unread us s).lanes.get l).withhold =
      ((s.lanes.get l).withhold || (oddClocks s counts).contains l) := by
  rw [windowFound, stopFor_lanes, stopFor_lanes]
  by_cases hl : l ∈ oddClocks s counts
  · simp [onLanes_in _ _ _ _ hl, hl]
  · simp [onLanes_out _ _ _ _ hl, hl]

/-- Settles O58: the slave by which way an offset can change its lock, the announcement by its test, HOLDOVER lane by lane, the window
by what it found before the next one begins. -/
theorem timeSources : Obligations.TimeSources := by
  unfold Obligations.TimeSources
  intro s hu
  refine ⟨fun ofs hn => ?_, fun ofs hf => ?_, fun no => ?_, fun m => exec_ptpAnnounce_taken hu, fun m => exec_ptpAnnounce_passed,
    fun hs hr => ?_, fun unread us counts hw hc => ?_⟩
  · have hx := exec_ptpSync hu ofs
    have ht := ptpSyncAt_time_near (s := s) hn
    refine ⟨_, hx, ?_, ?_, ?_, ?_, ?_, exec_frame hx⟩ <;> rw [ht]
  · have hx := exec_ptpSync hu ofs
    have ht := ptpSyncAt_time_far (s := s) hf
    refine ⟨_, hx, ?_, ?_, ?_, exec_frame hx⟩ <;> rw [ht]
  · have hg := masterGone_time no s
    cases hl : s.time.ptpLock with
    | true =>
      have hx := exec_timeSourceLost_locked hu hl no
      refine ⟨_, hx, ?_, ?_, ?_, ?_, exec_frame hx⟩ <;> rw [ptpLost_time, hg]
    | false =>
      have hx := exec_timeSourceLost_unlocked hu hl no
      refine ⟨_, hx, ?_, ?_, ?_, ?_, exec_frame hx⟩ <;> rw [hg]
      exact hl
  · have hx := exec_timeSetHoldover hu hs hr
    exact ⟨_, hx, rfl, fun l hl hk => toHoldover_locked (s := { s with time := { s.time with ref := none } }) hl hk,
      toHoldover_region _, exec_frame hx⟩
  · subst hc
    have hx := exec_clockWindowCheck hu hw unread us
    rw [windowCheck_eq] at hx
    refine ⟨_, hx, rfl, windowFound_stopNext .., fun l => ?_, exec_frame hx⟩
    rw [Quad.get_map]
    exact ⟨windowFound_withhold .., rfl, rfl⟩

end Sys2Proof.Machine
end

section
/-! SUPPORT. The block's own steps: the queue it takes commands from, and what SAFE STOP can be followed by. -/

namespace Sys2Proof.Machine

/-! ## The queue (log entry 3) -/

theorem step_idle {s : State} (h : s.pending = []) : step s = .next s := by
  unfold step
  rw [h]

theorem step_front {s : State} {c : Instr} {rest : List Instr} (h : s.pending = c :: rest) :
    step s = exec c { s with pending := rest } := by
  unfold step
  rw [h]

/-- Settles O1: an empty queue by `step_idle`, any other by its front command. -/
theorem stepRunsFront : Obligations.StepRunsFront := by
  unfold Obligations.StepRunsFront
  exact fun s => ⟨fun c => step_front rfl, fun c rest h => step_front h, step_idle⟩

/-- No command stops the block: one that resets the module does so or has no effect, every other one keeps its own frame. -/
theorem exec_answers (c : Instr) (s : State) : ∃ t, exec c s = .next t := by
  cases hc : c.resets with
  | false =>
    obtain ⟨t, ht, -⟩ := exec_kept hc s
    exact ⟨t, ht⟩
  | true =>
    obtain ⟨t, ht, -⟩ := exec_resets hc s
    exact ⟨t, ht⟩

/-- Settles O2: the front command answers, and no command touches the queue's rest. -/
theorem queueFirstInFirstOut : Obligations.QueueFirstInFirstOut := by
  unfold Obligations.QueueFirstInFirstOut
  intro c rest s hp
  obtain ⟨t, ht⟩ := exec_answers c { s with pending := rest }
  exact ⟨t, (step_front hp).trans ht, (exec_frame ht).queue⟩

/-! ## SAFE STOP (R387) -/

theorem Kept.stopKept {ps : List Part} {s t : State} (h : Kept ps s t) : StopKept s t := fun hs => Or.inl (h.safe hs)

theorem ResetTo.stopKept {s t : State} (h : ResetTo s t) : StopKept s t := fun _ => Or.inr h.mode

theorem exec_stopKept {c : Instr} {s t : State} (h : exec c s = .next t) : StopKept s t :=
  (exec_kept_or_resetTo h).elim Kept.stopKept ResetTo.stopKept

/-- Settles O6: an idle step changes nothing; a command keeps SAFE STOP, unless it resets the module, which is then in OFF or BOOT. -/
theorem safeStopKept : Obligations.SafeStopKept := by
  unfold Obligations.SafeStopKept
  intro s t h
  obtain ⟨-, rfl⟩ | ⟨c, rest, -, hx⟩ := step_cases h
  · exact Or.inl
  · exact exec_stopKept (s := { s with pending := rest }) hx

end Sys2Proof.Machine
end

section
/-! SUPPORT. The reset button and the orderly reset that it asks for (R376, R377, R391, R447). -/

namespace Sys2Proof.Machine

/-- A part that stands as it stood can be left out of a frame. -/
theorem Frame.unchanged {ps qs : List Part} {s t : State} (h : Frame ps s t) (p : Part) (hp : p.same s t)
    (w : within (ps.filter (· != p)) qs = true) : Frame qs s t := by
  refine ⟨h.queue, fun r hr => ?_⟩
  by_cases hrp : r = p
  · exact hrp ▸ hp
  · exact h.rest r fun hm => hr (within_mem w r (by simp [hm, hrp]))

theorem Part.same_module {s t : State} (h : t.mod = s.mod) : Part.module.same s t := by
  simp only [Part.same, h]

theorem Part.same_supply {s t : State} (h : t.ul = s.ul) : Part.supply.same s t := by
  simp only [Part.same, h]

section
variable {s : State}

/-! ## The button (R376) -/

theorem exec_rstPress_armed (ho : s.mod.st ≠ .off) (hp : s.ul.pressed = false) (hb : s.ul.button = .armed) :
    exec .rstPress s = .next (refreshUl { s with ul := { s.ul with pressed := true, button := .pressed } }) := by
  have hx : exec .rstPress s = .next (refreshUl { s with ul := { s.ul with
      pressed := true, button := if s.ul.button == .armed then .pressed else s.ul.button } }) :=
    congrArg _ (if_pos (by simp [ho, hp]))
  rw [hx, hb]
  rfl

theorem exec_resetStuck (ho : s.mod.st ≠ .off) (hb : s.ul.button = .pressed) :
    exec .resetStuck s = .next (refreshUl (raiseUl { s with ul := { s.ul with button := .stuck } } 0x0A01 [])) :=
  congrArg _ (if_pos (by simp [ho, hb]))

theorem exec_rstRearm_stuck (ho : s.mod.st ≠ .off) (hp : s.ul.pressed = false) (hb : s.ul.button = .stuck) :
    exec .rstRearm s = .next (refreshUl { s with ul := { s.ul with button := .armed } }) :=
  congrArg _ (if_pos (by simp [ho, hp, hb]))

/-- The button is up and armed again; what the press asks for follows. -/
def buttonUp (s : State) : State := { s with ul := { s.ul with pressed := false, button := .armed } }

theorem exec_rstRelease_measured (ho : s.mod.st ≠ .off) (hp : s.ul.pressed = true) (hb : s.ul.button = .pressed) (us : Nat) :
    exec (.rstRelease us) s = .next (refreshUl (released us (buttonUp s))) := by
  have hx : exec (.rstRelease us) s = .next (refreshUl (if s.ul.button == .pressed then
      released us { s with ul := { s.ul with pressed := false, button := if s.ul.button == .pressed then .armed else s.ul.button } }
    else { s with ul := { s.ul with pressed := false, button := if s.ul.button == .pressed then .armed else s.ul.button } })) :=
    congrArg _ (if_pos (by simp [ho, hp]))
  rw [hx, hb]
  rfl

theorem powerOffPrep_ge {us : Nat} (h : powerOffPrep s us = true) : 2000000 ≤ us ∧ us ≤ 5000000 := by
  simp [powerOffPrep] at h
  exact ⟨h.1.1.1.1, h.1.1.1.2⟩

theorem released_short (hn : s.ul.orderly = none) {us : Nat} (h : us < 100000) : released us s = s := by
  have hp : powerOffPrep s us ≠ true := fun hp => by have := (powerOffPrep_ge hp).1; omega
  unfold released
  rw [if_neg (by simp [hn]), if_neg hp, if_neg (by simp; omega)]

theorem released_reset (hn : s.ul.orderly = none) {us : Nat} (h1 : 100000 ≤ us) (h2 : us ≤ 5000000)
    (hp : powerOffPrep s us = false) : released us s = { s with ul := { s.ul with orderly := some .reset } } := by
  unfold released
  rw [if_neg (by simp [hn]), if_neg (by simp [hp]), if_pos (by simp [h1, h2])]

theorem released_shutdown (hn : s.ul.orderly = none) {us : Nat} (hp : powerOffPrep s us = true) :
    released us s = { s with
      ul := { s.ul with orderly := some .shutdown },
      mod := { s.mod with snapDue := s.mod.snapDue || s.mod.st.runs || s.mod.st == .standby } } := by
  unfold released
  rw [if_neg (by simp [hn]), if_pos hp]

/-! ## The orderly reset (R377, R447) -/

theorem exec_orderlyReset (ho : s.mod.st ≠ .off) (hr : s.ul.orderly = some .reset)
    (hw : s.ul.stopAt = true ∨ noCycleToEnd s.mod.st = true) :
    exec .orderlyReset s = .next (enterBoot (moduleReset false s)) :=
  congrArg _ (if_pos (by simpa [ho, hr] using hw))

/-- A press that lasts into BOOT is recorded and leaves the button as it is named there; all else that BOOT begins with is alike. -/
theorem enterBoot_eq (s : State) : enterBoot s = { s with
    mod := { s.mod with st := .boot }, ul := { s.ul with diesHeld := false, button := (enterBoot s).ul.button },
    gut := (enterBoot s).gut } := by
  unfold enterBoot
  dsimp only
  split
  · rw [raiseUl_eq]
  · rfl

/-- A module reset turns a lane OFF unless it is retired, with nothing driven; its fuse and the record of its exclusions remain. -/
theorem laneReset_off (x : LaneSt) : ((laneReset false x).role = .off ∨ (laneReset false x).role = .retired) ∧
    (laneReset false x).drive = [] ∧ (laneReset false x).driveE = 0 ∧ (laneReset false x).driveG = 0 ∧
    (laneReset false x).retFuse = x.retFuse ∧ (laneReset false x).excl = x.excl := by
  refine ⟨?_, rfl, rfl, rfl, rfl, rfl⟩
  rw [laneReset]
  dsimp only
  split
  · exact Or.inr rfl
  · exact Or.inl rfl

end

/-- Settles O17: the button by its equations, a release by how long it was held, the orderly reset lane by lane. -/
theorem buttonAndOrderlyReset : Obligations.ButtonAndOrderlyReset := by
  unfold Obligations.ButtonAndOrderlyReset
  refine ⟨fun s ho hn => ⟨fun hp hb => ?_, fun hb => ?_, fun hp hb => ?_, fun hp hb us => ⟨fun h => ?_, fun h1 h2 h => ?_, fun h => ?_⟩⟩,
    fun s ho hr hw => ?_⟩
  · have hx := exec_rstPress_armed ho hp hb
    exact ⟨_, hx, rfl, refreshUl_noReadback _, exec_frame hx⟩
  · have hx := exec_resetStuck ho hb
    refine ⟨_, hx, raiseUl_ul .., ?_, exec_frame hx⟩
    rw [refreshUl_noReadback, raiseUl_host]
  · have hx := exec_rstRearm_stuck ho hp hb
    exact ⟨_, hx, rfl, refreshUl_noReadback _, exec_frame hx⟩
  · have hx := exec_rstRelease_measured ho hp hb us
    rw [released_short (s := buttonUp s) hn h] at hx
    exact ⟨_, hx, rfl⟩
  · have hx := exec_rstRelease_measured ho hp hb us
    rw [released_reset (s := buttonUp s) hn h1 h2 h] at hx
    exact ⟨_, hx, rfl, rfl, (exec_frame hx).unchanged .module rfl rfl⟩
  · have hx := exec_rstRelease_measured ho hp hb us
    rw [released_shutdown (s := buttonUp s) hn h] at hx
    exact ⟨_, hx, rfl, rfl, exec_frame hx⟩
  · have hx := exec_orderlyReset ho hr (by simpa [noCycleToEnd, or_assoc] using hw)
    rw [enterBoot_eq] at hx
    refine ⟨_, hx, rfl, rfl, rfl, rfl, fun l => ?_, rfl, rfl, rfl, rfl, rfl⟩
    have hl := laneReset_off (s.lanes.get l)
    rw [← Quad.get_map (laneReset false)] at hl
    exact hl

end Sys2Proof.Machine
end

section
/-! SUPPORT. The key switch and the sealed switches (R379, R385, R386). -/

namespace Sys2Proof.Machine

section
variable {s : State}

/-! ## The key (R379) -/

theorem keyPattern_other {c : BitVec 6} (hr : c ≠ 0b000011) (hm : c ≠ 0b001100) (ht : c ≠ 0b110000) (h0 : c ≠ 0) :
    keyPattern true c = some .invalid := by
  unfold keyPattern
  rw [if_neg (by decide), if_neg h0, if_neg hr, if_neg hm, if_neg ht]

/-- A position that is neither the next nor, with none next, the one in force is taken for the next common instant. -/
theorem takeKey_new {p : KeyPos} (hb : s.mod.st ≠ .boot) (hi : s.mod.st ≠ .indicate) (hn : s.ctl.next ≠ some p)
    (hp : s.ctl.next = none → s.ctl.pos ≠ some p) :
    takeKey s p = { raiseShared s (if p = .invalid then 0x0A02 else 0x0A83) [] with ctl := { s.ctl with next := some p } } := by
  have hlate : ¬ (s.ctl.pos.isNone && (s.mod.st == .boot || s.mod.st == .indicate)) = true := by simp [hb, hi]
  unfold takeKey
  dsimp only
  split
  next q hq =>
    rw [if_neg (hq ▸ hn), if_neg hlate]
    split <;> rw [raiseShared_ctl]
  next hq =>
    rw [if_neg (hp hq), if_neg hlate]
    split <;> rw [raiseShared_ctl]

theorem takeKey_taken {p : KeyPos} (hn : s.ctl.next = none) (hp : s.ctl.pos = some p) : takeKey s p = s := by
  unfold takeKey
  rw [hn]
  exact if_pos hp

/-- Beside the position noted, taking one raises a record alone. -/
theorem takeKey_new_frame {p : KeyPos} (hb : s.mod.st ≠ .boot) (hi : s.mod.st ≠ .indicate) (hn : s.ctl.next ≠ some p)
    (hp : s.ctl.next = none → s.ctl.pos ≠ some p) : Frame [.ctl, .gut] s (takeKey s p) := by
  have hf := (takeKey_kept s p).frame
  rw [takeKey_new hb hi hn hp] at hf ⊢
  exact (hf.unchanged (qs := [.ctl, .host, .gut]) .lanes (raiseShared_lanes ..) rfl).unchanged .host (raiseShared_host ..) rfl

theorem exec_keyPatternStable (hu : hubUp s = true) (hh : 50 ≤ keyHeldMs s) {p : KeyPos}
    (hp : keyPattern s.ctl.agreed s.ctl.contacts = some p) : exec .keyPatternStable s = .next (takeKey s p) := by
  change execKeyPatternStable s = _
  rw [execKeyPatternStable, if_pos (by simp [hu, hh]), hp]

theorem exec_keyPatternStable_early (hh : keyHeldMs s < 50) : exec .keyPatternStable s = .next s :=
  congrArg _ (if_neg (by simp [hh]))

theorem exec_keyAllOpenTimeout (hu : hubUp s = true) (hh : 2000 < keyHeldMs s) (ha : s.ctl.agreed = true)
    (hc : s.ctl.contacts = 0) : exec .keyAllOpenTimeout s = .next (takeKey s .invalid) :=
  congrArg _ (if_pos (by simp [hu, hh, ha, hc]))

theorem exec_keyAllOpenTimeout_early (hh : keyHeldMs s ≤ 2000) : exec .keyAllOpenTimeout s = .next s :=
  congrArg _ (if_neg (by simp [Nat.not_lt.mpr hh]))

/-- A position in force is not taken again, whether its pattern has stood for 50 ms or not. -/
theorem exec_keyPatternStable_taken {p : KeyPos} (hp : s.ctl.pos = some p) (hn : s.ctl.next = none)
    (hk : keyPattern s.ctl.agreed s.ctl.contacts = some p) : exec .keyPatternStable s = .next s := by
  change execKeyPatternStable s = _
  rw [execKeyPatternStable, hk]
  split
  · exact congrArg _ (takeKey_taken hn hp)
  · rfl

/-! ## The sealed switches (R385, R386) -/

theorem reservedOn_iff (sw : BitVec 25) : reservedOn sw = true ↔ ∃ n, 20 ≤ n ∧ n < 24 ∧ sw.getLsbD n = true := by
  have hbit (i : Nat) : (bitsAt sw.toNat 23 20).testBit i = (decide (i < 4) && sw.getLsbD (20 + i)) := by
    rw [bitsAt, Nat.testBit_mod_two_pow, Nat.testBit_div_two_pow, BitVec.testBit_toNat, Nat.add_comm i]
  rw [reservedOn, bne_iff_ne]
  constructor
  · intro h
    obtain ⟨i, hi⟩ := Nat.exists_testBit_of_ne_zero h
    rw [hbit, Bool.and_eq_true, decide_eq_true_iff] at hi
    exact ⟨20 + i, by omega, by omega, hi.2⟩
  · rintro ⟨n, h1, h2, hn⟩ h0
    have := hbit (n - 20)
    rw [h0, Nat.zero_testBit, show 20 + (n - 20) = n by omega, hn, Bool.and_true] at this
    exact absurd this.symm (by simp; omega)

theorem exec_sealChange_boot (hu : hubUp s = true) (hv : s.ctl.swValid = true) (hb : s.mod.st = .boot) :
    exec .sealChange s = .next (sealBoot s) :=
  congrArg _ ((if_pos (by simp [hu, hv])).trans (if_pos (by simp [hb])))

theorem exec_sealChange_service (hu : hubUp s = true) (hv : s.ctl.swValid = true) (hb : s.mod.st ≠ .boot) :
    exec .sealChange s = .next (sealChanged s) :=
  congrArg _ ((if_pos (by simp [hu, hv])).trans (if_neg (by simpa using hb)))

theorem sealChanged_ctl (s : State) : (sealChanged s).ctl = { s.ctl with swSeen := s.ctl.sw } := by
  unfold sealChanged
  dsimp only
  split <;> split <;> simp

theorem sealChanged_mod (s : State) : (sealChanged s).mod = s.mod := by
  unfold sealChanged
  dsimp only
  split <;> split <;> simp

theorem sealBoot_mod (s : State) : (sealBoot s).mod = { s.mod with boot := { s.mod.boot with swBad := reservedOn s.ctl.sw } } := by
  unfold sealBoot
  dsimp only
  split <;> simp

theorem sealBoot_ctl (s : State) : (sealBoot s).ctl = s.ctl := by
  unfold sealBoot
  dsimp only
  split <;> simp

/-- The lane's reading has differed for 100 cycles and it raises SWITCH_SENSE, naming the lowest switch that differs. -/
theorem exec_switchSense (hu : hubUp s = true) {l : Lane} (hd : 100 ≤ (s.lanes.get l).swDiff) (hs : (s.lanes.get l).sense = false) :
    exec (.switchSense l) s = .next (onLane
      (raiseLane s l 0x0A05 (argInst (arg1 l.num ++ arg1 (firstSwitch (s.lanes.get l).sw s.ctl.sw)))) l
        fun x => { x with sense := true }) :=
  congrArg _ (if_pos (by simp [hu, hd, hs]))

end

/-- Settles O18: the pattern case by case, a position by whether it is news, the switches by what BOOT and service make of them. -/
theorem keyAndSwitches : Obligations.KeyAndSwitches := by
  unfold Obligations.KeyAndSwitches
  refine ⟨⟨fun _ => rfl, rfl, rfl, rfl, rfl, fun c => keyPattern_other⟩,
    fun s p hu hb hi => ⟨fun hh hn hp hk => ?_, fun hh hn hp ha hc => ?_, exec_keyPatternStable_taken, exec_keyPatternStable_early,
      exec_keyAllOpenTimeout_early⟩,
    fun s hu => ⟨fun hv hb => ?_, fun hv hb => ?_, fun l hd hs => ?_⟩⟩
  · refine ⟨_, exec_keyPatternStable hu hh hk, ?_, takeKey_new_frame hb hi hn hp⟩
    rw [takeKey_new hb hi hn hp]
  · refine ⟨_, exec_keyAllOpenTimeout hu hh ha hc, ?_, takeKey_new_frame hb hi hn hp⟩
    rw [takeKey_new hb hi hn hp]
  · have hx := exec_sealChange_service hu hv hb
    exact ⟨_, hx, sealChanged_ctl s, (exec_frame hx).unchanged .module (Part.same_module (sealChanged_mod s)) rfl⟩
  · have hx := exec_sealChange_boot hu hv hb
    refine ⟨_, hx, ?_, ?_, (exec_frame hx).unchanged .ctl (sealBoot_ctl s) rfl⟩
    · rw [sealBoot_mod]
      exact reservedOn_iff _
    · rw [sealBoot_mod]
  · have hx := exec_switchSense hu hd hs
    refine ⟨_, hx, ?_, fun m hm => ?_, exec_frame hx⟩
    · rw [onLane_same, raiseLane_lanes]
    · rw [onLane_other _ _ _ _ hm, raiseLane_lanes]

end Sys2Proof.Machine
end

section
/-! SUPPORT. PERST (R447, R468). -/

namespace Sys2Proof.Machine

theorem redrain_host (s : State) : (redrain s).host = s.host := by
  rw [redrain_eq]

theorem redrain_ul (s : State) : (redrain s).ul = s.ul := by
  rw [redrain_eq]

theorem exec_perst {s : State} (hu : hubUp s = true) : exec .perst s = .next (perstAt s) := congrArg _ (if_pos hu)

/-- What PERST leaves of the host port: what is on its way to or from the host, and what the lanes and the Gutter hold there. -/
theorem perstAt_host (s : State) : (perstAt s).host =
    { posted := s.host.posted, reads := s.host.reads, cpls := s.host.cpls,
      bulkHand := s.host.bulkHand, sigActive := isActive s, sigState := s.mod.st.code, modPay := s.host.modPay,
      cplRep := s.host.cplRep, indRep := s.host.indRep, mismatch := s.host.mismatch } :=
  redrain_host _

theorem perstAt_ul (s : State) : (perstAt s).ul = { s.ul with optSplit := false, optLoad := false, optActivate := false } :=
  redrain_ul _

/-- Settles O15. -/
theorem perstResetsPort : Obligations.PerstResetsPort := by
  unfold Obligations.PerstResetsPort
  intro s hu
  refine ⟨_, exec_perst hu, ?_, ?_, ?_, ?_, ?_, ?_, ?_, ?_, perstAt_ul s, ((perstAt_kept s).mono rfl).frame⟩ <;> rw [perstAt_host]

end Sys2Proof.Machine
end

section
/-! SUPPORT. The boot shadow cycles begin (R390). -/

namespace Sys2Proof.Machine

section
variable {s : State}

/-- The ready lanes that are not chosen to vote; they rest (R390). -/
def unchosenLanes (s : State) : List Lane := (readyLanes s).filter fun l => !(chosenLanes s).contains l

theorem mem_unchosenLanes {l : Lane} : l ∈ unchosenLanes s ↔ l ∈ readyLanes s ∧ l ∉ chosenLanes s := by
  simp [unchosenLanes]

/-- A chosen lane takes COPY, verified where it was recovered with the digest of the agreement. -/
def copyTaken (d : DWord) (s : State) (l : Lane) (x : LaneSt) : LaneSt :=
  { (endPass x) with role := .copy, copied := s.mod.boot.recov.get l && x.digest == d, shadowOk := 0, copyFails := 0,
                     yealm := activeImage x.mram }

theorem bootRoles_lanes (d : DWord) (s : State) : (bootRoles d s).lanes =
    (onLanes (onLanes s (chosenLanes s) (copyTaken d s)) (unchosenLanes s) fun _ x => restLane x).lanes := rfl

theorem bootRoles_chosen (d : DWord) {l : Lane} (hl : l ∈ chosenLanes s) :
    (bootRoles d s).lanes.get l = copyTaken d s l (s.lanes.get l) := by
  rw [bootRoles_lanes, onLanes_out _ _ _ _ fun hr => (mem_unchosenLanes.mp hr).2 hl, onLanes_in _ _ _ _ hl]

theorem bootRoles_unchosen (d : DWord) {l : Lane} (hr : l ∈ readyLanes s) (hl : l ∉ chosenLanes s) :
    (bootRoles d s).lanes.get l = restLane (s.lanes.get l) := by
  rw [bootRoles_lanes, onLanes_in _ _ _ _ (mem_unchosenLanes.mpr ⟨hr, hl⟩), onLanes_out _ _ _ _ hl]

theorem bootRoles_notReady (d : DWord) {l : Lane} (hr : l ∉ readyLanes s) (hl : l ∉ chosenLanes s) :
    (bootRoles d s).lanes.get l = s.lanes.get l := by
  rw [bootRoles_lanes, onLanes_out _ _ _ _ fun hm => hr (mem_unchosenLanes.mp hm).1, onLanes_out _ _ _ _ hl]

/-- The PORT_OPEN record that was due is an indication, and nothing else of a lane (R319). -/
theorem portOpenAtB_lane (s : State) (l : Lane) : noInds ((portOpenAtB s).lanes.get l) = noInds (s.lanes.get l) := by
  unfold portOpenAtB
  split
  · exact indicate_lane _ _ l
  · rfl

/-- The boot shadow with the digest that two of the chosen lanes hold. -/
def shadowBegun (d : DWord) (s : State) : State := portOpenAtB (firstCpls (bootRoles d s))

theorem shadowBegun_lane (d : DWord) (s : State) (l : Lane) :
    noInds ((shadowBegun d s).lanes.get l) = noInds ((bootRoles d s).lanes.get l) := portOpenAtB_lane _ l

theorem shadowBegun_role (d : DWord) (s : State) (l : Lane) :
    ((shadowBegun d s).lanes.get l).role = ((bootRoles d s).lanes.get l).role := by
  simpa only [noInds] using congrArg LaneSt.role (shadowBegun_lane d s l)

theorem shadowBegun_b (d : DWord) (s : State) : (shadowBegun d s).mod.boot.b = some s.cyc.k := by
  rw [shadowBegun, (portOpenAtB_kept _).mod_eq (by decide) (by decide)]
  rfl

theorem shadowBegun_k (d : DWord) (s : State) : (shadowBegun d s).cyc.k = s.cyc.k :=
  Eq.trans (b := (bootRoles d s).cyc.k) (congrArg CycleSt.k ((portOpenAtB_kept (firstCpls (bootRoles d s))).frame.rest .cyc (by decide))) rfl

theorem shadowBegun_frame (d : DWord) (s : State) : Frame [.module, .cyc, .lanes, .agr, .host] s (shadowBegun d s) :=
  ((((bootRoles_kept d s).mono rfl).step (firstCpls_kept _) rfl).step (portOpenAtB_kept _) rfl).frame

theorem exec_bootShadowStart (hu : hubUp s = true) (hi : s.mod.st = .indicate) (hd : s.mod.boot.decided.isSome = true)
    (hb : s.mod.boot.b = none) (ho : s.ul.orderly = none) : exec .bootShadowStart s = .next (bootShadowAt s) :=
  congrArg _ (if_pos (by simp [hu, hi, hd, hb, ho]))

theorem bootShadowAt_begun (hl : 3 ≤ (bootLanes s).length) (hs : s.mod.boot.started = true) {d : DWord}
    (hd : chosenDigest s = some d) : bootShadowAt s = shadowBegun d s := by
  simp only [bootShadowAt, if_neg (Nat.not_lt.mpr hl), hs, if_true, hd, shadowBegun]

/-- Lanes fewer than three are reported once. -/
theorem bootShadowAt_few (hl : (bootLanes s).length < 3) (hi : s.mod.boot.insuff = false) :
    bootShadowAt s = raiseShared (bootMod s fun b => { b with insuff := true }) 0x020A [] := by
  rw [bootShadowAt, if_pos hl, if_neg (by simp [hi])]

end

/-- Settles O22: the roles of C(b) lane by lane; with fewer than three lanes, the lack noted and recorded. -/
theorem bootShadowRoles : Obligations.BootShadowRoles := by
  unfold Obligations.BootShadowRoles
  intro s hu hi hd hb ho
  have hx := exec_bootShadowStart hu hi hd hb ho
  refine ⟨fun hl hc hs => ?_, fun hl hf => ?_⟩
  · obtain ⟨d, hdig⟩ := Option.isSome_iff_exists.mp hc
    rw [bootShadowAt_begun hl hs hdig] at hx
    refine ⟨_, hx, shadowBegun_b d s, fun l hm => ?_, fun l hr hm => ?_, fun l hm hr => ?_, shadowBegun_k d s, shadowBegun_frame d s⟩
    · rw [shadowBegun_role, bootRoles_chosen d hm]
      rfl
    · rw [shadowBegun_role, bootRoles_unchosen d hr hm]
      rfl
    · rw [shadowBegun_lane, bootRoles_notReady d hr hm]
  · rw [bootShadowAt_few hl hf] at hx
    refine ⟨_, hx, ?_, (((bootMod_kept ..).mono rfl).step (raiseShared_kept ..) rfl).frame⟩
    rw [raiseShared_mod]
    rfl

end Sys2Proof.Machine
end

section
/-! SUPPORT. The dies leave reset, and the start-up check chooses between the record path and a boot pass (R401, R402, R409 to
R411, R456). NBOOT counts where the dies leave reset (the model's choice, log entry 31). -/

namespace Sys2Proof.Machine

section
variable {s : State}

/-! ## The dies leave reset (R401, R402, R456) -/

/-- Everything that a lane holds beside its MRAM. -/
def noMram (x : LaneSt) : LaneSt := { x with mram := Mram.blank }

/-- The test of the elements that a lane's map names writes that map alone (R402, R403). -/
theorem retestLane_noMram (failing : Quad (List Nat)) (s : State) (l m : Lane) :
    noMram ((retestLane failing s l).lanes.get m) = noMram (s.lanes.get m) := by
  have hraised : ∀ (es : List (RepEnt × RepEnt)) (t : State),
      (es.foldl (fun s _ => raiseLane s l 0x0B83 (argLane l)) t).lanes = t.lanes := fun es t =>
    (Kept.foldl (fun r (_ : RepEnt × RepEnt) => raiseLane_kept r l 0x0B83 (argLane l)) es t).frame.rest .lanes (by decide)
  unfold retestLane
  dsimp only
  split
  · rfl
  · rw [hraised]
    by_cases hm : m = l
    · rw [hm, onLane_same]
      rfl
    · rw [onLane_other _ _ _ _ hm]

theorem foldl_retestLane_noMram (failing : Quad (List Nat)) (m : Lane) :
    ∀ (ls : List Lane) (s : State), noMram ((ls.foldl (retestLane failing) s).lanes.get m) = noMram (s.lanes.get m)
  | [], _ => rfl
  | l :: ls, s => (foldl_retestLane_noMram failing m ls (retestLane failing s l)).trans (retestLane_noMram failing s l m)

theorem foldl_retestLane_kept (failing : Quad (List Nat)) (ls : List Lane) (s : State) :
    Kept [.lanes, .gut] s (ls.foldl (retestLane failing) s) := Kept.foldl (retestLane_kept failing) ls s

theorem exec_diesOutOfReset (hu : hubUp s = true) (hb : s.mod.st = .boot) (hd : s.mod.boot.diesOut = false)
    (failing : Quad (List Nat)) : exec (.diesOutOfReset failing) s = .next (diesOutAt failing s) :=
  congrArg _ (if_pos (by simp [hu, hb, hd]))

theorem diesOutAt_mod (failing : Quad (List Nat)) (s : State) :
    (diesOutAt failing s).mod = { s.mod with boot := { s.mod.boot with diesOut := true } } :=
  congrArg (fun m : ModSt => { m with boot := { m.boot with diesOut := true } })
    ((foldl_retestLane_kept failing (aliveLanes s) s).mod_eq (by decide) (by decide))

theorem diesOutAt_ul (failing : Quad (List Nat)) (s : State) :
    (diesOutAt failing s).ul = { s.ul with diesHeld := false, nboot := min 255 (s.ul.nboot + 1) } :=
  congrArg (fun u : Underlay => { u with diesHeld := false, nboot := min 255 (u.nboot + 1) })
    ((foldl_retestLane_kept failing (aliveLanes s) s).ul_eq (by decide) (by decide))

theorem diesOutAt_noMram (failing : Quad (List Nat)) (s : State) (l : Lane) :
    noMram ((diesOutAt failing s).lanes.get l) = noMram (s.lanes.get l) := foldl_retestLane_noMram failing l _ s

/-! ## The start-up check (R409 to R411) -/

theorem exec_bootRecordCheck (hu : hubUp s = true) (hb : s.mod.st = .boot) (hd : s.mod.boot.diesOut = true)
    (hc : s.mod.boot.checked = false) (ok : Quad Bool) : exec (.bootRecordCheck ok) s = .next (recordCheckAt ok s) :=
  congrArg _ (if_pos (by simp [hu, hb, hd, hc]))

/-- Every lane that is not retired has shown whether its start-up record is valid; with the shelf counter unknown SHELF_CELL_LOW
is recorded (R409). -/
def recordsRead (s : State) : State :=
  let s1 := onLanes s (aliveLanes s) fun l x => { x with record := recordValid s l }
  if s.ul.shelf.isNone then raiseUl s1 0x0B04 [] else s1

/-- The record path: the lanes with a valid record are checked by it, the others run a boot pass (R410). -/
def recordPath (ok : Quad Bool) (s : State) : State :=
  let t := onLanes (recordsRead s) (recordLanes ok s) fun _ x => { x with checked := true }
  let u := onLanes t ((aliveLanes s).filter fun l => !(recordLanes ok s).contains l) fun _ x => bootPass x
  bootstatSet (bootMod { u with hub := { u.hub with passOk := true } } fun b => { b with recPath := true }) 0

/-- The boot pass of every lane that is not retired and of the hub (R411). -/
def bootPasses (s : State) : State :=
  let t := onLanes (recordsRead s) (aliveLanes s) fun _ x => bootPass x
  { t with hub := { t.hub with pass := some .boot, slice := 0, running := false, passOk := false } }

/-- The check is over, whichever path it has led to. -/
def recordsChecked (s : State) : State := refreshLanes (bootMod s fun b => { b with checked := true })

theorem recordCheckAt_valid {ok : Quad Bool} (h : 3 ≤ (recordLanes ok s).length) :
    recordCheckAt ok s = bootFew (recordsChecked (recordPath ok s)) := by
  unfold recordCheckAt
  dsimp only
  rw [if_pos h]
  rfl

theorem recordCheckAt_invalid {ok : Quad Bool} (h : (recordLanes ok s).length < 3) :
    recordCheckAt ok s = bootFew (recordsChecked (bootPasses s)) := by
  unfold recordCheckAt
  dsimp only
  rw [if_neg (Nat.not_le.mpr h)]
  rfl

/-- With two lanes left BOOT goes on (R387). -/
theorem bootFew_enough (h : 2 ≤ (aliveLanes s).length) : bootFew s = s := if_neg (by simp [Nat.not_lt.mpr h])

theorem recordLanes_sub (ok : Quad Bool) (s : State) : (recordLanes ok s).length ≤ (aliveLanes s).length :=
  List.length_filter_le ..

theorem recordsChecked_lanes (s : State) : (recordsChecked s).lanes = s.lanes := rfl

/-! ### What the records show of a lane -/

theorem recordsRead_lanes (s : State) : (recordsRead s).lanes =
    (onLanes s (aliveLanes s) fun l x => { x with record := recordValid s l }).lanes := by
  unfold recordsRead
  dsimp only
  split
  · exact raiseUl_lanes ..
  · rfl

theorem recordsRead_lane (s : State) (l : Lane) : ∃ r, (recordsRead s).lanes.get l = { s.lanes.get l with record := r } := by
  rw [recordsRead_lanes]
  by_cases hl : l ∈ aliveLanes s
  · exact ⟨_, onLanes_in _ _ _ _ hl⟩
  · exact ⟨_, onLanes_out _ _ _ _ hl⟩

theorem recordsRead_kept (s : State) : Kept [.lanes, .gut] s (recordsRead s) := by
  unfold recordsRead
  dsimp only
  split
  · exact ((onLanes_kept ..).mono rfl).step (raiseUl_kept ..) rfl
  · exact (onLanes_kept ..).mono rfl

theorem recordsRead_mod (s : State) : (recordsRead s).mod = s.mod := (recordsRead_kept s).mod_eq (by decide) (by decide)

theorem recordsRead_hub (s : State) : (recordsRead s).hub = s.hub := (recordsRead_kept s).frame.rest .hub (by decide)

theorem recordsRead_host (s : State) : (recordsRead s).host = s.host := (recordsRead_kept s).frame.rest .host (by decide)

/-! ### The two paths -/

theorem mem_recordPassLanes {ok : Quad Bool} {l : Lane} :
    l ∈ (aliveLanes s).filter (fun l => !(recordLanes ok s).contains l) ↔ l ∈ aliveLanes s ∧ l ∉ recordLanes ok s := by
  simp

theorem recordPath_lanes (ok : Quad Bool) (s : State) : (recordPath ok s).lanes =
    (onLanes (onLanes (recordsRead s) (recordLanes ok s) fun _ x => { x with checked := true })
      ((aliveLanes s).filter fun l => !(recordLanes ok s).contains l) fun _ x => bootPass x).lanes := rfl

theorem recordPath_valid {ok : Quad Bool} {l : Lane} (hl : l ∈ recordLanes ok s) :
    (recordPath ok s).lanes.get l = { (recordsRead s).lanes.get l with checked := true } := by
  rw [recordPath_lanes, onLanes_out _ _ _ _ fun h => (mem_recordPassLanes.mp h).2 hl, onLanes_in _ _ _ _ hl]

theorem recordPath_other {ok : Quad Bool} {l : Lane} (ha : l ∈ aliveLanes s) (hl : l ∉ recordLanes ok s) :
    (recordPath ok s).lanes.get l = bootPass ((recordsRead s).lanes.get l) := by
  rw [recordPath_lanes, onLanes_in _ _ _ _ (mem_recordPassLanes.mpr ⟨ha, hl⟩), onLanes_out _ _ _ _ hl]

theorem bootPasses_lanes (s : State) :
    (bootPasses s).lanes = (onLanes (recordsRead s) (aliveLanes s) fun _ x => bootPass x).lanes := rfl

theorem bootPasses_lane {l : Lane} (hl : l ∈ aliveLanes s) :
    (bootPasses s).lanes.get l = bootPass ((recordsRead s).lanes.get l) := by
  rw [bootPasses_lanes, onLanes_in _ _ _ _ hl]

theorem bootPass_pass (x : LaneSt) : (bootPass x).bist.pass = some .boot := rfl

/-- A change of lanes that leaves every role leaves the role of each. -/
theorem onLanes_role {ls : List Lane} {f : Lane → LaneSt → LaneSt} (hf : ∀ l x, (f l x).role = x.role) (s : State) (l : Lane) :
    ((onLanes s ls f).lanes.get l).role = (s.lanes.get l).role := by
  by_cases hl : l ∈ ls
  · rw [onLanes_in _ _ _ _ hl, hf]
  · rw [onLanes_out _ _ _ _ hl]

theorem recordsRead_role (s : State) (l : Lane) : ((recordsRead s).lanes.get l).role = (s.lanes.get l).role := by
  obtain ⟨r, hr⟩ := recordsRead_lane s l
  rw [hr]

theorem recordPath_alive (ok : Quad Bool) (s : State) : aliveLanes (recordsChecked (recordPath ok s)) = aliveLanes s := by
  refine aliveLanes_congr fun l => ?_
  rw [recordsChecked_lanes, recordPath_lanes]
  refine (onLanes_role ?_ _ l).trans ((onLanes_role ?_ _ l).trans (recordsRead_role s l)) <;> exact fun _ _ => rfl

theorem bootPasses_alive (s : State) : aliveLanes (recordsChecked (bootPasses s)) = aliveLanes s := by
  refine aliveLanes_congr fun l => ?_
  rw [recordsChecked_lanes, bootPasses_lanes]
  refine (onLanes_role ?_ _ l).trans (recordsRead_role s l)
  exact fun _ _ => rfl

theorem exec_bootRecordCheck_valid (hu : hubUp s = true) (hb : s.mod.st = .boot) (hd : s.mod.boot.diesOut = true)
    (hc : s.mod.boot.checked = false) {ok : Quad Bool} (h : 3 ≤ (recordLanes ok s).length) :
    exec (.bootRecordCheck ok) s = .next (recordsChecked (recordPath ok s)) := by
  have h3 := recordLanes_sub ok s
  rw [exec_bootRecordCheck hu hb hd hc, recordCheckAt_valid h, bootFew_enough (by rw [recordPath_alive]; omega)]

theorem exec_bootRecordCheck_invalid (hu : hubUp s = true) (hb : s.mod.st = .boot) (hd : s.mod.boot.diesOut = true)
    (hc : s.mod.boot.checked = false) {ok : Quad Bool} (h : (recordLanes ok s).length < 3) (ha : 2 ≤ (aliveLanes s).length) :
    exec (.bootRecordCheck ok) s = .next (recordsChecked (bootPasses s)) := by
  rw [exec_bootRecordCheck hu hb hd hc, recordCheckAt_invalid h, bootFew_enough (by rwa [bootPasses_alive])]

end

/-- Settles O19: the dies' reset by the maps tested lane by lane, the check by the path that its records lead to. That NBOOT counts
at DIES_OUT_OF_RESET is the model's choice (log entry 31). -/
theorem bootPathChosen : Obligations.BootPathChosen := by
  unfold Obligations.BootPathChosen
  intro s hu hb
  refine ⟨fun hd f => ?_, fun hd hc ok h => ?_, fun hd hc ok h ha => ?_⟩
  · have hx := exec_diesOutOfReset hu hb hd f
    exact ⟨_, hx, diesOutAt_mod f s, diesOutAt_ul f s, diesOutAt_noMram f s, exec_frame hx⟩
  · refine ⟨_, exec_bootRecordCheck_valid hu hb hd hc h, ?_, ?_, ?_, ?_, fun l hl => ?_, fun l ha hl => ?_⟩
    · exact congrArg (fun m : ModSt => { m.boot with checked := true, recPath := true }) (recordsRead_mod s)
    · exact (congrArg ModSt.st (recordsRead_mod s)).trans hb
    · exact congrArg (fun h : HostPort => h.bootstat ||| 1) (recordsRead_host s)
    · exact congrArg (fun h : HubBist => { h with passOk := true }) (recordsRead_hub s)
    · obtain ⟨r, hr⟩ := recordsRead_lane s l
      rw [recordsChecked_lanes, recordPath_valid hl, hr]
      exact ⟨rfl, rfl⟩
    · rw [recordsChecked_lanes, recordPath_other ha hl, bootPass_pass]
  · refine ⟨_, exec_bootRecordCheck_invalid hu hb hd hc h ha, ?_, ?_, ?_, rfl, fun l hl => ?_⟩
    · exact congrArg (fun m : ModSt => { m.boot with checked := true }) (recordsRead_mod s)
    · exact (congrArg ModSt.st (recordsRead_mod s)).trans hb
    · change (recordsRead s).host.bootstat = _
      rw [recordsRead_host]
    · rw [recordsChecked_lanes, bootPasses_lane hl, bootPass_pass]

end Sys2Proof.Machine
end

section
/-! SUPPORT. The self-test slices of the lanes and of the hub (R394 to R399). -/

namespace Sys2Proof.Machine

section
variable {s : State} {l : Lane}

/-! ## A lane's slice starts, and its block is re-initialised (R396) -/

theorem exec_bistSliceStart_lane (hu : hubUp s = true) (l : Lane) :
    exec (.bistSliceStart (.lane l)) s = .next (laneSliceStart s l) := congrArg _ (if_pos hu)

/-- A slice that needs no counterpart starts at once. -/
theorem laneSliceStart_alone {p : BistPass} (hp : (s.lanes.get l).bist.pass = some p) (hr : (s.lanes.get l).bist.running = false)
    (hi : (s.lanes.get l).bist.reinit = false) (ha : (s.lanes.get l).role ≠ .retired) (hj : s.cyc.rejoiner ≠ some l)
    (hn : needsPeers (s.lanes.get l).bist.slice = false) :
    laneSliceStart s l = onLane s l fun x => { x with bist := { x.bist with running := true } } := by
  unfold laneSliceStart
  dsimp only
  rw [hp]
  dsimp only
  rw [if_neg (by simp [hr, hi, ha, hj]), if_neg (by simp [hn])]

theorem exec_bistSliceStart_hub (hu : hubUp s = true) (hp : s.hub.pass.isSome = true) (hr : s.hub.running = false) :
    exec (.bistSliceStart .hub) s = .next { s with hub := { s.hub with running := true } } :=
  congrArg _ ((if_pos hu).trans (if_pos (by simp [hp, hr])))

theorem exec_blockReinitComplete (hu : hubUp s = true) (hr : (s.lanes.get l).bist.reinit = true) :
    exec (.blockReinitComplete l) s = .next (reinitDone s l) := congrArg _ (if_pos (by simp [hu, hr]))

/-! ## A slice ends (R397, R399) -/

theorem exec_bistSliceEnd_lane (hu : hubUp s = true) (hr : (s.lanes.get l).bist.running = true) (r : SliceResult) :
    exec (.bistSliceEnd (.lane l) r) s = .next (laneSliceEnd s l r) := congrArg _ ((if_pos hu).trans (if_pos hr))

/-- The block of the slice is to be re-initialised, the next slice follows, and the forged items are taken. -/
def sliceEnded (x : LaneSt) : LaneSt :=
  { injectTaken x with bist := { x.bist with running := false, reinit := true, slice := x.bist.slice + 1 } }

theorem nextSlice_inPass (h : (s.lanes.get l).bist.slice < 799) : nextSlice s l = onLane s l sliceEnded := by
  unfold nextSlice
  dsimp only
  rw [if_neg (by simp only [laneSlices]; omega)]
  simp only [onLane, Quad.modify]
  rfl

/-- A slice without a finding and within its time is followed by the next. -/
theorem laneSliceEnd_clean {r : SliceResult} (hq : (s.lanes.get l).bist.suspect = []) (hm : r.matched = true)
    (ht : r.elapsedUs ≤ sliceBudget (s.lanes.get l).bist.slice) (hrows : r.rows = []) (hcols : r.cols = [])
    (hsec : r.sectors = []) (hj : injectPassed s (s.lanes.get l).bist.slice = true) : laneSliceEnd s l r = nextSlice s l := by
  unfold laneSliceEnd
  dsimp only
  exact if_pos (by simp [suspectIn, hq, hm, Nat.not_lt.mpr ht, hrows, hcols, hsec, hj])

/-- Slices 780 to 799 are the injection set, group 9, with the budget of logic (R395). -/
theorem sliceGroup_inject {i : Nat} (h : 780 ≤ i) : sliceGroup i = 9 := by
  unfold sliceGroup
  repeat rw [if_neg (by omega)]

theorem sliceBudget_inject {i : Nat} (h : 780 ≤ i) : sliceBudget i = 50000 := by
  rw [sliceBudget, sliceGroup_inject h]
  rfl

/-- The lane as the failure of an injection leaves it before it is retired: the failure noted, its start-up record VOID. -/
def injectFailed (s : State) (l : Lane) : State :=
  onLane (onLane s l fun x => { x with bist := { x.bist with failed := true } }) l voidRecord

/-- A wrong pattern or a late end in the injection set is beyond repair (R399). -/
theorem laneSliceEnd_injectFailed {r : SliceResult} (hs : 780 ≤ (s.lanes.get l).bist.slice)
    (hf : r.matched = false ∨ 50000 < r.elapsedUs) :
    laneSliceEnd s l r = beyondRepair (injectFailed s l) (.lane l) (s.lanes.get l).bist.slice 9 false := by
  unfold laneSliceEnd
  dsimp only
  rw [sliceGroup_inject hs, sliceBudget_inject hs, if_neg (by rcases hf with h | h <;> simp [h]), if_neg (by decide),
    if_neg (by decide), if_pos rfl]
  rfl

/-! ## A lane is retired (R98, R99, R408) -/

/-- The lane retired for a failure: until the next power-on, and for good with its spares exhausted. -/
def retiredFor (exhausted : Bool) (x : LaneSt) : LaneSt :=
  let y := retire (voidRecord x)
  { y with retFuse := x.retFuse || exhausted, bist := { y.bist with failed := true, lastPass := false } }

/-- The retirement without its records: no exclusion of the lane stays decided, and it is no rejoiner. -/
def laneRetired (s : State) (l : Lane) (exhausted : Bool) : State :=
  let s1 := onLane s l (retiredFor exhausted)
  { s1 with cyc := { s1.cyc with toExcl := s1.cyc.toExcl.set l none,
                                 rejoiner := if s1.cyc.rejoiner = some l then none else s1.cyc.rejoiner,
                                 joinNext := s1.cyc.joinNext && s1.cyc.rejoiner != some l } }

/-- The records of a retirement and what leaves the queues of the Gutter with the lane's path. -/
def retirementTold (s : State) (l : Lane) (exhausted : Bool) : State :=
  redrain (raiseLane (laneRetired s l exhausted) l 0x0B03 (argLane l ++ arg1 (ofFlag exhausted)))

theorem retirementTold_kept (s : State) (l : Lane) (exhausted : Bool) :
    Kept [.gut] (laneRetired s l exhausted) (retirementTold s l exhausted) := (raiseLane_kept ..).step (redrain_kept _) rfl

theorem retireLane_eq (s : State) (l : Lane) (exhausted : Bool) : retireLane s l exhausted = bootFew (retirementTold s l exhausted) := rfl

/-- What is left of BOOT drives no more than it did: a lane stands as it stood, or as SAFE STOP leaves it. -/
theorem bootFew_lane (s : State) (l : Lane) :
    (bootFew s).lanes.get l = s.lanes.get l ∨ noInds ((bootFew s).lanes.get l) = noInds (undriven (s.lanes.get l)) := by
  unfold bootFew
  split
  · right
    rw [enterSafeStop_lane, raiseShared_lanes]
  · exact Or.inl rfl

theorem enterSafeStop_toExcl (s : State) : (enterSafeStop s).cyc.toExcl = s.cyc.toExcl :=
  Eq.trans (congrArg CycleSt.toExcl ((setState_kept _ .safeStop fun _ => rfl).frame.rest .cyc (by decide))) rfl

theorem bootFew_toExcl (s : State) : (bootFew s).cyc.toExcl = s.cyc.toExcl := by
  unfold bootFew
  split
  · rw [enterSafeStop_toExcl, raiseShared_cyc]
  · rfl

theorem laneRetired_lane (s : State) (l : Lane) (exhausted : Bool) :
    (laneRetired s l exhausted).lanes.get l = retiredFor exhausted (s.lanes.get l) := onLane_same ..

theorem retirementTold_lane (s : State) (l : Lane) (exhausted : Bool) :
    (retirementTold s l exhausted).lanes.get l = retiredFor exhausted (s.lanes.get l) := by
  rw [show (retirementTold s l exhausted).lanes = (laneRetired s l exhausted).lanes from
    (retirementTold_kept ..).frame.rest .lanes (by decide), laneRetired_lane]

/-- A retired lane drives nothing; its fuse is blown with its spares exhausted, and stays as it was otherwise. -/
theorem retireLane_lane (s : State) (l : Lane) (exhausted : Bool) :
    ((retireLane s l exhausted).lanes.get l).role = .retired ∧ ((retireLane s l exhausted).lanes.get l).drive = [] ∧
      ((retireLane s l exhausted).lanes.get l).driveE = 0 ∧ ((retireLane s l exhausted).lanes.get l).driveG = 0 ∧
      ((retireLane s l exhausted).lanes.get l).retFuse = ((s.lanes.get l).retFuse || exhausted) := by
  rw [retireLane_eq]
  obtain h | h := bootFew_lane (retirementTold s l exhausted) l <;> rw [retirementTold_lane] at h
  · rw [h]
    exact ⟨rfl, rfl, rfl, rfl, rfl⟩
  · exact ⟨congrArg LaneSt.role h, congrArg LaneSt.drive h, congrArg LaneSt.driveE h, congrArg LaneSt.driveG h,
      congrArg LaneSt.retFuse h⟩

theorem retireLane_toExcl (s : State) (l : Lane) (exhausted : Bool) : (retireLane s l exhausted).cyc.toExcl.get l = none := by
  rw [retireLane_eq, bootFew_toExcl, show (retirementTold s l exhausted).cyc = (laneRetired s l exhausted).cyc from
    (retirementTold_kept ..).frame.rest .cyc (by decide)]
  exact Quad.get_set_same ..

theorem injectFailed_retFuse (s : State) (l : Lane) : ((injectFailed s l).lanes.get l).retFuse = (s.lanes.get l).retFuse := by
  rw [injectFailed, onLane_same, onLane_same, voidRecord]
  split <;> rfl

theorem beyondRepair_lane (s : State) (l : Lane) (slice group : Nat) (exhausted : Bool) :
    beyondRepair s (.lane l) slice group exhausted =
      retireLane (raiseLane s l 0x0B01 (argLane l ++ (arg2 slice ++ arg1 group ++ arg1 (ofFlag exhausted)))) l exhausted := rfl

/-! ## The hub's slices (R395, R397) -/

/-- A hub slice without a finding and within the time of memory is followed by the next. -/
theorem exec_bistSliceEnd_hub (hu : hubUp s = true) {r : SliceResult} (hr : s.hub.running = true) (hs : s.hub.slice < 47)
    (hm : r.matched = true) (ht : r.elapsedUs ≤ 20000) (hrows : r.rows = []) (hcols : r.cols = []) :
    exec (.bistSliceEnd .hub r) s = .next { s with hub := { s.hub with running := false, slice := s.hub.slice + 1 } } := by
  have hb : ¬ hubSliceBudget s.hub.slice < r.elapsedUs := by unfold hubSliceBudget; split <;> omega
  have hn : ¬ hubSlices ≤ s.hub.slice + 1 := by simp only [hubSlices]; omega
  have hend : hubSliceEnd s r = hubNext s := if_pos (by simp [hb, hm, hrows, hcols])
  have hx : exec (.bistSliceEnd .hub r) s = .next (hubSliceEnd s r) := congrArg _ ((if_pos hu).trans (if_pos hr))
  rw [hx, hend]
  exact congrArg _ (if_neg hn)

end

/-- Settles O34: a slice by its start, its clean end and its failure in the injection set, which retires the lane. -/
theorem slicesRunInOrder : Obligations.SlicesRunInOrder := by
  unfold Obligations.SlicesRunInOrder
  intro s hu
  refine ⟨fun l p hp hr hi ha hj hn => ?_, fun l r hr hs hq hm ht hrows hcols hsec hj => ?_, fun l r hr hs hf => ?_, fun l hr => ?_,
    exec_bistSliceStart_hub hu, fun r => exec_bistSliceEnd_hub hu⟩
  · have hx := exec_bistSliceStart_lane hu l
    rw [laneSliceStart_alone hp hr hi ha hj hn] at hx
    exact ⟨_, hx, onLane_same .., fun m hm => onLane_other _ _ _ _ hm, (onLane_kept ..).frame⟩
  · have hx := exec_bistSliceEnd_lane hu hr r
    rw [laneSliceEnd_clean hq hm ht hrows hcols hsec hj, nextSlice_inPass hs] at hx
    refine ⟨_, hx, ?_, fun m hm => onLane_other _ _ _ _ hm, (onLane_kept ..).frame⟩
    rw [onLane_same]
    rfl
  · have hx := exec_bistSliceEnd_lane hu hr r
    rw [laneSliceEnd_injectFailed hs hf, beyondRepair_lane] at hx
    obtain ⟨hrole, hd, he, hg, hfuse⟩ := retireLane_lane (raiseLane (injectFailed s l) l 0x0B01
      (argLane l ++ (arg2 (s.lanes.get l).bist.slice ++ arg1 9 ++ arg1 (ofFlag false)))) l false
    rw [raiseLane_lanes, injectFailed_retFuse, Bool.or_false] at hfuse
    exact ⟨_, hx, hrole, hd, he, hg, hfuse, retireLane_toExcl ..⟩
  · exact ⟨_, exec_blockReinitComplete hu hr, by rw [reinitDone, onLane_same], by rw [reinitDone, onLane_same],
      fun m hm => onLane_other _ _ _ _ hm, (onLane_kept ..).frame⟩

end Sys2Proof.Machine
end

section
/-! SUPPORT. The Gutter's class queues and the paths that take from them (R412, R413, R417 to R420, R423). -/

namespace Sys2Proof.Machine

section
variable {s : State}

/-! ## A record enters (R412, R413, R417, R419) -/

theorem exec_gutterRecord (hu : hubUp s = true) {g : GRecIn} (hn : g.unit < 4) (hs : g.sev < 8) (hc : g.cls < 3) :
    exec (.gutterRecord g) s = .next (gutPut s (handedRec s g)) := congrArg _ (if_pos (by simp [hu, hn, hs, hc]))

theorem takenBy_freshItem (r : GRec) (p : GPath) : takenBy (freshItem r) p = false := by
  cases p with
  | blackbox l => exact Quad.get_fill ..
  | evtq | trcq | syslog => rfl

/-- A record that an attached path is still to take waits in its queue (R417). -/
theorem allTaken_freshItem {r : GRec} {p : GPath} (ha : attached s p = true) (ho : onPath r p = true) :
    allTaken s (freshItem r) = false := by
  have hp : p ∈ allPaths := by
    cases p with
    | blackbox l => cases l <;> decide
    | evtq | trcq | syslog => decide
  rw [allTaken, List.all_eq_false]
  exact ⟨p, hp, by simp [ha, ho, takenBy_freshItem, show (freshItem r).rec_ = r from rfl]⟩

theorem queueOf_seq (r : GRec) (n : Word) : queueOf { r with seq := n } = queueOf r := rfl

/-- A record that waits for a path takes the next SEQ of its queue and spends a credit there. -/
theorem enterQ_waits {r : GRec} {p : GPath} (ha : attached s p = true)
    (ho : onPath { r with seq := gseq s.gut (queueOf r) } p = true) : enterQ s r =
      { s with gut := setGq (stepSeq s.gut (queueOf r)) (queueOf r)
                 ((gq (stepSeq s.gut (queueOf r)) (queueOf r)).send (freshItem { r with seq := gseq s.gut (queueOf r) })) } := by
  unfold enterQ
  dsimp only
  rw [allTaken_freshItem ha ho]
  rfl

theorem send_credit {α : Type} {q : CQ α} (h : q.credits ≠ 0) (x : α) : q.send x = ⟨q.items ++ [x], q.credits - 1⟩ := if_neg h

/-- An alarm goes to the black box of every lane that is not retired. -/
theorem gutPut_alarm {r : GRec} (hq : queueOf r = .alarm) (hs : s.gut.store = []) (hc : s.gut.alarm.credits ≠ 0)
    {d : Lane} (hd : (s.lanes.get d).role ≠ .retired) : gutPut s r = { s with
      gut := { s.gut with
        alarm := ⟨s.gut.alarm.items ++ [freshItem { r with seq := s.gut.seqA }], s.gut.alarm.credits - 1⟩,
        seqA := s.gut.seqA + 1 } } := by
  have hf : flushStore s.gut.store.length s = s := by rw [hs]; rfl
  have ha : attached s (.blackbox d) = true := by simp [attached, hd]
  have hp : gutPut s r = enterQ s r := by simp [gutPut, hq, hf, hc]
  rw [hp, enterQ_waits ha (by simp [onPath, queueOf_seq, hq]), hq]
  simp only [setGq, stepSeq, gq, gseq, send_credit hc]

theorem countTrace_lostTr (g : Gutter) (r : GRec) : (countTrace g r).lostTr.isSome = true := by
  unfold countTrace
  split <;> rfl

theorem countTrace_alarm (g : Gutter) (r : GRec) : (countTrace g r).alarm = g.alarm := by
  unfold countTrace
  split <;> rfl

theorem countTrace_seqT (g : Gutter) (r : GRec) : (countTrace g r).seqT = g.seqT := by
  unfold countTrace
  split <;> rfl

/-- The count of the discarded traces and the queue of those that wait are told apart (R419). -/
theorem countTrace_trace (g : Gutter) (r : GRec) (q : CQ GItem) :
    countTrace { g with trace := q } r = { countTrace g r with trace := q } := by
  unfold countTrace
  dsimp only
  split <;> rfl

/-- A full TRACE queue gives up its oldest and counts it (R419). -/
theorem gutPut_trace_full {r : GRec} (hq : queueOf r = .trace) (hc : s.gut.trace.credits = 0) (hr : ringOn s qTRCQ = true)
    {i : GItem} {rest : List GItem} (hi : s.gut.trace.items = i :: rest) :
    gutPut s r = { s with
      gut := { countTrace s.gut i.rec_ with
        trace := ⟨rest ++ [freshItem { r with seq := s.gut.seqT }], 0⟩, seqT := s.gut.seqT + 1 } } := by
  have hd : dropTrace s.gut = { countTrace s.gut i.rec_ with trace := ⟨rest, 1⟩ } := by
    rw [dropTrace, hi, hc]
    exact countTrace_trace ..
  have ha : attached { s with gut := dropTrace s.gut } .trcq = true := hr
  have hp : gutPut s r = enterQ { s with gut := dropTrace s.gut } r := by simp [gutPut, hq, hc]
  rw [hp, enterQ_waits ha (by simp [onPath, queueOf_seq, hq]), hq, hd]
  simp only [setGq, stepSeq, gq, gseq, CQ.send, countTrace_seqT]
  rfl

/-! ## The record that a producer hands over (R421, R422) -/

theorem handedRec_program {g : GRecIn} (h : 0x8000 ≤ g.code.toNat) :
    handedRec s g = mkRec s g.code.toNat g.cls g.sev 0 g.lanes g.args := if_pos (by simpa [codeOfProgram] using h)

theorem handedRec_catalogue {g : GRecIn} (h : g.code.toNat < 0x8000) :
    handedRec s g = mkRec s g.code.toNat (codeCls g.code.toNat) (codeSev g.code.toNat) g.unit g.lanes g.args :=
  if_neg (by simpa [codeOfProgram] using h)

/-! ## A path takes its next record (R417, R420) -/

/-- The record goes where its path leads. -/
def takeBy (s : State) (x : GClass × Nat × GRec) : GPath → State
  | .evtq => takeEvtq s x
  | .trcq => takeTrcq s x
  | .syslog => takeSyslog s x
  | .blackbox l => takeBox s l x

theorem exec_gutterPathTake (hu : hubUp s = true) {p : GPath} (ha : attached s p = true) {x : GClass × Nat × GRec}
    (hx : pathNext s p = some x) : exec (.gutterPathTake p) s = .next (takeBy s x p) := by
  change execGutterPathTake p s = _
  rw [execGutterPathTake, if_pos (by simp [hu, ha]), hx]
  cases p <;> rfl

/-- A path that takes nothing leaves all as it was. -/
theorem exec_gutterPathTake_idle {p : GPath} (h : ∀ x, pathNext s p = some x → takeBy s x p = s) :
    exec (.gutterPathTake p) s = .next s := by
  by_cases hc : (hubUp s && attached s p) = true
  · rw [Bool.and_eq_true] at hc
    cases hx : pathNext s p with
    | some x => rw [exec_gutterPathTake hc.1 hc.2 hx, h x hx]
    | none =>
      change execGutterPathTake p s = _
      rw [execGutterPathTake, if_pos (by simp [hc]), hx]
  · exact congrArg _ (if_neg hc)

/-- A record put into a ring, and the write-back word that covers it (R292, R293). -/
theorem ringPut_posted_entry {q : Nat} (h : ringCan s q = true) (e : List Byte) : (ringPut s q e).host.posted =
    s.host.posted ++ [.mem (entryAddr (qAt s q) q (qAt s q).idx) e, .mem (qAt s q).cWb (wbWord s ((qAt s q).idx + 1))] := by
  rw [ringPut, if_pos h]
  exact List.append_assoc ..

theorem markAt_host (s : State) (p : GPath) (c : GClass) (i : Nat) : (markAt s p c i).host = s.host :=
  (markAt_kept s p c i).frame.rest .host (by decide)

theorem markAt_lanes (s : State) (p : GPath) (c : GClass) (i : Nat) : (markAt s p c i).lanes = s.lanes :=
  (markAt_kept s p c i).frame.rest .lanes (by decide)

theorem takeEvtq_can (h : ringCan s qEVTQ = true) (x : GClass × Nat × GRec) :
    takeEvtq s x = markAt (ringPut s qEVTQ (recBytes x.2.2)) .evtq x.1 x.2.1 := if_pos h

theorem ringCan_on {q : Nat} (h : ringCan s q = true) : ringOn s q = true := by
  simp only [ringCan, ringServed, Bool.and_eq_true] at h
  exact h.1.1.1.1

theorem findIdxVal_isSome {α : Type} {p : α → Bool} {x : α} (hp : p x = true) :
    ∀ {l : List α} (i : Nat), x ∈ l → (findIdxVal p i l).isSome = true
  | y :: l, i, hx => by
    rw [findIdxVal]
    split
    · rfl
    · next hy =>
      refine findIdxVal_isSome hp (i + 1) ((List.mem_cons.mp hx).resolve_left fun h => hy (h ▸ hp))

/-- EVTQ takes an alarm while one waits for it (R420). -/
theorem pathNext_evtq_alarm {x : GItem} (hm : x ∈ s.gut.alarm.items) (he : x.evtq = false) (hq : queueOf x.rec_ = .alarm)
    {c : GClass} {i : Nat} {r : GRec} (h : pathNext s .evtq = some (c, i, r)) : c = .alarm := by
  have hs : (nextFor s .evtq .alarm).isSome = true :=
    findIdxVal_isSome (x := x) (by simp [onPath, takenBy, hq, he]) 0 hm
  obtain ⟨y, hy⟩ := Option.isSome_iff_exists.mp hs
  rw [pathNext, hy] at h
  exact (congrArg Prod.fst (Option.some.inj h)).symm

theorem exec_syslogSend_front (hu : hubUp s = true) {r : GRec} {rest : List GRec} (h : s.gut.sysq = r :: rest) :
    exec .syslogSend s = .next { s with gut := { s.gut with sysq := rest, sent := some (sysMsg s r) } } := by
  change execSyslogSend s = _
  rw [execSyslogSend, if_pos hu, h]

end

/-- Settles O59: a record by the queue it enters, a path by the record it takes. -/
theorem recordsQueue : Obligations.RecordsQueue := by
  unfold Obligations.RecordsQueue
  intro s hu
  refine ⟨fun g hn hs hc hq hst hcr hd => ?_, fun g hn hs hc hq hcr hr i rest hi => ?_, fun g hg => ?_, fun g hg => ?_,
    fun c i r hcan hp => ?_, fun c i r hp hx => ?_, fun l c i r ha hp => ?_, fun hb => ?_, fun r rest => exec_syslogSend_front hu⟩
  · obtain ⟨d, hd⟩ := hd
    have hx := exec_gutterRecord hu hn hs hc
    rw [gutPut_alarm hq hst hcr hd] at hx
    exact ⟨_, hx, rfl, rfl, rfl, rfl, exec_frame hx⟩
  · have hx := exec_gutterRecord hu hn hs hc
    rw [gutPut_trace_full hq hcr hr hi] at hx
    exact ⟨_, hx, rfl, rfl, countTrace_lostTr .., countTrace_alarm .., exec_frame hx⟩
  · rw [handedRec_program hg]
    exact ⟨rfl, rfl, rfl⟩
  · rw [handedRec_catalogue hg]
    exact ⟨rfl, rfl, rfl⟩
  · refine ⟨_, exec_gutterPathTake (p := .evtq) hu (ringCan_on hcan) hp, ?_, ?_⟩ <;> rw [takeBy, takeEvtq_can hcan]
    · rw [markAt_host, ringPut_posted_entry hcan]
    · exact (((ringPut_kept ..).mono rfl).step (markAt_kept ..) rfl).frame
  · obtain ⟨x, hm, he, hq⟩ := hx
    exact pathNext_evtq_alarm hm he hq hp
  · have ha' : attached s (.blackbox l) = true := by simp [attached, ha]
    refine ⟨_, exec_gutterPathTake hu ha' hp, ?_, fun m hm => ?_, ?_⟩ <;> rw [takeBy, takeBox]
    · rw [markAt_lanes, onLane_same]
    · rw [markAt_lanes, onLane_other _ _ _ _ hm]
    · exact (((onLane_kept ..).mono rfl).step (markAt_kept ..) rfl).frame
  · exact exec_gutterPathTake_idle fun x _ => if_pos hb

end Sys2Proof.Machine
end

section
/-! SUPPORT. O60 does not hold of every list that stands for a memory.

A `Mem` is a list of cells. `memPut` keeps such a list ascending and free of zero bytes (`memWf`), and only in such a list is a write of zero
the removal of the byte: where two cells carry the same address, removing the first shows the second. A segment of IMAGE_LOAD notes its cycle
in the transfer's slot of the command table (`loadArrived`), which writes the slot's zero bytes again; in a work memory that is not `memWf`
the slot then names another transfer, and the lane drops the segment that its rules have it take. -/

namespace Sys2Proof.Machine

/-- An IMAGE_LOAD of 8 bytes as transfer 9. -/
def eightByteLoad : XferEnt :=
  { asn := 5, opcode := 0x11, xfrId := 9, param := zeros 4 ++ leBytes 4 8 ++ zeros 16, doneB := 0, lastc := 0 }

/-- The command table with that transfer in slot 0. The last byte of its xfr_id, at 0xA0F, stands twice: a cell of zero, and one behind it. -/
def staleWork : Mem :=
  (xferPut [] 0 eightByteLoad).flatMap fun x => if x.1 = 0xA0C then [x, (0xA0F, 0), (0xA0F, 5)] else [x]

/-- The fields of the one segment of transfer 9 before its CRC: offset 0, 8 bytes, the last. -/
def onlySegmentHead : List Byte := leBytes 4 9 ++ leBytes 4 0 ++ leBytes 4 8 ++ leBytes 4 1 ++ zeros 44

/-- Its entry of XFRQ-IN. -/
def onlySegment : List Byte := onlySegmentHead ++ leBytes 4 (crc32c onlySegmentHead).toNat

/-- Lane A votes, its shadow bank is LOADING, its work memory is `staleWork`; the segment stands in XFRQ-IN and the port is open. -/
def staleLoad : State :=
  { mod := { st := .vital },
    host := { en := true, bme := true, q := listMod ({} : HostPort).q qXFRIN fun r => { r with en := true, db := 1 } },
    lanes := { Quad.fill {} with
      a := { role := .voting, work := staleWork, mram := { Mram.blank with bank0 := { Bank.blank with state := .loading } } } } }

theorem memWf_staleWork : memWf staleWork = false := by decide +kernel

/-- The transfer reads back as 9; once its slot is written again, as another. -/
theorem xfrId_staleWork :
    (xferAt staleWork 0).xfrId = 9 ∧ (xferAt (xferPut staleWork 0 (xferAt staleWork 0)) 0).xfrId ≠ 9 := by decide +kernel

theorem acts_staleLoad : acts (.xfrqInSegment onlySegment (zeros 8)) staleLoad = true := by decide +kernel

theorem exec_staleLoad : exec (.xfrqInSegment onlySegment (zeros 8)) staleLoad =
    .next (bulkSteps Lane.all (fetchBulk ⟨onlySegment, zeros 8⟩ staleLoad)) :=
  exec_bulkSegment (by decide +kernel) (.inl ⟨rfl, by decide +kernel⟩)

/-- The voting lane has dropped the segment: its shadow bank holds no byte of it. -/
theorem hasEffect_staleLoad : hasEffect (.xfrqInSegment onlySegment (zeros 8)) staleLoad
    (bulkSteps Lane.all (fetchBulk ⟨onlySegment, zeros 8⟩ staleLoad)) = false := by decide +kernel

/-- Refutes O60: in `staleLoad` the segment of the running IMAGE_LOAD has room, is whole and fits (`acts_staleLoad`), but the slot's cycle is
written into a work memory that is not canonical (`memWf_staleWork`), the transfer is then another (`xfrId_staleWork`), and the segment is
dropped. The counterexample rests on that memory alone: the statement quantifies over all states and asks nothing of their memories. -/
theorem not_everyCommandCompletes : ¬ Obligations.EveryCommandCompletes := by
  unfold Obligations.EveryCommandCompletes
  intro h
  obtain ⟨t, ht, heff⟩ := h _ _ acts_staleLoad
  obtain rfl := Host.Outcome.next.inj (exec_staleLoad.symm.trans ht)
  exact absurd heff (Bool.eq_false_iff.mp hasEffect_staleLoad)

end Sys2Proof.Machine
end
